-- ==== Sys2Proof/Word.lean ====
section
/-! DEFINITION. The word types of the Emdom Barrok and their plainest arithmetic (spec/00 R2 to R4, spec/02 R56). -/

namespace Sys2Proof

abbrev Byte := BitVec 8
abbrev W16 := BitVec 16
abbrev W32 := BitVec 32
abbrev W64 := BitVec 64
/-- A lane register: 64 lanes of 32 bits (R56). -/
abbrev Lanes := Vector W32 64
/-- A mask: one bit per lane (R56). -/
abbrev Mask := BitVec 64
/-- A 6-bit register field of formats CR, CI, CL and CB (R45). -/
abbrev Reg6 := BitVec 6
/-- Sparse data by key. -/
abbrev AList (α : Type) := List (Nat × α)

namespace AList

/-- The value at key `k`, if any. -/
def find {α : Type} : AList α → Nat → Option α
  | [], _ => none
  | (k, v) :: t, q => if k = q then some v else AList.find t q

/-- The value at key `k`, or `d`. -/
def getD {α : Type} (l : AList α) (q : Nat) (d : α) : α := (l.find q).getD d

/-- The list with `v` at key `q`: in place if the key is listed, at the end otherwise. -/
def put {α : Type} : AList α → Nat → α → AList α
  | [], q, v => [(q, v)]
  | (k, w) :: t, q, v => if k = q then (k, v) :: t else (k, w) :: AList.put t q v

/-- The list without key `q`. -/
def drop {α : Type} (l : AList α) (q : Nat) : AList α := l.filter (fun e => e.1 ≠ q)

/-- Every listed value. -/
def vals {α : Type} (l : AList α) : List α := l.map Prod.snd

/-- Every listed key. -/
def keys {α : Type} (l : AList α) : List Nat := l.map Prod.fst

end AList

/-- The lanes set in a mask, ascending. -/
def Mask.lanes (m : Mask) : List Nat := (List.range 64).filter (fun l => m.getLsbD l)

/-- The mask with the listed lanes set. -/
def Mask.ofLanes (ls : List Nat) : Mask :=
  ls.foldl (fun m l => m ||| BitVec.ofNat 64 (2 ^ l % 2 ^ 64)) 0

/-- Every lane 0. -/
def Lanes.zero : Lanes := Vector.replicate 64 0

/-- The lane register that holds `f l` in lane `l`. -/
def Lanes.gen (f : Nat → W32) : Lanes := Vector.ofFn (fun i => f i.val)

/-- Lane `l` (0 past the last). -/
def Lanes.at (v : Lanes) (l : Nat) : W32 := v.getD l 0

/-- Lane `l` replaced. -/
def Lanes.put (v : Lanes) (l : Nat) (x : W32) : Lanes := v.setIfInBounds l x

/-- The low 32 bits. -/
def lo32 (x : W64) : W32 := x.truncate 32

/-- The high 32 bits. -/
def hi32 (x : W64) : W32 := (x >>> (32 : Nat)).truncate 32

/-- Two words as one, low word first (R203). -/
def join64 (lo hi : W32) : W64 := (hi.zeroExtend 64 <<< (32 : Nat)) ||| lo.zeroExtend 64

/-- Bits `h` down to `l` as a number. -/
def bitsOf {w : Nat} (x : BitVec w) (h l : Nat) : Nat := (x.toNat >>> l) % 2 ^ (h + 1 - l)

/-- Bit `i`. -/
def bitOf {w : Nat} (x : BitVec w) (i : Nat) : Bool := x.getLsbD i

/-- The `n` bytes of a number, lowest first (R4). -/
def bytesLE : Nat → Nat → List Byte
  | 0, _ => []
  | n + 1, x => BitVec.ofNat 8 x :: bytesLE n (x / 256)

/-- The number that bytes hold, lowest byte first (R4). -/
def ofBytesLE : List Byte → Nat
  | [] => 0
  | b :: t => b.toNat + 256 * ofBytesLE t

/-- `x` read as an `n`-bit two's-complement integer (R68). -/
def signExtInt (x n : Nat) : Int :=
  let y := x % 2 ^ n
  if 2 * y < 2 ^ n then (y : Int) else (y : Int) - (2 ^ n : Nat)

/-- Bit list helper: bits of a number, bit 0 first. -/
def bitsLE : Nat → Nat → List Bool
  | 0, _ => []
  | n + 1, x => (x % 2 == 1) :: bitsLE n (x / 2)

/-- The number of 1 bits below bit `n`. -/
def popCount (n x : Nat) : Nat := ((bitsLE n x).filter id).length

end Sys2Proof
end

