-- ==== Sys2Proof/Config.lean ====
section
/-! DEFINITION. What an implementation fixes and the spec leaves open: functions without a body, so that no proof can use a
value of theirs, and the constants of the part (spec/00 R1, spec/01). -/

namespace Sys2Proof.Config

/-- A value the spec leaves open, numbered by the state's `fresh` counter (log entry 2). -/
opaque freeValue : Nat → W64

/-- The home hash of a general-memory address: it sees va[54:9] only (R35; log entry 4). -/
opaque homeHash : Nat → Nat

/-- The hash that picks a home slice for an untranslated physical address (R410; log entry 4). -/
opaque physHash : Nat → Nat

/-- The candidate that the special-function unit offers for a function (0 FRCP to 7 FTANH), a TYPE code and an input code: a
fixed function of its input (R184). It is used only where it meets the bound of R182 (log entry 5). -/
opaque specialFn : Nat → Nat → Nat → Nat

/-- One step of the spin detector's hash: hash so far, register or store number, value (R133; log entry 6). -/
opaque spinMix : W64 → Nat → Nat → W64

/-- SHA-512 (R476; log entry 7). -/
opaque sha512 : List Byte → List Byte

/-- ECDSA P-521 verification: key, signature, message (R476; log entry 7). -/
opaque ecdsaVerify : List Byte → List Byte → List Byte → Bool

/-- The signature of the device identity key (R479; log entry 7). -/
opaque identitySign : List Byte → List Byte

/-- The bytes that describe the partition configuration of a function for its report (R479; log entry 7). -/
opaque partitionImage : List Nat → List Byte

/-- Vales of the package (R16). -/
def vales : Nat := 96

/-- Base of the Plateau window (R31, R32). -/
def plateauBase : Nat := 0x7FFFFFC0000000

/-- Base of the local window (R31). -/
def localBase : Nat := 0x7FFFFFBFFC0000

end Sys2Proof.Config
end

