-- ==== Sys2Proof/Syntax.lean ====
section
/-! DEFINITION. The syntax: one constructor of `Instr` per row of spec/opcode_table.json. Rows with words carry the operand
fields of their format (spec/02 R45 to R48); rows without words are the steps of the device that spec/95 lists, and carry what
tells one occurrence from another. -/

namespace Sys2Proof

/-- COND codes of format CB (R48). Codes 6 and 7 are unassigned. -/
inductive Cond where
  | eq | ne | lt | ge | ltn | gen
  deriving DecidableEq, Repr

/-- The operations of CMAJ 0x01 and 0x02 that have a lone form (R85, R86). -/
inductive AluOp where
  | add | sub | and | or | xor | andn | shl | shr | sra | rot | shladd1 | shladd2 | shladd3 | shladd4
  | min | max | minn | maxn | slt | sltn | seq | sel
  | mul | mulh | mulhn | div | divn | rem | remn
  deriving DecidableEq, Repr

/-- The nine memory majors 0x10 to 0x18 (R52, R208). -/
inductive MemKind where
  | ld | st | ldq | lds | sts | lda | stl | ldsync | stf
  deriving DecidableEq, Repr

/-- Word 0 of format CM below the major (R45). -/
structure MemOp where
  d : BitVec 8
  b : Reg6
  x : BitVec 8
  sz : BitVec 2
  dk : Bool
  deriving DecidableEq, Repr

/-- The extension word of format CM (R45). -/
structure MemExt where
  xs : Bool
  msel : BitVec 3
  md : BitVec 8
  off : BitVec 20
  deriving DecidableEq, Repr

/-- The fields of a lone A-class form (R47). -/
structure LA where
  d : BitVec 8
  a : BitVec 8
  b : BitVec 8
  c : BitVec 8
  kb : Bool
  ka : Bool
  kc : Bool
  kd : Bool
  ty : BitVec 4
  rm : BitVec 3
  sat : Bool
  msel : BitVec 3
  md : BitVec 7
  deriving DecidableEq, Repr

/-- An A-class instruction in its paired (format AR, R46) or lone (format LA, R47) form. Selector bits that pick the mnemonic
inside a major stay in the fields, and `Instr.wf` ties them to the constructor. -/
inductive AForm where
  | p (d a b : BitVec 8) (kb x : Bool)
  | l (f : LA)
  deriving DecidableEq, Repr

/-- The three MMA majors (R292). -/
inductive MmaKind where
  | mma | mmas | mmax
  deriving DecidableEq, Repr

/-- A unit that executes bundles: a spur or Summit thread, or a wave, by the model's own number. -/
inductive UnitId where
  | thread (u : Nat)
  | wave (w : Nat)
  deriving DecidableEq, Repr

/-- Where a control or management register lives: a Vale, a position, a die, a Ridge engine, a function's BAR 2, or a
submission page of a function (R60, R411, R447). -/
inductive RegSpace where
  | vale (v : Nat)
  | position (p : Nat)
  | die (d : Nat)
  | engine (e : Nat)
  | bar2 (fn : Nat)
  | page (fn n : Nat)
  deriving DecidableEq, Repr

/-- What a host or a peer asks of memory (R457, R460). -/
inductive RemoteOp where
  | read (bytes : Nat)
  | write (data : List Byte)
  | atomic (op : BitVec 4) (signed : Bool) (bytes : Nat) (operand newVal : W64)
  deriving DecidableEq, Repr

/-- An instruction or a step of the device. -/
inductive Instr where
  -- spec/04: no-operations (R101, R54)
  | nopC (lone : Bool)
  | nopA
  -- spec/03: scalar
  | add (d a b : Reg6) (w : Bool)
  | sub (d a b : Reg6) (w : Bool)
  | and (d a b : Reg6) (w : Bool)
  | or (d a b : Reg6) (w : Bool)
  | xor (d a b : Reg6) (w : Bool)
  | andn (d a b : Reg6) (w : Bool)
  | shl (d a b : Reg6) (w : Bool)
  | shr (d a b : Reg6) (w : Bool)
  | sra (d a b : Reg6) (w : Bool)
  | rot (d a b : Reg6) (w : Bool)
  | shladd1 (d a b : Reg6) (w : Bool)
  | shladd2 (d a b : Reg6) (w : Bool)
  | shladd3 (d a b : Reg6) (w : Bool)
  | shladd4 (d a b : Reg6) (w : Bool)
  | min (d a b : Reg6) (w : Bool)
  | max (d a b : Reg6) (w : Bool)
  | minn (d a b : Reg6) (w : Bool)
  | maxn (d a b : Reg6) (w : Bool)
  | slt (d a b : Reg6) (w : Bool)
  | sltn (d a b : Reg6) (w : Bool)
  | seq (d a b : Reg6) (w : Bool)
  | sel (d a b : Reg6)
  | clz (d a : Reg6) (w : Bool)
  | ctz (d a : Reg6) (w : Bool)
  | popc (d a : Reg6) (w : Bool)
  | brev (d a : Reg6) (w : Bool)
  | bswp (d a : Reg6) (w : Bool)
  | aluImmediateLone (op : AluOp) (d a : Reg6) (w : Bool) (imm : W32)
  | mul (d a b : Reg6) (w : Bool)
  | mulh (d a b : Reg6) (w : Bool)
  | mulhn (d a b : Reg6) (w : Bool)
  | div (d a b : Reg6) (w : Bool)
  | divn (d a b : Reg6) (w : Bool)
  | rem (d a b : Reg6) (w : Bool)
  | remn (d a b : Reg6) (w : Bool)
  | addi (d a : Reg6) (imm : BitVec 13)
  | addiLone (d a : Reg6) (imm : W32)
  | li (d : Reg6) (imm : BitVec 19)
  | liLone (d : Reg6) (imm : W32)
  | lih (d : Reg6) (imm : BitVec 19)
  | lihLone (d : Reg6) (imm : W32)
  | bext (d a : Reg6) (sx : Bool) (lenm1 pos : BitVec 6)
  | bins (d a : Reg6) (lenm1 pos : BitVec 6)
  -- spec/04: control
  | b (off : BitVec 25)
  | call (off : BitVec 25)
  | bc (c : Cond) (a b : Reg6) (off : BitVec 10)
  | bcLone (c : Cond) (a b : Reg6) (off : W32)
  | jmp (d a : Reg6)
  | ret (a : Reg6)
  | rptx
  | rpt (a lenm1 : Reg6)
  | rptLone (lenm1 : Reg6) (cnt : W32)
  | exit
  | exitLone (code : W32)
  | yield (a : Reg6)
  | yieldLone (a : Reg6) (off : W32)
  | bkpt
  | bkptLone (tag : W32)
  | passRidge (b : Reg6) (tmpl : BitVec 4) (off : W32)
  | passSpur (tmpl : BitVec 4) (off : W32)
  | passFlush (tmpl : BitVec 4) (off : W32)
  | brv (m : BitVec 3) (b : Reg6)
  | brvLone (m : BitVec 3) (off : W32)
  | elsev (b : Reg6)
  | elsevLone (off : W32)
  | joinv (lone : Bool)
  | waitr (d a : Reg6)
  | waitrLone (d : Reg6) (limit : W32)
  -- spec/07: memory
  | ld (m : MemOp)
  | st (m : MemOp)
  | ldq (m : MemOp)
  | lds (m : MemOp)
  | sts (m : MemOp)
  | lda (m : MemOp)
  | stl (m : MemOp)
  | ldsync (m : MemOp)
  | stf (m : MemOp)
  | memoryLoneForm (k : MemKind) (m : MemOp) (e : MemExt)
  | atom (m : MemOp) (e : MemExt)
  | amsg (m : MemOp) (e : MemExt)
  | pf (m : MemOp) (e : Option MemExt)
  | cwb (m : MemOp) (e : Option MemExt)
  | cinv (m : MemOp) (e : Option MemExt)
  | fence
  | fenceSt
  | hist (m : MemOp) (e : Option MemExt)
  -- spec/09: copy engine and messages
  | cpyj (d a : Reg6)
  | cpyjLone (d a b : Reg6) (words : BitVec 28)
  | cpyq (d a : Reg6)
  | cpyw (d a : Reg6)
  | gath (m : MemOp) (e : MemExt)
  | scat (m : MemOp) (e : MemExt)
  | tload (d a b : Reg6) (doff : W32)
  | send (d a b : Reg6)
  | sendLone (d a b : Reg6) (nw : BitVec 3)
  | recv (d a b : Reg6)
  | mbw (d a b : Reg6)
  | mbr (d a : Reg6)
  -- spec/10: matrix
  | acca (d : Reg6) (t : BitVec 4) (mode w : Bool)
  | accf (t : BitVec 4)
  | accz (t : BitVec 4)
  | accsv (t : BitVec 4) (b : Reg6)
  | accsvLone (t : BitVec 4) (b : Reg6) (spad : Bool)
  | accld (d : Reg6) (t : BitVec 4) (b : Reg6)
  | accldLone (d : Reg6) (t : BitVec 4) (b : Reg6) (spad : Bool)
  | bldq (ring : Bool) (quad : BitVec 2) (slot : BitVec 5) (b : Reg6) (x : BitVec 8) (e : Option MemExt)
  | yset (y : BitVec 3) (a : Reg6) (pitch step : W16)
  -- spec/12: contour
  | cview (a b : Reg6)
  | cviewLone (a : Reg6) (countm1 : BitVec 7) (vt : Bool)
  | ctile (d b : Reg6)
  | csegLin (a b : Reg6)
  | csegQuad (a b : Reg6)
  | csegCub (a b : Reg6)
  | ctri (a b : Reg6)
  | ctriFrag (a b : Reg6)
  | cfill (d a b : Reg6)
  | cfillLone (d b : Reg6) (opts : BitVec 3)
  | cclose (d b : Reg6)
  -- spec/13: traversal
  | trace (d a b : Reg6)
  | traceRidge (tmpl pipe : BitVec 4) (off : W32)
  | tnext (d a : Reg6)
  | thit (d a b : Reg6)
  | tign (a : Reg6)
  | tterm (d a : Reg6)
  | repack (d : Reg6) (tmpl : BitVec 4) (off : W32)
  -- spec/14: synchronisation
  | bar (n : BitVec 4) (b : Reg6)
  | barLone (n : BitVec 4) (cnt : W32)
  | bara (d : Reg6) (n : BitVec 4) (b : Reg6)
  | baraLone (d : Reg6) (n : BitVec 4) (cnt : W32)
  | barw (n : BitVec 4) (b : Reg6)
  | launch (d a : Reg6)
  | lwait (d a : Reg6)
  | lwaitLone (d a : Reg6) (limit : W32)
  | rangeSet (a : Reg6)
  | rangeNext (d b : Reg6)
  | rangeNextLone (d : Reg6) (cnt : W32)
  | steal (d b : Reg6)
  | stealLone (d : Reg6) (probes : BitVec 8)
  | rangeGet (d : Reg6)
  | task (d a b : Reg6)
  | tend (a : Reg6)
  | sleep (d a b : Reg6)
  | sleepLone (d a b : Reg6) (limit : W32)
  | wake (d a b : Reg6)
  | wakeLone (d a : Reg6) (cnt : W32)
  | prio (d a : Reg6)
  | prioLone (d : Reg6) (level : BitVec 2)
  -- spec/15: system
  | trap
  | trapLone (code : W32)
  | svc
  | svcLone (num : W32)
  | sret
  | eret (lone : Bool) (a : Reg6)
  | eretRedirect (a b : Reg6)
  | eretKill (a : Reg6)
  | crd (d : Reg6) (num : BitVec 12)
  | cwr (a : Reg6) (num : BitVec 12)
  | tlbw (d a b : Reg6) (req : W16) (size : BitVec 2)
  | tlbiPage (d a : Reg6)
  | tlbiCtx (d a : Reg6)
  | tlbiFunc (d a : Reg6)
  | gstop (lone : Bool) (d a : Reg6)
  | gstopGo (d a : Reg6)
  | pmr (d a b : Reg6)
  | tsr (d : Reg6)
  | wfi (d : Reg6)
  | wfiLone (d : Reg6) (limit : W32)
  -- spec/06: lane arithmetic
  | vadd (f : AForm)
  | vsub (f : AForm)
  | vmul (f : AForm)
  | vmulh (f : AForm)
  | vmad (f : AForm)
  | vmin (f : AForm)
  | vmax (f : AForm)
  | vand (f : AForm)
  | vor (f : AForm)
  | vxor (f : AForm)
  | vshl (f : AForm)
  | vshr (f : AForm)
  | vsra (f : AForm)
  | vpopc (f : AForm)
  | vclz (f : AForm)
  | vbrev (f : AForm)
  | vsel (f : LA)
  | vcmp (f : LA)
  | vmov (f : AForm)
  | vmovk (f : AForm)
  | fadd (f : AForm)
  | fsub (f : AForm)
  | fmul (f : AForm)
  | ffma (f : LA)
  | fmin (f : AForm)
  | fmax (f : AForm)
  | fcmp (f : LA)
  | fclass (f : AForm)
  | frcp (f : AForm)
  | frsq (f : AForm)
  | fsqrt (f : AForm)
  | fexp2 (f : AForm)
  | flog2 (f : AForm)
  | fsin (f : AForm)
  | fcos (f : AForm)
  | ftanh (f : AForm)
  | dot2 (f : AForm)
  | dot4 (f : AForm)
  | dot8 (f : AForm)
  | shfl (f : AForm)
  | shflx (f : AForm)
  | bcst (f : AForm)
  | scan (f : AForm)
  | redu (f : AForm)
  | vote (f : AForm)
  | mand (f : AForm)
  | mor (f : AForm)
  | mxor (f : AForm)
  | mnot (f : AForm)
  | mpopc (f : AForm)
  | mfind (f : AForm)
  | phlx (f : AForm)
  -- spec/05: conversion
  | cvt (f : LA)
  | cvtsc (f : LA)
  | pack (f : LA)
  | unpack (f : LA)
  -- spec/10: matrix, compute stream
  | mma (d a b : BitVec 8) (kb : Bool)
  | mmas (d a b : BitVec 8) (kb : Bool)
  | mmax (d a b : BitVec 8) (kb : Bool)
  | mmaLone (k : MmaKind) (f : LA)
  | accrd (f : AForm)
  | accwr (f : AForm)
  -- spec/11: selection
  | keyx (f : AForm)
  | digit (f : AForm)
  | matchEq (f : AForm)
  | rank (f : AForm)
  | cmpx (f : AForm)
  | expd (f : AForm)
  | bmrg (f : AForm)
  | isect (f : AForm)
  | interp (f : AForm)
  -- steps of the device without words (spec/95)
  | waitrTimeout (w : Nat)
  | serviceGroupReturn (w : Nat) (lane : Nat)
  | memoryAnswer (acc lane : Nat)
  | ldsyncRetry (acc lane : Nat)
  | copyJobStart (engine : Nat)
  | copyJobCompletion (job : Nat)
  | copyJobFaultResume (job : Nat)
  | messageArrival (msg : Nat)
  | overflowMove (pos : Nat)
  | taskStart (pos slot : Nat)
  | contourMessage (msg : Nat)
  | contourResolve (msg : Nat)
  | lwaitRecheck (u : UnitId)
  | launchqGrant (die : Nat)
  | sleepTimeout (u : UnitId)
  | wfiWake (u : Nat)
  | matrixStep (w : Nat)
  | queueDeadlock (w : Nat)
  | bundleFetch (u : UnitId)
  | inboxSlotGrant (pos : Nat)
  | binTimeout (vale bin : Nat)
  | wavePlacement (vale bin : Nat)
  | threadReturn (u : Nat)
  | trapDelivery (vale : Nat)
  | translationMiss (acc lane : Nat)
  | faultMessageRetry (entry : Nat)
  | parkWaitEnd (u : UnitId)
  | parklimExpiry (blk : Nat)
  | blockSwapOut (blk : Nat)
  | swapImageComplete (blk : Nat)
  | blockReadmission (blk : Nat)
  | blockAdmission (die : Nat)
  | bypassLimit (die : Nat)
  | gridReady (g : Nat)
  | dependencePoll (g : Nat)
  | gridRetire (g : Nat)
  | valeOffline (vale : Nat)
  | powerGate (eng : Nat)
  | snoop (eng ctx : Nat) (va : W64)
  | operatingPointChange (aMHz fMHz : Nat)
  | powerLimitExceeded
  | heartbeat (pos : Nat)
  | positionDead (pos : Nat)
  | hbmScrub (stack : Nat)
  | cmapWrite (vale : Nat) (val : W64)
  | positionAbsent (pos : Nat)
  | ctxctlLoad (ctx : Nat)
  | ctxctlTeardown (ctx : Nat)
  | tdwaitTimeout (ctx : Nat)
  | lateTraffic (write : Bool) (fn src : Nat) (addr : W64)
  | worldSwitch (die : Nat) (val : W64)
  | trplWrite (vale n : Nat) (val : W64)
  | pmselWrite (vale n : Nat) (val : W64)
  | counterOverflow (vale n : Nat)
  | inboxOverflowWrite (pos : Nat) (size : Bool) (val : W64)
  | registerWrite (space : RegSpace) (num : Nat) (val : W64)
  | submit (fn page offset : Nat) (words : List W64)
  | submitPostedWrite (fn page : Nat)
  | workRecordLaunch (fn page : Nat)
  | completionWrite (fn page : Nat)
  | crheadWrite (fn page : Nat) (val : W32)
  | crbaseWrite (fn page : Nat) (val : W64)
  | functionLevelReset (fn : Nat)
  | hostCxlAccess (fn : Nat) (op : RemoteOp) (va : W64)
  | hfwaitExpiry (req : Nat)
  | peerRequest (port : Nat) (op : RemoteOp) (va : W64)
  | linkLaneRepair (die port : Nat)
  | linkRetrainFailure (die port : Nat)
  | errorLogEntry (cause src fn sev : Nat) (addr detail : W64)
  | eltailWrite (fn : Nat) (val : W32)
  | fatalHalt (reason src : Nat)
  | coldReset
  | admgo
  | attestationRequest (fn : Nat) (nonce : List Byte)
  | engineWrite (job word : Nat)
  | pointOfPerformance (acc lane : Nat)
  | warmReset
  | stealRequest (req : Nat)
  | tileOpen (req : Nat)
  | tileClose (req : Nat)
  | viewTableUpdate (req : Nat)
  | forwardedCompletion (acc lane : Nat)
  deriving DecidableEq, Repr

end Sys2Proof
end

