-- ==== Sys2Proof/Machine/Fields.lean ====
section
/-! DEFINITION. The A-map and the field rules of every format: which majors exist, which TYPE, RM, SAT and MOD selections each
instruction accepts (check 1 of R49), and which fields must be 0 (check 5 of R49). -/

namespace Sys2Proof.Machine

/-- The A-major and the form of an A-class instruction (R54). -/
def aClass : Instr → Option (Nat × AForm)
  | .vadd f => some (0x01, f) | .vsub f => some (0x02, f) | .vmul f => some (0x03, f) | .vmulh f => some (0x04, f)
  | .vmad f => some (0x05, f) | .vmin f => some (0x06, f) | .vmax f => some (0x07, f) | .vand f => some (0x08, f)
  | .vor f => some (0x09, f) | .vxor f => some (0x0A, f) | .vshl f => some (0x0B, f) | .vshr f => some (0x0C, f)
  | .vsra f => some (0x0D, f) | .vpopc f => some (0x0E, f) | .vclz f => some (0x0E, f) | .vbrev f => some (0x0E, f)
  | .vsel f => some (0x0F, .l f) | .vcmp f => some (0x10, .l f) | .vmov f => some (0x11, f) | .vmovk f => some (0x12, f)
  | .fadd f => some (0x13, f) | .fsub f => some (0x14, f) | .fmul f => some (0x15, f) | .ffma f => some (0x16, .l f)
  | .fmin f => some (0x17, f) | .fmax f => some (0x18, f) | .fcmp f => some (0x19, .l f) | .fclass f => some (0x1A, f)
  | .frcp f => some (0x1B, f) | .frsq f => some (0x1B, f) | .fsqrt f => some (0x1B, f) | .fexp2 f => some (0x1B, f)
  | .flog2 f => some (0x1B, f) | .fsin f => some (0x1B, f) | .fcos f => some (0x1B, f) | .ftanh f => some (0x1B, f)
  | .dot2 f => some (0x1C, f) | .dot4 f => some (0x1D, f) | .dot8 f => some (0x1E, f) | .shfl f => some (0x1F, f)
  | .shflx f => some (0x20, f) | .bcst f => some (0x21, f) | .scan f => some (0x22, f) | .redu f => some (0x23, f)
  | .vote f => some (0x24, f) | .mand f => some (0x25, f) | .mor f => some (0x25, f) | .mxor f => some (0x25, f)
  | .mnot f => some (0x25, f) | .mpopc f => some (0x25, f) | .mfind f => some (0x25, f) | .phlx f => some (0x26, f)
  | .cvt f => some (0x27, .l f) | .cvtsc f => some (0x28, .l f) | .pack f => some (0x29, .l f)
  | .unpack f => some (0x2A, .l f)
  | .mma d a b kb => some (0x2B, .p d a b kb false) | .mmas d a b kb => some (0x2C, .p d a b kb false)
  | .mmax d a b kb => some (0x2D, .p d a b kb false)
  | .mmaLone .mma f => some (0x2B, .l f) | .mmaLone .mmas f => some (0x2C, .l f) | .mmaLone .mmax f => some (0x2D, .l f)
  | .accrd f => some (0x2E, f) | .accwr f => some (0x2F, f)
  | .keyx f => some (0x30, f) | .digit f => some (0x31, f) | .matchEq f => some (0x32, f) | .rank f => some (0x33, f)
  | .cmpx f => some (0x34, f) | .expd f => some (0x34, f) | .bmrg f => some (0x35, f) | .isect f => some (0x36, f)
  | .interp f => some (0x37, f)
  | _ => none

/-- The B field of a form. -/
def formB : AForm → BitVec 8
  | .p _ _ b _ _ => b
  | .l f => f.b

/-- Does a form of major 0x34 name EXPD (R54, R311)? -/
def formExpd : AForm → Bool
  | .p _ _ _ _ x => x
  | .l f => f.md.getLsbD 1

/-- The A-class instruction of a major and a form: selectors pick the mnemonic (R54, R55). None where the major is unassigned
(check 2 of R49), the form does not exist or the selector is unassigned (check 1). -/
def aInstr (amaj : Nat) (f : AForm) : Option Instr :=
  let sel (o : LA → Instr) : Option Instr := match f with | .p .. => none | .l g => some (o g)
  match amaj with
  | 0x01 => some (.vadd f) | 0x02 => some (.vsub f) | 0x03 => some (.vmul f) | 0x04 => some (.vmulh f)
  | 0x05 => some (.vmad f) | 0x06 => some (.vmin f) | 0x07 => some (.vmax f) | 0x08 => some (.vand f)
  | 0x09 => some (.vor f) | 0x0A => some (.vxor f) | 0x0B => some (.vshl f) | 0x0C => some (.vshr f)
  | 0x0D => some (.vsra f)
  | 0x0E => match ((formB f).extractLsb' 0 2).toNat with
    | 0 => some (.vpopc f) | 1 => some (.vclz f) | 2 => some (.vbrev f) | _ => none
  | 0x0F => sel .vsel | 0x10 => sel .vcmp | 0x11 => some (.vmov f) | 0x12 => some (.vmovk f)
  | 0x13 => some (.fadd f) | 0x14 => some (.fsub f) | 0x15 => some (.fmul f) | 0x16 => sel .ffma
  | 0x17 => some (.fmin f) | 0x18 => some (.fmax f) | 0x19 => sel .fcmp | 0x1A => some (.fclass f)
  | 0x1B => match ((formB f).extractLsb' 0 3).toNat with
    | 0 => some (.frcp f) | 1 => some (.frsq f) | 2 => some (.fsqrt f) | 3 => some (.fexp2 f)
    | 4 => some (.flog2 f) | 5 => some (.fsin f) | 6 => some (.fcos f) | _ => some (.ftanh f)
  | 0x1C => some (.dot2 f) | 0x1D => some (.dot4 f) | 0x1E => some (.dot8 f) | 0x1F => some (.shfl f)
  | 0x20 => some (.shflx f) | 0x21 => some (.bcst f) | 0x22 => some (.scan f) | 0x23 => some (.redu f)
  | 0x24 => some (.vote f)
  | 0x25 => match ((formB f).extractLsb' 5 3).toNat with
    | 0 => some (.mand f) | 1 => some (.mor f) | 2 => some (.mxor f) | 3 => some (.mnot f)
    | 4 => some (.mpopc f) | 5 => some (.mfind f) | _ => none
  | 0x26 => some (.phlx f) | 0x27 => sel .cvt | 0x28 => sel .cvtsc | 0x29 => sel .pack | 0x2A => sel .unpack
  | 0x2B => match f with | .p d a b kb _ => some (.mma d a b kb) | .l g => some (.mmaLone .mma g)
  | 0x2C => match f with | .p d a b kb _ => some (.mmas d a b kb) | .l g => some (.mmaLone .mmas g)
  | 0x2D => match f with | .p d a b kb _ => some (.mmax d a b kb) | .l g => some (.mmaLone .mmax g)
  | 0x2E => some (.accrd f) | 0x2F => some (.accwr f) | 0x30 => some (.keyx f) | 0x31 => some (.digit f)
  | 0x32 => some (.matchEq f) | 0x33 => some (.rank f)
  | 0x34 => if formExpd f then some (.expd f) else some (.cmpx f)
  | 0x35 => some (.bmrg f) | 0x36 => some (.isect f) | 0x37 => some (.interp f)
  | _ => none

/-- Majors that read C as a third source in every form (R169). -/
def usesC (amaj : Nat) : Bool := amaj == 0x05 || amaj == 0x16 || amaj == 0x1C || amaj == 0x1D || amaj == 0x1E

/-- Majors whose paired X has a meaning (R54). -/
def usesX (amaj : Nat) : Bool :=
  [0x01, 0x02, 0x04, 0x06, 0x07, 0x13, 0x14, 0x15, 0x17, 0x18, 0x1A, 0x1B, 0x1C, 0x1D, 0x1E, 0x30, 0x34].contains amaj

/-- The TYPE code that the A-map gives a paired form with X = `x` (R54, R311). -/
def pairedType (amaj : Nat) (x : Bool) : BitVec 4 :=
  match amaj with
  | 0x04 | 0x06 | 0x07 => if x then 9 else 8
  | 0x0C => 9
  | 0x13 | 0x14 | 0x15 | 0x17 | 0x18 | 0x1A | 0x1B => if x then 1 else 0
  | 0x1C => if x then 2 else 1
  | 0x1D => if x then 13 else 12
  | 0x1E => if x then 15 else 14
  | 0x31 | 0x33 => 9
  | 0x24 | 0x25 | 0x26 | 0x2B | 0x2C | 0x2D | 0x2E | 0x2F | 0x30 | 0x37 => 0
  | _ => 8

/-- A paired A-slot as its lone form: C equal to D where C is read, the TYPE of its X bit, RNE, and 0 elsewhere (R47). -/
def toLA (amaj : Nat) : AForm → LA
  | .l f => f
  | .p d a b kb x =>
    { d := d, a := a, b := b, c := if usesC amaj then d else 0, kb := kb, ka := false, kc := false, kd := false,
      ty := pairedType amaj x, rm := 0, sat := x && (amaj == 0x01 || amaj == 0x02), msel := 0,
      md := if amaj == 0x30 && x then 1 else if amaj == 0x34 && x then 2 else 0 }

/-- Is a TYPE code a float type (R48)? -/
def tyFloat (t : BitVec 4) : Bool := t.toNat < 8

/-- Element width of a TYPE code (R48, R164, R256). -/
def tyWidth (t : BitVec 4) : Nat :=
  match t.toNat with
  | 0 | 8 | 9 => 32
  | 1 | 2 | 10 | 11 => 16
  | 3 | 4 | 12 | 13 => 8
  | 5 | 6 => 6
  | _ => 4

def tyIn (t : BitVec 4) (l : List Nat) : Bool := l.contains t.toNat

/-- CVT's selections: SEL, DUN, SUN and RM (R159, R160). -/
def cvtAccept (f : LA) : Bool :=
  let dt : BitVec 4 := f.md.extractLsb' 0 4
  let sel := (f.md.extractLsb' 4 3).toNat
  let dun := f.b.getLsbD 0
  let sun := f.b.getLsbD 1
  let w := tyWidth f.ty
  (if w == 32 || w == 6 then sel == 0 else if w == 16 then decide (sel ≤ 1) else if w == 8 then decide (sel ≤ 3) else true)
  && (!dun || tyIn dt [11, 13]) && (!sun || tyIn f.ty [11, 13])
  && (tyFloat dt || tyFloat f.ty || dun || sun || f.rm == 0)

/-- Check 1 of R49 on the fields of a lone A-class form: TYPE and MOD selections (R169 to R191, R159, R292, R300, R311, R351). -/
def laAccept (amaj : Nat) (f : LA) : Bool :=
  let ty := f.ty
  let m3 := (f.md.extractLsb' 0 3).toNat
  match amaj with
  | 0x01 | 0x02 | 0x03 | 0x05 | 0x06 | 0x07 => tyIn ty [8, 9, 10, 11, 12, 13]
  | 0x04 | 0x35 | 0x36 => tyIn ty [8, 9]
  | 0x08 | 0x09 | 0x0A | 0x0B | 0x0D | 0x0E | 0x0F | 0x11 | 0x12 | 0x1F | 0x20 | 0x21 | 0x32 | 0x34 => tyIn ty [8]
  | 0x0C | 0x31 | 0x33 => tyIn ty [9]
  | 0x10 => tyIn ty [8] && decide (m3 ≤ 5)
  | 0x13 | 0x14 | 0x15 | 0x16 | 0x17 | 0x18 | 0x1A | 0x1B => tyIn ty [0, 1, 2]
  | 0x19 => tyIn ty [0, 1, 2] && decide (m3 ≤ 5) && !(f.md.getLsbD 3 && ty == 0)
  | 0x1C => tyIn ty [1, 2]
  | 0x1D => tyIn ty [12, 13]
  | 0x1E => tyIn ty [14, 15]
  | 0x22 | 0x23 =>
    if m3 ≤ 2 then tyIn ty [8, 9] else if m3 ≤ 5 then tyIn ty [8] else if m3 = 6 then tyIn ty [0] else false
  | 0x24 => ty == 0 && f.b.extractLsb' 0 2 != 3
  | 0x25 | 0x26 => ty == 0
  | 0x27 => cvtAccept f
  | 0x28 => tyIn ty [3, 4, 5, 6, 7] && tyIn (f.md.extractLsb' 0 4) [0, 1, 2]
  | 0x29 | 0x2A =>
    tyWidth ty != 32 && decide (tyWidth ty * ((f.md.extractLsb' 0 4).toNat + 1) ≤ 32) && f.rm == 0
  | 0x2E | 0x2F => !tyIn ty [5, 6]
  | 0x30 => tyIn ty [0, 1, 2, 8, 9]
  | 0x37 => ty == 0
  | _ => true

/-- Does the instruction read B as a register, a code or a selector-free literal? Elsewhere B and KB must be 0; of a stream-fed MMA-class instruction A
must be 0, and ACCRD and ACCWR take CQ from bits 1:0 (R292, R300). -/
def laBClean (amaj : Nat) (f : LA) : Bool :=
  match amaj with
  | 0x0E | 0x24 => f.b.extractLsb' 2 6 == 0 && !f.kb
  | 0x1B => f.b.extractLsb' 3 5 == 0 && !f.kb
  | 0x1A | 0x22 | 0x23 | 0x28 | 0x29 | 0x2A | 0x30 | 0x32 | 0x33 => f.b == 0 && !f.kb
  | 0x27 => f.b.extractLsb' 2 6 == 0 && !f.kb
  | 0x21 => if f.md.getLsbD 0 then f.b == 0 && !f.kb else f.kb || f.b.extractLsb' 6 2 == 0
  | 0x25 =>
    f.b.extractLsb' 3 2 == 0 && !f.kb && (decide ((f.b.extractLsb' 5 3).toNat ≤ 2) || f.b.extractLsb' 0 3 == 0)
  | 0x2B | 0x2C | 0x2D => if f.kb then f.a == 0 else f.b == 0
  | 0x2E | 0x2F => f.b.extractLsb' 2 6 == 0 && !f.kb
  | 0x34 => f.b.extractLsb' 3 5 == 0 && !f.kb
  | 0x36 => !f.kb
  | _ => true

/-- RM as check 5 of R49 has it: codes 5 to 7 are reserved, and most instructions require 0 (R169, R300, R351). -/
def laRmClean (amaj : Nat) (f : LA) : Bool :=
  let any := decide (f.rm.toNat ≤ 4)
  match amaj with
  | 0x13 | 0x14 | 0x15 | 0x16 | 0x1C | 0x27 | 0x28 | 0x2E | 0x37 => any
  | 0x1B => if f.b.extractLsb' 0 3 == 2 then any else f.rm == 0
  | 0x22 | 0x23 => if f.md.extractLsb' 0 3 == 6 then any else f.rm == 0
  | _ => f.rm == 0

/-- SAT where an entry accepts it (R169, R173, R177, R181, R185, R159, R300, R351). -/
def laSatClean (amaj : Nat) (f : LA) : Bool :=
  [0x01, 0x02, 0x03, 0x05, 0x13, 0x14, 0x15, 0x16, 0x1B, 0x1C, 0x1D, 0x1E, 0x27, 0x28, 0x2E, 0x37].contains amaj || !f.sat

/-- MOD bits that no subfield covers (R169, R176, R179, R187 to R190, R159, R292, R300, R311, R351). -/
def laModClean (amaj : Nat) (f : LA) : Bool :=
  let above (n : Nat) : Bool := f.md >>> n == 0
  match amaj with
  | 0x10 => above 3
  | 0x19 | 0x22 => above 4
  | 0x23 => above 3
  | 0x21 | 0x2E | 0x31 | 0x32 | 0x33 | 0x35 => above 1
  | 0x30 | 0x34 => above 2
  | 0x27 => true
  | 0x28 => above 5
  | 0x29 | 0x2A => above 4
  | 0x2B | 0x2C | 0x2D => !f.md.getLsbD 6 && (f.md.getLsbD 5 || f.md.extractLsb' 0 5 == 0)
  | _ => f.md == 0

/-- C and KC where they are not used (R169, R292, R311). -/
def laCClean (amaj : Nat) (f : LA) : Bool :=
  match amaj with
  | 0x0F => f.c.extractLsb' 3 5 == 0 && !f.kc
  | 0x31 => f.md.getLsbD 0 || (f.c == 0 && !f.kc)
  | 0x34 | 0x36 => f.kc || f.c == 0
  | 0x2C => true
  | _ => usesC amaj || (f.c == 0 && !f.kc)

/-- D, A, KD and KA where the entry fixes them (R55, R175, R176, R179, R292, R300, R319). -/
def laDAClean (amaj : Nat) (f : LA) : Bool :=
  match amaj with
  | 0x10 | 0x19 => f.d.extractLsb' 3 5 == 0 && !f.kd
  | 0x11 => f.a == 0 && !f.ka
  | 0x12 => f.a == 0 && !f.ka && !f.kd
  | 0x25 =>
    f.a.extractLsb' 3 5 == 0 && !f.ka && !f.kd && (decide (4 ≤ (f.b.extractLsb' 5 3).toNat) || f.d.extractLsb' 3 5 == 0)
  | 0x2B | 0x2C | 0x2D | 0x2E | 0x2F => !f.ka && !f.kd
  | 0x32 => !f.md.getLsbD 0 || f.d.extractLsb' 3 5 == 0
  | _ => true

/-- Other fields that must be 0: the extension fields of the mask class (R190), TYPE of the matrix class (R292), MSEL of BMRG and ISECT
(R321). TYPE of the mask class and of PHLX, which the A-map shows without a type, fails check 1 (R169). -/
def laRestClean (amaj : Nat) (f : LA) : Bool :=
  match amaj with
  | 0x25 => f.msel == 0
  | 0x2B | 0x2C | 0x2D => f.ty == 0
  | 0x35 | 0x36 => f.msel == 0
  | _ => true

/-- Check 5 of R49 on a lone A-class form; on a spur or Summit core the kind bits must be 0 as well (R46, R192). -/
def laClean (ridge : Bool) (amaj : Nat) (f : LA) : Bool :=
  laBClean amaj f && laRmClean amaj f && laSatClean amaj f && laModClean amaj f && laCClean amaj f && laDAClean amaj f
  && laRestClean amaj f && (ridge || !(f.ka || f.kb || f.kc || f.kd))

/-- Check 1 on either form; a paired MMAS with KB = 1 does not exist (R292). -/
def aAccept (amaj : Nat) (f : AForm) : Bool :=
  laAccept amaj (toLA amaj f) && (match f with | .p _ _ _ kb _ => !(amaj == 0x2C && kb) | .l _ => true)

/-- Check 5 on either form; X must be 0 where the A-map shows none (R54). -/
def aClean (ridge : Bool) (amaj : Nat) (f : AForm) : Bool :=
  laClean ridge amaj (toLA amaj f) && (match f with | .p _ _ _ _ x => usesX amaj || !x | .l _ => true)

/-- Width in bytes of SZ (R45). -/
def szBytes (sz : BitVec 2) : Nat := 2 ^ sz.toNat

/-- Is the access uniform (R45, R204)? -/
def memUniform (ridge : Bool) (m : MemOp) : Bool := ridge && m.dk && decide (m.d.toNat < 0x40)

/-- Loads that accept SX (R208). -/
def MemKind.isLoad : MemKind → Bool
  | .ld | .ldq | .lds | .lda | .ldsync => true
  | _ => false

/-- Check 1 on the lone MOD of the nine memory majors (R208). -/
def memAccept (ridge : Bool) (k : MemKind) (m : MemOp) (e : MemExt) : Bool :=
  let perLane := ridge && !memUniform ridge m
  (!e.md.getLsbD 0 || (MemKind.isLoad k && (if perLane then decide (m.sz.toNat ≤ 1) else decide (m.sz.toNat ≤ 2))))
  && (!e.md.getLsbD 1 || (ridge && (k == .ldsync || k == .stf)))
  && (!e.md.getLsbD 2 || k == .ldsync)

/-- Check 5 on word 0 of a format CM access: DK on a spur or Summit core, X bits 7:6 of a uniform form (R45, R203). -/
def memOpClean (ridge : Bool) (m : MemOp) : Bool :=
  (ridge || !m.dk) && (!memUniform ridge m || m.x.extractLsb' 6 2 == 0)

/-- Check 5 on MSEL of a uniform form (R204). -/
def memExtClean (ridge : Bool) (m : MemOp) (e : MemExt) : Bool := !memUniform ridge m || e.msel == 0

/-- Check 1 on ATOM (R216). -/
def atomAccept (m : MemOp) (e : MemExt) : Bool :=
  let op := (e.md.extractLsb' 0 4).toNat
  decide (2 ≤ m.sz.toNat) && decide (op ≤ 9) && (!(op == 9) || m.sz == 2)
  && (!e.md.getLsbD 6 || op == 1 || op == 2)

/-- Check 1 on HIST (R315). -/
def histAccept (ridge : Bool) (m : MemOp) (e : Option MemExt) : Bool :=
  decide (2 ≤ m.sz.toNat)
  && (match e with
      | none => true
      | some x => (!x.md.getLsbD 0 || ridge) && (!x.md.getLsbD 1 || m.d == 0))

/-- Check 5 on PF, CWB and CINV, whose D holds the selector and whose DK selects the address form (R220). -/
def cacheClean (ridge : Bool) (sel : BitVec 3) (m : MemOp) (e : Option MemExt) : Bool :=
  m.d.extractLsb' 0 3 == sel && m.d.extractLsb' 3 5 == 0 && (ridge || !m.dk) && (!m.dk || m.x.extractLsb' 6 2 == 0)
  && (!(m.sz == 3 && sel != 0) || (m.b == 0 && m.x == 0))
  && (match e with
      | none => true
      | some x => x.md == 0 && (!m.dk || x.msel == 0) && (!(m.sz == 3 && sel != 0) || x.off == 0))

/-- Check 5 on GATH and SCAT (R253). -/
def gathClean (ridge : Bool) (m : MemOp) (e : MemExt) : Bool :=
  !m.dk && (!ridge || m.d.extractLsb' 6 2 == 0) && e.md.extractLsb' 2 6 == 0

/-- Check 5 on BLDQ (R290). -/
def bldqClean (ring : Bool) (slot : BitVec 5) (b : Reg6) (x : BitVec 8) (e : Option MemExt) : Bool :=
  (if ring then slot == 0 && b.extractLsb' 3 3 == 0 && x == 0 else x.extractLsb' 6 2 == 0)
  && (match e with
      | none => true
      | some y => y.msel == 0 && (if ring then !y.xs && y.off == 0 && y.md.extractLsb' 1 7 == 0
          else y.md.extractLsb' 1 7 == 0))

/-- Check 1 on BLDQ: GEN with RING (R290). -/
def bldqAccept (ring : Bool) (e : Option MemExt) : Bool :=
  match e with | none => true | some y => !(ring && y.md.getLsbD 0)

end Sys2Proof.Machine
end

