-- ==== Sys2Proof/WellFormed.lean ====
section
/-! DEFINITION. Well-formed instructions: the terms whose words pass checks 1, 2 and 5 of R49. Most constructors carry only
fields that their format has room for and are well formed as they stand; the rest are held to the field rules. -/

namespace Sys2Proof

open Sys2Proof.Machine

/-- ALU minors that have a W = 1 form: all but SEL (R85). -/
def AluOp.widthOk (op : AluOp) (w : Bool) : Bool := !(op == .sel && w)

/-- Every rule of R49's checks 1 and 5 on the fields that the syntax keeps, on a Ridge engine (`ridge`) or on a spur or Summit
core. Steps without words are well formed. -/
def Instr.wf (ridge : Bool) (i : Instr) : Bool :=
  match i with
  | .aluImmediateLone op _ _ w _ => op.widthOk w
  | .ld m | .st m | .ldq m | .lds m | .sts m | .lda m | .stl m | .ldsync m | .stf m => memOpClean ridge m
  | .memoryLoneForm k m e =>
    memAccept ridge k m e && memOpClean ridge m && memExtClean ridge m e && e.md.extractLsb' 4 4 == 0
  | .atom m e => atomAccept m e && memOpClean ridge m && memExtClean ridge m e
  | .amsg m e => decide (2 ≤ m.sz.toNat) && memOpClean ridge m && memExtClean ridge m e
  | .pf m e => cacheClean ridge 0 m e
  | .cwb m e => cacheClean ridge 1 m e
  | .cinv m e => cacheClean ridge 2 m e
  | .hist m e =>
    histAccept ridge m e && memOpClean ridge m
    && (match e with | none => true | some x => memExtClean ridge m x && x.md.extractLsb' 4 4 == 0)
  | .gath m e | .scat m e => (ridge || !e.md.getLsbD 0) && gathClean ridge m e
  | .bldq ring _ slot br x e => bldqAccept ring e && bldqClean ring slot br x e
  | .passRidge _ _ _ => true
  | i =>
    match aClass i with
    | none => true
    | some (amaj, f) => aInstr amaj f == some i && aAccept amaj f && aClean ridge amaj f

end Sys2Proof
end

