-- ==== Sys2Proof/Decode.lean ====
section
/-! DEFINITION. From words to instructions and back (spec/02 R42 to R60 and the encoding tables of the class chapters), and the
decode checks of R49 in their order. -/

namespace Sys2Proof

open Sys2Proof.Machine

/-- The decode checks of R49 that a slot can fail, by the cause they give. -/
inductive DecodeFail where
  | undefOpcode
  | wrongEngine
  | privileged
  | reservedField
  | badOperand
  | badBundle
  deriving DecidableEq, Repr

/-- Bits `len` wide from `lo`. -/
def fld {n : Nat} (w : BitVec n) (lo len : Nat) : BitVec len := w.extractLsb' lo len

/-- A decoded slot: the instruction, and whether some field that must be 0 is not (check 5 of R49). -/
abbrev Slot := Option (Instr × Bool)

/-- A slot whose listed must-be-zero conditions are `clean`. -/
def slotOk (i : Instr) (clean : Bool) : Slot := some (i, !clean)

/-- Format CM, word 0 (R45). -/
def memOpOf (w : W32) : MemOp :=
  { d := fld w 17 8, b := fld w 11 6, x := fld w 3 8, sz := fld w 1 2, dk := w.getLsbD 0 }

/-- Format CM, extension word (R45). -/
def memExtOf (w : W32) : MemExt :=
  { xs := w.getLsbD 31, msel := fld w 28 3, md := fld w 20 8, off := fld w 0 20 }

/-- Format AR (R46). -/
def arOf (w : W32) : AForm := .p (fld w 18 8) (fld w 10 8) (fld w 2 8) (w.getLsbD 1) (w.getLsbD 0)

/-- Format LA (R47). -/
def laOf (w0 w1 : W32) : LA :=
  { d := fld w0 17 8, a := fld w0 9 8, b := fld w0 1 8, kb := w0.getLsbD 0, c := fld w1 21 8, ty := fld w1 17 4,
    rm := fld w1 14 3, sat := w1.getLsbD 13, kc := w1.getLsbD 12, ka := w1.getLsbD 11, kd := w1.getLsbD 10,
    msel := fld w1 7 3, md := fld w1 0 7 }

/-- COND codes (R48). -/
def condOf (c : BitVec 3) : Option Cond :=
  match c.toNat with
  | 0 => some .eq | 1 => some .ne | 2 => some .lt | 3 => some .ge | 4 => some .ltn | 5 => some .gen | _ => none

def condCode : Cond → BitVec 3
  | .eq => 0 | .ne => 1 | .lt => 2 | .ge => 3 | .ltn => 4 | .gen => 5

/-- The operations of CMAJ 0x01 (false) and 0x02 (true) that have a lone form (R85, R86). -/
def aluOf (mul : Bool) (m : BitVec 6) : Option AluOp :=
  if mul then
    match m.toNat with
    | 0 => some .mul | 1 => some .mulh | 2 => some .mulhn | 3 => some .div | 4 => some .divn | 5 => some .rem
    | 6 => some .remn | _ => none
  else
    match m.toNat with
    | 0x00 => some .add | 0x01 => some .sub | 0x02 => some .and | 0x03 => some .or | 0x04 => some .xor
    | 0x05 => some .andn | 0x06 => some .shl | 0x07 => some .shr | 0x08 => some .sra | 0x09 => some .rot
    | 0x0A => some .shladd1 | 0x0B => some .shladd2 | 0x0C => some .shladd3 | 0x0D => some .shladd4
    | 0x0E => some .min | 0x0F => some .max | 0x10 => some .minn | 0x11 => some .maxn | 0x12 => some .slt
    | 0x13 => some .sltn | 0x14 => some .seq | 0x15 => some .sel | _ => none

/-- Major bit (0x02) and minor of an operation (R85). -/
def aluCode : AluOp → Bool × BitVec 6
  | .add => (false, 0x00) | .sub => (false, 0x01) | .and => (false, 0x02) | .or => (false, 0x03) | .xor => (false, 0x04)
  | .andn => (false, 0x05) | .shl => (false, 0x06) | .shr => (false, 0x07) | .sra => (false, 0x08) | .rot => (false, 0x09)
  | .shladd1 => (false, 0x0A) | .shladd2 => (false, 0x0B) | .shladd3 => (false, 0x0C) | .shladd4 => (false, 0x0D)
  | .min => (false, 0x0E) | .max => (false, 0x0F) | .minn => (false, 0x10) | .maxn => (false, 0x11)
  | .slt => (false, 0x12) | .sltn => (false, 0x13) | .seq => (false, 0x14) | .sel => (false, 0x15)
  | .mul => (true, 0) | .mulh => (true, 1) | .mulhn => (true, 2) | .div => (true, 3) | .divn => (true, 4)
  | .rem => (true, 5) | .remn => (true, 6)

/-- The paired instruction of an ALU operation. -/
def aluInstr (op : AluOp) (d a b : Reg6) (w : Bool) : Instr :=
  match op with
  | .add => .add d a b w | .sub => .sub d a b w | .and => .and d a b w | .or => .or d a b w | .xor => .xor d a b w
  | .andn => .andn d a b w | .shl => .shl d a b w | .shr => .shr d a b w | .sra => .sra d a b w | .rot => .rot d a b w
  | .shladd1 => .shladd1 d a b w | .shladd2 => .shladd2 d a b w | .shladd3 => .shladd3 d a b w
  | .shladd4 => .shladd4 d a b w | .min => .min d a b w | .max => .max d a b w | .minn => .minn d a b w
  | .maxn => .maxn d a b w | .slt => .slt d a b w | .sltn => .sltn d a b w | .seq => .seq d a b w | .sel => .sel d a b
  | .mul => .mul d a b w | .mulh => .mulh d a b w | .mulhn => .mulhn d a b w | .div => .div d a b w
  | .divn => .divn d a b w | .rem => .rem d a b w | .remn => .remn d a b w

/-- The unary operations of CMAJ 0x01 (R85). -/
def unaryInstr (m : BitVec 6) (d a : Reg6) (w : Bool) : Option Instr :=
  match m.toNat with
  | 0x16 => some (.clz d a w) | 0x17 => some (.ctz d a w) | 0x18 => some (.popc d a w) | 0x19 => some (.brev d a w)
  | 0x1A => some (.bswp d a w) | _ => none

/-- The kind of a memory major 0x10 to 0x18 (R52). -/
def memKindOf (cmaj : Nat) : Option MemKind :=
  match cmaj with
  | 0x10 => some .ld | 0x11 => some .st | 0x12 => some .ldq | 0x13 => some .lds | 0x14 => some .sts | 0x15 => some .lda
  | 0x16 => some .stl | 0x17 => some .ldsync | 0x18 => some .stf | _ => none

def memKindCode : MemKind → BitVec 6
  | .ld => 0x10 | .st => 0x11 | .ldq => 0x12 | .lds => 0x13 | .sts => 0x14 | .lda => 0x15 | .stl => 0x16
  | .ldsync => 0x17 | .stf => 0x18

/-- The paired instruction of a memory major. -/
def memInstr (k : MemKind) (m : MemOp) : Instr :=
  match k with
  | .ld => .ld m | .st => .st m | .ldq => .ldq m | .lds => .lds m | .sts => .sts m | .lda => .lda m | .stl => .stl m
  | .ldsync => .ldsync m | .stf => .stf m

/-- Check 1 passed or not. -/
def guardSlot (ok : Bool) (s : Slot) : Slot := if ok then s else none

/-- A paired C-slot (R52 and the class chapters' tables). -/
def decodePaired (ridge : Bool) (w : W32) : Slot :=
  let d : Reg6 := fld w 19 6
  let a : Reg6 := fld w 13 6
  let b : Reg6 := fld w 7 6
  let mn : BitVec 7 := fld w 0 7
  let mo : BitVec 6 := fld w 0 6
  let wd := w.getLsbD 6
  let cm := memOpOf w
  let imm13 : BitVec 13 := fld w 0 13
  match (fld w 25 6 : BitVec 6).toNat with
  | 0x00 => guardSlot (mn == 0) (slotOk (.nopC false) (d == 0 && a == 0 && b == 0))
  | 0x01 => match aluOf false mo with
    | some op => guardSlot (op.widthOk wd) (slotOk (aluInstr op d a b wd) true)
    | none => match unaryInstr mo d a wd with | some i => slotOk i (b == 0) | none => none
  | 0x02 => match aluOf true mo with | some op => slotOk (aluInstr op d a b wd) true | none => none
  | 0x03 => slotOk (.addi d a imm13) true
  | 0x04 => slotOk (.li d (fld w 0 19)) true
  | 0x05 => slotOk (.lih d (fld w 0 19)) true
  | 0x08 => slotOk (.b (fld w 0 25)) true
  | 0x09 => slotOk (.call (fld w 0 25)) true
  | 0x0A => match condOf (fld w 22 3) with | some c => slotOk (.bc c (fld w 16 6) (fld w 10 6) (fld w 0 10)) true | none => none
  | 0x0B => match mn.toNat with
    | 0 => slotOk (.jmp d a) (b == 0) | 1 => slotOk (.ret a) (d == 0 && b == 0)
    | 2 => slotOk .rptx (d == 0 && a == 0 && b == 0) | _ => none
  | 0x0C => slotOk (.rpt a b) (d == 0 && mn == 0)
  | 0x0D => match mn.toNat with
    | 0 => slotOk .exit (d == 0 && a == 0 && b == 0) | 1 => slotOk (.yield a) (d == 0 && b == 0)
    | 2 => slotOk .bkpt (d == 0 && a == 0 && b == 0) | _ => none
  | 0x0F => match mn.toNat with
    | 0 => slotOk (.brv (fld w 13 3) b) (d == 0 && (fld w 16 3 : BitVec 3) == 0) | 1 => slotOk (.elsev b) (d == 0 && a == 0)
    | 2 => slotOk (.joinv false) (d == 0 && a == 0 && b == 0) | 3 => slotOk (.waitr d a) (b == 0) | _ => none
  | 0x1B => match (fld w 17 3 : BitVec 3).toNat with
    | 0 => slotOk (.pf { cm with d := 0 } none) (cacheClean ridge 0 cm none)
    | 1 => slotOk (.cwb { cm with d := 1 } none) (cacheClean ridge 1 cm none)
    | 2 => slotOk (.cinv { cm with d := 2 } none) (cacheClean ridge 2 cm none)
    | _ => none
  | 0x1C => match mn.toNat with
    | 0 => slotOk .fence (d == 0 && a == 0 && b == 0) | 1 => slotOk .fenceSt (d == 0 && a == 0 && b == 0) | _ => none
  | 0x1D => guardSlot (histAccept ridge cm none) (slotOk (.hist cm none) (memOpClean ridge cm))
  | 0x1E => match mn.toNat with
    | 0 => slotOk (.cpyj d a) (b == 0) | 1 => slotOk (.cpyq d a) (b == 0) | 2 => slotOk (.cpyw d a) (b == 0) | _ => none
  | 0x22 => match mn.toNat with
    | 0 => slotOk (.send d a b) true | 1 => slotOk (.recv d a b) true | 2 => slotOk (.mbw d a b) true
    | 3 => slotOk (.mbr d a) (b == 0) | _ => none
  | 0x23 => match mn.toNat with
    | 0 => slotOk (.acca d (fld w 13 4) (w.getLsbD 7) (w.getLsbD 8)) ((fld w 17 2 : BitVec 2) == 0 && (fld w 9 4 : BitVec 4) == 0)
    | 1 => slotOk (.accf (fld w 13 4)) (d == 0 && (fld w 17 2 : BitVec 2) == 0 && b == 0)
    | 2 => slotOk (.accz (fld w 13 4)) (d == 0 && (fld w 17 2 : BitVec 2) == 0 && b == 0)
    | 3 => slotOk (.accsv (fld w 13 4) b) (d == 0 && (fld w 17 2 : BitVec 2) == 0)
    | 4 => slotOk (.accld d (fld w 13 4) b) ((fld w 17 2 : BitVec 2) == 0)
    | _ => none
  | 0x24 => slotOk (.bldq cm.d[7] (fld cm.d 5 2) (fld cm.d 0 5) cm.b cm.x none)
      (bldqClean cm.d[7] (fld cm.d 0 5) cm.b cm.x none && !cm.dk && cm.sz == 3)
  | 0x26 => match mn.toNat with
    | 0x0 => slotOk (.cview a b) (d == 0) | 0x1 => slotOk (.ctile d b) (a == 0) | 0x5 => slotOk (.csegLin a b) (d == 0)
    | 0x6 => slotOk (.csegQuad a b) (d == 0) | 0x7 => slotOk (.csegCub a b) (d == 0) | 0x8 => slotOk (.ctri a b) (d == 0)
    | 0x9 => slotOk (.ctriFrag a b) (d == 0) | 0xA => slotOk (.cfill d a b) true | 0xB => slotOk (.cclose d b) (a == 0)
    | _ => none
  | 0x27 => match mn.toNat with
    | 0 => slotOk (.trace d a b) true | 1 => slotOk (.tnext d a) (b == 0) | 2 => slotOk (.thit d a b) true
    | 3 => slotOk (.tign a) (d == 0 && b == 0) | 4 => slotOk (.tterm d a) (b == 0) | _ => none
  | 0x29 => match mn.toNat with
    | 0 => slotOk (.bar (fld w 13 4) b) (d == 0 && (fld w 17 2 : BitVec 2) == 0)
    | 1 => slotOk (.bara d (fld w 13 4) b) ((fld w 17 2 : BitVec 2) == 0)
    | 2 => slotOk (.barw (fld w 13 4) b) (d == 0 && (fld w 17 2 : BitVec 2) == 0)
    | _ => none
  | 0x2A => match mn.toNat with
    | 0 => slotOk (.launch d a) (b == 0) | 1 => slotOk (.lwait d a) (b == 0) | _ => none
  | 0x2B => match mn.toNat with
    | 0 => slotOk (.rangeSet a) (d == 0 && b == 0) | 1 => slotOk (.rangeNext d b) (a == 0)
    | 2 => slotOk (.steal d b) (a == 0) | 3 => slotOk (.rangeGet d) (a == 0 && b == 0) | _ => none
  | 0x2C => match mn.toNat with
    | 0 => slotOk (.task d a b) true | 1 => slotOk (.tend a) (d == 0 && b == 0) | 2 => slotOk (.sleep d a b) true
    | 3 => slotOk (.wake d a b) true | 4 => slotOk (.prio d a) (b == 0) | _ => none
  | 0x2D => match mn.toNat with
    | 0 => slotOk .trap (d == 0 && a == 0 && b == 0) | 1 => slotOk .svc (d == 0 && a == 0 && b == 0)
    | 2 => slotOk .sret (d == 0 && a == 0 && b == 0) | 3 => slotOk (.eret false a) (d == 0 && b == 0) | _ => none
  | 0x2E => if w.getLsbD 12 then slotOk (.cwr a (fld w 0 12)) (d == 0) else slotOk (.crd d (fld w 0 12)) (a == 0)
  | 0x2F => match mn.toNat with
    | 2 => slotOk (.gstop false d a) (b == 0) | 3 => slotOk (.pmr d a b) true | 4 => slotOk (.tsr d) (a == 0 && b == 0)
    | 5 => slotOk (.wfi d) (a == 0 && b == 0) | _ => none
  | n => match memKindOf n with | some k => slotOk (memInstr k cm) (memOpClean ridge cm) | none => none

/-- A lone C-class bundle (R52 and the class chapters' tables). -/
def decodeLone (ridge : Bool) (w v : W32) : Slot :=
  let d : Reg6 := fld w 19 6
  let a : Reg6 := fld w 13 6
  let b : Reg6 := fld w 7 6
  let mn : BitVec 7 := fld w 0 7
  let mo : BitVec 6 := fld w 0 6
  let wd := w.getLsbD 6
  let cm := memOpOf w
  let ce := memExtOf v
  match (fld w 25 6 : BitVec 6).toNat with
  | 0x00 => guardSlot (mn == 0) (slotOk (.nopC true) (d == 0 && a == 0 && b == 0 && v == 0))
  | 0x01 => match aluOf false mo with
    | some op => guardSlot (op.widthOk wd) (slotOk (.aluImmediateLone op d a wd v) (b == 0)) | none => none
  | 0x02 => match aluOf true mo with | some op => slotOk (.aluImmediateLone op d a wd v) (b == 0) | none => none
  | 0x03 => slotOk (.addiLone d a v) ((fld w 0 13 : BitVec 13) == 0)
  | 0x04 => slotOk (.liLone d v) ((fld w 0 19 : BitVec 19) == 0)
  | 0x05 => slotOk (.lihLone d v) ((fld w 0 19 : BitVec 19) == 0)
  | 0x06 => match mn.toNat with
    | 0 => slotOk (.bext d a (v.getLsbD 12) (fld v 6 6) (fld v 0 6)) (b == 0 && (fld v 13 19 : BitVec 19) == 0)
    | 1 => slotOk (.bins d a (fld v 6 6) (fld v 0 6)) (b == 0 && (fld v 12 20 : BitVec 20) == 0)
    | _ => none
  | 0x0A => match condOf (fld w 22 3) with
    | some c => slotOk (.bcLone c (fld w 16 6) (fld w 10 6) v) ((fld w 0 10 : BitVec 10) == 0) | none => none
  | 0x0C => slotOk (.rptLone b v) (d == 0 && a == 0 && mn == 0)
  | 0x0D => match mn.toNat with
    | 0 => slotOk (.exitLone v) (d == 0 && a == 0 && b == 0) | 1 => slotOk (.yieldLone a v) (d == 0 && b == 0)
    | 2 => slotOk (.bkptLone v) (d == 0 && a == 0 && b == 0) | _ => none
  | 0x0E => match (fld w 4 3 : BitVec 3).toNat with
    | 0 => slotOk (.passRidge b (fld w 0 4) v) (d == 0 && a == 0)
    | 1 => slotOk (.passSpur (fld w 0 4) v) (d == 0 && a == 0 && b == 0)
    | 2 => slotOk (.passFlush (fld w 0 4) v) (d == 0 && a == 0 && b == 0) | _ => none
  | 0x0F => match mn.toNat with
    | 0 => slotOk (.brvLone (fld w 13 3) v) (d == 0 && (fld w 16 3 : BitVec 3) == 0 && b == 0)
    | 1 => slotOk (.elsevLone v) (d == 0 && a == 0 && b == 0)
    | 2 => slotOk (.joinv true) (d == 0 && a == 0 && b == 0 && v == 0)
    | 3 => slotOk (.waitrLone d v) (a == 0 && b == 0) | _ => none
  | 0x19 => guardSlot (atomAccept cm ce) (slotOk (.atom cm ce) (memOpClean ridge cm && memExtClean ridge cm ce))
  | 0x1A => guardSlot (decide (2 ≤ cm.sz.toNat)) (slotOk (.amsg cm ce) (memOpClean ridge cm && memExtClean ridge cm ce))
  | 0x1B => match (fld w 17 3 : BitVec 3).toNat with
    | 0 => slotOk (.pf { cm with d := 0 } (some ce)) (cacheClean ridge 0 cm (some ce))
    | 1 => slotOk (.cwb { cm with d := 1 } (some ce)) (cacheClean ridge 1 cm (some ce))
    | 2 => slotOk (.cinv { cm with d := 2 } (some ce)) (cacheClean ridge 2 cm (some ce))
    | _ => none
  | 0x1D => guardSlot (histAccept ridge cm (some ce))
      (slotOk (.hist cm (some ce)) (memOpClean ridge cm && memExtClean ridge cm ce && (fld ce.md 4 4 : BitVec 4) == 0))
  | 0x1E => guardSlot (mn == 0) (slotOk (.cpyjLone d a b (fld v 0 28)) ((fld v 28 4 : BitVec 4) == 0))
  | 0x1F => guardSlot (ridge || !ce.md.getLsbD 0) (slotOk (.gath cm ce) (gathClean ridge cm ce))
  | 0x20 => guardSlot (ridge || !ce.md.getLsbD 0) (slotOk (.scat cm ce) (gathClean ridge cm ce))
  | 0x21 => guardSlot (mn == 0) (slotOk (.tload d a b v) true)
  | 0x22 => guardSlot (mn == 0) (slotOk (.sendLone d a b (fld v 0 3)) ((fld v 3 29 : BitVec 29) == 0))
  | 0x23 => match mn.toNat with
    | 3 => slotOk (.accsvLone (fld w 13 4) b (v.getLsbD 0))
        (d == 0 && (fld w 17 2 : BitVec 2) == 0 && (fld v 1 31 : BitVec 31) == 0)
    | 4 => slotOk (.accldLone d (fld w 13 4) b (v.getLsbD 0)) ((fld w 17 2 : BitVec 2) == 0 && (fld v 1 31 : BitVec 31) == 0)
    | _ => none
  | 0x24 => guardSlot (bldqAccept cm.d[7] (some ce)) (slotOk (.bldq cm.d[7] (fld cm.d 5 2) (fld cm.d 0 5) cm.b cm.x (some ce))
      (bldqClean cm.d[7] (fld cm.d 0 5) cm.b cm.x (some ce) && !cm.dk && cm.sz == 3))
  | 0x25 => guardSlot (mn == 0) (slotOk (.yset (fld w 19 3) a (fld v 0 16) (fld v 16 16)) ((fld w 22 3 : BitVec 3) == 0 && b == 0))
  | 0x26 => match mn.toNat with
    | 0x0 => slotOk (.cviewLone a (fld v 0 7) (v.getLsbD 7)) (d == 0 && b == 0 && (fld v 8 24 : BitVec 24) == 0)
    | 0xA => slotOk (.cfillLone d b (fld v 0 3)) (a == 0 && (fld v 3 29 : BitVec 29) == 0)
    | _ => none
  | 0x27 => guardSlot (mn == 0) (slotOk (.traceRidge (fld w 19 4) (fld w 13 4) v)
      ((fld w 23 2 : BitVec 2) == 0 && (fld w 17 2 : BitVec 2) == 0 && b == 0))
  | 0x28 => guardSlot (mn == 0) (slotOk (.repack d (fld w 13 4) v) ((fld w 17 2 : BitVec 2) == 0 && b == 0))
  | 0x29 => match mn.toNat with
    | 0 => slotOk (.barLone (fld w 13 4) v) (d == 0 && (fld w 17 2 : BitVec 2) == 0 && b == 0)
    | 1 => slotOk (.baraLone d (fld w 13 4) v) ((fld w 17 2 : BitVec 2) == 0 && b == 0)
    | _ => none
  | 0x2A => guardSlot (mn == 1) (slotOk (.lwaitLone d a v) (b == 0))
  | 0x2B => match mn.toNat with
    | 1 => slotOk (.rangeNextLone d v) (a == 0 && b == 0)
    | 2 => slotOk (.stealLone d (fld v 0 8)) (a == 0 && b == 0 && (fld v 8 24 : BitVec 24) == 0)
    | _ => none
  | 0x2C => match mn.toNat with
    | 2 => slotOk (.sleepLone d a b v) true | 3 => slotOk (.wakeLone d a v) (b == 0)
    | 4 => slotOk (.prioLone d (fld v 0 2)) (a == 0 && b == 0 && (fld v 2 30 : BitVec 30) == 0) | _ => none
  | 0x2D => match mn.toNat with
    | 0 => slotOk (.trapLone v) (d == 0 && a == 0 && b == 0) | 1 => slotOk (.svcLone v) (d == 0 && a == 0 && b == 0)
    | 3 => match (fld v 0 2 : BitVec 2).toNat with
      | 0 => slotOk (.eret true a) (d == 0 && b == 0 && (fld v 2 30 : BitVec 30) == 0)
      | 1 => slotOk (.eretRedirect a b) (d == 0 && (fld v 2 30 : BitVec 30) == 0)
      | 2 => slotOk (.eretKill a) (d == 0 && b == 0 && (fld v 2 30 : BitVec 30) == 0)
      | _ => none
    | _ => none
  | 0x2F => match mn.toNat with
    | 0 => guardSlot ((fld v 18 14 : BitVec 14) == 0) (slotOk (.tlbw d a b (fld v 0 16) (fld v 16 2)) true)
    | 1 => guardSlot ((fld v 2 30 : BitVec 30) == 0) (match (fld v 0 2 : BitVec 2).toNat with
      | 0 => slotOk (.tlbiPage d a) (b == 0) | 1 => slotOk (.tlbiCtx d a) (b == 0) | 2 => slotOk (.tlbiFunc d a) (b == 0)
      | _ => none)
    | 2 => guardSlot ((fld v 1 31 : BitVec 31) == 0)
        (if v.getLsbD 0 then slotOk (.gstopGo d a) (b == 0) else slotOk (.gstop true d a) (b == 0))
    | 5 => slotOk (.wfiLone d v) (a == 0 && b == 0)
    | _ => none
  | n => match memKindOf n with
    | some k => guardSlot (memAccept ridge k cm ce)
        (slotOk (.memoryLoneForm k cm ce) (memOpClean ridge cm && memExtClean ridge cm ce && (fld ce.md 4 4 : BitVec 4) == 0))
    | none => none

/-- An A-class instruction from its major and form (checks 1 and 2 of R49 give none). -/
def decodeAForm (ridge : Bool) (amaj : Nat) (f : AForm) : Slot :=
  match aInstr amaj f with
  | some i => guardSlot (aAccept amaj f) (slotOk i (aClean ridge amaj f))
  | none => none

/-- Word 0, with its extension word when L = 1 (R43). -/
def decodeC (ridge : Bool) (w0 w1 : W32) : Slot :=
  let cmaj := (fld w0 25 6 : BitVec 6)
  if w0.getLsbD 31 then
    if cmaj.toNat < 0x38 then decodeLone ridge w0 w1
    else decodeAForm ridge (((fld cmaj 0 3 : BitVec 3) ++ (fld w1 29 3 : BitVec 3)).toNat) (.l (laOf w0 w1))
  else if cmaj.toNat < 0x38 then decodePaired ridge w0 else none

/-- A paired A-slot (R46); AMAJ 0x00 is NOP, whose other bits must be 0. -/
def decodeA (ridge : Bool) (w1 : W32) : Slot :=
  let amaj := (fld w1 26 6 : BitVec 6).toNat
  if amaj = 0 then slotOk .nopA (w1 == 0) else decodeAForm ridge amaj (arOf w1)

/-- The words an instruction is encoded in: a paired C-slot, a paired A-slot or a lone bundle (R43). -/
inductive Enc where
  | c (w0 : W32)
  | a (w1 : W32)
  | lone (w0 w1 : W32)
  deriving DecidableEq, Repr

/-- What the decoder reads from encoded words. -/
def decodeEnc (ridge : Bool) : Enc → Slot
  | .c w0 => decodeC ridge w0 0
  | .a w1 => decodeA ridge w1
  | .lone w0 w1 => decodeC ridge w0 w1

/-- Format CR (R45). -/
def encCR (l : BitVec 1) (cmaj : BitVec 6) (d a b : Reg6) (mn : BitVec 7) : W32 := l ++ cmaj ++ d ++ a ++ b ++ mn

/-- Format CI (R45). -/
def encCI (l : BitVec 1) (cmaj : BitVec 6) (d a : Reg6) (imm : BitVec 13) : W32 := l ++ cmaj ++ d ++ a ++ imm

/-- Format CL (R45). -/
def encCL (l : BitVec 1) (cmaj : BitVec 6) (d : Reg6) (imm : BitVec 19) : W32 := l ++ cmaj ++ d ++ imm

/-- Format CB (R45). -/
def encCB (l : BitVec 1) (cmaj : BitVec 6) (c : BitVec 3) (a b : Reg6) (off : BitVec 10) : W32 := l ++ cmaj ++ c ++ a ++ b ++ off

/-- Format CJ (R45). -/
def encCJ (cmaj : BitVec 6) (off : BitVec 25) : W32 := (0 : BitVec 1) ++ cmaj ++ off

/-- Format CM, word 0 (R45). -/
def encCM (l : BitVec 1) (cmaj : BitVec 6) (m : MemOp) : W32 := l ++ cmaj ++ m.d ++ m.b ++ m.x ++ m.sz ++ BitVec.ofBool m.dk

/-- Format CM, extension word (R45). -/
def encExt (e : MemExt) : W32 := BitVec.ofBool e.xs ++ e.msel ++ e.md ++ e.off

/-- Format AR (R46). -/
def encAR (amaj : BitVec 6) (d a b : BitVec 8) (kb x : Bool) : W32 := amaj ++ d ++ a ++ b ++ BitVec.ofBool kb ++ BitVec.ofBool x

/-- Format LA (R47). -/
def encLA (amaj : BitVec 6) (f : LA) : Enc :=
  .lone ((1 : BitVec 1) ++ (7 : BitVec 3) ++ (fld amaj 3 3 : BitVec 3) ++ f.d ++ f.a ++ f.b ++ BitVec.ofBool f.kb)
    ((fld amaj 0 3 : BitVec 3) ++ f.c ++ f.ty ++ f.rm ++ BitVec.ofBool f.sat ++ BitVec.ofBool f.kc ++ BitVec.ofBool f.ka
      ++ BitVec.ofBool f.kd ++ f.msel ++ f.md)

/-- A memory word with its optional extension (R43). -/
def encMem (cmaj : BitVec 6) (m : MemOp) (e : Option MemExt) : Enc :=
  match e with
  | none => .c (encCM 0 cmaj m)
  | some x => .lone (encCM 1 cmaj m) (encExt x)

/-- W and the operation as MINOR (R84). -/
def mnW (w : Bool) (mo : BitVec 6) : BitVec 7 := BitVec.ofBool w ++ mo

/-- The words of an instruction, from the encoding tables of the spec; none for a step of the device. -/
def encode (i : Instr) : Option Enc :=
  let alu (op : AluOp) (d a b : Reg6) (w : Bool) : Option Enc :=
    some (.c (encCR 0 (if (aluCode op).1 then 2 else 1) d a b (mnW w (aluCode op).2)))
  let un (mo : BitVec 6) (d a : Reg6) (w : Bool) : Option Enc := some (.c (encCR 0 1 d a 0 (mnW w mo)))
  let cr (cmaj : BitVec 6) (d a b : Reg6) (mn : BitVec 7) : Option Enc := some (.c (encCR 0 cmaj d a b mn))
  let ln (cmaj : BitVec 6) (d a b : Reg6) (mn : BitVec 7) (v : W32) : Option Enc := some (.lone (encCR 1 cmaj d a b mn) v)
  let z2 : BitVec 2 := 0
  match i with
  | .nopC false => cr 0 0 0 0 0
  | .nopC true => ln 0 0 0 0 0 0
  | .nopA => some (.a 0)
  | .add d a b w => alu .add d a b w | .sub d a b w => alu .sub d a b w | .and d a b w => alu .and d a b w
  | .or d a b w => alu .or d a b w | .xor d a b w => alu .xor d a b w | .andn d a b w => alu .andn d a b w
  | .shl d a b w => alu .shl d a b w | .shr d a b w => alu .shr d a b w | .sra d a b w => alu .sra d a b w
  | .rot d a b w => alu .rot d a b w | .shladd1 d a b w => alu .shladd1 d a b w | .shladd2 d a b w => alu .shladd2 d a b w
  | .shladd3 d a b w => alu .shladd3 d a b w | .shladd4 d a b w => alu .shladd4 d a b w | .min d a b w => alu .min d a b w
  | .max d a b w => alu .max d a b w | .minn d a b w => alu .minn d a b w | .maxn d a b w => alu .maxn d a b w
  | .slt d a b w => alu .slt d a b w | .sltn d a b w => alu .sltn d a b w | .seq d a b w => alu .seq d a b w
  | .sel d a b => alu .sel d a b false
  | .clz d a w => un 0x16 d a w | .ctz d a w => un 0x17 d a w | .popc d a w => un 0x18 d a w | .brev d a w => un 0x19 d a w
  | .bswp d a w => un 0x1A d a w
  | .aluImmediateLone op d a w v => ln (if (aluCode op).1 then 2 else 1) d a 0 (mnW w (aluCode op).2) v
  | .mul d a b w => alu .mul d a b w | .mulh d a b w => alu .mulh d a b w | .mulhn d a b w => alu .mulhn d a b w
  | .div d a b w => alu .div d a b w | .divn d a b w => alu .divn d a b w | .rem d a b w => alu .rem d a b w
  | .remn d a b w => alu .remn d a b w
  | .addi d a imm => some (.c (encCI 0 3 d a imm)) | .addiLone d a v => some (.lone (encCI 1 3 d a 0) v)
  | .li d imm => some (.c (encCL 0 4 d imm)) | .liLone d v => some (.lone (encCL 1 4 d 0) v)
  | .lih d imm => some (.c (encCL 0 5 d imm)) | .lihLone d v => some (.lone (encCL 1 5 d 0) v)
  | .bext d a sx lenm1 pos => ln 6 d a 0 0 ((0 : BitVec 19) ++ BitVec.ofBool sx ++ lenm1 ++ pos)
  | .bins d a lenm1 pos => ln 6 d a 0 1 ((0 : BitVec 20) ++ lenm1 ++ pos)
  | .b off => some (.c (encCJ 8 off)) | .call off => some (.c (encCJ 9 off))
  | .bc c a b off => some (.c (encCB 0 0x0A (condCode c) a b off))
  | .bcLone c a b off => some (.lone (encCB 1 0x0A (condCode c) a b 0) off)
  | .jmp d a => cr 0x0B d a 0 0 | .ret a => cr 0x0B 0 a 0 1 | .rptx => cr 0x0B 0 0 0 2
  | .rpt a l => cr 0x0C 0 a l 0 | .rptLone l v => ln 0x0C 0 0 l 0 v
  | .exit => cr 0x0D 0 0 0 0 | .exitLone v => ln 0x0D 0 0 0 0 v | .yield a => cr 0x0D 0 a 0 1
  | .yieldLone a v => ln 0x0D 0 a 0 1 v | .bkpt => cr 0x0D 0 0 0 2 | .bkptLone v => ln 0x0D 0 0 0 2 v
  | .passRidge b t v => ln 0x0E 0 0 b ((0 : BitVec 3) ++ t) v | .passSpur t v => ln 0x0E 0 0 0 ((1 : BitVec 3) ++ t) v
  | .passFlush t v => ln 0x0E 0 0 0 ((2 : BitVec 3) ++ t) v
  | .brv m b => cr 0x0F 0 ((0 : BitVec 3) ++ m) b 0 | .brvLone m v => ln 0x0F 0 ((0 : BitVec 3) ++ m) 0 0 v
  | .elsev b => cr 0x0F 0 0 b 1 | .elsevLone v => ln 0x0F 0 0 0 1 v
  | .joinv false => cr 0x0F 0 0 0 2 | .joinv true => ln 0x0F 0 0 0 2 0
  | .waitr d a => cr 0x0F d a 0 3 | .waitrLone d v => ln 0x0F d 0 0 3 v
  | .ld m => encMem 0x10 m none | .st m => encMem 0x11 m none | .ldq m => encMem 0x12 m none | .lds m => encMem 0x13 m none
  | .sts m => encMem 0x14 m none | .lda m => encMem 0x15 m none | .stl m => encMem 0x16 m none
  | .ldsync m => encMem 0x17 m none | .stf m => encMem 0x18 m none
  | .memoryLoneForm k m e => encMem (memKindCode k) m (some e)
  | .atom m e => encMem 0x19 m (some e) | .amsg m e => encMem 0x1A m (some e)
  | .pf m e => encMem 0x1B m e | .cwb m e => encMem 0x1B m e | .cinv m e => encMem 0x1B m e
  | .fence => cr 0x1C 0 0 0 0 | .fenceSt => cr 0x1C 0 0 0 1
  | .hist m e => encMem 0x1D m e
  | .cpyj d a => cr 0x1E d a 0 0 | .cpyjLone d a b n => ln 0x1E d a b 0 ((0 : BitVec 4) ++ n)
  | .cpyq d a => cr 0x1E d a 0 1 | .cpyw d a => cr 0x1E d a 0 2
  | .gath m e => encMem 0x1F m (some e) | .scat m e => encMem 0x20 m (some e)
  | .tload d a b v => ln 0x21 d a b 0 v
  | .send d a b => cr 0x22 d a b 0 | .sendLone d a b nw => ln 0x22 d a b 0 ((0 : BitVec 29) ++ nw)
  | .recv d a b => cr 0x22 d a b 1 | .mbw d a b => cr 0x22 d a b 2 | .mbr d a => cr 0x22 d a 0 3
  | .acca d t md w => cr 0x23 d (z2 ++ t) ((0 : BitVec 4) ++ BitVec.ofBool w ++ BitVec.ofBool md) 0
  | .accf t => cr 0x23 0 (z2 ++ t) 0 1 | .accz t => cr 0x23 0 (z2 ++ t) 0 2 | .accsv t b => cr 0x23 0 (z2 ++ t) b 3
  | .accsvLone t b sp => ln 0x23 0 (z2 ++ t) b 3 ((0 : BitVec 31) ++ BitVec.ofBool sp)
  | .accld d t b => cr 0x23 d (z2 ++ t) b 4
  | .accldLone d t b sp => ln 0x23 d (z2 ++ t) b 4 ((0 : BitVec 31) ++ BitVec.ofBool sp)
  | .bldq ring q s b x e =>
    encMem 0x24 { d := BitVec.ofBool ring ++ q ++ s, b := b, x := x, sz := 3, dk := false } e
  | .yset y a p st => ln 0x25 ((0 : BitVec 3) ++ y) a 0 0 (st ++ p)
  | .cview a b => cr 0x26 0 a b 0 | .cviewLone a n vt => ln 0x26 0 a 0 0 ((0 : BitVec 24) ++ BitVec.ofBool vt ++ n)
  | .ctile d b => cr 0x26 d 0 b 1 | .csegLin a b => cr 0x26 0 a b 5 | .csegQuad a b => cr 0x26 0 a b 6
  | .csegCub a b => cr 0x26 0 a b 7 | .ctri a b => cr 0x26 0 a b 8 | .ctriFrag a b => cr 0x26 0 a b 9
  | .cfill d a b => cr 0x26 d a b 0xA | .cfillLone d b o => ln 0x26 d 0 b 0xA ((0 : BitVec 29) ++ o)
  | .cclose d b => cr 0x26 d 0 b 0xB
  | .trace d a b => cr 0x27 d a b 0 | .traceRidge t p v => ln 0x27 (z2 ++ t) (z2 ++ p) 0 0 v
  | .tnext d a => cr 0x27 d a 0 1 | .thit d a b => cr 0x27 d a b 2 | .tign a => cr 0x27 0 a 0 3 | .tterm d a => cr 0x27 d a 0 4
  | .repack d t v => ln 0x28 d (z2 ++ t) 0 0 v
  | .bar n b => cr 0x29 0 (z2 ++ n) b 0 | .barLone n v => ln 0x29 0 (z2 ++ n) 0 0 v
  | .bara d n b => cr 0x29 d (z2 ++ n) b 1 | .baraLone d n v => ln 0x29 d (z2 ++ n) 0 1 v | .barw n b => cr 0x29 0 (z2 ++ n) b 2
  | .launch d a => cr 0x2A d a 0 0 | .lwait d a => cr 0x2A d a 0 1 | .lwaitLone d a v => ln 0x2A d a 0 1 v
  | .rangeSet a => cr 0x2B 0 a 0 0 | .rangeNext d b => cr 0x2B d 0 b 1 | .rangeNextLone d v => ln 0x2B d 0 0 1 v
  | .steal d b => cr 0x2B d 0 b 2 | .stealLone d p => ln 0x2B d 0 0 2 ((0 : BitVec 24) ++ p) | .rangeGet d => cr 0x2B d 0 0 3
  | .task d a b => cr 0x2C d a b 0 | .tend a => cr 0x2C 0 a 0 1 | .sleep d a b => cr 0x2C d a b 2
  | .sleepLone d a b v => ln 0x2C d a b 2 v | .wake d a b => cr 0x2C d a b 3 | .wakeLone d a v => ln 0x2C d a 0 3 v
  | .prio d a => cr 0x2C d a 0 4 | .prioLone d l => ln 0x2C d 0 0 4 ((0 : BitVec 30) ++ l)
  | .trap => cr 0x2D 0 0 0 0 | .trapLone v => ln 0x2D 0 0 0 0 v | .svc => cr 0x2D 0 0 0 1 | .svcLone v => ln 0x2D 0 0 0 1 v
  | .sret => cr 0x2D 0 0 0 2 | .eret false a => cr 0x2D 0 a 0 3 | .eret true a => ln 0x2D 0 a 0 3 0
  | .eretRedirect a b => ln 0x2D 0 a b 3 1 | .eretKill a => ln 0x2D 0 a 0 3 2
  | .crd d n => some (.c (encCI 0 0x2E d 0 ((0 : BitVec 1) ++ n))) | .cwr a n => some (.c (encCI 0 0x2E 0 a ((1 : BitVec 1) ++ n)))
  | .tlbw d a b req size => ln 0x2F d a b 0 ((0 : BitVec 14) ++ size ++ req)
  | .tlbiPage d a => ln 0x2F d a 0 1 0 | .tlbiCtx d a => ln 0x2F d a 0 1 1 | .tlbiFunc d a => ln 0x2F d a 0 1 2
  | .gstop false d a => cr 0x2F d a 0 2 | .gstop true d a => ln 0x2F d a 0 2 0 | .gstopGo d a => ln 0x2F d a 0 2 1
  | .pmr d a b => cr 0x2F d a b 3 | .tsr d => cr 0x2F d 0 0 4 | .wfi d => cr 0x2F d 0 0 5 | .wfiLone d v => ln 0x2F d 0 0 5 v
  | i => match aClass i with
    | some (amaj, .p d a b kb x) => some (.a (encAR (BitVec.ofNat 6 amaj) d a b kb x))
    | some (amaj, .l f) => some (encLA (BitVec.ofNat 6 amaj) f)
    | none => none

/-- The two words of the bundle that holds an instruction alone, with NOP in the other slot of a paired bundle. -/
def encodeBundle (i : Instr) : Option (W32 × W32) :=
  match encode i with
  | some (.c w0) => some (w0, 0)
  | some (.a w1) => some (0, w1)
  | some (.lone w0 w1) => some (w0, w1)
  | none => none

/-- The instruction the decoder reads from a table row's word: as word 0 on a spur core or a Ridge engine, and as a paired
A-slot where no C-slot instruction has it (the table gives A-class rows their word 1). -/
def decodeTableWord (_nbits w : Nat) : Option Instr :=
  let w0 := BitVec.ofNat 32 w
  let w1 := BitVec.ofNat 32 (w / 2 ^ 32)
  match decodeC false w0 w1 with
  | some (i, _) => some i
  | none => match decodeC true w0 w1 with
    | some (i, _) => some i
    | none => match decodeA true w0 with
      | some (i, _) => some i
      | none => none

end Sys2Proof
end

