-- ==== Sys2Proof/Machine/Regs.lean ====
section
/-! DEFINITION. The registers each instruction reads and writes (R51, R62, R508), and the decode checks that depend on the engine
and the wave: checks 3, 4, 6 and 7 of R49, in `checkBundle` with checks 1, 2 and 5. -/

namespace Sys2Proof.Machine

/-- A register of some file of R56. `vAny` stands for every lane register, for instructions whose group is fixed only when they
issue; `exec` is EXEC. -/
inductive Reg where
  | s (n : Nat)
  | k (n : Nat)
  | v (n : Nat)
  | vAny
  | m (n : Nat)
  | lq (n : Nat)
  | sq (n : Nat)
  | y (n : Nat)
  | t (n : Nat)
  | exec
  deriving DecidableEq, Repr

/-- Where a bundle is decoded: the engine, supervisor mode, and the wave's v-register allocation (R49, R57). -/
structure DecodeCtx where
  ridge : Bool
  sup : Bool
  nv : Nat
  deriving DecidableEq, Repr

/-- A D, A or B field of formats CR, CI, CL and CB (R45). -/
def gpr (ridge : Bool) (n : Reg6) : Reg := if ridge then .k n.toNat else .s n.toNat

/-- A uniform-operand code (R58). -/
def codeReg (c : BitVec 8) : Option Reg :=
  let n := c.toNat
  if n < 0x40 then some (.k n) else if n < 0x44 then some (.lq (n - 0x40)) else if n < 0x46 then some (.sq (n - 0x44))
  else if 0x50 ≤ n ∧ n < 0x58 then some (.y (n - 0x50)) else if 0x60 ≤ n ∧ n < 0x70 then some (.t (n - 0x60)) else none

/-- Is the register inside the engine's file and the wave's allocation (check 6 of R49)? -/
def regOk (c : DecodeCtx) : Reg → Bool
  | .s n => decide (n < 16)
  | .k n => decide (n < 64)
  | .v n => decide (n < c.nv)
  | _ => true

/-- Registers `n`, `n + 1`, … of one file. -/
def regRun (f : Nat → Reg) (n len : Nat) : List Reg := (List.range len).map (fun i => f (n + i))

/-- Registers read and written, and whether check 6 of R49 finds a fault beyond the bounds of those registers. -/
structure RegUse where
  reads : List Reg := []
  writes : List Reg := []
  bad : Bool := false
  deriving DecidableEq, Repr

/-- The data register or registers of a per-lane or single access of `sz` (R203). -/
def dataRegs (ridge : Bool) (m : MemOp) : Option (List Reg) :=
  let d := m.d.toNat
  if ridge then
    if m.dk then (codeReg m.d).map (fun r => [r])
    else if m.sz == 3 then some [.v d, .v (d + 1)] else some [.v d]
  else some [.s d]

/-- Base, index and gating mask of a format CM address (R204). -/
def addrRegs (ridge uniform noix : Bool) (m : MemOp) (e : Option MemExt) : List Reg :=
  let base := [gpr ridge m.b]
  let idx : List Reg :=
    if noix then [] else if !ridge then [.s m.x.toNat] else if uniform then [.k (m.x.toNat % 64)] else [.v m.x.toNat]
  let msk : List Reg := if ridge && !uniform then [.exec, .m ((e.map (fun x => x.msel.toNat)).getD 0)] else []
  base ++ idx ++ msk

/-- MSEL on a spur or Summit core must be 0 (R204). -/
def mselBad (ridge : Bool) (e : Option MemExt) : Bool := !ridge && (e.map (fun x => x.msel != 0)).getD false

/-- The nine memory majors (R203, R204, R209, R210). -/
def memUse (ridge : Bool) (k : MemKind) (m : MemOp) (e : Option MemExt) : RegUse :=
  let noix := (e.map (fun x => x.md.getLsbD 3)).getD false
  let addr := addrRegs ridge (memUniform ridge m) noix m e
  let load := MemKind.isLoad k
  match dataRegs ridge m with
  | none => { reads := addr, bad := true }
  | some ds =>
    let q : Bool := match ds with
      | [.lq _] => k == .ldq
      | [.sq _] => k == .st || k == .stl || k == .sts || k == .stf
      | [.y _] => false
      | [.t _] => false
      | _ => k != .ldq || !ridge
    let pairBad := ridge && !m.dk && m.sz == 3 && m.d.toNat % 2 == 1
    if load then { reads := addr, writes := ds, bad := !q || pairBad || mselBad ridge e }
    else { reads := addr ++ ds, bad := !q || pairBad || mselBad ridge e }

/-- ATOM (R216): the operand, the new value of a CAS, and the old value. -/
def atomUse (ridge : Bool) (m : MemOp) (e : MemExt) : RegUse :=
  let addr := addrRegs ridge (memUniform ridge m) false m (some e)
  let cas := e.md.extractLsb' 0 4 == 7
  let nr := e.md.getLsbD 7
  let d := m.d.toNat
  match dataRegs ridge m with
  | none => { reads := addr, bad := true }
  | some ds =>
    let lane := ridge && !m.dk
    let new : List Reg :=
      if !cas then [] else if lane then (if m.sz == 3 then [.v (d + 2), .v (d + 3)] else [.v (d + 1)])
      else if ridge then [.k (d + 1)] else [.s (d + 1)]
    let dBad := lane && m.sz == 3 && (d % 2 == 1 || (cas && d % 4 != 0))
    let qBad := match ds with | [.lq _] => true | [.sq _] => true | [.y _] => true | [.t _] => true | _ => false
    { reads := addr ++ ds ++ new, writes := if nr then [] else ds, bad := dBad || qBad || mselBad ridge (some e) }

/-- AMSG (R219): the payload, and the status in D. -/
def amsgUse (ridge : Bool) (m : MemOp) (e : MemExt) : RegUse :=
  let addr := addrRegs ridge (memUniform ridge m) false m (some e)
  match dataRegs ridge m with
  | none => { reads := addr, bad := true }
  | some ds =>
    let qBad := match ds with | [.lq _] => true | [.sq _] => true | [.y _] => true | [.t _] => true | _ => false
    { reads := addr ++ ds, writes := ds.take 1,
      bad := qBad || mselBad ridge (some e) || (ridge && !m.dk && m.sz == 3 && m.d.toNat % 2 == 1) }

/-- HIST (R315). -/
def histUse (ridge : Bool) (m : MemOp) (e : Option MemExt) : RegUse :=
  let noix := (e.map (fun x => x.md.getLsbD 3)).getD false
  let one := (e.map (fun x => x.md.getLsbD 1)).getD false
  let addr := addrRegs ridge (memUniform ridge m) noix m e
  if one then { reads := addr, bad := mselBad ridge e }
  else match dataRegs ridge m with
  | none => { reads := addr, bad := true }
  | some ds =>
    let qBad := match ds with | [.lq _] => true | [.sq _] => true | [.y _] => true | [.t _] => true | _ => false
    { reads := addr ++ ds, bad := qBad || mselBad ridge e || (ridge && !m.dk && m.sz == 3 && m.d.toNat % 2 == 1) }

/-- PF, CWB and CINV (R220). -/
def cacheUse (ridge : Bool) (all : Bool) (m : MemOp) (e : Option MemExt) : RegUse :=
  if all && m.sz == 3 then { bad := mselBad ridge e }
  else { reads := addrRegs ridge (ridge && m.dk) false m e, bad := mselBad ridge e }

/-- GATH and SCAT (R253). -/
def gathUse (ridge : Bool) (m : MemOp) (e : MemExt) : RegUse :=
  let d : Reg := if ridge then .k m.d.toNat else .s m.d.toNat
  { reads := d :: addrRegs ridge false false m (some e), writes := [d], bad := mselBad ridge (some e) }

/-- A first operand of an A-class form on a Ridge engine: a v-register, or a code that names k or lq (R170). -/
def srcUse (kind : Bool) (code : BitVec 8) : List Reg × Bool :=
  if kind then
    match codeReg code with
    | some (.k n) => ([.k n], false)
    | some (.lq n) => ([.lq n], false)
    | _ => ([], true)
  else ([.v code.toNat], false)

/-- A source that must name a k-register when its kind bit is set. -/
def srcK (code : BitVec 8) : List Reg × Bool :=
  match codeReg code with
  | some (.k n) => ([.k n], false)
  | _ => ([], true)

/-- A destination of an A-class form on a Ridge engine: a v-register, sq0 or sq1, or a k-register where `kOk` (R170). -/
def dstUse (kOk : Bool) (kd : Bool) (d : BitVec 8) : List Reg × Bool :=
  if kd then
    match codeReg d with
    | some (.sq n) => ([.sq n], false)
    | some (.k n) => ([.k n], !kOk)
    | _ => ([], true)
  else ([.v d.toNat], false)

/-- Majors whose B is a register operand on a Ridge engine (R169 to R191, R311, R351). -/
def bIsSource (amaj : Nat) : Bool :=
  (decide (amaj ≤ 0x0D) && amaj != 0) || amaj == 0x0F || amaj == 0x10 || amaj == 0x11 || (decide (0x13 ≤ amaj) && decide (amaj ≤ 0x19))
  || (decide (0x1C ≤ amaj) && decide (amaj ≤ 0x20)) || amaj == 0x31 || amaj == 0x36

/-- Registers and check 6 of an A-class instruction on a Ridge engine, with the tile, y and register codes of the matrix class (R292, R300). -/
def laUseRidge (amaj : Nat) (f : LA) (paired : Bool) : RegUse :=
  let g : List Reg := [.exec, .m f.msel.toNat]
  let mk (r : List Reg × Bool) (w : List Reg × Bool) (extra : List Reg) (bad : Bool) : RegUse :=
    { reads := g ++ r.1 ++ extra, writes := w.1, bad := r.2 || w.2 || bad }
  let a := srcUse f.ka f.a
  let b := srcUse f.kb f.b
  let c := srcUse f.kc f.c
  let d := f.d.toNat
  let nA := f.a.toNat
  let nB := f.b.toNat
  let maskD : List Reg × Bool := ([.m (d % 8)], false)
  let both (x y : List Reg × Bool) : List Reg × Bool := (x.1 ++ y.1, x.2 || y.2)
  match amaj with
  | 0x0F => mk (both a b) (dstUse false f.kd f.d) [.m (f.c.toNat % 8)] false
  | 0x10 | 0x19 => mk (both a b) maskD [] false
  | 0x11 => mk b (dstUse false f.kd f.d) [] false
  | 0x12 => mk (if f.kb then srcK f.b else ([], true)) ([.v d, .v (d + 1)], false) [] (d % 2 == 1)
  | 0x1F | 0x20 => mk (both a b) (dstUse false f.kd f.d) [] false
  | 0x21 => mk (if f.kb then both a (srcK f.b) else a) (dstUse true f.kd f.d) [] false
  | 0x23 => mk a (dstUse true f.kd f.d) [] false
  | 0x24 => mk a (dstUse true f.kd f.d) [] (f.b.extractLsb' 0 2 == 2 && !(f.kd && decide (f.d.toNat < 0x40)))
  | 0x25 =>
    let sel := (f.b.extractLsb' 5 3).toNat
    let src : List Reg := if sel ≤ 2 then [.m (nA % 8), .m (nB % 8)] else [.m (nA % 8)]
    if sel ≤ 3 then { reads := src, writes := [.m (d % 8)] }
    else { reads := src, writes := (srcK f.d).1, bad := (srcK f.d).2 }
  | 0x26 =>
    let ra : List Reg × Bool := if f.ka then a else ([.v nA, .v (nA + 1)], nA % 2 == 1)
    let rb : List Reg × Bool := if f.kb then srcK f.b else ([.v nB, .v (nB + 1)], nB % 2 == 1)
    mk (both ra rb) (regRun .v d 4, f.kd || d % 4 != 0) [] false
  | 0x29 => mk a (dstUse false f.kd f.d) [] false
  | 0x2A => mk a (dstUse false f.kd f.d) [] false
  | 0x2B | 0x2C | 0x2D =>
    let tD : List Reg × Bool := match codeReg f.d with | some (.t n) => ([.t n], amaj == 0x2D && n == 15) | _ => ([], true)
    let t2 : List Reg := if amaj == 0x2D then [.t (d - 0x60 + 1)] else []
    let rb : List Reg × Bool :=
      if f.kb then (match codeReg f.b with | some (.y n) => ([.y n], false) | _ => ([], true)) else ([], false)
    let rc : List Reg × Bool :=
      if f.kc then (match codeReg f.c with | some (.y n) => ([.y n], false) | _ => ([], true)) else ([], false)
    -- the registers that the word names; the rest of their groups follows from the formats at issue (R293)
    let named : List Reg := (if f.kb then [] else [.v nA]) ++ (if amaj == 0x2C && !paired && !f.kc then [.v f.c.toNat] else [])
    { reads := g ++ [.vAny] ++ named ++ rb.1 ++ rc.1 ++ tD.1 ++ t2, writes := rb.1 ++ rc.1 ++ tD.1 ++ t2,
      bad := tD.2 || rb.2 || (rc.2 && !paired) }
  | 0x2E =>
    let tA : List Reg × Bool := match codeReg f.a with | some (.t n) => ([.t n], false) | _ => ([], true)
    { reads := g ++ tA.1, writes := regRun .v d (tyWidth f.ty / 2) ++ tA.1, bad := tA.2 }
  | 0x2F =>
    let tD : List Reg × Bool := match codeReg f.d with | some (.t n) => ([.t n], false) | _ => ([], true)
    { reads := g ++ regRun .v nA (tyWidth f.ty / 2) ++ tD.1, writes := tD.1, bad := tD.2 }
  | 0x31 => mk (if f.md.getLsbD 0 then both (both a b) c else both a b) (dstUse false f.kd f.d) [] false
  | 0x32 =>
    if f.md.getLsbD 0 then mk a maskD [] f.kd else mk a ([.v d, .v (d + 1)], f.kd || d % 2 == 1) [] false
  | 0x34 =>
    let kc : List Reg × Bool := if f.kc then srcK f.c else ([], false)
    { reads := g ++ a.1 ++ [.m (nB % 8), .v d], writes := [.v d] ++ kc.1, bad := a.2 || kc.2 || f.kd }
  | 0x35 => mk (if f.kb then both a (srcK f.b) else a) ([.v d], f.kd || (!f.kb && decide (64 < nB))) [] false
  | 0x36 =>
    let kc : List Reg × Bool := if f.kc then srcK f.c else ([], false)
    { reads := g ++ a.1 ++ b.1 ++ kc.1, writes := [.v d] ++ kc.1, bad := a.2 || b.2 || kc.2 || f.kd }
  | 0x37 =>
    let ra : List Reg × Bool := if f.ka then (regRun .k nA 3, decide (64 ≤ nA)) else (regRun .v nA 3, false)
    let rb : List Reg × Bool := if f.kb then srcK f.b else (regRun .v nB 2, false)
    mk (both ra rb) (dstUse false f.kd f.d) [] false
  | _ =>
    let r := if bIsSource amaj then both a b else a
    mk (if usesC amaj then both r c else r) (dstUse false f.kd f.d) [] false

/-- Registers and check 6 of a lane-class instruction on a spur or Summit core (R192). -/
def laUseSpur (amaj : Nat) (f : LA) : RegUse :=
  let d := f.d.toNat
  let a : List Reg := if amaj == 0x11 then [] else [.s f.a.toNat]
  let b : List Reg := if bIsSource amaj || amaj == 0x26 then [.s f.b.toNat] else []
  let c : List Reg := if usesC amaj || (amaj == 0x31 && f.md.getLsbD 0) then [.s f.c.toNat] else []
  let dd : List Reg := if amaj == 0x29 then [.s d] else []
  let w : List Reg := if amaj == 0x26 then [.s d, .s (d + 1)] else [.s d]
  { reads := a ++ b ++ c ++ dd, writes := w, bad := f.msel != 0 || (amaj == 0x26 && d % 2 == 1) }

/-- Which engines execute an instruction (R52, R54, R116). -/
inductive EngineSet where
  | both
  | spur
  | ridge
  deriving DecidableEq, Repr

/-- A-majors that only a Ridge engine executes (R54). -/
def aRidgeOnly (amaj : Nat) : Bool :=
  [0x0F, 0x10, 0x12, 0x19, 0x1F, 0x20, 0x21, 0x22, 0x23, 0x24, 0x25, 0x28, 0x2B, 0x2C, 0x2D, 0x2E, 0x2F, 0x32, 0x33, 0x34,
    0x35, 0x36, 0x37].contains amaj

def engineOf (i : Instr) : EngineSet :=
  match i with
  | .cview .. | .cviewLone .. | .ctile .. | .csegLin .. | .csegQuad .. | .csegCub .. | .ctri .. | .ctriFrag .. | .cfill ..
  | .cfillLone .. | .cclose .. | .trace .. | .tnext .. | .thit .. | .tign .. | .tterm .. | .passRidge .. => .spur
  | .brv .. | .brvLone .. | .elsev .. | .elsevLone .. | .joinv .. | .waitr .. | .waitrLone .. | .ldq .. | .lds .. | .sts ..
  | .acca .. | .accf .. | .accz .. | .accsv .. | .accsvLone .. | .accld .. | .accldLone .. | .bldq .. | .yset ..
  | .traceRidge .. | .passSpur .. => .ridge
  | .memoryLoneForm k _ _ => if k == .ldq || k == .lds || k == .sts then .ridge else .both
  | i => match aClass i with
    | some (amaj, _) => if aRidgeOnly amaj then .ridge else .both
    | none => .both

/-- Privileged instructions (R414, R425). -/
def privileged (i : Instr) : Bool :=
  match i with
  | .sret | .eret .. | .eretRedirect .. | .eretKill .. | .tlbw .. | .tlbiPage .. | .tlbiCtx .. | .tlbiFunc .. | .gstop ..
  | .gstopGo .. | .pmr .. | .wfi .. | .wfiLone .. => true
  | _ => false

/-- A control-register access that R60 forbids outside supervisor mode. -/
def crPrivileged (i : Instr) : Bool :=
  match i with
  | .crd _ n => decide (0x200 ≤ n.toNat)
  | .cwr _ n => decide (0x100 ≤ n.toNat)
  | _ => false

/-- Assigned control-register numbers (R60 and the rules that give each register). -/
def crAssigned (ridge : Bool) (n : Nat) : Bool :=
  decide (n ≤ 3) || (ridge && decide (0x10 ≤ n) && decide (n ≤ 0x14)) || n == 0x110 || n == 0x111
  || (decide (0x120 ≤ n) && decide (n ≤ 0x123)) || (decide (0x200 ≤ n) && decide (n ≤ 0x204))
  || (decide (0x210 ≤ n) && decide (n ≤ 0x216)) || n == 0x220 || n == 0x221 || (decide (0x230 ≤ n) && decide (n ≤ 0x250))
  || (decide (0x280 ≤ n) && decide (n ≤ 0x283)) || (decide (0x290 ≤ n) && decide (n ≤ 0x293)) || n == 0x2A0 || n == 0x2A1
  || (decide (0x2B0 ≤ n) && decide (n ≤ 0x2C0)) || (decide (0x300 ≤ n) && decide (n ≤ 0x3FF) && n % 16 != 0)
  || (decide (0x400 ≤ n) && decide (n < 0x480) && n % 4 != 3) || (decide (0x500 ≤ n) && decide (n < 0x540))
  || (decide (0x600 ≤ n) && decide (n < 0x620))

/-- LINK: s15, or k63 on a Ridge engine (R102). -/
def linkReg (ridge : Bool) : Reg := if ridge then .k 63 else .s 15

/-- Registers and check 6 of every instruction. Literal fields are no registers (R106, R187, R323, R390). -/
def regUse (ridge : Bool) (i : Instr) : RegUse :=
  let g (n : Reg6) : Reg := gpr ridge n
  let gs (n len : Nat) : List Reg := regRun (if ridge then Reg.k else Reg.s) n len
  match i with
  | .add d a b _ | .sub d a b _ | .and d a b _ | .or d a b _ | .xor d a b _ | .andn d a b _ | .shl d a b _ | .shr d a b _
  | .sra d a b _ | .rot d a b _ | .shladd1 d a b _ | .shladd2 d a b _ | .shladd3 d a b _ | .shladd4 d a b _ | .min d a b _
  | .max d a b _ | .minn d a b _ | .maxn d a b _ | .slt d a b _ | .sltn d a b _ | .seq d a b _ | .mul d a b _
  | .mulh d a b _ | .mulhn d a b _ | .div d a b _ | .divn d a b _ | .rem d a b _ | .remn d a b _ =>
    { reads := [g a, g b], writes := [g d] }
  | .sel d a b => { reads := [g d, g a, g b], writes := [g d] }
  | .clz d a _ | .ctz d a _ | .popc d a _ | .brev d a _ | .bswp d a _ | .addi d a _ | .addiLone d a _ | .bext d a _ _ _ =>
    { reads := [g a], writes := [g d] }
  | .aluImmediateLone op d a _ _ => { reads := if op == .sel then [g d, g a] else [g a], writes := [g d] }
  | .li d _ | .liLone d _ => { writes := [g d] }
  | .lih d _ | .lihLone d _ => { reads := [g d], writes := [g d] }
  | .bins d a _ _ => { reads := [g d, g a], writes := [g d] }
  | .call _ => { writes := [linkReg ridge] }
  | .bc _ a b _ | .bcLone _ a b _ => { reads := [g a, g b] }
  | .jmp d a => { reads := [g a], writes := [g d] }
  | .ret a | .rpt a _ | .yield a | .yieldLone a _ => { reads := [g a] }
  | .passRidge b _ _ => { reads := [g b] }
  | .passSpur _ _ => { reads := [.exec, .vAny], writes := [.exec] }
  | .exit | .exitLone _ => { reads := [.exec], writes := [.exec] }
  | .brv m b => { reads := [.exec, .m m.toNat, g b], writes := [.exec] }
  | .brvLone m _ => { reads := [.exec, .m m.toNat], writes := [.exec] }
  | .elsev b => { reads := [.exec, g b], writes := [.exec] }
  | .elsevLone _ | .joinv _ => { reads := [.exec], writes := [.exec] }
  | .waitr d a => { reads := [.exec, g a], writes := [.exec, g d] }
  | .waitrLone d _ => { reads := [.exec], writes := [.exec, g d] }
  | .ld m => memUse ridge .ld m none | .st m => memUse ridge .st m none | .ldq m => memUse ridge .ldq m none
  | .lds m => memUse ridge .lds m none | .sts m => memUse ridge .sts m none | .lda m => memUse ridge .lda m none
  | .stl m => memUse ridge .stl m none | .ldsync m => memUse ridge .ldsync m none | .stf m => memUse ridge .stf m none
  | .memoryLoneForm k m e => memUse ridge k m (some e)
  | .atom m e => atomUse ridge m e
  | .amsg m e => amsgUse ridge m e
  | .pf m e => cacheUse ridge false m e
  | .cwb m e => cacheUse ridge true m e
  | .cinv m e => cacheUse ridge true m e
  | .hist m e => histUse ridge m e
  | .cpyj d a | .cpyq d a | .cpyw d a | .mbr d a | .tnext d a | .launch d a | .lwait d a | .lwaitLone d a _ | .prio d a
  | .wakeLone d a _ | .tlbiPage d a | .tlbiCtx d a | .tlbiFunc d a | .gstop _ d a | .gstopGo d a =>
    match i with
    | .tnext d a => { reads := [g a], writes := gs d.toNat 3, bad := d == 0 || decide (13 < d.toNat) }
    | _ => { reads := [g a], writes := [g d] }
  | .cpyjLone d a b _ | .tload d a b _ | .mbw d a b | .wake d a b | .sleep d a b | .sleepLone d a b _ | .pmr d a b
  | .tlbw d a b _ _ => { reads := [g a, g b], writes := [g d] }
  | .gath m e | .scat m e => gathUse ridge m e
  | .send d a b => { reads := [g a, g b], writes := [g d] }
  | .sendLone d a b nw => { reads := g a :: gs b.toNat (if nw == 7 then 0 else nw.toNat), writes := [g d] }
  | .recv d a b =>
    { reads := [g a, g b], writes := gs d.toNat 8, bad := d == 0 || decide ((if ridge then 56 else 8) < d.toNat) }
  | .acca d t _ _ => { writes := [g d, .t t.toNat] }
  | .accf t | .accz t => { reads := [.t t.toNat], writes := [.t t.toNat] }
  | .accsv t b | .accsvLone t b _ => { reads := [.t t.toNat, g b] }
  | .accld d t b | .accldLone d t b _ => { reads := [.t t.toNat, g b], writes := [g d, .t t.toNat] }
  | .bldq ring _ _ b x _ =>
    if ring then { reads := [.y (b.toNat % 8)], writes := [.y (b.toNat % 8)] } else { reads := [g b, .k (x.toNat % 64)] }
  | .yset y a _ _ => { reads := [g a], writes := [.y y.toNat] }
  | .cview a b => { reads := [g a, g b] }
  | .cviewLone a _ _ => { reads := [g a] }
  | .ctile d b | .cclose d b | .cfillLone d b _ => { reads := [g b], writes := [g d] }
  | .csegLin a b => { reads := g b :: gs a.toNat 2 }
  | .csegQuad a b | .ctri a b => { reads := g b :: gs a.toNat 3 }
  | .csegCub a b | .ctriFrag a b => { reads := g b :: gs a.toNat 4 }
  | .cfill d a b => { reads := [g a, g b], writes := [g d] }
  | .trace d a b => { reads := [g a, g b], writes := gs d.toNat 3, bad := d == 0 || decide (13 < d.toNat) }
  | .thit d a b => { reads := [g a, g b], writes := [g d], bad := d == 0 }
  | .tign a => { reads := [g a] }
  | .tterm d a => { reads := [g a], writes := gs d.toNat 3, bad := d == 0 || decide (13 < d.toNat) }
  | .traceRidge _ _ _ => { reads := [.exec, .vAny], writes := [.exec] }
  | .repack d _ _ =>
    if ridge then { reads := [.exec, .vAny, .v d.toNat], writes := [.exec] } else { reads := [.s d.toNat] }
  | .bar _ b | .barw _ b => { reads := [g b] }
  | .bara d _ b => { reads := [g b], writes := [g d] }
  | .baraLone d _ _ | .rangeGet d | .rangeNextLone d _ | .stealLone d _ | .prioLone d _ | .tsr d | .wfi d | .wfiLone d _ =>
    { writes := [g d] }
  | .rangeSet a => { reads := [g a] }
  | .rangeNext d b | .steal d b => { reads := [g b], writes := [g d] }
  | .task d a b => { reads := g a :: gs b.toNat 3, writes := [g d] }
  | .tend a => { reads := if ridge then [g a, .exec] else [g a], writes := if ridge then [.exec] else [] }
  | .svc | .svcLone _ => if ridge then { reads := [.exec, .vAny], writes := [.exec, .vAny] } else {}
  | .eret _ a | .eretKill a => { reads := [g a] }
  | .eretRedirect a b => { reads := [g a, g b] }
  | .crd d n => { writes := [g d], bad := !crAssigned ridge n.toNat }
  | .cwr a n => { reads := [g a], bad := !crAssigned ridge n.toNat }
  | i => match aClass i with
    | some (amaj, f) =>
      if ridge then laUseRidge amaj (toLA amaj f) (match f with | .p .. => true | .l _ => false) else laUseSpur amaj (toLA amaj f)
    | none => {}

/-- Check 6 of R49. -/
def operandsOk (c : DecodeCtx) (i : Instr) : Bool :=
  let u := regUse c.ridge i
  !u.bad && (u.reads ++ u.writes).all (regOk c)

/-- Writes that count for check 7 of R49: not to s0, k0 or m0, no queue pushes, no tile or stream registers (R51, R292). -/
def countedWrite : Reg → Bool
  | .s n | .k n | .m n => n != 0
  | .v _ => true
  | _ => false

/-- Check 7 of R49: both slots write one register. -/
def bundleClash (ridge : Bool) (ci ai : Instr) : Bool :=
  ((regUse ridge ci).writes.filter countedWrite).any (fun r => ((regUse ridge ai).writes).contains r)

/-- Check 3 of R49. -/
def engineOk (c : DecodeCtx) (i : Instr) : Bool :=
  match engineOf i with | .both => true | .spur => !c.ridge | .ridge => c.ridge

/-- Check 4 of R49. -/
def privilegeOk (c : DecodeCtx) (i : Instr) : Bool := c.sup || !(privileged i || crPrivileged i)

/-- A decoded bundle: the instruction of the C-slot or the lone instruction, and the A-slot's instruction of a paired bundle. -/
structure Bundle where
  ci : Instr
  ai : Option Instr
  deriving DecidableEq, Repr

/-- The checks of R49 in order, the C-slot before the A-slot within each: the decoded bundle, or the first failure and the
number of its slot. A lone instruction counts as the C-slot, and check 7 names slot 1. -/
def checkBundle (c : DecodeCtx) (w0 w1 : W32) : Except (DecodeFail × Nat) Bundle :=
  let lone := w0.getLsbD 31
  match decodeC c.ridge w0 w1 with
  | none => .error (.undefOpcode, 0)
  | some (ci, rc) =>
    match (if lone then some none else (decodeA c.ridge w1).map some) with
    | none => .error (.undefOpcode, 1)
    | some ao =>
      let bad (p : Instr → Bool) : Option Nat :=
        if !p ci then some 0 else match ao with | some (ai, _) => if !p ai then some 1 else none | none => none
      match bad (engineOk c) with
      | some n => .error (.wrongEngine, n)
      | none => match bad (privilegeOk c) with
        | some n => .error (.privileged, n)
        | none =>
          if rc then .error (.reservedField, 0)
          else if (match ao with | some (_, ra) => ra | none => false) then .error (.reservedField, 1)
          else match bad (operandsOk c) with
            | some n => .error (.badOperand, n)
            | none => match ao with
              | some (ai, _) => if bundleClash c.ridge ci ai then .error (.badBundle, 1) else .ok ⟨ci, some ai⟩
              | none => .ok ⟨ci, none⟩

end Sys2Proof.Machine
end

