-- ==== Sys2Proof/Machine/State.lean ====
section
/-! DEFINITION. The state of the package as plain data: every thread, wave, block and grid, every memory, register, queue and
table that the spec gives the machine (INVENTORY.md lists each with its rule), and the machine right after cold reset. -/

namespace Sys2Proof.Machine

/-- Why a step stops the model. `noUnit`: raised by the meaning of a bundle instruction (through `runC`, `runA`) when no thread or
wave is current or the dies do not run (R42, R477, R478); the hardware executes instructions only in units, so this is a limit of
the interface of `exec` and safe: `step` never raises it. -/
inductive Fault where
  | noUnit
  deriving DecidableEq, Repr

/-- Why an instruction has no meaning here. `notModelled`: raised by an arm of `exec` whose instruction has no meaning yet; safe,
since nothing follows from a refused step. -/
inductive Refusal where
  | notModelled (mnemonic : String)
  deriving DecidableEq, Repr

/-- Trap causes (R504). -/
inductive Cause where
  | undefOpcode | wrongEngine | privileged | reservedField | badOperand | badBundle | misaligned | accessViolation
  | fpException | queueDeadlock | blockingInTask | accLeak | breakpoint | singleStep | trapInstruction | launchDepth
  | traceDepth | contourRange
  deriving DecidableEq, Repr

/-- A trap before its delivery: cause, DETAIL, MASK and ADDR of the frame (R413); `slot`: a decode trap names the A-slot (R49). -/
structure TrapInfo where
  cause : Cause
  slot : Bool := false
  detail : W64 := 0
  mask : W64 := 0
  addr : W64 := 0
  deriving DecidableEq, Repr

/-- RPTS (R108). -/
structure Rpt where
  act : Bool := false
  lenm1 : BitVec 6 := 0
  pos : BitVec 6 := 0
  rc : W32 := 0
  deriving DecidableEq, Repr

/-- How a lane of an access stands (R206, R430). `walk`: waiting for the walk of R424; `table`: faulted, on fault-table entry
`tok`; `held`: to be performed at the replay; `waiting`: an LDSYNC lane held at its home (R213), or a
CFILL whose fragment lanes wait for bins (R348); `recall`: waiting for caches of the host to give up its chunk (R243); `forwarded`: sent to the host or a
peer (R36); `perf`: performed, the answer on its way; `err`: an error response. -/
inductive LaneSt where
  | pend
  | walk
  | table (tok : Nat)
  | held
  | waiting
  | recall
  | forwarded
  | perf
  | err
  | done
  deriving DecidableEq, Repr

/-- A lane of an access in flight. `fwd`: place, class and grain to which its home has translated an access that it forwarded (R236). -/
structure ALane where
  lane : Nat
  ea : W64
  data : W64 := 0
  data2 : W64 := 0
  st : LaneSt := .pend
  fwd : Option (Nat × Nat × Nat) := none
  deriving DecidableEq, Repr

/-- A tile of a render target, by the record that names it (R327, R333). -/
structure TileRef where
  tgt : Nat
  tx : Nat
  ty : Nat
  vt : Nat
  z : W32
  deriving DecidableEq, Repr

/-- What a Contour unit is asked to do for one view (R344 to R349): a segment or a triangle, a triangle's fragment lanes, the opening,
the resolve and the closing of a tile; `view` writes entries of a view table, whatever the view. -/
inductive ContourOp where
  | segment (pts : List W64) (tri : Bool)
  | frags (pts : List W64) (prim : W32) (shader : W64) (nv scr : Nat)
  | tileOpen
  | resolve (rule frag clr : Bool) (shader : W64) (nv scr : Nat)
  | tileClose (cbase : W64) (wt ht : Nat)
  | view (entries : List (List W32))
  deriving DecidableEq, Repr

/-- What a lane does at its point of performance. `probe`: the request phase of GATH, and of SCAT, which empties the word; `send`: a
message of SEND or TASK; `amsg`: an active message of a type, whose payload and sender are the lane's data (R219, R263); `contour`: a
message to Contour units, a lane for each view or unit; `touch`: a store of a record's word that waits for its page (R374). -/
inductive AccOp where
  | load (sx : Bool)
  | store
  | storeFull
  | sync (sx cons : Bool)
  | atom (op : Nat) (sgn nr : Bool)
  | hist (sat : Bool)
  | probe (w : Bool)
  | fetch
  | send (words : List W64)
  | amsg (type : Nat)
  | contour (t : TileRef) (o : ContourOp)
  | touch
  deriving DecidableEq, Repr

/-- Where a loaded lane goes: a register, a v-register or pair, the entry or entries of an lq queue that carry the access's number, or
nowhere; a loaded word: word `lane` of a B-slot quarter of a block with `data` words before its scale entry, or of a tile image. -/
inductive Dest where
  | none
  | reg (n : Reg6)
  | vreg (n : Nat) (pair : Bool)
  | queue (q : Nat) (pair : Bool)
  | slot (blk slot quarter data : Nat)
  | tile (t : Nat)
  deriving DecidableEq, Repr

/-- The address space an access names: a virtual address, the block's scratchpad, or a supervisor's untranslated address. -/
inductive Space where
  | virt
  | scratch (blk : Nat)
  | phys
  deriving DecidableEq, Repr

/-- A memory instruction in flight, its lanes not all answered (R221, R505). `image`: the tile whose image an ACCSV writes, word after word (R285,
R287); `owed`: grids with ended units whose forwarded writes these still are (R453). -/
structure Access where
  id : Nat
  unit : UnitId
  op : AccOp
  bytes : Nat
  dest : Dest
  space : Space
  ctx : Nat
  gen : W32
  pos : Nat
  holding : Bool
  acquire : Bool
  w0 : W32
  w1 : W32
  pc : W64
  lanes : List ALane
  image : Option Nat := none
  owed : List Nat := []
  deriving DecidableEq, Repr

/-- What a unit waits for. The parked reasons are those of R432; the others keep the slot or the stream. A waiting instruction
stands at the PC and executes again when its wait is over; `answered` says that its result has been
written for it, with an acquire or without. -/
inductive Wait where
  | none
  | fault
  | job (eng id : Nat) (dest : Option Reg6)
  | mailbox (vale word : Nat) (dest : Reg6)
  | sleep (dest : Reg6)
  | lwait (ea : W64) (dest : Reg6) (next : Nat) (woken : Bool)
  | launchq (depth : Nat)
  | svc
  | trap
  | hold (acc : Nat)
  | barrier (blk n : Nat) (phase : W32)
  | barrierTok (blk n : Nat) (tok : W32)
  | wfi (dest : Reg6) (limit : Option Nat)
  | waitr (dest : Reg6) (limit : Nat)
  | joinv
  | copyQueue (eng : Nat)
  | steal (req : Nat)
  | gstop (fn : Nat)
  | answered (acq : Bool)
  deriving DecidableEq, Repr

/-- A trap's message to the Summit core, and its place in the order of arrival there (R408, R412). -/
structure TrapMsg where
  unit : UnitId
  info : TrapInfo
  time : Nat
  slotBit : Bool
  arr : Nat := 0
  deriving DecidableEq, Repr

/-- A fence of a wave that waits for accesses, by number; `full` for FENCE, not for FENCE.ST (R233). -/
structure Fence where
  ids : List Nat
  full : Bool
  deriving DecidableEq, Repr

/-- What a request enters a bin of the gatherer with (R117). -/
structure BinKey where
  target : W64
  tmpl : Nat
  ctx : Nat
  fpctl : BitVec 6
  frag : Bool
  nv : Nat
  scr : Nat
  deriving DecidableEq, Repr

/-- What is due once the bundle has executed in full: a trap whose PC is the next bundle (R113, R137, R415), or one before the bundle at the PC,
once the compute stream has come there (R50, R66), a service call (R416), its return (R417), the
end of the thread with its exit code (R111), the end of the wave (R64), the wait of a YIELD for a job (R112), the way into a bin of a Vale of a stepped
PASS.RIDGE or REPACK (R117, R137), or the end that ERET with MODE KILL gives (R418). -/
inductive After where
  | trap (i : TrapInfo)
  | trapHere (i : TrapInfo)
  | svc (num : W32)
  | sret
  | exit (code : W32)
  | endWave
  | yield (eng id : Nat)
  | bin (v : Nat) (k : BinKey) (key : Nat) (retpos : Option Nat)
  | kill
  deriving DecidableEq, Repr

/-- State that threads and waves share. `frec` holds the error entries (KIND 3) of the fault record; its other entries are the
faulted and held lanes of the unit's accesses in flight (R431, R505). `redo`: the holding access whose
error lanes a resumed instruction executes again. `walk`: a TRACE or TNEXT goes on with
its walk, or a TLBI waits after its removals (R374, R375, R427). `granted`: the entry of a LAUNCH, shared or reserved (R387). `until_`: the tick at which the limit of an LWAIT or
SLEEP ends. `away`: saved with its partition by a world switch (R439). `body`: the bundle in execution began inside an active repeat
(R106). `bundle`, `words`: the latched bundle (R42). `under`: the wait that a trap has interrupted, which goes on at RESUME (R418).
`trapped`: a trap whose message waits for the accesses before it (R66). `stepDue`: the SINGLE_STEP of the present bundle is due before
what else is due after it (R137). `stopped`: the units whose debug stop holds this one (R138). `fences`: fences not yet complete (R233). `issued`: the
latched bundle has issued and keeps its slot while it waits (R75). -/
structure Common where
  ctx : Nat := 0
  ov : Bool := false
  dz : Bool := false
  rpt : Rpt := {}
  fpctl : BitVec 6 := 0
  fpst : BitVec 6 := 0
  prio : BitVec 2 := 0
  cap : BitVec 2 := 0
  lo : W32 := 0
  hi : W32 := 0
  grid : Option Nat := none
  block : Option Nat := none
  index : Nat := 0
  wait : Wait := .none
  frec : List Access := []
  redo : Option Access := none
  walk : Bool := false
  granted : Option Bool := none
  until_ : Option Nat := none
  away : Bool := false
  exempt : Bool := false
  stepping : Bool := false
  stopped : List UnitId := []
  lastGrid : Option Nat := none
  bundle : Option Bundle := none
  words : W32 × W32 := (0, 0)
  deadlock : Option Nat := none
  parkedAt : Option Nat := none
  body : Bool := false
  after : Option After := none
  under : Wait := .none
  trapped : Option TrapMsg := none
  stepDue : Bool := false
  fences : List Fence := []
  issued : Bool := false
  deriving DecidableEq, Repr

/-- Where a thread is (R29, R114). -/
inductive Loc where
  | slot (pos n : Nat)
  | inbox (pos cls arr : Nat)
  | bin (vale b : Nat)
  | lane (w l : Nat)
  | cirque (die : Nat)
  | frame (vale f : Nat)
  | trapWait (vale : Nat)
  | svcWait (vale : Nat)
  | retry (vale : Nat)
  deriving DecidableEq, Repr

/-- Who called a service thread (R416). -/
structure SvcOrigin where
  unit : UnitId
  lane : Option Nat
  pos : Nat
  cls : Nat
  homeSlot : Bool
  ret : W64
  deriving DecidableEq, Repr

/-- A task: the position and the type of its message (R261), and the walk-queue entry of a walker task (R424). -/
structure TaskInfo where
  pos : Nat
  type : Nat
  walker : Bool
  deriving DecidableEq, Repr

/-- A spur or Summit thread, or the thread that a lane stands for (R25, R78, R121). `cls`: the class of slot that it waits for away from one.
`readyAt`: the f-count from which its slot is ready again (R75, R77). `entering`: it waits for a slot to start there, not to return (R115, R408).
`toHome`: it goes back into its home slot (R123, R417, R418, R433). -/
structure Thread where
  c : Common := {}
  tid : W64 := 0
  home : Option (Nat × Nat) := none
  loc : Loc := .cirque 0
  cls : Nat := 0
  slotn : Nat := 0
  regs : Vector W64 16 := Vector.replicate 16 0
  pc : W64 := 0
  npc : W64 := 0
  sup : Bool := false
  slotBit : Bool := false
  task : Option TaskInfo := none
  retpos : Option Nat := none
  sctx : Nat := 0
  phys : Bool := false
  sinfo : W64 := 0
  svc : Option SvcOrigin := none
  event : Bool := false
  from_ : Nat := 0
  readyAt : Nat := 0
  entering : Bool := false
  toHome : Bool := false
  deriving DecidableEq, Repr

/-- A queue entry: 64 lanes, and the lanes whose data have not arrived; `tag` names the access that fills
them and `hi` the high half of a 64-bit value (R63). -/
structure QEntry where
  vals : Lanes
  pend : Mask
  tag : Nat := 0
  hi : Bool := false
  deriving DecidableEq, Repr

/-- A stream register (R280). -/
structure Stream where
  step : W16 := 0
  pitch : W16 := 0
  cur : BitVec 18 := 0
  wrap : BitVec 18 := 0
  base : BitVec 18 := 0
  deriving DecidableEq, Repr

/-- A tile of accumulators (R272): mode, columns, elements by 64 · row + column, and the flags NV OF UF NX in FPST's order. -/
structure Tile where
  int : Bool
  wide : Bool
  elems : AList (BitVec 96)
  flags : BitVec 6
  deriving DecidableEq, Repr

/-- An entry of the divergence stack (R126); `since`: when the wait of its WAITR began (R130). The top of a stack is its head. -/
structure DivEntry where
  outer : Mask
  pend : Mask
  ppc : W64
  jpc : W64
  since : Option Nat := none
  deriving DecidableEq, Repr

/-- Lanes away on a service call, or back from it (`back`: the order of return): resume PC and the depth of their owner entry (R129,
R131). -/
structure SvcGroup where
  lanes : Mask
  pc : W64
  depth : Nat
  back : Option Nat := none
  deriving DecidableEq, Repr

/-- An A-slot that the access stream has passed and the compute stream has not executed (R61, R62). -/
structure LeadSlot where
  pc : W64
  ai : Instr
  exec : Mask
  words : W32 × W32
  deriving DecidableEq, Repr

/-- The spin detector of the current path (R133). -/
structure Spin where
  addr : Option W64 := none
  hash : W64 := 0
  prev : Option W64 := none
  count : Nat := 0
  deriving DecidableEq, Repr

/-- An issued matrix step with its sampled operands (R279, R299, R309). A rows, metadata and row scales are by lane; B is read from the
sampled slots when the step runs. `half`: the first step of an MMAX, which completes with its second. `order`: the order of issue on the
engine (R270). `kept`: kept through the loss of an engine (R309). -/
structure MatStep where
  tile : Nat
  fmtA : BitVec 4
  fmtB : BitVec 4
  active : Mask
  rows : List (List Nat)
  metadata : List (List Nat)
  sa : List (List Nat)
  slots : List Nat
  srcB : BitVec 2
  xvalB : BitVec 8
  half : Bool := false
  order : Nat := 0
  kept : Bool := false
  deriving DecidableEq, Repr

/-- How a wave came to be (R121, R350, R384). -/
inductive WaveKind where
  | launched | gathered | fragment
  deriving DecidableEq, Repr

/-- A wave (R25, R56, R126). `leaked`: trapped with ACC_LEAK at its final EXIT (R289). `ageC`, `ageA`: selections of its port for which its
access and its compute stream have been ready since they last issued; `started`: the order of its start there (R402). `trapDue`: the next A-slot of the
compute stream traps once the C-slot in flight has completed (R66). -/
structure Wave where
  c : Common := {}
  kind : WaveKind := .launched
  eng : Nat := 0
  slot : Nat := 0
  k : Vector W64 64 := Vector.replicate 64 0
  nv : Nat := 16
  v : AList Lanes := []
  m : Vector Mask 8 := Vector.replicate 8 0
  lq : AList (List QEntry) := []
  sq : AList (List QEntry) := []
  y : Vector Stream 8 := Vector.replicate 8 {}
  t : AList Tile := []
  apc : W64 := 0
  lead : List LeadSlot := []
  exec : Mask := 0
  live : Mask := 0
  absent : Mask := 0
  late : Mask := 0
  lateRun : Bool := false
  stack : List DivEntry := []
  groups : List SvcGroup := []
  lateGroups : List SvcGroup := []
  spin : Spin := {}
  lanes : AList Nat := []
  jeng : Nat := 0
  mfa : BitVec 4 := 2
  mfb : BitVec 4 := 2
  msa : BitVec 20 := 0x7F
  msb : BitVec 20 := 0x7F
  mring : BitVec 21 := 0
  steps : List MatStep := []
  computeWait : Bool := false
  leaked : Bool := false
  ageC : Nat := 0
  ageA : Nat := 0
  started : Nat := 0
  trapDue : Bool := false
  deriving DecidableEq, Repr

/-- A barrier (R391). -/
structure Bar where
  ph : W32 := 0
  arr : Nat := 0
  exp : Nat := 0
  zero : Bool := false
  deriving DecidableEq, Repr

/-- States of a Ridge block (R436). -/
inductive SwapSt where
  | res | prk | out | swp | rdy | inn
  deriving DecidableEq, Repr

/-- A block (R25, R271, R272, R379, R436). `area`: position, first unit and units of a spur block's run (R506). `bypassed`, `barring`: since
when others have been admitted before it, and that the limit of R383 has passed. -/
structure Block where
  ridge : Bool
  grid : Option Nat
  num : Nat
  bsize : Nat
  nv : Nat
  scr : Nat
  acc : Nat
  nb : Nat
  members : List UnitId
  bars : AList Bar := []
  bslots : AList (BitVec 8192) := []
  bscale : AList (BitVec 128) := []
  swap : SwapSt := .res
  parkTime : Option Nat := none
  eligible : Bool := false
  eng : Option Nat := none
  octet : Option Nat := none
  area : Option (Nat × Nat × Nat) := none
  die : Nat := 0
  away : Bool := false
  bypassed : Option Nat := none
  barring : Bool := false
  deriving DecidableEq, Repr

/-- What a read or write of the device's own waits for at a home: a walk for an address at a cache, or a fault-table token; `failed`: the
token was answered ERROR (R381, R429, R451). -/
structure PageWait where
  walk : Option (Nat × Nat) := none
  tok : Option Nat := none
  failed : Bool := false
  deriving DecidableEq, Repr

/-- A grid (R379 to R383). `restarts`: blocks that a world switch discarded, with the START at which they begin again (R438). -/
structure Grid where
  die : Nat
  serial : W32
  ctx : Nat
  entry : W64
  args : W64
  cpl : W64
  deps : List (W64 × W64)
  nblk : Nat
  bsize : Nat
  ridge : Bool
  regs : Nat
  scr : Nat
  acc : Nat
  prio : BitVec 2
  order : Bool
  fpctl : BitVec 6
  vmask : BitVec 24
  depth : Nat
  parent : Option Nat
  prev : Option Nat
  page : Option (Nat × Nat × W32)
  pool : Option Bool
  ready : Option Nat := none
  pollAt : Nat := 0
  admitted : Nat := 0
  restarts : List (Nat × W64) := []
  bypassed : Option Nat := none
  barring : Bool := false
  code : W32 := 0
  killed : Nat := 0
  tbegin : Option Nat := none
  pw : PageWait := {}
  deriving DecidableEq, Repr

/-- Kinds of copy job (R244). -/
inductive JobKind where
  | copy | tload | gath | scat
  deriving DecidableEq, Repr

/-- Where one byte of a destination word comes from: nothing is written, a byte, the low `n` bits of a byte and 0 above them, a
constant, or a byte of sparsity metadata (R249, R254, R256, R257). -/
inductive MoveSrc where
  | keep
  | byte (ea : W64)
  | low (ea : W64) (n : Nat)
  | const (x : Byte)
  | metadata (ea : W64)
  deriving DecidableEq, Repr

/-- One 8-byte move of a job; `stf`: an STF has filled the word since the submission (R250). -/
structure JobMove where
  dst : W64
  scratch : Bool
  srcScratch : Bool
  bytes : List MoveSrc
  written : Bool := false
  stf : Bool := false
  deriving DecidableEq, Repr

/-- A copy job (R245 to R256). Status: 0 PENDING, 1 DONE, 2 ERROR. `pos`: the submitter's core; `accepted`: the request phase of a
GATH is over, from when on it has an ID, and `order` its place in the order of acceptance; `waitWalk`: the cache and the address for which the job waits; `seen`: source
words read that another move still needs (R240). With status ERROR a job remains until each of its words is full (R252). -/
structure Job where
  eng : Nat
  id : Nat
  owner : UnitId
  ctx : Nat
  gen : W32
  func : Nat
  blk : Option Nat
  kind : JobKind
  moves : List JobMove
  running : Bool := false
  waitTok : Option Nat := none
  waitWalk : Option (Nat × Nat) := none
  status : Nat := 0
  pos : Nat := 0
  accepted : Bool := true
  order : Nat := 0
  seen : AList (List Byte) := []
  deriving DecidableEq, Repr

/-- A message (R259): destination position, eight words, and the context of its sender. -/
structure Msg where
  id : Nat
  pos : Nat
  words : List W64
  ctx : Nat
  deriving DecidableEq, Repr

/-- A waiter on a word at its home, oldest first: an LDSYNC lane (access and lane), or a parked SLEEP or LWAIT (R213, R399, R400). -/
structure Waiter where
  key : Nat
  unit : UnitId
  lane : Option (Nat × Nat)
  deriving DecidableEq, Repr

/-- A mailbox word (R267). -/
structure Mailbox where
  val : W64 := 0
  full : Bool := false
  deriving DecidableEq, Repr

/-- What enters a gatherer bin: a thread, or a fragment lane with its registers (R117, R350, R372). -/
inductive BinBody where
  | thread (u : Nat)
  | frag (v0 v16 v1 v2 v3 v4 : W32)
  deriving DecidableEq, Repr

structure BinEntry where
  key : Nat
  arrival : Nat
  body : BinBody
  deriving DecidableEq, Repr

/-- A bin of the Col gatherer (R117, R119). -/
structure Bin where
  target : W64
  tmpl : Nat
  ctx : Nat
  fpctl : BitVec 6
  frag : Bool
  nv : Nat
  scr : Nat
  entries : List BinEntry
  oldest : Nat
  closed : Option Nat := none
  deriving DecidableEq, Repr

/-- Per-Vale registers and queues. `record`: what Adentoth has recorded of CMAP's DEAD (R470); the positions of a Vale that goes offline for another
reason do not enter it. `parts`: the part of each bank, by first and last offset, that the partition configuration gives a function (R329, R439,
R479). -/
structure Vale where
  gwait : W32 := 2000
  spinLimit : W16 := 32
  tvec : W64 := 0
  svec : W64 := 0
  sbv : Bool := false
  sbp : BitVec 5 := 0
  sav : Bool := false
  sap : BitVec 5 := 0
  dead : W32 := 0
  record : W32 := 0
  hbper : W32 := 10000
  pmc : AList (BitVec 48) := []
  pmsel : AList (BitVec 24) := []
  pmov : W16 := 0
  dbga0 : W64 := 0
  dbga1 : W64 := 0
  dbgss : W64 := 0xFFFFFFFFFFFFFFFF
  dbgsw : BitVec 10 := 0
  ctgtb : W64 := 0
  ctTop : BitVec 6 := 0x3E
  ctNslot : BitVec 5 := 0
  trpl : AList (BitVec 25) := []
  sblk : BitVec 25 := 0
  templ : AList W16 := []
  bins : AList Bin := []
  binWait : List UnitId := []
  mail : AList Mailbox := []
  mailWait : List (Nat × UnitId) := []
  frames : AList UnitId := []
  traps : List TrapMsg := []
  offline : Bool := false
  func : Nat := 0
  other : Option Nat := none
  parts : AList (Nat × Nat) := []
  deriving DecidableEq, Repr

/-- A region of a core's protection unit: first and last offset in the bank, and what user code may do there (R31, R33; log entry 25). -/
structure ProtRegion where
  first : Nat
  last : Nat
  read : Bool
  write : Bool
  fetch : Bool
  deriving DecidableEq, Repr

/-- Per-position registers (R262, R411) and the position's condition (R468 to R470). `discards`: the tiles for which the Contour unit
has logged a discarded message (R346). `lastSlot`: the slot that issued last from each class (R76). `prot`: the regions of the core's protection
unit, at most 8 (R31, R33). `divider`: the f-count at which the core's divider is free (R77). `beat`, `beatAt`: the heartbeat word and when it last changed;
`beatFrom`: the time to which the ticks that count for it have been counted, later by each tick that does not (R469). `stuck`: the core has stopped
issuing, dead or not yet (R469). -/
structure Position where
  discards : List Nat := []
  cls : W16 := 0x9000
  ovBase : W64 := 0
  ovSlots : W32 := 0
  inbox : List Msg := []
  overflow : List Msg := []
  absent : Bool := false
  lastSlot : AList Nat := []
  divider : Nat := 0
  prot : List ProtRegion := []
  beat : W64 := 0
  beatAt : Nat := 0
  beatFrom : Nat := 0
  stuck : Bool := false
  serial : Nat := 0
  deriving DecidableEq, Repr

/-- A cached sector of a Ridge L1, or a COHERENT chunk of `span` bytes (R197, R201). `cls` is the page's CLASS, `st` its state S, E or M,
`way` the way of its line's set: from 12 on a way that the scratchpad lends (R196), `place` where a COHERENT chunk stands, by which its home's directory
knows it. -/
inductive SecSt where
  | s | e | m
  deriving DecidableEq, Repr

structure Sector where
  ctx : Nat
  va : Nat
  cls : Nat
  st : SecSt
  data : List Byte
  span : Nat := 32
  way : Nat := 0
  place : Nat := 0
  deriving DecidableEq, Repr

/-- A Ridge engine's cluster (R196, R242, R307 to R309). `offline`: it completes no further step; `leaving`: its Vale goes offline; `absent`: reported
absent, its last block having left (R309, R434). -/
structure Engine where
  offline : Bool := false
  leaving : Bool := false
  absent : Bool := false
  mcol : W64 := 0
  l1 : List Sector := []
  deriving DecidableEq, Repr

/-- A line of a metadata cache (R257). -/
structure MetaLine where
  ctx : Nat
  va : Nat
  data : List Byte
  deriving DecidableEq, Repr

/-- A line of a home cache, by its place (R23, R199). `fwd`: writes of it that the host or a peer has not acknowledged (R236). `owner`: the
function whose access filled it (R472). -/
structure HomeLine where
  place : Nat
  fwd : Nat := 0
  owner : Nat := 0
  deriving DecidableEq, Repr

/-- A PF under way: the Ridge engine whose L1 it fills, none for a home cache; space, context, position and address (R220). -/
structure Prefetch where
  eng : Option Nat
  space : Space
  ctx : Nat
  pos : Nat
  va : Nat
  deriving DecidableEq, Repr

/-- A copy engine (R245, R246, R257). -/
structure CopyEngine where
  nextId : Nat := 1
  history : List (Nat × Nat × UnitId) := []
  metadata : List MetaLine := []
  deriving DecidableEq, Repr

/-- Per-die registers (R382, R411) and controller counts (R386, R387). `ctxOp`, `wsOp`: the operation and context, and the value written, of
a CTXCTL or WSCTL that is BUSY; `queueLast`: the last grid of each launch queue. -/
structure Die where
  parklim : W32 := 8000
  ctxtb : W64 := 0
  swapb : W64 := 0
  wtype : BitVec 8 := 0xFE
  tdwait : W32 := 100000
  ctxOp : Option (Nat × Nat) := none
  ctxErr : Bool := false
  wsOp : Option W64 := none
  lqcfg : AList W16 := []
  serial : W32 := 1
  shared : Nat := 0
  reserved : AList Nat := []
  launchq : List UnitId := []
  queueLast : AList Nat := []
  deriving DecidableEq, Repr

/-- A region of a context (R423). -/
structure Region where
  base : Nat
  last : Nat
  dom : Nat
  hdie : Option Nat
  die : Nat
  vale : Nat
  deriving DecidableEq, Repr

/-- A context as LOAD read it (R419, R440). -/
structure Ctx where
  loaded : Bool := false
  root : W64 := 0
  rtab : W64 := 0
  func : Nat := 0
  ftype : BitVec 8 := 0
  svcpos : Nat := 0
  gen : W32 := 0
  idemt : W64 := 0
  idemn : Nat := 0
  regions : List Region := []
  teardown : Option Nat := none
  deriving DecidableEq, Repr

/-- A translation-cache entry (R426). Cache `none`: installed in every cache. -/
structure TcEntry where
  cache : Option Nat
  ctx : Nat
  gen : W32
  va : Nat
  size : Nat
  entry : W64
  deriving DecidableEq, Repr

/-- A walk-queue entry (R424). -/
structure Walk where
  die : Nat
  req : Nat
  ctx : Nat
  page : Nat
  gen : W32
  kinds : BitVec 4
  caches : List Nat
  stale : Bool := false
  started : Bool := false
  deriving DecidableEq, Repr

/-- A fault-table entry (R428). -/
structure FaultTab where
  die : Nat
  idx : Nat
  seq : Nat
  ctx : Nat
  page : Nat
  gen : W32
  kinds : BitVec 4
  va : W64
  sub : Bool
  src : Nat
  sent : Bool := false
  nextTry : Nat := 0
  deriving DecidableEq, Repr

/-- An open work record (R449). `done`: status and code of its completion, at the tick `fin`; `arr`: the order of acceptance;
`grid`: the grid that its LAUNCH record has made. -/
structure WorkRec where
  hseq : W32
  op : Nat
  lrec : W64
  user : W64
  started : Bool := false
  done : Option (Nat × W32) := none
  fin : Nat := 0
  arr : Nat := 0
  grid : Option Nat := none
  pw : PageWait := {}
  deriving DecidableEq, Repr

/-- A submission page (R447, R448). -/
structure Page where
  bound : Option (Nat × Nat × Nat) := none
  submitSeq : W32 := 0
  doneSeq : W32 := 0
  crbase : W64 := 0
  crlog2 : Nat := 0
  crhead : W32 := 0
  uiaddr : W64 := 0
  history : AList (List W64) := []
  opens : List WorkRec := []
  completions : List WorkRec := []
  deriving DecidableEq, Repr

/-- Per-function registers of BAR 2 and state (R437, R457, R465). `issuer`: the supervisor thread whose GSTOP halted the partition;
`quiet`: that halt is complete, and nothing of the partition goes on. -/
structure Func where
  elbase : W64 := 0
  ellog2 : Nat := 0
  elhead : W32 := 0
  eltail : W32 := 0
  ellost : W32 := 0
  hctx : Nat := 0
  hfwait : Nat := 20000
  halted : Bool := false
  issuer : Option UnitId := none
  quiet : Bool := false
  report : List Byte := []
  pages : AList Page := []
  deriving DecidableEq, Repr

/-- An error-log entry (R463). -/
structure LogEntry where
  time : Nat
  src : Nat
  cause : Nat
  func : Nat
  sev : Nat
  addr : W64
  detail : W64
  deriving DecidableEq, Repr

/-- A host or peer access held at its home by a walk, or by a fault, which then ends it at the tick `until_` (R457). -/
structure Remote where
  id : Nat
  func : Nat
  op : RemoteOp
  va : W64
  until_ : Option Nat
  peer : Option Nat
  pw : PageWait
  deriving DecidableEq, Repr

/-- Requests that a unit of the device has not served: a steal, with the victims not yet tried (R394), and the fragment lanes of one view that wait for bins, with the
lane of the access that they hold (R348, R350). -/
inductive Req where
  | steal (thief : UnitId) (victims : List UnitId) (dest : Reg6)
  | frags (vale ctx : Nat) (target : W64) (nv scr : Nat) (bodies : List BinBody) (holds : Option (Nat × Nat))
  deriving DecidableEq, Repr

/-- Adentoth (R476 to R479). STATE: 0 BOOT, 1 RUN, 2 RECOVERY, 3 HALTED. `hostLinks`: the host ports, 0 and 1, whose link is up (R14, R478). -/
structure Adentoth where
  st : Nat := 1
  reason : Nat := 0
  src : Nat := 0
  log : List LogEntry := []
  flash : List Byte := []
  window : List Byte := []
  keyHash : List Byte := []
  minSvn : Nat := 0
  svn : Nat := 0
  digest : List Byte := []
  aMHz : Nat := 850
  fMHz : Nat := 1700
  powerLimit : Nat := 2400
  hostLinks : BitVec 2 := 3
  deriving DecidableEq, Repr

/-- An interrupt to a function: vector 0 the error log (R465), 1 a counter overflow message with its source number, VSLOT and timestamp
(R474). -/
structure Irq where
  fn : Nat
  vec : Nat
  src : Nat := 0
  slot : Nat := 0
  time : Nat := 0
  deriving DecidableEq, Repr

/-- What the device answers to the host or to a peer: `dest`: the function, 16 + port for a peer, 32 + port for an error report of a host port; status 0 Successful Completion, 1 Unsupported
Request, 2 Completer Abort, 3 Request Retry Status, 4 UALink error completion, 5 uncorrectable non-fatal error, 6 uncorrectable fatal
error (R450, R457, R460, R478). -/
structure Answer where
  dest : Nat
  status : Nat
  data : List Byte := []
  deriving DecidableEq, Repr

/-- What a world switch saves of a Vale for one function (R439, R475): registers and queues of the Vale, its positions with their inboxes,
its view tables, and the bytes and empty words of the bank ranges that are saved. -/
structure ValeSave where
  vale : Vale
  positions : AList Position
  views : AList (List W32)
  cells : List Host.Cell
  empty : List Nat
  time : Nat
  deriving DecidableEq, Repr

/-- Who moves next: a unit by its own slot order, or one stream of a wave. -/
inductive Actor where
  | thread (u : Nat)
  | access (w : Nat)
  | compute (w : Nat)
  deriving DecidableEq, Repr

/-- A move that the agenda orders: a step of the device or of the host, one slot of a unit, or the passing of time; or what goes wrong in the chip: an
error in the word at a place of HBM or of a bank, in a home cache's copy or not, of one bit or of two (R466, R467), a core that stops issuing (R469), and a
host port's link that goes down or comes up (R478). -/
inductive Move where
  | event (i : Instr)
  | run (a : Actor)
  | pass (ticks : Nat)
  | upset (place : Nat) (double cache : Bool)
  | stop (pos : Nat)
  | link (port : Nat) (up : Bool)
  deriving DecidableEq, Repr

/-- The machine. `time`: the one timestamp of all dies and units, without skew (R39; log entry 91). `acount`, `fcount`: thousandths of an a-cycle and of an f-cycle since cold reset (R38). `homes`: the home caches by slice
(R23). `hostHeld`: the COHERENT chunks, by place, that caches of the host hold (R457). `turn`: the core or issue port that went last; `tried`: the
actors that could not execute their slot since the machine last went on.
`bad`, `soft`: words with an error that cannot be corrected, and with one that can; `cacheErr`: those of them whose error stands in the copy
of a home cache; `softLog`: page, tick and unlogged repetitions of a corrected error (R464, R466). -/
structure State where
  threads : AList Thread
  waves : AList Wave
  blocks : AList Block
  grids : AList Grid
  accesses : List Access
  jobs : AList Job
  waiters : List Waiter
  reqs : AList Req
  remotes : List Remote
  vales : AList Vale
  positions : AList Position
  engines : AList Engine
  copies : AList CopyEngine
  dies : AList Die
  ctxs : AList Ctx
  funcs : AList Func
  views : AList (List W32)
  tcs : List TcEntry
  walks : List Walk
  faults : List FaultTab
  faultSeq : AList Nat
  mem : List Host.Cell
  empty : List Nat
  bad : List Nat
  soft : List Nat
  cacheErr : List Nat
  softLog : List (Nat × Nat × Nat)
  peermap : AList W32
  pctx : AList Nat
  irqs : List Irq
  adentoth : Adentoth
  saves : AList ValeSave
  answers : List Answer
  time : Nat
  acount : Nat
  fcount : Nat
  homes : AList (List HomeLine)
  hostHeld : List Nat
  prefetches : List Prefetch
  turn : Nat
  tried : List Actor
  cur : Option UnitId
  agenda : List Move
  choices : List Nat
  fresh : Nat
  deriving DecidableEq, Repr

/-- The machine right after cold reset: no thread, wave, block, grid, access, job or message exists; every register has its reset
value, which an absent record stands for; memory lists nothing (every byte 0, every word full); Adentoth reports RUN (R476). -/
def State.reset : State :=
  { threads := [], waves := [], blocks := [], grids := [], accesses := [], jobs := [], waiters := [], reqs := [],
    remotes := [], vales := [], positions := [], engines := [], copies := [], dies := [], ctxs := [], funcs := [],
    views := [], tcs := [], walks := [], faults := [], faultSeq := [], mem := [], empty := [], bad := [], soft := [], cacheErr := [], softLog := [], peermap := [],
    pctx := [], irqs := [], adentoth := {}, saves := [], answers := [], time := 0, acount := 0, fcount := 0,
    homes := [], hostHeld := [], prefetches := [], turn := 0, tried := [], cur := none, agenda := [], choices := [], fresh := 1 }

end Sys2Proof.Machine
end

