-- ==== Sys2Proof/Machine/Units.lean ====
section
/-! DEFINITION. Reading and replacing the parts of the state: records by number (an absent record stands for its reset value),
registers with the ones that read as constants (R56), where a unit is and its source number (R16, R461), choices and free values. -/

namespace Sys2Proof.Machine

def State.thread (s : State) (i : Nat) : Thread := s.threads.getD i {}
def State.setThread (s : State) (i : Nat) (x : Thread) : State := { s with threads := s.threads.put i x }
def State.modThread (s : State) (i : Nat) (g : Thread → Thread) : State := s.setThread i (g (s.thread i))

def State.wave (s : State) (i : Nat) : Wave := s.waves.getD i {}
def State.setWave (s : State) (i : Nat) (x : Wave) : State := { s with waves := s.waves.put i x }
def State.modWave (s : State) (i : Nat) (g : Wave → Wave) : State := s.setWave i (g (s.wave i))

def State.block (s : State) (i : Nat) : Block := s.blocks.getD i { ridge := false, grid := none, num := 0, bsize := 1, nv := 16, scr := 0, acc := 0, nb := 0, members := [] }
def State.setBlock (s : State) (i : Nat) (x : Block) : State := { s with blocks := s.blocks.put i x }
def State.modBlock (s : State) (i : Nat) (g : Block → Block) : State := s.setBlock i (g (s.block i))

def State.grid (s : State) (i : Nat) : Grid := s.grids.getD i { die := 0, serial := 0, ctx := 0, entry := 0, args := 0, cpl := 0, deps := [], nblk := 0, bsize := 1, ridge := false, regs := 1, scr := 0, acc := 0, prio := 0, order := false, fpctl := 0, vmask := 0, depth := 0, parent := none, prev := none, page := none, pool := none }
def State.setGrid (s : State) (i : Nat) (x : Grid) : State := { s with grids := s.grids.put i x }
def State.modGrid (s : State) (i : Nat) (g : Grid → Grid) : State := s.setGrid i (g (s.grid i))

def State.vale (s : State) (i : Nat) : Vale := s.vales.getD i {}
def State.setVale (s : State) (i : Nat) (x : Vale) : State := { s with vales := s.vales.put i x }
def State.modVale (s : State) (i : Nat) (g : Vale → Vale) : State := s.setVale i (g (s.vale i))

def State.engine (s : State) (i : Nat) : Engine := s.engines.getD i {}
def State.setEngine (s : State) (i : Nat) (x : Engine) : State := { s with engines := s.engines.put i x }
def State.modEngine (s : State) (i : Nat) (g : Engine → Engine) : State := s.setEngine i (g (s.engine i))

def State.copyEng (s : State) (i : Nat) : CopyEngine := s.copies.getD i {}
def State.setCopyEng (s : State) (i : Nat) (x : CopyEngine) : State := { s with copies := s.copies.put i x }
def State.modCopyEng (s : State) (i : Nat) (g : CopyEngine → CopyEngine) : State := s.setCopyEng i (g (s.copyEng i))

def State.die (s : State) (i : Nat) : Die := s.dies.getD i {}
def State.setDie (s : State) (i : Nat) (x : Die) : State := { s with dies := s.dies.put i x }
def State.modDie (s : State) (i : Nat) (g : Die → Die) : State := s.setDie i (g (s.die i))

def State.ctx (s : State) (i : Nat) : Ctx := s.ctxs.getD i {}
def State.setCtx (s : State) (i : Nat) (x : Ctx) : State := { s with ctxs := s.ctxs.put i x }
def State.modCtx (s : State) (i : Nat) (g : Ctx → Ctx) : State := s.setCtx i (g (s.ctx i))

def State.func (s : State) (i : Nat) : Func := s.funcs.getD i {}
def State.setFunc (s : State) (i : Nat) (x : Func) : State := { s with funcs := s.funcs.put i x }
def State.modFunc (s : State) (i : Nat) (g : Func → Func) : State := s.setFunc i (g (s.func i))

/-- A position's registers: CORECFG of a Summit position resets to 0x00A0 (R411). -/
def State.position (s : State) (p : Nat) : Position :=
  (s.positions.find p).getD { cls := if p % 32 = 0 then 0x00A0 else 0x9000 }
def State.setPosition (s : State) (p : Nat) (x : Position) : State := { s with positions := s.positions.put p x }
def State.modPosition (s : State) (p : Nat) (g : Position → Position) : State := s.setPosition p (g (s.position p))

/-- The shared part of a unit. -/
def State.com (s : State) : UnitId → Common
  | .thread u => (s.thread u).c
  | .wave w => (s.wave w).c
def State.setCom (s : State) (u : UnitId) (c : Common) : State :=
  match u with
  | .thread i => s.modThread i (fun t => { t with c := c })
  | .wave i => s.modWave i (fun w => { w with c := c })
def State.modCom (s : State) (u : UnitId) (g : Common → Common) : State := s.setCom u (g (s.com u))
def State.setWait (s : State) (u : UnitId) (w : Wait) : State := s.modCom u (fun c => { c with wait := w })

/-- What a unit waits for beside a trap: an answer to it reaches a trapped unit too, and the wait goes on at RESUME (R418). -/
def Common.ownWait (c : Common) : Wait := if c.wait == .trap then c.under else c.wait
def Common.setOwnWait (c : Common) (w : Wait) : Common := if c.wait == .trap then { c with under := w } else { c with wait := w }
def State.ownWait (s : State) (u : UnitId) : Wait := (s.com u).ownWait
def State.setOwnWait (s : State) (u : UnitId) (w : Wait) : State := s.modCom u (fun c => c.setOwnWait w)

/-- Is the unit a wave of a Ridge engine? -/
def isRidge : UnitId → Bool
  | .thread _ => false
  | .wave _ => true

/-- Does the unit exist? -/
def State.unitExists (s : State) : UnitId → Bool
  | .thread u => (s.threads.find u).isSome
  | .wave w => (s.waves.find w).isSome

/-- Every unit. -/
def State.units (s : State) : List UnitId := s.threads.keys.map UnitId.thread ++ s.waves.keys.map UnitId.wave

/-- A number among `n` that the order of things leaves open: the head of `choices`, 0 where none is listed (log entry 1). -/
def State.choose (s : State) (n : Nat) : Nat × State :=
  match s.choices with
  | [] => (0, s)
  | c :: cs => (c % n, { s with choices := cs })

/-- A value the spec leaves open (log entry 2). -/
def State.free (s : State) : W64 × State := (Config.freeValue s.fresh, { s with fresh := s.fresh + 1 })

/-- A number that no record has had. -/
def State.newId (s : State) : Nat × State := (s.fresh, { s with fresh := s.fresh + 1 })

/-! ## Registers -/

/-- s0 reads 0 and discards writes (R56). -/
def Thread.reg (t : Thread) (n : Nat) : W64 := if n = 0 then 0 else t.regs.getD n 0
def Thread.setReg (t : Thread) (n : Nat) (x : W64) : Thread := if n = 0 then t else { t with regs := t.regs.setIfInBounds n x }

/-- k0 reads 0 and discards writes; m0 reads all ones and discards writes (R56). -/
def Wave.kreg (w : Wave) (n : Nat) : W64 := if n = 0 then 0 else w.k.getD n 0
def Wave.setK (w : Wave) (n : Nat) (x : W64) : Wave := if n = 0 then w else { w with k := w.k.setIfInBounds n x }
def Wave.mask (w : Wave) (n : Nat) : Mask := if n = 0 then BitVec.allOnes 64 else w.m.getD n 0
def Wave.setMask (w : Wave) (n : Nat) (x : Mask) : Wave := if n = 0 then w else { w with m := w.m.setIfInBounds n x }
def Wave.vreg (w : Wave) (n : Nat) : Lanes := w.v.getD n Lanes.zero
def Wave.setV (w : Wave) (n : Nat) (x : Lanes) : Wave := { w with v := w.v.put n x }
/-- Writes the lanes of a mask; the others keep their values (R171). -/
def Wave.setLanes (w : Wave) (n : Nat) (act : Mask) (f : Nat → W32) : Wave :=
  let old := w.vreg n
  w.setV n (Lanes.gen (fun l => if act.getLsbD l then f l else old.at l))

/-- Register `n` of a unit's D, A or B field (R45). -/
def State.reg (s : State) (u : UnitId) (n : Nat) : W64 :=
  match u with
  | .thread i => (s.thread i).reg n
  | .wave i => (s.wave i).kreg n
def State.setReg (s : State) (u : UnitId) (n : Nat) (x : W64) : State :=
  match u with
  | .thread i => s.modThread i (fun t => t.setReg n x)
  | .wave i => s.modWave i (fun w => w.setK n x)
/-- Registers `n`, `n + 1`, … take the listed values. -/
def State.setRegs (s : State) (u : UnitId) (n : Nat) : List W64 → State
  | [] => s
  | x :: t => (s.setReg u n x).setRegs u (n + 1) t

/-- A lane of a v-register. -/
def State.lreg (s : State) (w l n : Nat) : W32 := ((s.wave w).vreg n).at l

/-- An extension word as a sign-extended operand (R86). -/
def immOf (v : W32) : W64 := v.signExtend 64

/-! ## Where units are -/

/-- The position of a thread: its slot, the core whose inbox it waits in, or where it left its slot (R29, R433). -/
def Thread.pos (t : Thread) : Nat :=
  match t.loc with
  | .slot p _ => p
  | .inbox p _ _ => p
  | _ => t.c.parkedAt.getD ((t.home.map Prod.fst).getD 0)

/-- The position that stands beside a Ridge engine: the first of its octet (R20). -/
def enginePos (e : Nat) : Nat := e / 4 * 32 + e % 4 * 8

def State.unitPos (s : State) : UnitId → Nat
  | .thread u => (s.thread u).pos
  | .wave w => enginePos (s.wave w).eng
def State.unitVale (s : State) (u : UnitId) : Nat := s.unitPos u / 32
/-- The die of a unit, 0 to 3 in ring order, 24 Vales each (R12, R15). -/
def State.unitDie (s : State) (u : UnitId) : Nat := s.unitVale u / 24
def State.unitEng (s : State) : UnitId → Option Nat
  | .thread _ => none
  | .wave w => some (s.wave w).eng

/-- Is a Vale being switched away from a function (R439)? -/
def State.leavesVale (s : State) (fn v : Nat) : Bool :=
  match (s.die (v / 24)).wsOp with
  | some x => x.getLsbD (v % 24) && bitsOf x 27 24 == fn
  | none => false
/-- Is a function's partition halted on a Vale, by GSTOP or for a world switch (R437, R439)? -/
def State.stoppedOn (s : State) (fn v : Nat) : Bool := (s.func fn).halted || s.leavesVale fn v

/-- Mesh distance of two Vales of a die (R15). -/
def meshDistance (v w : Nat) : Nat :=
  let d (a b : Nat) : Nat := (a - b) + (b - a)
  d (v % 24 % 6) (w % 24 % 6) + d (v % 24 / 6) (w % 24 / 6)

/-- Is the position a Summit core's, an equipped position's (R17)? -/
def isSummit (p : Nat) : Bool := p % 32 == 0
def isEquipped (p : Nat) : Bool := p % 4 == 3

/-- Source numbers (R461): a unit of a position, and a die-level unit of Vale codes 24 to 31. -/
def srcNum (die vale pos unit : Nat) : Nat := die * 2 ^ 14 + vale * 2 ^ 9 + pos * 2 ^ 4 + unit
def srcOfPos (p unit : Nat) : Nat := srcNum (p / 768) (p / 32 % 24) (p % 32) unit
def State.unitSrc (s : State) (u : UnitId) : Nat :=
  match u with
  | .thread i => srcOfPos (s.thread i).pos 0
  | .wave i => let e := (s.wave i).eng; srcNum (e / 96) (e / 4 % 24) 0 (4 + e % 4)
def engineSrc (e : Nat) : Nat := srcNum (e / 96) (e / 4 % 24) 0 (4 + e % 4)
def adentothSrc : Nat := srcNum 0 31 31 15

/-- The context of a unit's accesses: SCTL.CTX in supervisor mode (R410). -/
def State.unitCtx (s : State) : UnitId → Nat
  | .thread u => let t := s.thread u; if t.sup then t.sctx else t.c.ctx
  | .wave w => (s.wave w).c.ctx
def State.ctxFunc (s : State) (c : Nat) : Nat := (s.ctx c).func
def State.unitFunc (s : State) (u : UnitId) : Nat := s.ctxFunc (s.unitCtx u)
def State.unitPhys (s : State) : UnitId → Bool
  | .thread u => let t := s.thread u; t.sup && t.phys
  | .wave _ => false

/-- Does a function's partition have a Vale, alone or time-sliced? One that is offline is reported absent (R19). -/
def State.ownVale (s : State) (fn v : Nat) : Bool :=
  decide (v < Config.vales) && !(s.vale v).offline && ((s.vale v).func == fn || (s.vale v).other == some fn)

/-- What a world switch has saved of a Vale for a function: reset values before the first (R439; log entry 74). -/
def State.savedVale (s : State) (v fn : Nat) : ValeSave :=
  s.saves.getD (v * 16 + fn) { vale := {}, positions := [], views := [], cells := [], empty := [], time := s.time }

/-- A Vale's registers of a function, which a world switch has put away where another function has the Vale now (R439). -/
def State.valeOf (s : State) (fn v : Nat) : Vale := if (s.vale v).func == fn then s.vale v else (s.savedVale v fn).vale

/-- Does a function hold a Vale, alone or time-sliced and switched in (R439, R479)? -/
def State.holdsVale (s : State) (fn v : Nat) : Bool := !(s.vale v).offline && (s.vale v).func == fn

/-- The DEAD bit of a position is set, and Adentoth records it (R467 to R470). -/
def Vale.kill (v : Vale) (p : Nat) : Vale :=
  let b : W32 := BitVec.ofNat 32 (2 ^ p)
  { v with dead := v.dead ||| b, record := v.record ||| b }

/-- A position is dead while its DEAD bit of CMAP is set (R115, R470). -/
def State.posDead (s : State) (p : Nat) : Bool := (s.vale (p / 32)).dead.getLsbD (p % 32) || (s.position p).absent

/-! ## Slots (R76, R114) -/

/-- Slots of a position (R17). -/
def slotsOf (p : Nat) : Nat := if isSummit p then 4 else 8

/-- The class of a slot (R411). -/
def State.slotClass (s : State) (p n : Nat) : Nat := ((s.position p).cls >>> (2 * n)).toNat % 4

/-- Does a thread hold the slot, or have it as a home slot while it is away (R114)? -/
def holdsSlot (t : Thread) (p n : Nat) : Bool :=
  !t.c.away && ((match t.loc with | .slot q m => q == p && m == n | _ => false) || t.home == some (p, n))
def State.slotFree (s : State) (p n : Nat) : Bool := !s.threads.any (fun e => holdsSlot e.2 p n)
def State.freeSlots (s : State) (p : Nat) (cls : Nat) : List Nat :=
  (List.range (slotsOf p)).filter (fun n => s.slotClass p n == cls && s.slotFree p n)

/-- Does a spur block's thread borrow its slot, slot 6 or 7 of a spur core (R403)? -/
def Thread.borrows (t : Thread) : Bool :=
  t.c.block.isSome && (match t.loc with | .slot p n => t.home == some (p, n) && !isSummit p && decide (6 ≤ n) | _ => false)

/-- The class at which a thread's slot issues: that of the slot, 0 for a borrowed one (R76, R403). -/
def State.issueClass (s : State) (t : Thread) : Nat :=
  match t.loc with
  | .slot p n => if t.borrows then 0 else s.slotClass p n
  | _ => t.cls

/-- Does a thread stand in its home slot? -/
def Thread.atHome (t : Thread) : Bool := match t.loc with | .slot p n => t.home == some (p, n) | _ => false

/-- The thread in a slot. -/
def State.inSlot (s : State) (p n : Nat) : Option Nat :=
  (s.threads.find? (fun e => !e.2.c.away && (match e.2.loc with | .slot q m => q == p && m == n | _ => false))).map Prod.fst

/-- The threads that wait in a core's inbox for a slot of a class, by order of arrival: to return there, or to start there (`entering`;
R115, R408). -/
def State.inboxThreads (s : State) (p cls : Nat) (entering : Bool) : List (Nat × Nat) :=
  s.threads.filterMap (fun e => match e.2.loc with
    | .inbox q c a => if q = p ∧ c = cls ∧ e.2.c.away = false ∧ e.2.entering = entering then some (a, e.1) else none
    | _ => none)

/-- The least first component. -/
def firstOf : List (Nat × Nat) → Option (Nat × Nat)
  | [] => none
  | x :: t => match firstOf t with
    | none => some x
    | some y => if y.1 < x.1 then some y else some x

/-- Puts a thread into a slot: SSTAT's CLASS, SLOTN and SUP follow (R79, R408); a new thread of
the core takes it as its home slot (R114). -/
def State.placeThread (s : State) (u p n cls : Nat) : State :=
  s.modThread u (fun t => { t with
    home := if t.home.isNone && t.tid != 0 && t.tid.toNat / 2 ^ 52 == p then some (p, n) else t.home
    loc := .slot p n, cls := cls, slotn := n, sup := isSummit p, event := false, entering := false, toHome := false, c := { t.c with parkedAt := none } })

/-- A thread takes a slot of a core: its home slot where it returns to that, else a free one of a class; none on a dead core, or where there is
none (R115, R123, R417, R433, R468). -/
def State.takeSlot (s : State) (u p cls : Nat) : Option State :=
  let t := s.thread u
  if s.posDead p then none
  else match t.toHome, t.home with
    | true, some (q, n) => if q = p then some (s.placeThread u p n cls) else none
    | _, _ => (s.freeSlots p cls).head?.map (fun n => s.placeThread u p n cls)

/-- The next TID of a core (R78). DESIGN CHOICE: the first serial number of a core is 1 (log entry 20). -/
def State.newTid (s : State) (p : Nat) : W64 × State :=
  let n := (s.position p).serial + 1
  (BitVec.ofNat 64 (p * 2 ^ 52 + n), s.modPosition p (fun q => { q with serial := n }))

end Sys2Proof.Machine
end

