-- ==== Sys2Proof/Machine/Memory.lean ====
section
/-! DEFINITION. Memory as one canonical list of bytes (HBM, Plateau banks, scratchpads, host and peer memory), full-empty bits
(R212), homes (R31 to R35) and translation (R419 to R424). -/

namespace Sys2Proof.Machine

/-! ## Bytes -/

/-- What an address that memory does not list reads as (log entry 3). -/
def unlisted : Byte := 0

def memFind : List Host.Cell → Nat → Byte
  | [], _ => unlisted
  | (c, x) :: t, a => if c = a then x else memFind t a

/-- Writes one byte and keeps the canonical form: addresses strictly rise, and no entry holds what an unlisted address reads as. -/
def memPut : List Host.Cell → Nat → Byte → List Host.Cell
  | [], a, b => if b = unlisted then [] else [(a, b)]
  | (c, x) :: t, a, b =>
    if a < c then (if b = unlisted then (c, x) :: t else (a, b) :: (c, x) :: t)
    else if a = c then (if b = unlisted then t else (a, b) :: t)
    else (c, x) :: memPut t a b

/-- Every address of the list is above `a`, and the list is canonical. -/
def memAbove : Nat → List Host.Cell → Bool
  | _, [] => true
  | a, (c, x) :: t => decide (a < c) && x != unlisted && memAbove c t

/-- The canonical form. -/
def Memory.wf : List Host.Cell → Bool
  | [] => true
  | (c, x) :: t => x != unlisted && memAbove c t

/-! ## Places

A place is a number: an HBM physical address; 2^48 + 2^18 · position + offset in a Plateau bank; 2^64 + a host address;
2^65 + 2^50 · (1,024 · port + accelerator ID) + a peer address; 2^80 + 2^20 · block + a scratchpad offset. -/

def bankPlace (pos off : Nat) : Nat := 2 ^ 48 + pos * 2 ^ 18 + off % 2 ^ 18
def hostPlace (a : Nat) : Nat := 2 ^ 64 + a
/-- A place at a peer, by the port and the accelerator ID of its PEERMAP entry (R460). -/
def peerPlace (entry : W32) (a : Nat) : Nat := 2 ^ 65 + (bitsOf entry 2 0 * 1024 + bitsOf entry 25 16) * 2 ^ 50 + a
def scratchPlace (blk off : Nat) : Nat := 2 ^ 80 + blk * 2 ^ 20 + off

/-- Is the place in a Plateau bank, and in which? -/
def placeBank (a : Nat) : Option Nat := if 2 ^ 48 ≤ a ∧ a < 2 ^ 49 then some ((a - 2 ^ 48) / 2 ^ 18) else none

/-- One byte of memory: the model's read. -/
def State.byteAt (s : State) (a : Nat) : Byte := memFind s.mem a

/-- The bits of a byte that a store may change: all, but for the vector table's RUN, WAITN, PEND and reserved bits (R260). -/
def storeMask (a : Nat) : Byte :=
  match placeBank a with
  | some _ =>
    if 0x3F000 ≤ a % 2 ^ 18 then
      match a % 16 with
      | 0 => 0x3D | 1 | 2 | 3 | 4 => 0 | 6 | 7 => 0 | 8 => 0xF8 | _ => 0xFF
    else 0xFF
  | none => 0xFF

def State.rawPut (s : State) (a : Nat) (b : Byte) : State := { s with mem := memPut s.mem a b }
def State.putByte (s : State) (a : Nat) (b : Byte) : State :=
  let m := storeMask a
  s.rawPut a ((s.byteAt a &&& ~~~m) ||| (b &&& m))

/-- Bytes from place `a`, lowest first. -/
def State.bytes (s : State) (a : Nat) : Nat → List Byte
  | 0 => []
  | n + 1 => s.byteAt a :: s.bytes (a + 1) n
def State.putBytes (s : State) (a : Nat) : List Byte → State
  | [] => s
  | b :: t => (s.putByte a b).putBytes (a + 1) t
def State.rawPutBytes (s : State) (a : Nat) : List Byte → State
  | [] => s
  | b :: t => (s.rawPut a b).rawPutBytes (a + 1) t

/-- A little-endian number of `n` bytes (R4). -/
def State.rd (s : State) (a n : Nat) : Nat := ofBytesLE (s.bytes a n)
def State.wr (s : State) (a n : Nat) (x : Nat) : State := s.putBytes a (bytesLE n x)

/-! ## Full-empty bits and bad words -/

/-- The aligned 8-byte word that holds a byte. -/
def wordOf (a : Nat) : Nat := a / 8 * 8

def sortedAdd (a : Nat) : List Nat → List Nat
  | [] => [a]
  | b :: t => if a < b then a :: b :: t else if a = b then b :: t else b :: sortedAdd a t

def State.wordEmpty (s : State) (a : Nat) : Bool := s.empty.contains (wordOf a)
def State.fillWord (s : State) (a : Nat) : State := { s with empty := s.empty.filter (· != wordOf a) }
def State.emptyWord (s : State) (a : Nat) : State := { s with empty := sortedAdd (wordOf a) s.empty }

/-- The unit of error protection: 4 bytes of a bank, 8 bytes elsewhere (R466, R467). -/
def eccUnit (a : Nat) : Nat := if (placeBank a).isSome then a / 4 * 4 else a / 8 * 8
/-- Does a read of `n` bytes touch a bad word? -/
def State.badRead (s : State) (a n : Nat) : Bool := s.bad.any (fun b => decide (b < a + n) && decide (a < b + (if (placeBank b).isSome then 4 else 8)))
/-- A write renews the words it covers: those that cannot be corrected where it touches them, and a single-bit error of a word that it writes whole
(R466, R470). -/
def State.clearBad (s : State) (a n : Nat) : State :=
  let bad := s.bad.filter (fun b => !(decide (b < a + n) && decide (a < b + (if (placeBank b).isSome then 4 else 8))))
  let soft := s.soft.filter (fun b => !(decide (a ≤ b) && decide (b + 8 ≤ a + n)))
  { s with bad := bad, soft := soft, cacheErr := s.cacheErr.filter (fun b => bad.contains b || soft.contains b) }

/-! ## Homes -/

/-- The home of an access: a bank, a home slice, a scratchpad (R31 to R35, R195). -/
inductive Home where
  | bank (p : Nat)
  | slice (h : Nat)
  | scratch (b : Nat)
  deriving DecidableEq, Repr

/-- The entry of the region table that covers an address: the lowest-numbered (R423). -/
def State.regionOf (s : State) (c va : Nat) : Option Region :=
  (s.ctx c).regions.find? (fun r => decide (r.base ≤ va / 2 ^ 16) && decide (va / 2 ^ 16 ≤ r.last))

/-- DOM of an address: 0 VALE, 1 DIE, 2 PACKAGE, 3 SYSTEM; PACKAGE where no entry covers it (R423). -/
def State.domOf (s : State) (c va : Nat) : Nat := ((s.regionOf c va).map Region.dom).getD 2

/-- HashSlice of R68: over the package or over one die (R35). -/
def State.sliceOf (s : State) (c va : Nat) : Nat :=
  match (s.regionOf c va).bind Region.hdie with
  | some d => d * 48 + Config.homeHash (va / 512) % 48
  | none => Config.homeHash (va / 512) % 192

def inLocal (va : Nat) : Bool := decide (Config.localBase ≤ va) && decide (va < Config.plateauBase)
def inPlateau (va : Nat) : Bool := decide (Config.plateauBase ≤ va) && decide (va < 2 ^ 55)

/-- The global position that a Plateau-window address names (R32); the Vale field is below 24. -/
def windowPos (va : Nat) : Nat :=
  let x := va - Config.plateauBase
  x / 2 ^ 28 % 4 * 768 + x / 2 ^ 23 % 32 * 32 + x / 2 ^ 18 % 32

/-- The Plateau-window address of a bank's byte (R32). -/
def windowAddr (p off : Nat) : Nat :=
  Config.plateauBase + p / 768 * 2 ^ 28 + p / 32 % 24 * 2 ^ 23 + p % 32 * 2 ^ 18 + off

def State.homeOf (s : State) (sp : Space) (c pos va : Nat) : Home :=
  match sp with
  | .scratch b => .scratch b
  | _ =>
    if inLocal va then .bank pos
    else if inPlateau va then .bank (windowPos va)
    else if sp = .phys then .slice (va % 2 ^ 48 / 2 ^ 36 / 3 % 4 * 48 + Config.physHash (va % 2 ^ 48) % 48)
    else .slice (s.sliceOf c va)

/-! ## Home caches (R23, R199, R236)

The data of a cached line stand in memory, as every write does; the state holds which lines a slice's cache of 2 MiB has, the most recent
first (log entry 83). -/

def homeLines : Nat := 4096

/-- Is the place one that home slices cache: HBM, or host or peer memory? -/
def homed (place : Nat) : Bool := decide (place < 2 ^ 48) || (decide (2 ^ 64 ≤ place) && decide (place < 2 ^ 80))

def State.homeCache (s : State) (h : Nat) : List HomeLine := s.homes.getD h []

/-- A slice's cache with one line too many drops the line used least recently that waits for no acknowledgement. -/
def dropIdle (ls : List HomeLine) : List HomeLine :=
  if ls.length ≤ homeLines then ls else (ls.reverse.eraseP (fun x => x.fwd == 0)).reverse

/-- Can a slice's cache hold the line of a place: it does, or a line is free or waits for no acknowledgement (R22, R236)? -/
def State.homeRoom (s : State) (h place : Nat) : Bool :=
  let ls := s.homeCache h
  decide (ls.length < homeLines) || ls.any (fun x => x.place == place / 512 * 512 || x.fwd == 0)

/-- The home caches that hold a line of the place. -/
def State.homesOf (s : State) (place : Nat) : List Nat :=
  s.homes.filterMap (fun e => if e.2.any (fun x => x.place == place / 512 * 512) then some e.1 else none)

/-- A forwarded write of a line has been acknowledged. -/
def State.homeAcked (s : State) (place : Nat) : State :=
  { s with homes := s.homes.map (fun e => (e.1, e.2.map (fun x => if x.place == place / 512 * 512 then { x with fwd := x.fwd - 1 } else x))) }

/-! ## Translation -/

/-- Translation caches: home slices 0 to 191, Vale interfaces 192 to 287 (R23, R32). -/
def cacheDie (c : Nat) : Nat := if c < 192 then c / 48 else (c - 192) / 24

/-- The outcome of R422 for one access: its place, class (0 PRIVATE, 1 READONLY, 2 HOMED, 3 COHERENT) and grain in bytes; a fault
of the entry; an error response; or a miss in a translation cache. -/
inductive XRes where
  | ok (place cls grain : Nat)
  | fault (sub : Bool)
  | error
  | miss (cache : Nat)
  deriving DecidableEq, Repr

def sizeLog (n : Nat) : Nat := match n with | 0 => 16 | 1 => 21 | 2 => 29 | _ => 31

/-- Is a GEN the context's? While a teardown drains, the one before it still is (R440). -/
def Ctx.accepts (x : Ctx) (g : W32) : Bool := x.gen == g || (x.teardown.isSome && x.gen == g + 1)

/-- The cache entry that covers an address, if its GEN is the context's (R426). -/
def State.tcFind (s : State) (cache c va : Nat) : Option TcEntry :=
  s.tcs.find? (fun e => decide (e.ctx = c) && e.va / 2 ^ e.size == va / 2 ^ e.size && (s.ctx c).accepts e.gen
    && (match e.cache with | none => true | some k => k == cache))

/-- Permission of R422: 0 read, 1 write, 2 fetch, 3 atomic or HIST. -/
def permOk (entry : W64) (kind : Nat) : Bool :=
  let r := entry.getLsbD 54
  let w := entry.getLsbD 53
  let readonly := bitsOf entry 61 60 == 1
  match kind with
  | 0 => r
  | 1 => w && !readonly
  | 2 => entry.getLsbD 52
  | _ => r && w && !readonly

/-- Is the position's Vale held by the function, and the position live (R32, R468)? -/
def State.bankReach (s : State) (fn p : Nat) : Bool := s.holdsVale fn (p / 32) && !s.posDead p

/-- The walk of R422 through a cached entry. -/
def leafAccess (s : State) (entry : W64) (size kind va : Nat) : XRes :=
  if !entry.getLsbD 63 then .fault false
  else if size == 16 && !entry.getLsbD (va / 2 ^ 12 % 16) then .fault true
  else if !permOk entry kind then .error
  else if inPlateau va then .ok (bankPlace (windowPos va) va) 2 32
  else
    let pa := bitsOf entry 47 16 * 2 ^ 16 / 2 ^ size * 2 ^ size + va % 2 ^ size
    let cls := bitsOf entry 61 60
    let grain := 32 * 4 ^ (bitsOf entry 59 58)
    match bitsOf entry 57 56 with
    | 0 => if pa < 0xC000000000 then .ok pa cls grain else .error
    | 1 => .ok (hostPlace pa) cls grain
    | 2 =>
      let p := s.peermap.getD (bitsOf entry 51 48) 0
      if p.getLsbD 31 then .ok (peerPlace p pa) cls grain else .error
    | _ => .error

/-- Translation at the home (R36, R410, R422). `pos` is the issuing core's position, for the local window; a context that is not
loaded, or whose GEN has moved on, gives an error (R440, R441). Two aliases of one place reach one memory, whatever their classes
(R199; log entry 93). -/
def xlat (s : State) (sp : Space) (c : Nat) (gen : W32) (pos kind va : Nat) : XRes :=
  match sp with
  | .scratch b => .ok (scratchPlace b va) 2 32
  | _ =>
    if inLocal va then .ok (bankPlace pos (va - Config.localBase)) 2 32
    else if sp = .phys && !inPlateau va then
      (if va % 2 ^ 48 < 0xC000000000 then .ok (va % 2 ^ 48) 2 32 else .error)
    else if !(s.ctx c).loaded || !(s.ctx c).accepts gen then .error
    else if inPlateau va && !s.bankReach (s.ctxFunc c) (windowPos va) then .error
    else
      let cache := if inPlateau va then 192 + windowPos va / 32 else s.sliceOf c va
      match s.tcFind cache c va with
      | some e => leafAccess s e.entry e.size kind va
      | none => .miss cache

/-- A hit makes its entry the most recently used of its cache (R426; log entry 82): the list has the most recent entry first. -/
def State.useEntry (s : State) (sp : Space) (c va : Nat) : State :=
  if inLocal va || (sp != .virt && !(sp == .phys && inPlateau va)) then s
  else
    match s.tcFind (if inPlateau va then 192 + windowPos va / 32 else s.sliceOf c va) c va with
    | some e => { s with tcs := e :: s.tcs.filter (fun x => x != e) }
    | none => s

/-- A cache holds 4,096 entries, the most recently used (R426). -/
def keepRecent (cache : Nat) : Nat → List TcEntry → List TcEntry
  | _, [] => []
  | n, e :: t =>
    if e.cache = some cache then (match n with
      | 0 => keepRecent cache 0 t
      | m + 1 => e :: keepRecent cache m t)
    else e :: keepRecent cache n t

/-- Is the address beyond those that may be sent (check 1 of R205)? -/
def addrBad (ridge : Bool) (a : W64) : Bool :=
  decide (2 ^ 55 ≤ a.toNat) || (inPlateau a.toNat && decide (24 ≤ (a.toNat - Config.plateauBase) / 2 ^ 23 % 32))
  || (ridge && inLocal a.toNat)

end Sys2Proof.Machine
end

