-- ==== Sys2Proof/Machine/Inbox.lean ====
section
/-! DEFINITION. The error log (R463 to R465), the halt of the package (R478), and messages reaching an inbox (R259 to R262). -/

namespace Sys2Proof.Machine

/-- The halt of R478: every die stops; the reason and the source stand in ADMSTAT, and every host port whose link is up reports an uncorrectable fatal
error. -/
def State.haltPackage (s : State) (reason src : Nat) : State :=
  { s with
    adentoth := { s.adentoth with st := 3, reason := reason, src := src }
    answers := s.answers ++ ((List.range 2).filter s.adentoth.hostLinks.getLsbD).map (fun p => { dest := 32 + p, status := 6 }) }

/-- The 32 bytes of an error-log entry (R463). -/
def LogEntry.bytes (e : LogEntry) : List Byte :=
  bytesLE 8 e.time ++ bytesLE 8 (e.src + e.cause * 2 ^ 16 + e.func * 2 ^ 24 + e.sev * 2 ^ 28)
    ++ bytesLE 8 e.addr.toNat ++ bytesLE 8 e.detail.toNat

/-- The function whose ring takes an entry: its own, or the physical function where it has SEV 2 (R465). -/
def LogEntry.ring (e : LogEntry) : Nat := if e.sev = 2 then 0 else e.func

/-- An entry in its ring, and the log interrupt of that function (R465); a ring whose LOG2 is not 6 to 16 is not configured and
takes nothing (log entry 8). -/
def State.ringEntry (s : State) (e : LogEntry) : State :=
  let f := s.func e.ring
  if f.ellog2 < 6 ∨ 16 < f.ellog2 then s
  else if (f.elhead - f.eltail).toNat = 2 ^ f.ellog2 then s.setFunc e.ring { f with ellost := f.ellost + 1 }
  else
    let a := hostPlace (f.elbase.toNat + 32 * (f.elhead.toNat % 2 ^ f.ellog2))
    let s := (s.rawPutBytes a e.bytes).setFunc e.ring { f with elhead := f.elhead + 1 }
    { s with irqs := s.irqs ++ [{ fn := e.ring, vec := 0, src := e.src, time := e.time }] }

/-- Records an error: Adentoth keeps every entry (the last 65,536) with its FUNC, and its ring takes it; one of SEV 2 then halts the package, which
writes no ring entry from then on (R463, R465, R478; log entry 112). -/
def State.logError (s : State) (cause src fn sev : Nat) (addr detail : W64) : State :=
  let e : LogEntry := ⟨s.time, src, cause, fn, sev, addr, detail⟩
  let old := s.adentoth.log
  let s := { s with adentoth := { s.adentoth with log := (if 65536 ≤ old.length then old.drop 1 else old) ++ [e] } }
  if s.adentoth.st ≠ 1 then s
  else if sev = 2 then (s.ringEntry e).haltPackage 0x11 src
  else s.ringEntry e

/-- Source number of the controller of the HBM stack that holds an address (R461). -/
def hbmSrc (place : Nat) : Nat := srcNum (place / 2 ^ 36 / 3 % 4) 29 (place / 2 ^ 36 % 3) 12

/-- The source number of a home: a home slice at stop `s` as 2s + i (R461), or a Vale interface. -/
def cacheSrc (cache : Nat) : Nat :=
  if cache < 192 then
    let i := cache % 48
    srcNum (cache / 48) (24 + i / 2 / 16) (i / 2 % 16 * 2 + i % 2) 11
  else srcNum ((cache - 192) / 24) ((cache - 192) % 24) 0 10

/-- A corrected single-bit error is logged, at most one for a 64 KiB page in 10^9 ticks; the others are counted (R466). -/
def State.logCorrectedAs (s : State) (cause src b fn : Nat) : State :=
  let page := b / 2 ^ 16
  if s.softLog.any (fun e => e.1 == page && decide (s.time < e.2.1 + 10 ^ 9)) then
    { s with softLog := s.softLog.map (fun e => if e.1 == page then (e.1, e.2.1, e.2.2 + 1) else e) }
  else ({ s with softLog := (page, s.time, 0) :: s.softLog.filter (fun e => e.1 != page) }).logError cause src fn 0 (BitVec.ofNat 64 b) 0

/-- The home caches in whose copy a word has its error; none where the error stands in HBM (R464; log entry 83). -/
def State.errorIn (s : State) (b : Nat) : List Nat := if s.cacheErr.contains b then s.homesOf b else []

/-- A corrected word is logged as the home cache's in whose copy it stood, else as its HBM controller's (R464, R466). -/
def State.logCorrected (s : State) (b fn : Nat) : State :=
  match s.errorIn b with
  | h :: _ => s.logCorrectedAs 0x0C (cacheSrc h) b fn
  | [] => s.logCorrectedAs 0x0A (hbmSrc b) b fn

/-- An uncorrectable word is logged in the same way, at every read of it (R464, R466). -/
def State.logUncorrected (s : State) (b fn : Nat) : State :=
  match s.errorIn b with
  | h :: _ => s.logError 0x0D (cacheSrc h) fn 1 (BitVec.ofNat 64 b) 0
  | [] => s.logError 0x0B (hbmSrc b) fn 1 (BitVec.ofNat 64 b) 0

/-- A read of `n` bytes corrects the single-bit error of a word that it touches (R466). -/
def State.correct (s : State) (place n fn : Nat) : State :=
  match s.soft.find? (fun b => decide (b < place + n) && decide (place < b + 8)) with
  | none => s
  | some b =>
    let t := ({ s with soft := s.soft.filter (· != b) }).logCorrected b fn
    { t with cacheErr := t.cacheErr.filter (· != b) }

/-- The errors of `n` words that the device itself reads, for the physical function (R466). -/
def State.readErrors (s : State) (a n : Nat) : State :=
  (List.range n).foldl (fun s i => if s.badRead (a + 8 * i) 8 then s.logUncorrected (a + 8 * i) 0 else s.correct (a + 8 * i) 8 0) s

/-! ## The vector table (R260) -/

structure VecEntry where
  en : Bool
  prio : Nat
  cls : Nat
  limit : Nat
  run : Nat
  handler : W64
  deriving DecidableEq, Repr

def vecPlace (p ty : Nat) : Nat := bankPlace p (0x3F000 + 16 * (ty % 256))

/-- A vector-table entry as the core reads it; CLASS 3 disables, and a LIMIT above 8 acts as 8 (R260, R261). -/
def State.vec (s : State) (p ty : Nat) : VecEntry :=
  let a := vecPlace p ty
  let b0 := (s.byteAt a).toNat
  let cls := b0 / 4 % 4
  { en := b0 % 2 == 1 && cls != 3, prio := b0 / 16 % 4, cls := cls, limit := min (s.byteAt (a + 5)).toNat 8,
    run := (s.byteAt (a + 4)).toNat, handler := BitVec.ofNat 64 (s.rd (a + 8) 8) }

/-- The core keeps RUN. -/
def State.setRun (s : State) (p ty n : Nat) : State := s.rawPut (vecPlace p ty + 4) (BitVec.ofNat 8 n)

def Msg.type (m : Msg) : Nat := (m.words.getD 0 0).toNat % 256
def Msg.kind (m : Msg) : Nat := (m.words.getD 0 0).toNat / 2 ^ 16 % 16
def Msg.bytes (m : Msg) : List Byte := m.words.flatMap (fun w => bytesLE 8 w.toNat)

/-- Word 0 of a message (R259). -/
def msgHead (kind nw ty : Nat) : W64 := BitVec.ofNat 64 (2 ^ 63 + kind % 16 * 2 ^ 16 + nw % 256 * 2 ^ 8 + ty % 256)

/-- The core keeps WAITN and PEND of a type, and the bytes of the inbox and of its overflow region, where the messages stand in
arrival order from the lowest place (log entry 9). -/
def State.syncInbox (s : State) (p ty : Nat) : State :=
  let q := s.position p
  let n := ((q.inbox ++ q.overflow).filter (fun m => m.type == ty % 256)).length
  let a := vecPlace p ty
  let s := s.rawPutBytes (a + 2) (bytesLE 2 n)
  let b0 := s.byteAt a &&& 0xFD
  let s := s.rawPut a (if n = 0 then b0 else b0 ||| 2)
  let s := s.rawPutBytes (bankPlace p 0x3E000) (q.inbox.flatMap Msg.bytes)
  if q.inbox.length < 64 then s.rawPutBytes (bankPlace p (0x3E000 + 64 * q.inbox.length)) (bytesLE 8 0) else s

/-- Overflow messages in their region, each at the place its address translates to in its own context (log entry 10). -/
def State.syncOverflow (s : State) (p base i : Nat) : List Msg → State
  | [] => s
  | m :: t =>
    (match xlat s .virt m.ctx (s.ctx m.ctx).gen p 1 (base + 64 * i) with
      | .ok a _ _ => s.rawPutBytes a m.bytes
      | _ => s).syncOverflow p base (i + 1) t

/-- A message with the 64 bytes that stand at a place. -/
def State.msgAt (s : State) (m : Msg) (place : Nat) : Msg :=
  { m with words := (List.range 8).map (fun i => BitVec.ofNat 64 (s.rd (place + 8 * i) 8)) }

/-- The messages of an inbox, as they stand in the bank (R259). -/
def State.inboxMsgs (s : State) (p : Nat) : List Msg :=
  (s.position p).inbox.zipIdx.map (fun e => s.msgAt e.1 (bankPlace p (0x3E000 + 64 * e.2)))

/-- The messages of an overflow region, as they are read from there (R261); one whose address has no translation stands as it came (log entry 10). -/
def State.overflowMsgs (s : State) (p : Nat) : List Msg :=
  (s.position p).overflow.zipIdx.map (fun e =>
    match xlat s .virt e.1.ctx (s.ctx e.1.ctx).gen p 0 ((s.position p).ovBase.toNat + 64 * e.2) with
    | .ok a _ _ => s.msgAt e.1 a
    | _ => e.1)

/-- The messages that wait at a position, oldest first: those in the inbox, then those in the overflow region. -/
def State.waitingMsgs (s : State) (p : Nat) : List Msg := s.inboxMsgs p ++ s.overflowMsgs p

/-- A position with its messages as they stand in memory. -/
def State.inboxAt (s : State) (p : Nat) : Position := { s.position p with inbox := s.inboxMsgs p, overflow := s.overflowMsgs p }

/-- An event for the WFI of every thread of a core (R443). -/
def State.coreEvent (s : State) (p : Nat) : State :=
  { s with threads := s.threads.map (fun e => match e.2.loc with
      | .slot q _ => if q = p then (e.1, { e.2 with event := true }) else e
      | _ => e) }

/-! ## Walks (R424) -/

def freeIndex (used : List Nat) (n : Nat) : Option Nat := (List.range n).find? (fun i => !used.contains i)

/-- The Vale whose Summit core walks for a cache: that of its mesh stop, or the nearest of the die with a live Summit core (R424). -/
def State.walkVale (s : State) (cache : Nat) : Nat :=
  let own := if cache < 192 then cache / 48 * 24 + cache % 48 / 2 else cache - 192
  let live (v : Nat) : Bool := !(s.vale v).offline && !s.posDead (v * 32)
  if live own then own
  else (((List.range 24).map (fun v => own / 24 * 24 + v)).filter live).foldl
    (fun b v => if b = own || meshDistance own v < meshDistance own b then v else b) own

/-- A miss joins or opens a walk-queue entry (R424), an event for its Summit core (R443); with the queue full it waits in its cache. -/
def State.startWalk (s : State) (cache c va kind : Nat) : State :=
  let d := cacheDie cache
  let page := va / 2 ^ 16
  let kb : BitVec 4 := BitVec.ofNat 4 (2 ^ kind)
  if s.walks.any (fun w => w.die == d && w.ctx == c && w.page == page && !w.stale) then
    { s with walks := s.walks.map (fun w => if w.die == d && w.ctx == c && w.page == page && !w.stale then
        { w with kinds := w.kinds ||| kb, caches := if w.caches.contains cache then w.caches else w.caches ++ [cache] } else w) }
  else
    match freeIndex ((s.walks.filter (fun w => w.die == d)).map Walk.req) 256 with
    | none => s
    | some r =>
      ({ s with walks := s.walks ++ [{ die := d, req := r, ctx := c, page := page, gen := (s.ctx c).gen, kinds := kb, caches := [cache] }] } : State).coreEvent
        (s.walkVale cache * 32)

/-- The address at which the next message of a position's overflow region stands. -/
def Position.overflowAt (q : Position) : Nat := q.ovBase.toNat + 64 * q.overflow.length

/-- The interface logs that an overflow region faults or violates (R262). -/
def State.overflowFailed (s : State) (p c : Nat) : State :=
  s.logError 0x08 (srcNum (p / 768) (p / 32 % 24) 0 10) (s.ctxFunc c) 1 (s.position p).ovBase 0

/-- A message reaches a position: 0 ACCEPTED, 1 FULL, 2 DEAD (R262, R263, R468), or 3 while the page of the overflow region is walked
(R424); it is an event for the core once it enters the inbox (R443). The overflow region is translated in the sender's context (log entry 10). -/
def State.deliver (s : State) (m : Msg) : Nat × State :=
  let q := s.inboxAt m.pos
  if s.posDead m.pos then (2, s)
  else if q.inbox.length < 64 ∧ q.overflow = [] then
    (0, ((s.setPosition m.pos { q with inbox := q.inbox ++ [m] }).syncInbox m.pos m.type).coreEvent m.pos)
  else if q.ovSlots.toNat ≤ q.overflow.length then (1, s)
  else
    match xlat s .virt m.ctx (s.ctx m.ctx).gen m.pos 1 q.overflowAt with
    | .ok a _ _ =>
      let s := s.rawPutBytes a m.bytes
      (0, (s.setPosition m.pos { q with overflow := q.overflow ++ [m] }).syncInbox m.pos m.type)
    | .miss c => (3, s.startWalk c m.ctx q.overflowAt 1)
    | _ => (1, s.overflowFailed m.pos m.ctx)

/-- Messages move from the overflow region into the inbox while it has room, each an event for the core's WFIs (R262, R443). -/
def State.drainOverflow (s : State) (p : Nat) : State :=
  let q := s.inboxAt p
  match q.overflow with
  | [] => s
  | m :: t =>
    if q.inbox.length < 64 then
      (((s.setPosition p { q with inbox := q.inbox ++ [m], overflow := t }).syncInbox p m.type).syncOverflow p q.ovBase.toNat 0 t).coreEvent p
    else s

/-- Takes a message out of the inbox or the overflow region, in which the others move up. -/
def State.takeMsg (s : State) (p : Nat) (m : Msg) : State :=
  let q := s.inboxAt p
  let rest := q.overflow.filter (fun x => x.id != m.id)
  let s := (s.setPosition p { q with inbox := q.inbox.filter (fun x => x.id != m.id), overflow := rest }).syncInbox p m.type
  if rest.length = q.overflow.length then s else s.syncOverflow p q.ovBase.toNat 0 rest

/-! ## Which message may start a task (R261) -/

/-- The waiting messages that a free slot of a class may start: their entry is enabled, of that class, below its limit. -/
def State.startableMsgs (s : State) (p cls : Nat) : List Msg :=
  (s.waitingMsgs p).filter (fun m =>
    let v := s.vec p m.type
    v.en && v.cls == cls && decide (v.run < v.limit))

/-- The highest PRIO first, and the oldest message within it. -/
def State.bestMsg (s : State) (p : Nat) : List Msg → Option Msg
  | [] => none
  | m :: t => match s.bestMsg p t with
    | none => some m
    | some x => if (s.vec p m.type).prio < (s.vec p x.type).prio then some x else some m

/-! ## Threads that come to a core (R115, R408) -/

/-- Do others wait for a slot of a class before a thread that comes now: threads that return, and before one that starts there also those that
start, and on a Summit core traps and messages that would start a task (R115, R408)? -/
def State.slotsWaited (s : State) (p cls : Nat) (entering : Bool) : Bool :=
  !(s.inboxThreads p cls false).isEmpty
    || (entering && (!(s.inboxThreads p cls true).isEmpty
      || (isSummit p && cls == 0 && (!(s.vale (p / 32)).traps.isEmpty || !(s.startableMsgs p cls).isEmpty))))

/-- A thread comes to a core: it takes a slot, or waits in the core's inbox in arrival order (R115). -/
def State.returnThread (s : State) (u p cls : Nat) : State :=
  let t := s.thread u
  match (if !t.toHome && s.slotsWaited p cls t.entering then none else s.takeSlot u p cls) with
  | some x => x
  | none =>
    let i := s.newId
    i.2.modThread u (fun t => { t with loc := .inbox p cls i.1, c := { t.c with parkedAt := none } })

end Sys2Proof.Machine
end

