-- ==== Sys2Proof/Machine/Counters.lean ====
section
/-! DEFINITION. The performance counters of a Vale (spec/16 R471 to R474): what counts, wrapping, and the view of a function. -/

namespace Sys2Proof.Machine

def Vale.sel (v : Vale) (i : Nat) : BitVec 24 := v.pmsel.getD i 0
def Vale.count (v : Vale) (i : Nat) : BitVec 48 := v.pmc.getD i 0
/-- The fields of PMSEL (R471). -/
def selEn (x : BitVec 24) : Bool := x.getLsbD 23
def selOvie (x : BitVec 24) : Bool := x.getLsbD 22
def selSlot (x : BitVec 24) : Nat := bitsOf x 21 20
def selFunc (x : BitVec 24) : Nat := bitsOf x 19 16
def selEvent (x : BitVec 24) : Nat := bitsOf x 11 0

/-- Events whose occurrences the model shows: cycles, bundles, misses and hits of caches, parks on a fault, swaps out, matrix steps, contributions
to cells, tests of a walk (R472; log entry 99). -/
def exactEvent (e : Nat) : Bool := decide (1 ≤ e) && decide (e ≤ 0x00A)
/-- Events whose number the spec leaves open: flits of the fabric, which count for function 0 only (R472, R473). -/
def openEvent (fn e : Nat) : Bool := fn == 0 && (e == 0x100 || e == 0x101)

/-- Does counter `i` count an event of a function: enabled, and the function switched in on the Vale, as the physical function always is for the fabric's
events (R473)? -/
def Vale.counts (v : Vale) (i fn : Nat) (p : Nat → Bool) : Bool :=
  selEn (v.sel i) && selFunc (v.sel i) == fn && (v.func == fn || openEvent fn (selEvent (v.sel i))) && !v.offline && p (selEvent (v.sel i))

/-- Counter `i` wraps: its PMOV bit, and with OVIE the message to the owning function (R474). -/
def State.counterWraps (s : State) (v i : Nat) : State :=
  let x := s.vale v
  let s := s.setVale v { x with pmov := x.pmov ||| BitVec.ofNat 16 (2 ^ i) }
  if selOvie (x.sel i) then
    { s with irqs := s.irqs ++ [{ fn := selFunc (x.sel i), vec := 1, src := srcNum (v / 24) (v % 24) 0 0, slot := selSlot (x.sel i), time := s.time }] }
  else s

/-- Counter `i` advances by `n`. -/
def State.counterAdd (s : State) (v i n : Nat) : State :=
  let x := s.vale v
  let c := (x.count i).toNat + n
  let s := s.setVale v { x with pmc := x.pmc.put i (BitVec.ofNat 48 c) }
  if 2 ^ 48 ≤ c then s.counterWraps v i else s

/-- Events of a function in a Vale, `n` of them. -/
def State.countEvents (s : State) (v fn code n : Nat) : State :=
  if (s.vale v).pmsel.isEmpty || n == 0 then s
  else (List.range 16).foldl (fun s i => if (s.vale v).counts i fn (· == code) then s.counterAdd v i n else s) s

/-- An event of a function in a Vale. -/
def State.countEvent (s : State) (v fn code : Nat) : State := s.countEvents v fn code 1

/-- An event of a unit. -/
def State.countUnit (s : State) (u : UnitId) (code : Nat) : State := s.countEvent (s.unitVale u) (s.unitFunc u) code

/-- A counter as it is read: one that counts an event whose number is left open takes a free value (log entry 2). -/
def State.counterRead (s : State) (v i : Nat) : W64 × State :=
  let x := s.vale v
  let fn := selFunc (x.sel i)
  if x.counts i fn (openEvent fn) then
    let f := s.free
    let c : BitVec 48 := f.1.truncate 48
    (c.zeroExtend 64, f.2.modVale v (fun y => { y with pmc := y.pmc.put i c }))
  else ((x.count i).zeroExtend 64, s)

/-- A counter of the fabric's events stops counting: what it has counted stays in it (R472; log entry 2). -/
def State.counterSettle (s : State) (v i : Nat) : State := (s.counterRead v i).2
/-- Every counter of a Vale stops counting. -/
def State.settleCounters (s : State) (v : Nat) : State :=
  if (s.vale v).pmsel.isEmpty then s else (List.range 16).foldl (fun s i => s.counterSettle v i) s

/-- The counter of a function's view: the one with its number and VSLOT `n` (R473). -/
def Vale.viewOf (v : Vale) (fn n : Nat) : Option Nat :=
  (List.range 16).find? (fun i => selFunc (v.sel i) == fn && selSlot (v.sel i) == n)

/-- VPMC0 to VPMC3 (R473). -/
def State.viewRead (s : State) (v fn n : Nat) : W64 × State :=
  match (s.vale v).viewOf fn n with
  | some i => s.counterRead v i
  | none => (0, s)

end Sys2Proof.Machine
end

