-- ==== Sys2Proof/Machine/Float.lean ====
section
/-! DEFINITION. Number formats, exact values and the one rounding definition (spec/05 R140 to R151), the floating-point
arithmetic of spec/06 R177 to R183, and Saturate (R68). Exact values are fractions of naturals; nothing here is approximate but
the bounds of the special functions, which R182 states. -/

namespace Sys2Proof.Machine

/-- Flags in FPST's order (R152): bit 5 SI, 4 NV, 3 DZ, 2 OF, 1 UF, 0 NX. -/
abbrev FFlags := BitVec 6

def fNX : FFlags := 1
def fUF : FFlags := 2
def fOF : FFlags := 4
def fDZ : FFlags := 8
def fNV : FFlags := 16
def fSI : FFlags := 32

/-- A float format (R142, R145): exponent bits, fraction bits, bias, and how its top codes read: `infs` keeps infinity and NaN at
the top exponent, `nan8` is E4M3, which has two NaN codes and no infinity. -/
structure Fmt where
  e : Nat
  m : Nat
  bias : Nat
  infs : Bool
  nan8 : Bool
  deriving DecidableEq, Repr

def fmtF32 : Fmt := ⟨8, 23, 127, true, false⟩
def fmtF16 : Fmt := ⟨5, 10, 15, true, false⟩
def fmtBF16 : Fmt := ⟨8, 7, 127, true, false⟩
def fmtE4M3 : Fmt := ⟨4, 3, 7, false, true⟩
def fmtE5M2 : Fmt := ⟨5, 2, 15, true, false⟩
def fmtE3M2 : Fmt := ⟨3, 2, 3, false, false⟩
def fmtE2M3 : Fmt := ⟨2, 3, 1, false, false⟩
def fmtE2M1 : Fmt := ⟨2, 1, 1, false, false⟩
/-- The accumulator element in float mode (R145). -/
def fmtA96 : Fmt := ⟨12, 83, 2047, true, false⟩

/-- The format of a float TYPE code (R48). -/
def fmtOf (t : BitVec 4) : Fmt :=
  match t.toNat with
  | 0 => fmtF32 | 1 => fmtF16 | 2 => fmtBF16 | 3 => fmtE4M3 | 4 => fmtE5M2 | 5 => fmtE3M2 | 6 => fmtE2M3 | _ => fmtE2M1

/-- An exact value: NaN (signalling or quiet), an infinity, or a signed fraction; the sign of a zero is kept. -/
inductive FVal where
  | nan (sig : Bool)
  | inf (neg : Bool)
  | fin (neg : Bool) (num den : Nat)
  deriving DecidableEq, Repr

/-- `m · 2^k`. -/
def scaled (neg : Bool) (m : Nat) (k : Int) : FVal :=
  if 0 ≤ k then .fin neg (m * 2 ^ k.toNat) 1 else .fin neg m (2 ^ (-k).toNat)

/-- The reading of a code (R142, R143). -/
def Fmt.value (f : Fmt) (code : Nat) : FVal :=
  let frac := code % 2 ^ f.m
  let ex := code / 2 ^ f.m % 2 ^ f.e
  let neg := code / 2 ^ (f.m + f.e) % 2 == 1
  if f.infs && ex == 2 ^ f.e - 1 then
    if frac == 0 then .inf neg else .nan (frac < 2 ^ (f.m - 1))
  else if f.nan8 && ex == 2 ^ f.e - 1 && frac == 2 ^ f.m - 1 then .nan false
  else if ex == 0 then scaled neg frac (1 - (f.bias : Int) - f.m)
  else scaled neg (2 ^ f.m + frac) ((ex : Int) - f.bias - f.m)

/-- NaNOf (R143); the formats without a NaN give +0. -/
def Fmt.nanOf (f : Fmt) : Nat :=
  if f.infs then (2 ^ f.e - 1) * 2 ^ f.m + 2 ^ (f.m - 1) else if f.nan8 then 2 ^ (f.e + f.m) - 1 else 0

/-- Has the format a NaN? -/
def Fmt.hasNan (f : Fmt) : Bool := f.infs || f.nan8

def Fmt.signBit (f : Fmt) (neg : Bool) : Nat := if neg then 2 ^ (f.e + f.m) else 0

/-- The code of MaxFinite without its sign (R142). -/
def Fmt.maxCode (f : Fmt) : Nat :=
  if f.infs then (2 ^ f.e - 1) * 2 ^ f.m - 1 else if f.nan8 then 2 ^ (f.e + f.m) - 2 else 2 ^ (f.e + f.m) - 1

/-- The code of infinity without its sign. -/
def Fmt.infCode (f : Fmt) : Nat := (2 ^ f.e - 1) * 2 ^ f.m

/-- The exponent of a positive fraction: the greatest `k` with `2^k ≤ n/d`. -/
def log2Frac (n d : Nat) : Int :=
  let k : Int := (Nat.log2 n : Int) - Nat.log2 d
  let le : Bool := if 0 ≤ k then decide (d * 2 ^ k.toNat ≤ n) else decide (d ≤ n * 2 ^ (-k).toNat)
  if le then k else k - 1

/-- Rounding of `t + r/d` (0 ≤ r < d) to an integer magnitude under RM (R147): 0 RNE, 1 RZ, 2 RU, 3 RD, 4 RO. -/
def roundMag (rm : Nat) (neg : Bool) (t r d : Nat) : Nat :=
  if r = 0 then t else
  match rm with
  | 0 => if 2 * r < d then t else if d < 2 * r then t + 1 else if t % 2 = 0 then t else t + 1
  | 1 => t
  | 2 => if neg then t else t + 1
  | 3 => if neg then t + 1 else t
  | _ => if t % 2 = 1 then t else t + 1

/-- Overflow (R148) for a finite exact value; SAT turns an infinity into MaxFinite. -/
def Fmt.overflow (f : Fmt) (rm : Nat) (neg sat : Bool) : Nat :=
  let inf : Bool := f.infs && (match rm with | 0 => true | 1 => false | 2 => !neg | 3 => neg | _ => false)
  f.signBit neg + (if inf && !sat then f.infCode else f.maxCode)

/-- RoundTo (R68, R147 to R149): the code and the flags. -/
def roundTo (f : Fmt) (rm : Nat) (sat : Bool) (x : FVal) : Nat × FFlags :=
  match x with
  | .nan sig => (f.nanOf, if sig || !f.hasNan then fNV else 0)
  | .inf neg => if f.infs then (f.signBit neg + f.infCode, 0) else (f.signBit neg + f.maxCode, fOF ||| fNX)
  | .fin neg n d =>
    if n = 0 then (f.signBit neg, 0) else
    let emin : Int := 1 - (f.bias : Int)
    let q : Int := max (log2Frac n d) emin - f.m
    let n' := if 0 ≤ q then n else n * 2 ^ (-q).toNat
    let d' := if 0 ≤ q then d * 2 ^ q.toNat else d
    let r := roundMag rm neg (n' / d') (n' % d') d'
    let exact : Bool := n' % d' == 0
    -- `r · 2^q`, brought to a code: a carry out of the fraction moves to the next exponent by itself
    let ex : Nat := (q + f.m + f.bias - 1).toNat
    let code := ex * 2 ^ f.m + r
    if f.maxCode < code then (f.overflow rm neg sat, fOF ||| fNX)
    else
      let fl := (if exact then 0 else fNX) ||| (if !exact && decide (code < 2 ^ f.m) then fUF else 0)
      (f.signBit neg + code, fl)

/-- Saturate (R68) to the range [lo, hi]. -/
def saturate (x lo hi : Int) : Int × Bool := if hi < x then (hi, true) else if x < lo then (lo, true) else (x, false)

/-- The least and the greatest value of an integer type of `w` bits. -/
def intMin (signed : Bool) (w : Nat) : Int := if signed then -(2 ^ (w - 1) : Nat) else 0
def intMax (signed : Bool) (w : Nat) : Int := if signed then (2 ^ (w - 1) : Nat) - 1 else (2 ^ w : Nat) - 1

/-- The low `w` bits of an integer. -/
def wrapInt (x : Int) (w : Nat) : Nat := (x % (2 ^ w : Nat)).toNat

/-- RoundInt (R161). -/
def roundInt (rm : Nat) (neg : Bool) (n d : Nat) : Int :=
  let m := roundMag rm neg (n / d) (n % d) d
  if neg then -(m : Int) else m

/-! ## Exact arithmetic (R177) -/

def FVal.isNan : FVal → Bool
  | .nan _ => true
  | _ => false

def FVal.isSig : FVal → Bool
  | .nan s => s
  | _ => false

def FVal.neg : FVal → FVal
  | .nan s => .nan s
  | .inf n => .inf (!n)
  | .fin n a b => .fin (!n) a b

def FVal.isZero : FVal → Bool
  | .fin _ n _ => n == 0
  | _ => false

def FVal.sign : FVal → Bool
  | .nan _ => false
  | .inf n => n
  | .fin n _ _ => n

/-- A finite value as a signed numerator over its denominator. -/
def FVal.signedNum : FVal → Int
  | .fin n a _ => if n then -(a : Int) else a
  | _ => 0

def FVal.den : FVal → Nat
  | .fin _ _ d => d
  | _ => 1

/-- A product, and whether it is invalid (infinity times zero). A NaN operand gives NaN. -/
def FVal.mul (a b : FVal) : FVal × Bool :=
  match a, b with
  | .nan s, y => (.nan (s || y.isSig), false)
  | _, .nan s => (.nan s, false)
  | .inf n, .inf m => (.inf (n != m), false)
  | .inf n, .fin m x _ => if x = 0 then (.nan false, true) else (.inf (n != m), false)
  | .fin m x _, .inf n => if x = 0 then (.nan false, true) else (.inf (n != m), false)
  | .fin n x d, .fin m y e => (.fin (n != m) (x * y) (d * e), false)

/-- The exact sum of several addends under the NaN, invalid and zero-sign rules of R177: the value and whether NV is due. -/
def exactSum (rm : Nat) (terms : List FVal) : FVal × Bool :=
  if terms.any FVal.isNan then (.nan false, terms.any FVal.isSig)
  else
    let infs := terms.filterMap (fun t => match t with | .inf n => some n | _ => none)
    match infs with
    | n :: rest => if rest.any (· != n) then (.nan false, true) else (.inf n, false)
    | [] =>
      let den := terms.foldl (fun a t => a * t.den) 1
      let num := terms.foldl (fun a t => a + t.signedNum * ((den / t.den : Nat) : Int)) 0
      if num = 0 then
        let same := match terms with
          | t :: rest => t.isZero && rest.all (fun u => u.isZero && u.sign == t.sign)
          | [] => false
        let neg : Bool := if same then (match terms with | t :: _ => t.sign | [] => false) else rm == 3
        (.fin neg 0 1, false)
      else (.fin (decide (num < 0)) num.natAbs den, false)

/-- Rounds an exact sum; `bad` tells that an addend was an invalid product. -/
def sumRound (f : Fmt) (rm : Nat) (sat bad : Bool) (terms : List FVal) : Nat × FFlags :=
  let s := exactSum rm terms
  if bad then (f.nanOf, fNV)
  else match s.1 with
    | .nan _ => (f.nanOf, if s.2 then fNV else 0)
    | v => roundTo f rm sat v

/-- FADD and FSUB on codes. -/
def fpAdd (f : Fmt) (rm : Nat) (sat : Bool) (a b : Nat) : Nat × FFlags := sumRound f rm sat false [f.value a, f.value b]

def fpSub (f : Fmt) (rm : Nat) (sat : Bool) (a b : Nat) : Nat × FFlags :=
  sumRound f rm sat false [f.value a, (f.value b).neg]

/-- FMUL on codes. -/
def fpMul (f : Fmt) (rm : Nat) (sat : Bool) (a b : Nat) : Nat × FFlags :=
  match (f.value a).mul (f.value b) with
  | (_, true) => (f.nanOf, fNV)
  | (.nan s, _) => (f.nanOf, if s then fNV else 0)
  | (v, _) => roundTo f rm sat v

/-- FFMA on codes. -/
def fpFma (f : Fmt) (rm : Nat) (sat : Bool) (a b c : Nat) : Nat × FFlags :=
  let p := (f.value a).mul (f.value b)
  sumRound f rm sat p.2 [p.1, f.value c]

/-- Less-than on values that are not NaN; −0 is below +0 when `zeros` (R178), equal otherwise. -/
def fvLt (zeros : Bool) (a b : FVal) : Bool :=
  match a, b with
  | .inf n, .inf m => n && !m
  | .inf n, _ => n
  | _, .inf m => !m
  | x, y =>
    let l := x.signedNum * (y.den : Int)
    let r := y.signedNum * (x.den : Int)
    decide (l < r) || (zeros && decide (l = r) && x.isZero && y.isZero && x.sign && !y.sign)

/-- FMIN and FMAX on codes (R178). -/
def fpMinMax (f : Fmt) (max : Bool) (a b : Nat) : Nat × FFlags :=
  let x := f.value a
  let y := f.value b
  let fl : FFlags := if x.isSig || y.isSig then fNV else 0
  match x.isNan, y.isNan with
  | true, true => (f.nanOf, fl)
  | true, false => (b, fl)
  | false, true => (a, fl)
  | false, false => if (if max then fvLt true x y else fvLt true y x) then (b, 0) else (a, 0)

/-- FCMP (R179): the result and the flags. -/
def fpCmp (f : Fmt) (op a b : Nat) : Bool × FFlags :=
  let x := f.value a
  let y := f.value b
  let un := x.isNan || y.isNan
  let sig := x.isSig || y.isSig
  let lt := !un && fvLt false x y
  let gt := !un && fvLt false y x
  let quiet : FFlags := if sig then fNV else 0
  let loud : FFlags := if un then fNV else 0
  match op with
  | 0 => (!un && !lt && !gt, quiet)
  | 1 => (un || lt || gt, quiet)
  | 2 => (lt, loud)
  | 3 => (!un && !gt, loud)
  | 4 => (un, quiet)
  | _ => (!un, quiet)

/-- FCLASS (R180): the bit number of the class. -/
def fpClass (f : Fmt) (c : Nat) : Nat :=
  match f.value c with
  | .nan true => 0
  | .nan false => 1
  | .inf true => 2
  | .inf false => 9
  | .fin neg n _ =>
    let sub : Bool := c / 2 ^ f.m % 2 ^ f.e == 0
    if n = 0 then (if neg then 5 else 6) else if sub then (if neg then 4 else 7) else if neg then 3 else 8

/-! ## Special functions (R181 to R184)

`ax` computes an approximation of the exact result to better than 2^-90 of its own magnitude scale; a candidate of the
implementation is taken where it lies within the bound of R182, and the nearest value otherwise (log entry 5). -/

/-- Working precision: numbers are integers over 2^96. -/
def fxOne : Int := 2 ^ 96

def fxMul (a b : Int) : Int := a * b / fxOne

/-- ln 2 and π over 2^96, rounded. -/
def fxLn2 : Int := 54916777467707473351141471128
def fxPi : Int := 248902613312231085230521944622

/-- `Σ x^k / k!` for |x| ≤ 1, by Horner with 30 terms. -/
def fxExp (x : Int) : Int :=
  (List.range 30).foldl (fun acc i => fxOne + fxMul x acc / ((30 - i : Nat) : Int)) fxOne

/-- Sine and cosine of |x| ≤ π by their series, 24 terms. -/
def fxSin (x : Int) : Int :=
  let x2 := fxMul x x
  fxMul x ((List.range 24).foldl (fun acc i => let k := 24 - i; fxOne - fxMul x2 acc / ((2 * k * (2 * k + 1) : Nat) : Int)) fxOne)

def fxCos (x : Int) : Int :=
  let x2 := fxMul x x
  (List.range 24).foldl (fun acc i => let k := 24 - i; fxOne - fxMul x2 acc / (((2 * k - 1) * (2 * k) : Nat) : Int)) fxOne

/-- log2 of `y` in [1, 2) (over 2^96), bit by bit: 90 bits of the fraction. -/
def fxLog2 : Nat → Int → Int → Int → Int
  | 0, _, _, acc => acc
  | n + 1, y, bit, acc =>
    let y2 := fxMul y y
    if 2 * fxOne ≤ y2 then fxLog2 n (y2 / 2) (bit / 2) (acc + bit) else fxLog2 n y2 (bit / 2) acc

/-- 2^x over 2^96 for 0 ≤ x < 1. -/
def fxExp2 (x : Int) : Int := fxExp (fxMul x fxLn2)

/-- A signed fraction as an integer over 2^96, rounded down. -/
def fxOf (neg : Bool) (n d : Nat) : Int :=
  let m : Int := ((n * 2 ^ 96 / d : Nat) : Int)
  if neg then -m else m

def fvOfFx (x : Int) (scale : Int) : FVal :=
  match scaled (decide (x < 0)) x.natAbs (scale - 96) with
  | v => v

/-- An approximation of the exact result for a finite nonzero input outside the special values of R183. -/
def specialApprox (fn : Nat) (neg : Bool) (n d : Nat) : FVal :=
  match fn with
  | 0 => .fin neg d n
  | 1 =>
    -- 1/√(n/d) = √(d/n)
    .fin false (Nat.sqrt (d * 2 ^ 400 / n)) (2 ^ 200)
  | 3 =>
    let whole : Int := if neg then -(((n + d - 1) / d : Nat) : Int) else ((n / d : Nat) : Int)
    let frac : Int := fxOf neg n d - whole * fxOne
    if 3000 < whole then .fin false (2 ^ 3000) 1 else if whole < -3000 then .fin false 1 (2 ^ 3000)
    else fvOfFx (fxExp2 frac) whole
  | 4 =>
    let e := log2Frac n d
    let y := if 0 ≤ e then fxOf false n (d * 2 ^ e.toNat) else fxOf false (n * 2 ^ (-e).toNat) d
    fvOfFx (e * fxOne + fxLog2 90 y (fxOne / 2) 0) 0
  | 5 | 6 =>
    let turn : Int := (fxOf false (n % d) d)
    let t := if 2 * turn ≤ fxOne then turn else turn - fxOne
    let x := fxMul (2 * t) fxPi
    let v := if fn == 5 then (if neg then -(fxSin x) else fxSin x) else fxCos x
    fvOfFx v 0
  | _ =>
    -- tanh x = (e^{2x} - 1)/(e^{2x} + 1), with e^{2x} = 2^{2x / ln 2}
    let y : Int := fxOf false n d * 2 * fxOne / fxLn2
    let whole := y / fxOne
    let p : Int := fxExp2 (y - whole * fxOne) * 2 ^ (min whole 60).toNat
    let t : Int := (p - fxOne) * fxOne / (p + fxOne)
    fvOfFx (if neg then -t else t) 0

/-- `|a − b| ≤ n/d` on finite values. -/
def fvWithin (a b : FVal) (n d : Nat) : Bool :=
  let diff : Int := a.signedNum * (b.den : Int) - b.signedNum * (a.den : Int)
  decide (diff.natAbs * d ≤ n * (a.den * b.den))

/-- The spacing of a format at a value, as a fraction: `2^q` (R182). -/
def ulpOf (f : Fmt) (x : FVal) : Nat × Nat :=
  match x with
  | .fin _ n d =>
    let q : Int := (if n = 0 then 1 - (f.bias : Int) else max (log2Frac n d) (1 - (f.bias : Int))) - f.m
    if 0 ≤ q then (2 ^ q.toNat, 1) else (1, 2 ^ (-q).toNat)
  | _ => (0, 1)

/-- Is `|x| ≤ n/d`? -/
def fvAbsLe (x : FVal) (n d : Nat) : Bool :=
  match x with | .fin _ a b => decide (a * d ≤ n * b) | _ => false

/-- The bound of R182 on a candidate value `c` against the exact result `x`, for input `a`. -/
def specialBound (fn ty : Nat) (f : Fmt) (a x c : FVal) : Bool :=
  let u := ulpOf f x
  let within (k : Nat) : Bool := fvWithin c x (k * u.1) u.2
  if ty == 0 then
    match fn with
    | 0 | 1 => within 1
    | 3 => within 2
    | 4 => if fvAbsLe a 2 1 && !fvLt false a (.fin false 1 2) then fvWithin c x 1 (2 ^ 22) else within 2
    | 5 | 6 => fvWithin c x 1 (2 ^ 22)
    | _ => if fvAbsLe a 1 8 && !(fvWithin a (.fin a.sign 1 8) 0 1) then fvWithin c x 1 (2 ^ 24) else within 2
  else within 1 || (fvAbsLe x 1 2 && fvWithin c x 1 (2 ^ 12))

/-- Is `n/d` a power of two? -/
def isPow2 (n d : Nat) : Bool :=
  let e := log2Frac n d
  if 0 ≤ e then n == d * 2 ^ e.toNat else n * 2 ^ (-e).toNat == d

/-- Integer square root test of a fraction in lowest terms by powers of two: is it a square? -/
def isPow4 (n d : Nat) : Bool := isPow2 n d && log2Frac n d % 2 == 0

/-- The exact result at an exact case of R182, if the input is one; FLOG2 of 1 is +0 (log entry 5). -/
def specialExact (fn : Nat) (f : Fmt) (neg : Bool) (n d : Nat) : Option FVal :=
  let e := log2Frac n d
  let normal (k : Int) : Bool := decide (1 - (f.bias : Int) ≤ k ∧ k ≤ f.bias)
  match fn with
  | 0 => if isPow2 n d && normal (-e) then some (scaled neg 1 (-e)) else none
  | 1 => if isPow4 n d then some (scaled false 1 (-(e / 2))) else none
  | 3 =>
    if n % d == 0 then
      let k : Int := if neg then -((n / d : Nat) : Int) else ((n / d : Nat) : Int)
      if normal k then some (scaled false 1 k) else none
    else none
  | 4 => if isPow2 n d then some (.fin (decide (e < 0)) e.natAbs 1) else none
  | 5 =>
    if 2 * n % d == 0 then some (.fin neg 0 1)
    else if 4 * n % d == 0 then some (.fin (neg != (4 * n / d % 4 == 3)) 1 1) else none
  | 6 =>
    if 4 * n % d == 0 then
      (match 4 * n / d % 4 with | 0 => some (.fin false 1 1) | 2 => some (.fin true 1 1) | _ => some (.fin false 0 1))
    else none
  | _ => none

/-- √ of a fraction rounded under RM: exact integer square root with a sticky digit. -/
def sqrtVal (n d : Nat) : FVal :=
  let k := 600
  let x := n * d * 2 ^ (2 * k)
  let r := Nat.sqrt x
  if r * r == x then .fin false r (d * 2 ^ k) else .fin false (2 * r + 1) (2 * d * 2 ^ k)

/-- Special values of R183 for an input that is infinite, zero or, for FRSQ, FSQRT and FLOG2, negative. -/
def specialEdge (fn : Nat) (f : Fmt) (x : FVal) : Option (Nat × FFlags) :=
  let one := f.bias * 2 ^ f.m
  let inv : Nat × FFlags := (f.nanOf, fNV)
  match x with
  | .nan s => some (f.nanOf, if s then fNV else 0)
  | .inf neg =>
    some (match fn with
      | 0 => (f.signBit neg, 0)
      | 1 => if neg then inv else (0, 0)
      | 2 => if neg then inv else (f.infCode, 0)
      | 3 => if neg then (0, 0) else (f.infCode, 0)
      | 4 => if neg then inv else (f.infCode, 0)
      | 5 | 6 => inv
      | _ => (f.signBit neg + one, 0))
  | .fin neg n _ =>
    if n = 0 then
      some (match fn with
        | 0 | 1 => (f.signBit neg + f.infCode, fDZ)
        | 2 => (f.signBit neg, 0)
        | 3 => (one, 0)
        | 4 => (f.signBit true + f.infCode, fDZ)
        | 5 => (f.signBit neg, 0)
        | 6 => (one, 0)
        | _ => (f.signBit neg, 0))
    else if neg && (fn == 1 || fn == 2 || fn == 4) then some inv else none

/-- A special function of R181: code and flags. FSQRT is correctly rounded; the others take the implementation's candidate where
it meets the bound of R182 and is finite, and the nearest value otherwise; where the exact value rounds to an overflow, the result
overflows and no candidate is asked (log entry 5). -/
def fpSpecial (fn ty : Nat) (rm : Nat) (sat : Bool) (a : Nat) : Nat × FFlags :=
  let f := fmtOf (BitVec.ofNat 4 ty)
  let x := f.value a
  match specialEdge fn f x with
  | some r => r
  | none =>
    match x with
    | .fin neg n d =>
      if fn == 2 then roundTo f rm sat (sqrtVal n d)
      else match specialExact fn f neg n d with
        | some v => let r := roundTo f 0 sat v; (r.1, 0)
        | none =>
          if fn == 7 && decide (n * 2 ^ 12 < d) then (a, fNX ||| (if (roundTo f 0 sat x).1 % 2 ^ (f.e + f.m) < 2 ^ f.m then fUF else 0))
          else if fn == 7 && decide (10 * d ≤ n) then (f.signBit neg + f.bias * 2 ^ f.m, fNX)
          else
            let ex := specialApprox fn neg n d
            let near := roundTo f 0 sat ex
            if near.2.getLsbD 2 then (near.1, fOF ||| fNX)
            else
              let cand := Config.specialFn fn ty a % 2 ^ (1 + f.e + f.m)
              let cv := f.value cand
              let ok := (match cv with | .fin .. => true | _ => false) && specialBound fn ty f x ex cv
              let r := if ok then cand else near.1
              (r, fNX ||| (if r % 2 ^ (f.e + f.m) < 2 ^ f.m then fUF else 0))
    | _ => (f.nanOf, 0)

end Sys2Proof.Machine
end

