-- ==== Sys2Proof/Machine/CoverMath.lean ====
section
/-! DEFINITION. The exact geometry of path and triangle coverage (spec/12 R334 to R339, R341, R347): projection, splitting, crossings,
and what each sub-piece adds to a cell. Points are local to a tile, in units of 2^-16 pixel. -/

namespace Sys2Proof.Machine

abbrev Pt := Int × Int
abbrev PtQ := Rat × Rat

/-- One pixel on the internal grid. -/
def pixel : Int := 65536

/-- Round to the nearest integer, ties to even. -/
def rne (x : Rat) : Int := roundInt 0 (decide (x < 0)) x.num.natAbs x.den

/-! ## Projection (R334) -/

/-- The value of a finite FP32 code. -/
def finite (c : W32) : Option Rat :=
  match fmtF32.value c.toNat with
  | .fin neg n d => some (mkRat (if neg then -(n : Int) else n) d)
  | _ => none

def finites : List W32 → Option (List Rat)
  | [] => some []
  | c :: t => match finite c, finites t with
    | some x, some xs => some (x :: xs)
    | _, _ => none

def fvalOf (x : Rat) : FVal := .fin (decide (x < 0)) x.num.natAbs x.den

/-- RoundTo(x, .F32, .RNE), where the result is finite. -/
def roundF32 (x : Rat) : Option Rat := finite (BitVec.ofNat 32 (roundTo fmtF32 0 false (fvalOf x)).1)

/-- Project: a control point through one entry of a view table, local to the tile. -/
def project (entry : List W32) (z : W32) (tx ty : Nat) (p : W64) : Option Pt := do
  let e ← finites entry
  let v ← finites [p.truncate 32, (p >>> (32 : Nat)).truncate 32, z]
  let m (i : Nat) : Rat := e.getD i 0
  let x (i : Nat) : Rat := if i = 3 then 1 else v.getD i 0
  let q (r : Nat) : Option Rat := roundF32 (m (4 * r) * x 0 + m (4 * r + 1) * x 1 + m (4 * r + 2) * x 2 + m (4 * r + 3) * x 3)
  let q0 ← q 0
  let q1 ← q 1
  let _ ← q 2
  let q3 ← q 3
  let gx := rne ((m 16 + m 18 * q0 / q3) * 256) - 32 * 256 * (tx : Int)
  let gy := rne ((m 17 + m 19 * q1 / q3) * 256) - 32 * 256 * (ty : Int)
  if q3 ≤ 0 ∨ 4096 * 256 < gx.natAbs ∨ 4096 * 256 < gy.natAbs then none else some (256 * gx, 256 * gy)

def projectAll (entry : List W32) (z : W32) (tx ty : Nat) : List W64 → Option (List Pt)
  | [] => some []
  | p :: t => match project entry z tx ty p, projectAll entry z tx ty t with
    | some x, some xs => some (x :: xs)
    | _, _ => none

/-- The first point whose projection fails. -/
def failedPoint (entry : List W32) (z : W32) (tx ty : Nat) (pts : List W64) : Option Nat :=
  (List.range pts.length).find? (fun i => (project entry z tx ty (pts.getD i 0)).isNone)

/-! ## Curves -/

def lerp (t : Rat) (a b : PtQ) : PtQ := (a.1 + t * (b.1 - a.1), a.2 + t * (b.2 - a.2))

/-- The polar form of a Bézier curve at as many parameters as its degree: de Casteljau's construction. -/
def polar (ps : List PtQ) : List Rat → PtQ
  | [] => ps.headD (0, 0)
  | t :: ts => polar (ps.zipWith (lerp t) ps.tail) ts

def toQ (p : Pt) : PtQ := ((p.1 : Rat), (p.2 : Rat))
def curveAt (ps : List Pt) (t : Rat) : PtQ := polar (ps.map toQ) (List.replicate (ps.length - 1) t)
def roundPt (p : PtQ) : Pt := (rne p.1, rne p.2)

/-- A coordinate: x on axis 0, y on axis 1. -/
def coord (y : Bool) (p : PtQ) : Rat := if y then p.2 else p.1
def coordI (y : Bool) (p : Pt) : Int := if y then p.2 else p.1

/-! ## Splitting into monotone pieces (R335, R336) -/

/-- The floor of (n + e · √D) · 2^25 / m for m > 0 and D no square; `e` is 1 or −1. -/
def rootFloor (n : Int) (plus : Bool) (d : Nat) (m : Nat) : Int :=
  let r : Int := Nat.sqrt (d * 2 ^ 50)
  (n * 2 ^ 25 + (if plus then r else -(r + 1))) / (m : Int)

/-- The roots of a t² + b t + c, as the nearest multiples of 2^-24 (R336). An irrational root lies on no tie. -/
def rootsOf (a b c : Int) : List Int :=
  if a = 0 then (if b = 0 then [] else [rne (mkRat (-c) 1 / mkRat b 1 * 2 ^ 24)])
  else
    let sg : Int := if a < 0 then -1 else 1
    let a := sg * a
    let b := sg * b
    let c := sg * c
    let disc := b * b - 4 * a * c
    if disc < 0 then []
    else
      let d := disc.toNat
      let r := Nat.sqrt d
      let m := (2 * a).toNat
      if r * r = d then [rne (mkRat (-b - r) m * 2 ^ 24), rne (mkRat (-b + r) m * 2 ^ 24)]
      else [(rootFloor (-b) false d m + 1) / 2, (rootFloor (-b) true d m + 1) / 2]

/-- The roots of the derivative of one coordinate, in multiples of 2^-24. -/
def splitRoots (vs : List Int) : List Int :=
  match vs with
  | [p0, p1, p2] => rootsOf 0 (p0 - 2 * p1 + p2) (p1 - p0)
  | [p0, p1, p2, p3] => rootsOf (p3 - 3 * p2 + 3 * p1 - p0) (2 * (p2 - 2 * p1 + p0)) (p1 - p0)
  | _ => []

/-- Inserts into a rising list without repeats. -/
def insertNew (x : Int) : List Int → List Int
  | [] => [x]
  | y :: t => if x < y then x :: y :: t else if x = y then y :: t else y :: insertNew x t

/-- The split parameters: roots inside (0, 1) after rounding, merged, in order. -/
def splitParams (ps : List Pt) : List Rat :=
  let rs := (splitRoots (ps.map Prod.fst) ++ splitRoots (ps.map Prod.snd)).filter (fun k => decide (0 < k) && decide (k < 2 ^ 24))
  (rs.foldl (fun l k => insertNew k l) []).map (fun k => mkRat k (2 ^ 24))

/-- A monotone piece: a curve, the parameters it spans, and its rounded ends. -/
structure Piece where
  curve : List Pt
  ta : Rat
  tb : Rat
  qa : Pt
  qb : Pt

def cross (a b : Pt) : Int := a.1 * b.2 - a.2 * b.1
def Pt.sub (a b : Pt) : Pt := (a.1 - b.1, a.2 - b.2)

/-- Is every cross product of three of the points 0? -/
def collinear (ps : List Pt) : Bool :=
  ps.all (fun a => ps.all (fun b => ps.all (fun c => cross (Pt.sub a b) (Pt.sub c b) == 0)))

def linePiece (a b : Pt) : Piece := ⟨[a, b], 0, 1, a, b⟩

/-- Consecutive pairs. -/
def pairs {α : Type} (l : List α) : List (α × α) := l.zip l.tail

/-- The pieces of a projected segment (R335). -/
def piecesOf (ps : List Pt) : List Piece :=
  let p0 := ps.headD (0, 0)
  let pn := ps.getLastD (0, 0)
  let short : Bool := match ps with
    | [a, b, c] => b == a || b == c
    | [a, b, c, d] => b == a && c == d
    | _ => false
  if ps.all (· == p0) then []
  else if short then [linePiece p0 pn]
  else
    let inner := splitParams ps
    let cuts : List (Rat × Pt) := (0, p0) :: inner.map (fun t => (t, roundPt (curveAt ps t))) ++ [(1, pn)]
    (pairs cuts).map (fun e => if collinear ps then linePiece e.1.2 e.2.2 else ⟨ps, e.1.1, e.2.1, e.1.2, e.2.2⟩)

/-! ## Cuts at pixel lines (R337) -/

/-- Bisection: moves lo or hi to the middle, as often as asked, and gives hi. -/
def bisect (below : Rat → Bool) : Nat → Rat → Rat → Rat
  | 0, _, hi => hi
  | n + 1, lo, hi => let mid := (lo + hi) / 2; if below mid then bisect below n mid hi else bisect below n lo mid

/-- The crossings of a piece with the lines of one axis: parameter, axis, line. -/
def crossings (p : Piece) (y : Bool) : List (Rat × Bool × Int) :=
  let a := coord y (curveAt p.curve p.ta)
  let b := coord y (curveAt p.curve p.tb)
  let up := decide (a < b)
  let lo := min a b / pixel
  let hi := max a b / pixel
  let k0 := lo.floor + 1
  let n := (hi.ceil - k0).toNat
  ((List.range n).map (fun i =>
    let line := (k0 + i) * pixel
    let below (t : Rat) : Bool := if up then decide (coord y (curveAt p.curve t) < line) else decide (line < coord y (curveAt p.curve t))
    (bisect below 24 p.ta p.tb, y, line))).filter (fun e => decide (p.ta < e.1) && decide (e.1 < p.tb))

/-- Inserts a crossing behind those whose parameter is not greater. -/
def insertCrossing (x : Rat × Bool × Int) : List (Rat × Bool × Int) → List (Rat × Bool × Int)
  | [] => [x]
  | e :: t => if x.1 < e.1 then x :: e :: t else e :: insertCrossing x t

def clamp (v a b : Int) : Int := max (min a b) (min v (max a b))

/-- One more cut point, the newest first: the crossed coordinate is the line, the other one is clamped between the cut before and the
piece's end; a crossing of each axis at one parameter is one corner. -/
def addCut (p : Piece) (cuts : List ((Rat × Bool × Int) × Pt)) (e : Rat × Bool × Int) : List ((Rat × Bool × Int) × Pt) :=
  let prev : Pt := match cuts with | c :: _ => c.2 | [] => p.qa
  let v := clamp (rne (coord (!e.2.1) (curveAt p.curve e.1))) (coordI (!e.2.1) prev) (coordI (!e.2.1) p.qb)
  let single : Pt := if e.2.1 then (v, e.2.2) else (e.2.2, v)
  match cuts with
  | c :: older =>
    if c.1.1 = e.1 ∧ c.1.2.1 ≠ e.2.1 then (e, if e.2.1 then (c.1.2.2, e.2.2) else (e.2.2, c.1.2.2)) :: older
    else (e, single) :: cuts
  | [] => [(e, single)]

/-- The sub-pieces of a piece: control points, the ends being the cut points. -/
def subPieces (p : Piece) : List (List Pt) :=
  let xs := (crossings p false ++ crossings p true).foldl (fun l x => insertCrossing x l) []
  let cuts := (p.ta, p.qa) :: (xs.foldl (addCut p) []).reverse.map (fun c => (c.1.1, c.2)) ++ [(p.tb, p.qb)]
  let n := p.curve.length - 1
  (pairs cuts).map (fun e =>
    e.1.2 :: ((List.range (n - 1)).map (fun i =>
      roundPt (polar (p.curve.map toQ) (List.replicate (n - 1 - i) e.1.1 ++ List.replicate (i + 1) e.2.1)))) ++ [e.2.2])

/-! ## What a sub-piece adds (R338, R339) -/

/-- den and w[i][j] of R339. -/
def areaWeights (n : Nat) : Int × List (List Int) :=
  match n with
  | 1 => (2, [[1], [1]])
  | 2 => (6, [[3, 1], [2, 2], [1, 3]])
  | _ => (20, [[10, 4, 1], [6, 6, 3], [3, 6, 6], [1, 4, 10]])

/-- An addition: to BORDER of row `y`, or to the cell (x, y). -/
inductive Add where
  | border (y : Nat) (cov : Int)
  | cell (x y : Nat) (cov area : Int)
  deriving DecidableEq, Repr

/-- The contribution of a sub-piece, if it makes one. -/
def addOf (sub : List Pt) : Option Add :=
  let a := sub.headD (0, 0)
  let b := sub.getLastD (0, 0)
  let cx := (a.1 + b.1) / (2 * pixel)
  let cy := (a.2 + b.2) / (2 * pixel)
  if cy < 0 ∨ 31 < cy ∨ 31 < cx then none
  else
    let cov := b.2 - a.2
    if cx < 0 then some (.border cy.toNat cov)
    else
      let xs := sub.map (fun p => p.1 - cx * pixel)
      let dys := (pairs (sub.map Prod.snd)).map (fun e => e.2 - e.1)
      let w := areaWeights (sub.length - 1)
      let row (x : Int) (ws : List Int) : Int := (ws.zipWith (fun k dy => k * x * dy) dys).sum
      let n : Int := (xs.zipWith row w.2).sum
      some (.cell cx.toNat cy.toNat cov (cov - rne (mkRat n 1 / mkRat (w.1 * pixel) 1)))

/-- Everything that a projected segment adds. -/
def segmentAdds (ps : List Pt) : List Add := (piecesOf ps).flatMap (fun p => (subPieces p).filterMap addOf)

/-- The three lines of a triangle; a collinear one adds nothing (R346). -/
def triangleAdds (ps : List Pt) : List Add :=
  match ps with
  | [a, b, c] => if collinear ps then [] else segmentAdds [a, b] ++ segmentAdds [b, c] ++ segmentAdds [c, a]
  | _ => []

/-! ## Resolve (R341) -/

/-- One cell of the resolve: coverage from the winding value, and whether it saturated. -/
def coverOf (evenOdd : Bool) (w : Int) : Nat × Bool :=
  let top : Nat := 32767 * 65536
  let sat := decide (top < w.natAbs)
  let a := min w.natAbs top
  let c := if !evenOdd then min a 65536 else (let m := a % 131072; if 65536 < m then 131072 - m else m)
  ((c * 65535 + 32768) / 65536, sat)

/-- A row of the resolve: COV and AREA of its cells, from the value that BORDER begins with. -/
def coverRow (evenOdd : Bool) (run : Int) : List (W32 × W32) → List (Nat × Bool)
  | [] => []
  | (cov, area) :: t => coverOf evenOdd (run + area.toInt) :: coverRow evenOdd (run + cov.toInt) t

/-- BORDER of a row and the words of a cell, from additions alone: the private array of R347. -/
def borderSum (l : List Add) (y : Nat) : W32 :=
  l.foldl (fun s a => match a with | .border y' c => if y' = y then s + BitVec.ofInt 32 c else s | _ => s) 0
def cellSum (l : List Add) (x y : Nat) : W32 × W32 :=
  l.foldl (fun s a => match a with
    | .cell x' y' c r => if x' = x ∧ y' = y then (s.1 + BitVec.ofInt 32 c, s.2 + BitVec.ofInt 32 r) else s
    | _ => s) (0, 0)

/-- The coverage of the private array, cell by cell in ascending order of 32y + x. -/
def privateCover (l : List Add) : List Nat :=
  (List.range 32).flatMap (fun y =>
    (coverRow false (borderSum l y).toInt ((List.range 32).map (fun x => cellSum l x y))).map Prod.fst)

/-- b1 and b2 at the centre of a cell (R347); none where D is 0. -/
def barycentrics (ps : List Pt) (x y : Nat) : Option (W32 × W32) :=
  match ps with
  | [p0, p1, p2] =>
    let d := cross (Pt.sub p1 p0) (Pt.sub p2 p0)
    let c : Pt := ((x : Int) * pixel + 32768, (y : Int) * pixel + 32768)
    let r (n : Int) : W32 := BitVec.ofNat 32 (roundTo fmtF32 0 false (fvalOf (mkRat n 1 / mkRat d 1))).1
    if d = 0 then none else some (r (cross (Pt.sub c p0) (Pt.sub p2 p0)), r (cross (Pt.sub p1 p0) (Pt.sub c p0)))
  | _ => none

end Sys2Proof.Machine
end

