-- ==== Sys2Proof/Machine/Tiles.lean ====
section
/-! DEFINITION. Open tiles in the Plateau banks and what a Contour unit does to them (spec/12 R328 to R332, R340, R341, R345 to R348). -/

namespace Sys2Proof.Machine

/-- Does a partition hold a Vale, alone or in its time slices (R437, R439)? -/
def State.partitionVale (s : State) (fn v : Nat) : Bool :=
  !(s.vale v).offline && ((s.vale v).func == fn || (s.vale v).other == some fn)

/-- The equipped positions of a partition's Vales, ascending (R328). -/
def State.equippedList (s : State) (fn : Nat) : List Nat :=
  ((List.range Config.vales).filter (s.partitionVale fn)).flatMap (fun v => (List.range 8).map (fun j => 32 * v + 4 * j + 3))

/-- The owner of a tile's view. -/
def State.tileOwner (s : State) (fn : Nat) (t : TileRef) (view : Nat) : Nat :=
  let l := s.equippedList fn
  l.getD ((t.tx + 7 * t.ty + 13 * view) % l.length) 0

/-- The bank offsets of a bank's slots (R329, R330). -/
def State.tileSlots (s : State) (p : Nat) : List Nat :=
  let v := s.vale (p / 32)
  let top := min v.ctTop.toNat 0x3E * 0x1000
  (List.range (min v.ctNslot.toNat 16)).filterMap (fun k => if 0x3000 * (k + 1) ≤ top then some (top - 0x3000 * (k + 1)) else none)

/-- Bits 46:0 of a slot's header for a tile's view. -/
def tileKey (t : TileRef) (view : Nat) : Nat := t.tx + t.ty * 2 ^ 16 + t.tgt * 2 ^ 32 + view * 2 ^ 40

/-- The open slot of a tile's view. -/
def State.tileAt (s : State) (p key : Nat) : Option Nat :=
  (s.tileSlots p).find? (fun o => let h := s.rd (bankPlace p o) 8; h / 2 ^ 48 % 2 == 1 && h % 2 ^ 47 == key)

/-- Slots whose OPEN is 0. -/
def State.freeTileSlots (s : State) (p : Nat) : List Nat :=
  (s.tileSlots p).filter (fun o => s.rd (bankPlace p o) 8 / 2 ^ 48 % 2 == 0)

def contourSrc (p : Nat) : Nat := srcOfPos p 1

/-- An entry of a view table: 20 words, all 0 at reset (R332). -/
def viewIndex (p vt i : Nat) : Nat := p * 256 + vt % 2 * 128 + i % 128
def State.viewEntry (s : State) (p vt i : Nat) : List W32 := s.views.getD (viewIndex p vt i) (List.replicate 20 0)

/-- Entries from `i` on are written. -/
def State.writeViews (s : State) (p vt i : Nat) : List (List W32) → State
  | [] => s
  | e :: t => ({ s with views := s.views.put (viewIndex p vt i) e }).writeViews p vt (i + 1) t

/-! ## Adding a message (R340, R346) -/

/-- A signed 32-bit word of a bank, and an addition to it modulo 2^32. -/
def State.bankWord (s : State) (p o : Nat) : W32 := BitVec.ofNat 32 (s.rd (bankPlace p o) 4)
def State.addBankWord (s : State) (p o : Nat) (x : Int) : State :=
  s.rawPutBytes (bankPlace p o) (bytesLE 4 (s.bankWord p o + BitVec.ofInt 32 x).toNat)

def cellOffset (x y : Nat) : Nat := 0x1000 + 8 * (32 * y + x)

def State.addToSlot (s : State) (p slot : Nat) : Add → State
  | .border y c => s.addBankWord p (slot + 0x40 + 4 * y) c
  | .cell x y c a => (s.addBankWord p (slot + cellOffset x y) c).addBankWord p (slot + cellOffset x y + 4) a

/-- One message for one view: its additions, then CNT. -/
def State.addMessage (s : State) (p slot : Nat) (l : List Add) : State :=
  let s := l.foldl (fun s a => s.addToSlot p slot a) s
  s.rawPutBytes (bankPlace p (slot + 8)) (bytesLE 8 (s.rd (bankPlace p (slot + 8)) 8 + 1))

/-- A discarded message is logged once for each closed or absent tile; the entry's DETAIL is left open (log entry 2). -/
def State.discardMessage (s : State) (p fn key : Nat) : State :=
  if (s.position p).discards.contains key then s
  else
    let f := s.free
    (f.2.modPosition p (fun q => { q with discards := q.discards ++ [key] })).logError 0x06 (contourSrc p) fn 1 0 f.1

/-- The owner's own projection fails: the view's message is discarded and CONTOUR_RANGE logged. -/
def State.rangeAtOwner (s : State) (p fn : Nat) : State :=
  let f := s.free
  f.2.logError 0x07 (contourSrc p) fn 1 0 f.1

/-- A segment or a triangle reaches an owner. -/
def State.segmentAt (s : State) (p fn : Nat) (t : TileRef) (view : Nat) (pts : List W64) (tri : Bool) : State :=
  match projectAll (s.viewEntry p t.vt view) t.z t.tx t.ty pts with
  | none => s.rangeAtOwner p fn
  | some ps =>
    match s.tileAt p (tileKey t view) with
    | none => s.discardMessage p fn (tileKey t view)
    | some o => s.addMessage p o (if tri then triangleAdds ps else segmentAdds ps)

/-- The contributions of a segment or a triangle in one view, one for each sub-piece that makes one (R338, R339, R472; log entry 99), and those that
an open slot takes. -/
def State.pieceCount (s : State) (p : Nat) (t : TileRef) (view : Nat) (pts : List W64) (tri : Bool) : Nat :=
  match projectAll (s.viewEntry p t.vt view) t.z t.tx t.ty pts with
  | none => 0
  | some ps => (if tri then triangleAdds ps else segmentAdds ps).length
def State.segmentCount (s : State) (p : Nat) (t : TileRef) (view : Nat) (pts : List W64) (tri : Bool) : Nat :=
  if (s.tileAt p (tileKey t view)).isSome then s.pieceCount p t view pts tri else 0

/-! ## Fragment lanes (R347, R350) -/

/-- A fragment lane's registers: the low 16 bits of pixel x and y each (log entry 120), view, target and KIND, coverage, b1, b2 and PRIM (R350). -/
def fragBody (t : TileRef) (view kind : Nat) (prim : W32) (i cover : Nat) (b : W32 × W32) : BinBody :=
  .frag (BitVec.ofNat 32 ((32 * t.tx + i % 32) % 2 ^ 16 + (32 * t.ty + i / 32) % 2 ^ 16 * 2 ^ 16)) (BitVec.ofNat 32 (view + t.tgt * 2 ^ 8 + kind * 2 ^ 16))
    (BitVec.ofNat 32 cover) b.1 b.2 prim

/-- A triangle's fragment lanes. -/
def triangleFrags (t : TileRef) (view : Nat) (prim : W32) (ps : List Pt) : List BinBody :=
  ((privateCover (triangleAdds ps)).zipIdx).filterMap (fun e =>
    if e.1 = 0 then none
    else (barycentrics ps (e.2 % 32) (e.2 / 32)).map (fun b => fragBody t view 1 prim e.2 e.1 b))

/-- Fragment lanes wait at an owner for bins of its Vale. -/
def State.sendFrags (s : State) (p ctx : Nat) (target : W64) (nv scr : Nat) (l : List BinBody) (holds : Option (Nat × Nat)) : State :=
  if l.isEmpty then s
  else
    let i := s.newId
    { i.2 with reqs := i.2.reqs.put i.1 (.frags (p / 32) ctx target nv scr l holds) }

/-- CTRI.FRAG at an owner; without a shader there is no wave to run (log entry 31). -/
def State.fragsAt (s : State) (p fn ctx : Nat) (t : TileRef) (view : Nat) (pts : List W64) (prim : W32) (shader : W64) (nv scr : Nat) : State :=
  match projectAll (s.viewEntry p t.vt view) t.z t.tx t.ty pts with
  | none => s.rangeAtOwner p fn
  | some ps => if shader == 0 then s else s.sendFrags p ctx shader nv scr (triangleFrags t view prim ps) none

/-! ## Opening and resolving -/

/-- CTILE at an owner: the Plateau-window address of the slot, or 0 where the answer is FULL. -/
def State.openTile (s : State) (p : Nat) (t : TileRef) (view : Nat) : W64 × State :=
  let key := tileKey t view
  match s.tileAt p key with
  | some o => (BitVec.ofNat 64 (windowAddr p o), s)
  | none =>
    match s.freeTileSlots p with
    | [] => (0, s)
    | o :: os =>
      let c := s.choose (os.length + 1)
      let o := (o :: os).getD c.1 o
      let s := (c.2.clearBad (bankPlace p o) 0x3000).rawPutBytes (bankPlace p o) (bytesLE 8 (key + 2 ^ 48) ++ List.replicate 0x2FF8 0)
      (BitVec.ofNat 64 (windowAddr p o), s.modPosition p (fun q => { q with discards := q.discards.filter (· != key) }))

/-- The coverage of a slot, cell by cell, and whether a cell saturated. -/
def State.slotCover (s : State) (p slot : Nat) (evenOdd : Bool) : List Nat × Bool :=
  let rows := (List.range 32).flatMap (fun y =>
    coverRow evenOdd (s.bankWord p (slot + 0x40 + 4 * y)).toInt ((List.range 32).map (fun x =>
      (s.bankWord p (slot + cellOffset x y), s.bankWord p (slot + cellOffset x y + 4)))))
  (rows.map Prod.fst, rows.any Prod.snd)

/-- Resolves a slot: COVER, FILLED, SATF, and the clearing. -/
def State.resolveSlot (s : State) (p slot : Nat) (evenOdd clr : Bool) : List Nat × Bool × State :=
  let c := s.slotCover p slot evenOdd
  let h := s.rd (bankPlace p slot) 8
  let h := Nat.lor h (2 ^ 50 + (if c.2 then 2 ^ 49 else 0))
  let s := (s.rawPutBytes (bankPlace p slot) (bytesLE 8 h)).rawPutBytes (bankPlace p (slot + 0x400)) (c.1.flatMap (bytesLE 2))
  let s := if clr then (s.rawPutBytes (bankPlace p (slot + 0x40)) (List.replicate 128 0)).rawPutBytes (bankPlace p (slot + 0x1000)) (List.replicate 8192 0) else s
  (c.1, c.2, s)

/-- The owner frees a slot. -/
def State.freeSlot (s : State) (p slot : Nat) : State :=
  s.rawPutBytes (bankPlace p (slot + 6)) [(s.byteAt (bankPlace p (slot + 6))) &&& 0xFE]

/-- The address of word `i` of a closed tile (R331). -/
def closedAddr (cbase : W64) (wt ht : Nat) (t : TileRef) (view i : Nat) : W64 :=
  cbase + BitVec.ofNat 64 (2048 * ((view * ht + t.ty) * wt + t.tx) + 8 * i)

end Sys2Proof.Machine
end

