-- ==== Sys2Proof/Machine/Access.lean ====
section
/-! DEFINITION. Memory accesses of units: what a lane does at its point of performance (R195 to R219, R225, R315 to R317), the L1
copies of a Ridge engine (R197 to R201), walks and faults (R424, R428 to R430), the answer, and waiting for accesses (R508). -/

namespace Sys2Proof.Machine

def State.access (s : State) (id : Nat) : Option Access := s.accesses.find? (fun a => a.id == id)
def State.modAccess (s : State) (id : Nat) (f : Access → Access) : State :=
  { s with accesses := s.accesses.map (fun a => if a.id == id then f a else a) }
def State.modLane (s : State) (id l : Nat) (f : ALane → ALane) : State :=
  s.modAccess id (fun a => { a with lanes := a.lanes.map (fun x => if x.lane == l then f x else x) })
def Access.lane (a : Access) (l : Nat) : Option ALane := a.lanes.find? (fun x => x.lane == l)
def State.setLaneSt (s : State) (id l : Nat) (st : LaneSt) : State := s.modLane id l (fun x => { x with st := st })
def ALane.over (l : ALane) : Bool := l.st == .done || l.st == .err
def Access.complete (a : Access) : Bool := a.lanes.all ALane.over
/-- ERRM: the lanes with an error response (R206). -/
def Access.errMask (a : Access) : Mask := Mask.ofLanes ((a.lanes.filter (fun l => l.st == .err)).map ALane.lane)
/-- Has a lane an error response? -/
def Access.failed (a : Access) : Bool := a.lanes.any (fun l => l.st == .err)
def LaneSt.isTable : LaneSt → Bool
  | .table _ => true
  | _ => false
def State.accessesOf (s : State) (u : UnitId) : List Access := s.accesses.filter (fun a => a.unit == u)
/-- Has the unit a lane on a live fault-table entry (R432)? -/
def State.faulted (s : State) (u : UnitId) : Bool := (s.accessesOf u).any (fun a => a.lanes.any (fun l => l.st.isTable))

/-- The access kind of R422: 0 read, 1 write, 2 fetch, 3 atomic or HIST. -/
def AccOp.kind : AccOp → Nat
  | .load _ | .sync .. => 0
  | .store | .storeFull | .send _ | .amsg _ | .contour .. | .touch => 1
  | .fetch => 2
  | .probe w => if w then 1 else 0
  | .atom .. | .hist _ => 3

/-- Loads, whose values later stores and atomics wait for (R229). -/
def AccOp.isLoad : AccOp → Bool
  | .load _ | .sync .. | .fetch => true
  | _ => false

/-! ## L1 copies (R197 to R201, R234) -/

/-- The class under which an engine accesses a page: HOMED outside a VALE or DIE domain (R234), and for cores, which have no L1. -/
def State.effClass (s : State) (eng : Option Nat) (c va cls : Nat) : Nat :=
  match eng with
  | none => cls
  | some e =>
    match s.regionOf c va with
    | some r => if (r.dom = 0 ∧ r.vale ≠ e / 4) ∨ (r.dom = 1 ∧ r.die ≠ e / 96) then 2 else cls
    | none => cls

/-- Is the block on its engine, or taking or leaving its place there? -/
def Block.onEngine (k : Block) : Bool :=
  k.ridge && !k.away && (match k.swap with | .res | .prk | .out | .inn => true | _ => false)

/-- The accumulator banks of a block after rounding (R272), and its B slots (R271). -/
def accBanks (acc : Nat) : Nat := (acc + 11) / 12 * 12
def bSlots (acc : Nat) : Nat := if acc = 0 then 0 else max 2 (accBanks acc / 12)

/-- A slice's cache takes the line of a place, `n` more forwarded writes under way; a line that waits for none leaves a full cache (R22, R23). A request from
Vale `v` counts as a hit on a line that its function has filled, or as an HBM read for the line that it fills itself (R199, R472; log
entries 83, 99). -/
def State.homeTouch (s : State) (h place n : Nat) (v : Option Nat) (fn : Nat) : State :=
  if !homed place then s
  else
    let ls := s.homeCache h
    let line := place / 512 * 512
    let old := ls.find? (fun x => x.place == line)
    let new : HomeLine := match old with | some x => { x with fwd := x.fwd + n } | none => { place := line, fwd := n, owner := fn }
    let ls := new :: ls.filter (fun x => x.place != line)
    let s := { s with homes := s.homes.put h (dropIdle ls) }
    let hits := if old.any (fun x => x.owner == fn) then 1 else 0
    let reads := if old.isNone && decide (place < 2 ^ 48) then 1 else 0
    match v with
    | some v => (s.countEvents v fn 0x004 hits).countEvents v fn 0x005 reads
    | none => s

/-- A block's scratchpad with the spill regions of its waves' stacks (R126). -/
def scratchNeed (scr waves : Nat) : Nat := scr + 512 * waves

/-- The bytes of its scratchpad that an engine's blocks hold. -/
def State.scratchHeld (s : State) (e : Nat) : Nat :=
  ((s.blocks.vals.filter (fun k => k.onEngine && k.eng == some e)).map (fun k => scratchNeed k.scr k.bsize)).sum

/-- The ways that the scratchpad lends to the L1: its quarters of 64 KiB that no block touches, the blocks standing in the lowest
(R196; log entry 84). -/
def State.lentWays (s : State) (e : Nat) : Nat := 4 - (s.scratchHeld e + 0xFFFF) / 0x10000

def State.l1Filter (s : State) (e : Nat) (p : Sector → Bool) : State := s.modEngine e (fun g => { g with l1 := g.l1.filter p })
def State.l1Find (s : State) (e c va : Nat) : Option Sector := (s.engine e).l1.find? (fun x => x.ctx == c && x.va == va)

/-- Of the same 512-byte line, and of the same set of 128 (R196; log entry 84). -/
def Sector.sameLine (x y : Sector) : Bool := x.ctx == y.ctx && x.va / 512 == y.va / 512
def Sector.sameSet (x y : Sector) : Bool := x.va / 512 % 128 == y.va / 512 % 128

/-- A sector enters the L1: in the way that holds its line, else in a free way of its set, else in place of another line, whichever. Only
what a load fills, neither dirty nor exclusive, may take a lent way (R196). -/
def State.l1Put (s : State) (e : Nat) (x : Sector) (load : Bool) : State :=
  let lend := load && x.st == .s
  let ls := (s.engine e).l1.filter (fun y => !(y.ctx == x.ctx && y.va == x.va) && (lend || y.way < 12 || !y.sameLine x))
  let n := 12 + (if lend then s.lentWays e else 0)
  let put (s : State) (l : List Sector) (w : Nat) : State := s.modEngine e (fun g => { g with l1 := l ++ [{ x with way := w }] })
  match ls.find? (fun y => y.sameLine x) with
  | some y => put s ls y.way
  | none =>
    let used := (ls.filter (fun y => y.sameSet x)).map Sector.way
    match (List.range n).find? (fun w => !used.contains w) with
    | some w => put s ls w
    | none =>
      let c := s.choose n
      put c.2 (ls.filter (fun y => !(y.sameSet x && y.way == c.1))) c.1

/-- The engine takes back the lent ways that its blocks now need, without write-back (R196). -/
def State.l1Reclaim (s : State) (e : Nat) : State := s.l1Filter e (fun x => decide (x.way < 12 + s.lentWays e))

/-- An acquire drops the S sectors of PRIVATE pages of the engine's L1 (R201). -/
def State.l1Acquire (s : State) (u : UnitId) : State :=
  match s.unitEng u with
  | some e => s.l1Filter e (fun x => x.cls != 0)
  | none => s

/-- The 32-byte sector of a PRIVATE or READONLY page, copied from its home, by a load or a PF: a sector miss (R472). -/
def State.l1Fill (s : State) (e c va cls place : Nat) (load : Bool := true) : State :=
  (s.countEvent (e / 4) (s.ctxFunc c) 0x003).l1Put e { ctx := c, va := va / 32 * 32, cls := cls, st := .s, data := s.bytes (place / 32 * 32) 32 } load

/-- Is the sector a copy of the COHERENT chunk at a place, whatever the context under which it is tagged (R197, R199)? -/
def Sector.ofChunk (x : Sector) (place : Nat) : Bool := x.cls == 3 && x.place == place

/-- Does an engine's L1 hold the COHERENT chunk of an address of a context (R197)? -/
def State.l1Chunk (s : State) (e c chunk : Nat) : Bool := (s.engine e).l1.any (fun x => x.cls == 3 && x.ctx == c && x.va == chunk)

/-- Grants on a COHERENT chunk: a reader that is alone holds E, readers and a PF hold S, a writer holds M alone; a core's write recalls every copy, its
read an owner's (R197, R200, R220). A copy that an L1 holds already serves its reads. -/
def State.l1Coherent (s : State) (eng : Option Nat) (c va place grain : Nat) (write : Bool) (pf : Bool := false) : State :=
  let chunk := va / grain * grain
  let at_ := place / grain * grain
  if !write && eng.any (fun e => s.l1Chunk e c chunk) then s
  else
    let alone := !s.engines.any (fun e => e.2.l1.any (fun x => x.ofChunk at_))
    let s := match eng with
      | some e => if s.l1Chunk e c chunk then s else s.countEvent (e / 4) (s.ctxFunc c) 0x003
      | none => s
    let s := { s with engines := s.engines.map (fun e =>
      (e.1, { e.2 with l1 := if write then e.2.l1.filter (fun x => !x.ofChunk at_)
        else e.2.l1.map (fun x => if x.ofChunk at_ then { x with st := .s } else x) })) }
    match eng with
    | some e =>
      s.l1Put e { ctx := c, va := chunk, cls := 3, st := if write then .m else if alone && !pf then .e else .s, data := [], span := grain, place := at_ }
        (!write && !pf)
    | none => s

/-- Bytes written through to the home also reach the issuing L1's copy of a PRIVATE sector (R200). -/
def patch (old : List Byte) (off : Nat) (new : List Byte) : List Byte := old.take off ++ new ++ old.drop (off + new.length)
def State.l1Patch (s : State) (eng : Option Nat) (c va : Nat) (new : List Byte) : State :=
  match eng with
  | some e => s.modEngine e (fun g => { g with
      l1 := g.l1.map (fun x => if x.ctx == c && x.va == va / 32 * 32 && x.cls != 3 then { x with data := patch x.data (va % 32) new } else x) })
  | none => s

/-! ## Faults -/

/-- The token of a fault-table entry (R428). -/
def tokenOf (die seq idx : Nat) : Nat := die * 2 ^ 14 + seq % 16 * 2 ^ 10 + idx
def FaultTab.token (f : FaultTab) : Nat := tokenOf f.die f.seq f.idx

/-- The fault message of R428, sent to SVCPOS; a FULL or DEAD answer is tried again after 1,000 ticks. -/
def State.sendFault (s : State) (f : FaultTab) (count : Nat) : State :=
  let x := s.ctx f.ctx
  let i := s.newId
  let w1 := f.ctx + f.kinds.toNat * 2 ^ 8 + (if f.sub then 2 ^ 12 else 0) + f.token * 2 ^ 16 + f.gen.toNat * 2 ^ 32
  let m : Msg :=
    { id := i.1, pos := x.svcpos, ctx := f.ctx,
      words := [msgHead 3 4 x.ftype.toNat, 0, f.va, BitVec.ofNat 64 w1, BitVec.ofNat 64 f.src, BitVec.ofNat 64 count, 0, 0] }
  let r := i.2.deliver m
  { r.2 with faults := r.2.faults.map (fun g => if g.die == f.die && g.idx == f.idx then
      { g with sent := r.1 == 0, nextTry := r.2.time + 1000 } else g) }

/-- A fault joins the entry of its page: the kinds unite, and while the message has not been sent, word 0 names the lowest access, with what is said of
it (R428; log entry 101). -/
def FaultTab.join (f : FaultTab) (va : W64) (kinds : BitVec 4) (sub : Bool) (src : Nat) : FaultTab :=
  let f := { f with kinds := f.kinds ||| kinds }
  if !f.sent && decide (va.toNat < f.va.toNat) then { f with va := va, sub := sub, src := src } else f

/-- Opens or joins the fault entry of a page: its token, or none where the table is full (R428). -/
def State.openFault (s : State) (die c : Nat) (va : W64) (kinds : BitVec 4) (sub : Bool) (src count : Nat) : Option Nat × State :=
  let page := va.toNat / 2 ^ 16
  match s.faults.find? (fun f => f.die == die && f.ctx == c && f.page == page && f.gen == (s.ctx c).gen) with
  | some f =>
    (some f.token, { s with faults := s.faults.map (fun g => if g.die == f.die && g.idx == f.idx then g.join va kinds sub src else g) })
  | none =>
    match freeIndex ((s.faults.filter (fun f => f.die == die)).map FaultTab.idx) 1024 with
    | none => (none, s)
    | some i =>
      let seq := s.faultSeq.getD (die * 1024 + i) 0
      let f : FaultTab :=
        { die := die, idx := i, seq := seq, ctx := c, page := page, gen := (s.ctx c).gen, kinds := kinds, va := va,
          sub := sub, src := src }
      let s := { s with faults := s.faults ++ [f], faultSeq := s.faultSeq.put (die * 1024 + i) ((seq + 1) % 16) }
      (some f.token, s.sendFault f count)

/-! ## Performing a lane -/

def sxTo (sx : Bool) (w x : Nat) : W64 := if sx then BitVec.ofInt 64 (signExtInt x w) else BitVec.ofNat 64 x

/-- The new value of an atomic (R217). -/
def atomNew (op : Nat) (sgn : Bool) (w old a new : Nat) : Nat :=
  let lt (x y : Nat) : Bool := if sgn then decide (signExtInt x w < signExtInt y w) else decide (x < y)
  match op with
  | 0 => (old + a) % 2 ^ w
  | 1 => if lt a old then a else old
  | 2 => if lt old a then a else old
  | 3 => Nat.land old a
  | 4 => Nat.lor old a
  | 5 => Nat.xor old a
  | 6 => a
  | 7 => if old = a then new else old
  | 8 => if a ≤ old then 0 else old + 1
  | _ => (fpAdd fmtF32 0 false old a).1

/-- Does a move of a job write the word of a place (R250)? Banks and scratchpads have one place for a word; a general address names the word in
its own context, or by its translation in another. -/
def State.moveAt (s : State) (j : Job) (m : JobMove) (c va place : Nat) : Bool :=
  let a := m.dst.toNat
  if m.scratch then wordOf (scratchPlace (j.blk.getD 0) a) == wordOf place
  else if inLocal a then wordOf (bankPlace j.pos (a - Config.localBase)) == wordOf place
  else if inPlateau a then wordOf (bankPlace (windowPos a) a) == wordOf place
  else homed place && a % 2 ^ 16 / 8 == place % 2 ^ 16 / 8 && ((j.ctx == c && a / 8 == va / 8)
    || (match xlat s .virt j.ctx j.gen j.pos 0 a with | .ok q _ _ => wordOf q == wordOf place | _ => false))

/-- Is the word of an LDSYNC marked by a job that has not written it (R250)? -/
def State.marked (s : State) (c va place : Nat) : Bool :=
  s.jobs.any (fun e => e.2.status == 0 && e.2.moves.any (fun m => !m.written && !m.stf && s.moveAt e.2 m c va place))

/-- An STF overrides the marks on its word (R250). -/
def State.unmark (s : State) (c va place : Nat) : State :=
  { s with jobs := s.jobs.map (fun e =>
      if e.2.status == 0 then
        (e.1, { e.2 with moves := e.2.moves.map (fun m => if s.moveAt e.2 m c va place then { m with stf := true } else m) })
      else e) }

/-- The lanes that stand with a lane of a HIST for one combined step (R316); the lane itself elsewhere. -/
def Access.group (a : Access) (ln : ALane) : List Nat :=
  match a.op with
  | .hist _ => (a.lanes.filter (fun x => x.ea == ln.ea)).map ALane.lane
  | _ => [ln.lane]

/-- An error response to a lane: one error-log entry for each lane that it answers (R206); the lane is not performed. -/
def State.laneError (s : State) (a : Access) (ln : ALane) : State :=
  (a.group ln).foldl (fun s l => (s.setLaneSt a.id l .err).logError 0x02 (s.unitSrc a.unit) (s.ctxFunc a.ctx) 1 ln.ea 0) s

/-- A read of `n` bytes at a place, by an engine under a class: the home's value, or the copy a PRIVATE or READONLY sector holds,
which may be as old as the last acquire (R201). -/
def State.readAt (s : State) (eng : Option Nat) (c va place n cls grain : Nat) : Nat × State :=
  match eng with
  | none =>
    (s.rd place n, if cls == 3 then s.l1Coherent none c va place grain false else s)
  | some e =>
    if cls ≤ 1 then
      let ch := s.choose 2
      let s := ch.2
      match s.l1Find e c (va / 32 * 32) with
      | some x => if ch.1 = 1 then (ofBytesLE ((x.data.drop (va % 32)).take n), s) else (s.rd place n, s.l1Fill e c va cls place)
      | none => (s.rd place n, s.l1Fill e c va cls place)
    else if cls == 3 then (s.rd place n, s.l1Coherent eng c va place grain false)
    else (s.rd place n, s)

/-- The copies of a COHERENT chunk that caches of the host hold are recalled (R243, R457). -/
def State.backInvalidate (s : State) (place grain : Nat) : State :=
  { s with hostHeld := s.hostHeld.filter (fun x => x != place / grain * grain) }

/-- A write of bytes at a place (R200, R210). -/
def State.writeAt (s : State) (eng : Option Nat) (c va place cls grain : Nat) (bs : List Byte) : State :=
  let s := ((s.clearBad place bs.length).putBytes place bs).backInvalidate place grain
  if cls == 0 then s.l1Patch eng c va bs
  else if cls == 3 then s.l1Coherent eng c va place grain true
  else s

/-- LDSYNC reads a full word, and empties it under CONS (R213). -/
def State.syncRead (s : State) (id l place n : Nat) (sx cons : Bool) : State :=
  let v := sxTo sx (8 * n) (s.rd place n)
  let s := if cons then s.emptyWord place else s
  s.modLane id l (fun x => { x with data := v, st := .perf })

/-- Word `i` of a B-slot quarter: data, or its scale entry (R291). -/
def Block.putSlotWord (b : Block) (slot quarter data i : Nat) (v : W64) : Block :=
  let k := 4 * slot + quarter
  if i < data then
    let old := b.bslots.getD k 0
    let m : BitVec 8192 := (v.zeroExtend 8192) <<< (64 * i)
    { b with bslots := b.bslots.put k ((old &&& ~~~(((BitVec.allOnes 64).zeroExtend 8192) <<< (64 * i))) ||| m) }
  else
    let old := b.bscale.getD k 0x7F7F7F7F7F7F7F7F7F7F7F7F7F7F7F7F
    let j := 64 * (i - data)
    { b with bscale := b.bscale.put k ((old &&& ~~~(((BitVec.allOnes 64).zeroExtend 128) <<< j)) ||| ((v.zeroExtend 128) <<< j)) }

/-- Word `i` of a tile image, past its header: the bits of the one or two elements that it holds (R286). -/
def Tile.putWord (t : Tile) (i : Nat) (v : W64) : Tile :=
  let bit := 64 * (i - 8)
  let put (t : Tile) (e : Nat) : Tile :=
    let cols := if t.wide then 64 else 32
    let key := 64 * (e / cols) + e % cols
    let old := t.elems.getD key 0
    let ones : BitVec 96 := BitVec.ofNat 96 ((2 ^ 64 - 1) * 2 ^ bit / 2 ^ (96 * e))
    let new : BitVec 96 := BitVec.ofNat 96 (v.toNat * 2 ^ bit / 2 ^ (96 * e))
    { t with elems := t.elems.put key ((old &&& ~~~ones) ||| new) }
  let e := bit / 96
  if (bit + 63) / 96 = e then put t e else put (put t e) (e + 1)

/-- A load's destination lane is written when its answer arrives (R209). -/
def State.writeDest (s : State) (a : Access) (l : Nat) (v : W64) : State :=
  match a.dest, a.unit with
  | .none, _ => s
  | .reg n, u => s.setReg u n.toNat v
  | .vreg n pair, .wave w =>
    s.modWave w (fun x =>
      let x := x.setV n ((x.vreg n).put l (lo32 v))
      if pair then x.setV (n + 1) ((x.vreg (n + 1)).put l (hi32 v)) else x)
  | .queue q _, .wave w =>
    s.modWave w (fun x => { x with lq := x.lq.put q ((x.lq.getD q []).map (fun e =>
      if e.tag == a.id then
        { e with vals := e.vals.put l (if e.hi then hi32 v else lo32 v), pend := e.pend &&& ~~~(Mask.ofLanes [l]) }
      else e)) })
  | .slot b n q d, _ => s.modBlock b (fun x => x.putSlotWord n q d l v)
  | .tile t, .wave w => s.modWave w (fun x => match x.t.find t with
      | some y => { x with t := x.t.put t (y.putWord l v) }
      | none => x)
  | _, _ => s

/-- A releasing access that is over leaves; its error lanes become an error entry of the fault record (R505). -/
def State.reap (s : State) (id : Nat) : State :=
  match s.access id with
  | none => s
  | some a =>
    if a.holding || !a.complete then s
    else
      let s := { s with accesses := s.accesses.filter (fun b => b.id != id) }
      if !a.failed then s else s.modCom a.unit (fun c => { c with frec := c.frec ++ [a] })

/-- The spin detector notes what an answer `v` has written in a load's destination lane (R133). -/
def State.noteAnswer (s : State) (a : Access) (l : Nat) (v : W64) : State :=
  match a.unit with
  | .thread _ => s
  | .wave i =>
    if (s.wave i).stack.isEmpty then s
    else
      let note (h : W64) (code : Nat) (x : Nat) : W64 := h + Config.spinMix (BitVec.ofNat 64 l) code x
      s.modWave i (fun w =>
        let h := w.spin.hash
        let lane (h : W64) (n : Nat) : W64 := note h (0x100 + n) ((w.vreg n).at l).toNat
        { w with spin := { w.spin with hash := match a.dest with
          | .none | .slot .. => h
          | .reg n => h + Config.spinMix 0 n.toNat (w.kreg n.toNat).toNat
          | .vreg n pair => if pair then lane (lane h n) (n + 1) else lane h n
          | .queue q _ => note h (0x580 + q) v.toNat
          | .tile t => note h (0x300 + t) v.toNat } })

/-- The answer of a performed lane arrives. -/
def State.answerLane (s : State) (id l : Nat) : State :=
  match s.access id with
  | none => s
  | some a => match a.lane l with
    | none => s
    | some ln => if ln.st == .perf then (((s.writeDest a l ln.data).noteAnswer a l ln.data).setLaneSt id l .done).reap id else s.reap id

/-- The oldest LDSYNC lanes waiting on a word that has been filled read it, one after another while it is full and no job marks it for them (R213, R214,
R250). -/
def State.serve (s : State) (place : Nat) : List Waiter → State
  | [] => s
  | w :: t =>
    match w.lane with
    | some (id, l) =>
      if w.key == wordOf place && !s.wordEmpty place then
        match (s.access id).bind (fun a => (a.lane l).map (fun ln => (a, ln))) with
        | some (a, ln) =>
          match a.op with
          | .sync sx cons =>
            if s.marked a.ctx ln.ea.toNat place then s.serve place t
            else
            let s := { s with waiters := s.waiters.filter (· != w) }
            -- the lane's bytes lie in the word that was filled
            (((s.syncRead id l (wordOf place + ln.ea.toNat % 8) a.bytes sx cons).answerLane id l)).serve place t
          | _ => s.serve place t
        | none => s.serve place t
      else s.serve place t
    | none => s.serve place t
def State.serveWord (s : State) (place : Nat) : State := s.serve place s.waiters

/-- A read meets an uncorrectable word: it is logged, with bad parity of a bank for the unit that reads, and the bank's position is dead
(R466, R467). -/
def State.badWord (s : State) (fn : Nat) (u : Option UnitId) (ea : W64) (place : Nat) : State :=
  match placeBank place with
  | some p =>
    let det : W64 := match u with
      | some (.thread t) => (s.thread t).tid
      | some (.wave w) => let x := s.wave w; BitVec.ofNat 64 (x.eng % 4 + x.slot * 4 + x.eng / 4 * 256)
      | none => 0
    (s.logError 0x0E (srcOfPos p 3) fn 1 ea det).modVale (p / 32) (Vale.kill · (p % 32))
  | none => s.logUncorrected place fn

/-- An uncorrectable word makes the read an error response; an issuer on the core of the bank ends with its core, and that entry is the only
record (R466, R467). -/
def State.badAnswer (s : State) (a : Access) (ln : ALane) (place : Nat) : State :=
  let s := s.badWord (s.ctxFunc a.ctx) (some a.unit) ln.ea place
  let own : Bool := match a.unit, placeBank place with | .thread u, some p => (s.thread u).pos == p | _, _ => false
  if own then s.setLaneSt a.id ln.lane .err else s.laneError a ln

/-- What a lane does at its point of performance. -/
def State.effect (s : State) (a : Access) (ln : ALane) (place cls grain : Nat) : State :=
  let n := a.bytes
  let va := ln.ea.toNat
  let eng := s.unitEng a.unit
  let cls := s.effClass eng a.ctx va cls
  let put (s : State) (v : W64) : State := s.modLane a.id ln.lane (fun x => { x with data := v, st := .perf })
  match a.op with
  | .fetch => put s (BitVec.ofNat 64 (s.rd place 8))
  | .load sx =>
    let r := s.readAt eng a.ctx va place n cls grain
    put r.2 (sxTo sx (8 * n) r.1)
  | .store => put (s.writeAt eng a.ctx va place cls grain (bytesLE n ln.data.toNat)) 0
  | .storeFull =>
    let s := s.writeAt eng a.ctx va place cls grain (bytesLE n ln.data.toNat)
    ((put s 0).fillWord place |>.unmark a.ctx va place).serveWord place
  | .sync sx cons =>
    if s.wordEmpty place || s.marked a.ctx va place then
      { (s.setLaneSt a.id ln.lane .waiting) with waiters := s.waiters ++ [⟨wordOf place, a.unit, some (a.id, ln.lane)⟩] }
    else (if cls == 3 then s.l1Coherent eng a.ctx va place grain cons else s).syncRead a.id ln.lane place n sx cons
  | .atom op sgn nr =>
    let old := s.rd place n
    let new := atomNew op sgn (8 * n) old (ln.data.toNat % 2 ^ (8 * n)) (ln.data2.toNat % 2 ^ (8 * n))
    put (s.writeAt eng a.ctx va place cls grain (bytesLE n new)) (if nr then 0 else BitVec.ofNat 64 old)
  | .hist sat =>
    let old := s.rd place n
    let x := old + ln.data.toNat + ln.data2.toNat * 2 ^ 64
    let new := if sat then min x (2 ^ (8 * n) - 1) else x % 2 ^ (8 * n)
    put (s.writeAt eng a.ctx va place cls grain (bytesLE n new)) 0
  | .probe w => put (if w then s.emptyWord place else s) 0
  | .send _ | .amsg _ | .contour .. | .touch => put s 0

/-- Is a lane of a wave one that its engine's L1 performs: a COHERENT page's, or a load that hits a copy there (R225, R227)? Where the page is not
known yet, it is `unknown`. -/
def State.laneInL1 (s : State) (a : Access) (ln : ALane) (unknown : Bool) : Bool :=
  match s.unitEng a.unit, a.space with
  | some e, .virt =>
    let va := ln.ea.toNat
    (match xlat s .virt a.ctx a.gen a.pos a.op.kind va with
      | .ok _ cls _ =>
        let k := s.effClass (some e) a.ctx va cls
        k == 3 || (decide (k ≤ 1) && a.op.isLoad && (s.l1Find e a.ctx (va / 32 * 32)).isSome)
      | .miss _ => unknown && !inPlateau va
      | _ => false)
  | _, _ => false

/-- A store without a result: its home may let the device see it before the host or a peer has it (R236). -/
def AccOp.isStore : AccOp → Bool
  | .store | .storeFull => true
  | _ => false

/-- Has a lane of an access not been performed, with nothing recorded of it? -/
def ALane.underway (op : AccOp) (x : ALane) : Bool := x.st == .pend || x.st == .walk || x.st == .recall || (x.st == .forwarded && !op.isStore)

/-- Do two lanes meet at one home, of accesses `a` and `b`? -/
def State.sameHome (s : State) (a b : Access) (ln x : ALane) : Bool :=
  s.homeOf b.space b.ctx b.pos x.ea.toNat == s.homeOf a.space a.ctx a.pos ln.ea.toNat

/-- Is a lane of the same instruction to be performed first: a lower one at the same address, in a HIST at the same home, and a lower word of an image
(R207, R287, R316)? -/
def State.lowerFirst (s : State) (a : Access) (ln x : ALane) : Bool :=
  decide (x.lane < ln.lane) && (x.ea == ln.ea || a.image.isSome || (match a.op with | .hist _ => s.sameHome a a ln x | _ => false))

/-- Lanes of the unit that come earlier and have not been performed hold a lane back, at the same home or in the same L1, where a lane counts whose page
is still being walked (R207, R227; log entry 102). -/
def State.mayPerform (s : State) (a : Access) (ln : ALane) : Bool :=
  (s.accessesOf a.unit).all (fun b =>
    if decide (a.id < b.id) then true
    else b.lanes.all (fun x => !(x.underway b.op
      && (if b.id == a.id then s.lowerFirst a ln x else s.sameHome a b ln x || (s.laneInL1 b x true && s.laneInL1 a ln false)))))

/-- Has the home answered FAULT to an earlier access of the unit, or to a lower lane of this one, that waits for its replay (R207, R430)? -/
def State.heldBack (s : State) (a : Access) (ln : ALane) : Bool :=
  (s.accessesOf a.unit).any (fun b => decide (b.id ≤ a.id) && b.lanes.any (fun x =>
    (x.st.isTable || x.st == .held) && (if b.id == a.id then s.lowerFirst a ln x else s.sameHome a b ln x)))

/-- The words that a message lane carries: those of a SEND or TASK, or an active message with the offset in the bank and the payload. -/
def msgWords (op : AccOp) (ln : ALane) : Option (List W64) :=
  match op with
  | .send ws => some ws
  | .amsg ty => some [msgHead 1 2 ty, ln.data2, BitVec.ofNat 64 (ln.ea.toNat % 2 ^ 18), ln.data, 0, 0, 0, 0]
  | _ => none

/-- A message reaches its inbox: its status, or an error response where the Vale is offline or another partition's (R219, R263); it waits at
the interface for a walk of the overflow region's page (R262, R424). -/
def State.messageLane (s : State) (a : Access) (ln : ALane) (ws : List W64) : State :=
  let p := if inLocal ln.ea.toNat then a.pos else windowPos ln.ea.toNat
  if !s.holdsVale (s.ctxFunc a.ctx) (p / 32) then s.laneError a ln
  else
    let r := s.deliver { id := s.fresh, pos := p, words := ws, ctx := a.ctx }
    if r.1 = 3 then r.2.modLane a.id ln.lane (fun x => { x with st := .walk, fwd := some ((s.position p).overflowAt, 0, 0) })
    else r.2.newId.2.modLane a.id ln.lane (fun x => { x with data := BitVec.ofNat 64 r.1, st := .perf, fwd := none })

/-- The address that a lane's home translates: a message's inbox takes none, but for its overflow region; a closing tile's is that of the next
word to store. -/
def laneVa (op : AccOp) (ln : ALane) : W64 :=
  match op, ln.fwd with
  | .contour t (.tileClose cbase wt ht), _ => closedAddr cbase wt ht t ln.lane ln.data2.toNat
  | .send _, some (va, _, _) => BitVec.ofNat 64 va
  | .amsg _, some (va, _, _) => BitVec.ofNat 64 va
  | _, _ => ln.ea

/-- A lane's fault: it stands on the fault-table entry of its page, or waits where the table is full (R428, R430). -/
def State.laneFault (s : State) (a : Access) (ln : ALane) (va : W64) (sub : Bool) : State :=
  let kind := a.op.kind
  let cache := if inPlateau va.toNat then 192 + windowPos va.toNat / 32 else s.sliceOf a.ctx va.toNat
  let r := s.openFault (cacheDie cache) a.ctx va (BitVec.ofNat 4 (2 ^ kind)) sub (cacheSrc cache) 1
  match r.1 with
  | some t => r.2.setLaneSt a.id ln.lane (.table t)
  | none => r.2.setLaneSt a.id ln.lane .walk

/-- Is the place in host or peer memory? -/
def placeOut (place : Nat) : Bool := decide (2 ^ 64 ≤ place) && decide (place < 2 ^ 80)

/-- A closing tile's stores, as many as `n`: COVER to the closed tile in ascending order, then the slot is free; a store that cannot be
made stops them. One to the host or a peer in the SYSTEM domain may wait for its acknowledgement: choice 1 (R234, R349, R458; log entry 1). -/
def State.closeStores (s : State) (a : Access) (ln : ALane) (p slot : Nat) (cbase : W64) (wt ht : Nat) (t : TileRef) : Nat → Nat → State
  | 0, i => s.modLane a.id ln.lane (fun x => { x with data2 := BitVec.ofNat 64 i })
  | n + 1, i =>
    if 256 ≤ i then (s.freeSlot p slot).modLane a.id ln.lane (fun x => { x with data := 0, st := .perf })
    else
      let va := closedAddr cbase wt ht t ln.lane i
      let s0 := s.modLane a.id ln.lane (fun x => { x with data2 := BitVec.ofNat 64 i })
      match (if addrBad false va then .error else xlat s a.space a.ctx a.gen p 1 va.toNat) with
      | .error => (s0.modLane a.id ln.lane (fun x => { x with ea := va, st := .err })).logError 0x02 (s.unitSrc a.unit) (s.ctxFunc a.ctx) 1 va 0
      | .miss c => (s0.setLaneSt a.id ln.lane .walk).startWalk c a.ctx va.toNat 1
      | .fault sub => s0.laneFault a ln va sub
      | .ok place cls grain =>
        let ch := if placeOut place && s.domOf a.ctx va.toNat == 3 then s.choose 2 else (0, s)
        let old := s.rd place 8
        let s1 := ch.2.writeAt none a.ctx va.toNat place cls grain (s.bytes (bankPlace p (slot + 0x400 + 8 * i)) 8)
        if ch.1 = 1 && s.homeRoom (s.sliceOf a.ctx va.toNat) place then
          (match s.homeOf a.space a.ctx p va.toNat with
            | .slice h => s1.homeTouch h place 1 (some (p / 32)) (s.ctxFunc a.ctx)
            | _ => s1).modLane a.id ln.lane (fun x =>
              { x with data := BitVec.ofNat 64 old, data2 := BitVec.ofNat 64 i, st := .forwarded, fwd := some (place, cls, grain) })
        else s1.closeStores a ln p slot cbase wt ht t n (i + 1)

/-- The other side answers a closing tile's store that its home has sent on: the next one follows, or the slot stays open and the lane has an error, with
the word as it was where nothing has been written over it (R349, R458). The slot may be another tile's by now: then the lane goes on as one
whose view has no open slot. -/
def State.closeAnswer (s : State) (fail : Bool) (a : Access) (ln : ALane) (p : Nat) (slot : Option Nat) (cbase : W64) (wt ht : Nat) (t : TileRef)
    (place cls grain : Nat) : State :=
  let i := ln.data2.toNat
  let va := closedAddr cbase wt ht t ln.lane i
  let s := s.homeAcked place
  if !fail then s.modLane a.id ln.lane (fun x => { x with data := 0, data2 := BitVec.ofNat 64 (i + 1), st := .pend, fwd := none })
  else
    let s := if slot.any (fun slot => s.bytes place 8 == s.bytes (bankPlace p (slot + 0x400 + 8 * i)) 8)
      then s.writeAt none a.ctx va.toNat place cls grain (bytesLE 8 ln.data.toNat) else s
    (s.modLane a.id ln.lane (fun x => { x with ea := va, st := .err, fwd := none })).logError 0x02 (s.unitSrc a.unit) (s.ctxFunc a.ctx) 1 va 0

/-- A message reaches a Contour unit. An owner that cannot be reached, dead or on an offline Vale, gives an error response (log entry
32). Choice `n > 0` makes the unit write no more than `n` words or entries in this step (log entry 1). -/
def State.contourLane (s : State) (a : Access) (ln : ALane) (t : TileRef) (o : ContourOp) : State :=
  let p := windowPos ln.ea.toNat
  let fn := s.ctxFunc a.ctx
  let view := ln.lane
  let put (s : State) (v : W64) : State := s.modLane a.id ln.lane (fun x => { x with data := v, st := .perf })
  let bad : Option Nat := match o with
    | .segment .. | .resolve .. | .tileClose .. =>
      (s.tileAt p (tileKey t view)).bind (fun slot => if s.badRead (bankPlace p slot) 0x3000 then some (bankPlace p slot) else none)
    | _ => none
  if !s.bankReach fn p then s.laneError a ln
  else match bad, o with
  | some place, _ => s.badAnswer a ln place
  | none, o => match o with
  | .segment pts tri => put ((s.segmentAt p fn t view pts tri).countEvents (a.pos / 32) fn 0x009 (s.segmentCount p t view pts tri)) 0
  | .frags pts prim shader nv scr =>
    put ((s.fragsAt p fn a.ctx t view pts prim shader nv scr).countEvents (a.pos / 32) fn 0x009
      (if shader == 0 then 0 else s.pieceCount p t view pts true)) 0
  | .tileOpen => let r := s.openTile p t view; put r.2 r.1
  | .resolve evenOdd frag clr shader nv scr =>
    (match s.tileAt p (tileKey t view) with
      | none => put s 2
      | some slot =>
        let r := s.resolveSlot p slot evenOdd clr
        let v : W64 := if r.2.1 then 1 else 0
        let bodies := if frag && shader != 0 then r.1.zipIdx.filterMap (fun e => if e.1 = 0 then none else some (fragBody t view 0 0 e.2 e.1 (0, 0)))
          else []
        if bodies.isEmpty then put r.2.2 v
        else (r.2.2.sendFrags p a.ctx shader nv scr bodies (some (a.id, ln.lane))).modLane a.id ln.lane
          (fun x => { x with data := v, st := .waiting }))
  | .tileClose cbase wt ht =>
    (match s.tileAt p (tileKey t view) with
      | none => put s 2
      | some slot =>
        let c := s.choose 257
        c.2.closeStores a ln p slot cbase wt ht t (if c.1 = 0 then 257 else c.1) ln.data2.toNat)
  | .view es =>
    let i := ln.data2.toNat
    let c := s.choose 129
    let n := if c.1 = 0 then es.length - i else c.1
    let s := c.2.writeViews p t.vt i ((es.drop i).take n)
    if es.length ≤ i + n then put s 0 else s.modLane a.id ln.lane (fun x => { x with data2 := BitVec.ofNat 64 (i + n) })

/-- An access is made at its home, whose cache then holds the line, for a request from a Vale or of a controller (R199). -/
def State.homeUseBy (s : State) (v : Option Nat) (sp : Space) (c pos va place : Nat) : State :=
  match s.homeOf sp c pos va with
  | .slice h => s.homeTouch h place 0 v (s.ctxFunc c)
  | _ => s

/-- An access of a unit or a job at position `pos` is made at its home. -/
def State.homeUse (s : State) (sp : Space) (c pos va place : Nat) : State := s.homeUseBy (some (pos / 32)) sp c pos va place

/-- Does the copy in the issuing engine's L1 answer a load, so that its home is not asked (R197, R200, R201)? For a PRIVATE or READONLY sector
the next choice says so (log entry 1). -/
def State.l1Answers (s : State) (a : Access) (va cls : Nat) : Bool :=
  match a.op, s.unitEng a.unit with
  | .load _, some e =>
    let cls := s.effClass (some e) a.ctx va cls
    if cls ≤ 1 then (s.choose 2).1 == 1 && (s.l1Find e a.ctx (va / 32 * 32)).isSome
    else cls == 3 && (s.engine e).l1.any (fun x => x.cls == 3 && x.ctx == a.ctx && decide (x.va ≤ va) && decide (va < x.va + x.span))
  | _, _ => false

/-- May an access go to the other side before it is performed, or its write before it counts as performed: a page of the host or of a peer, but for a
read of a line that the home caches and a write outside the SYSTEM domain (R234 to R236, R458)? -/
def State.mayForward (s : State) (a : Access) (va place : Nat) : Bool :=
  placeOut place && (if a.op.isStore then s.domOf a.ctx va == 3 else !(a.op.kind == 0 && !(s.homesOf place).isEmpty))

/-- Must caches of the host give up a COHERENT chunk before the access is performed (R243)? -/
def State.recalls (s : State) (a : Access) (place cls grain : Nat) : Bool :=
  cls == 3 && (a.op.kind == 1 || a.op.kind == 3) && s.hostHeld.contains (place / grain * grain)

/-- A write that its home sends on: every observer on the device sees it now, and the home keeps its line until the other side acknowledges it
(R236). The lane keeps the bytes that stood there. -/
def State.forwardStore (s : State) (a : Access) (ln : ALane) (h place cls grain : Nat) : State :=
  let old := s.rd place a.bytes
  let s := s.writeAt (s.unitEng a.unit) a.ctx ln.ea.toNat place (s.effClass (s.unitEng a.unit) a.ctx ln.ea.toNat cls) grain (bytesLE a.bytes ln.data.toNat)
  let s := s.modLane a.id ln.lane (fun x => { x with data2 := BitVec.ofNat 64 old, st := .forwarded, fwd := some (place, cls, grain) })
  let s := s.homeTouch h place 1 (some (a.pos / 32)) (s.ctxFunc a.ctx)
  match a.op with
  | .storeFull => ((s.fillWord place).unmark a.ctx ln.ea.toNat place).serveWord place
  | _ => s

/-- The other side answers an access that its home has sent on, with an error where `fail` is set: a write that it refuses is undone where nothing
has been written over it (R206, R236, R458). -/
def State.forwardOver (s : State) (fail : Bool) (id l : Nat) : State :=
  match (s.access id).bind (fun a => (a.lane l).map (fun ln => (a, ln))) with
  | none => s
  | some (a, ln) => match ln.fwd with
    | none => s
    | some (place, cls, grain) =>
      if ln.st != .forwarded then s
      else if a.op.isStore then
        let s := s.homeAcked place
        if !fail then s.modLane id l (fun x => { x with data := 0, st := .perf })
        else
          let s := if s.rd place a.bytes == ln.data.toNat % 2 ^ (8 * a.bytes) then
              s.writeAt (s.unitEng a.unit) a.ctx ln.ea.toNat place cls grain (bytesLE a.bytes ln.data2.toNat) else s
          s.laneError a ln
      else match a.op with
        | .contour t (.tileClose cbase wt ht) =>
          let p := windowPos ln.ea.toNat
          s.closeAnswer fail a ln p (s.tileAt p (tileKey t ln.lane)) cbase wt ht t place cls grain
        | _ => if fail then s.laneError a ln else s.effect a ln place cls grain

/-- A lane whose address is translated is performed at its home (R225), which refuses a HIST of a COHERENT page (R316). -/
def State.performHere (s : State) (a : Access) (ln : ALane) (place cls grain : Nat) : State :=
  let va := ln.ea.toNat
  let bad : Bool := (a.op.kind == 0 || a.op.kind == 2 || a.op.kind == 3) && s.badRead place a.bytes
  if bad then s.badAnswer a ln place
  else
    -- a store of a whole word reads nothing
    let t := if a.op.kind == 1 && a.bytes == 8 then s else s.correct place a.bytes (s.ctxFunc a.ctx)
    let t := if s.l1Answers a va cls then t else t.homeUse a.space a.ctx a.pos va place
    t.effect a ln place cls grain

/-- A lane whose address is translated: performed, or held until caches of the host have given up its chunk, which then is asked for again, or sent on to
the host or a peer, where its home can keep the line meanwhile; choice 1 keeps it on its way (R36, R236, R243, R458; log entry 1). -/
def State.performAt (s : State) (a : Access) (ln : ALane) (place cls grain : Nat) : State :=
  let h : Option Nat := match s.homeOf a.space a.ctx a.pos ln.ea.toNat with | .slice h => some h | _ => none
  match a.op, cls with
  | .hist _, 3 => s.laneError a ln
  | _, _ =>
    if s.recalls a place cls grain then
      let ch := s.choose 2
      let t := ch.2.backInvalidate place grain
      if ch.1 = 1 then t.setLaneSt a.id ln.lane .recall else t.performHere a ln place cls grain
    else if s.mayForward a ln.ea.toNat place then
      let ch := s.choose 2
      if ch.1 = 1 then
        (if !a.op.isStore then ch.2.modLane a.id ln.lane (fun x => { x with st := .forwarded, fwd := some (place, cls, grain) })
        else if s.homeRoom (h.getD 0) place then ch.2.forwardStore a ln (h.getD 0) place cls grain
        else ch.2.performHere a ln place cls grain)
      else ch.2.performHere a ln place cls grain
    else s.performHere a ln place cls grain

/-- A lane reaches its home: performed, faulted, held back, waiting for a walk, or an error (R206). -/
def State.performLane (s : State) (id l : Nat) : State :=
  match s.access id with
  | none => s
  | some a => match a.lane l with
    | none => s
    | some ln =>
      if s.heldBack a ln then s.setLaneSt id l .held
      else match a.op, msgWords a.op ln with
      | .contour t o, _ => s.contourLane a ln t o
      | _, some ws => s.messageLane a ln ws
      | _, none =>
        let kind := a.op.kind
        match xlat s a.space a.ctx a.gen a.pos kind ln.ea.toNat with
        | .error => s.laneError a ln
        | .miss c => (s.setLaneSt id l .walk).startWalk c a.ctx ln.ea.toNat kind
        | .fault sub => s.laneFault a ln ln.ea sub
        | .ok place cls grain => (s.useEntry a.space a.ctx ln.ea.toNat).performAt a ln place cls grain

/-- A lane at its home, and its answer at once. -/
def State.performAnswer (s : State) (id l : Nat) : State := (s.performLane id l).answerLane id l

/-- Sends the lanes of an access in ascending order; each is performed and answered at once unless the order of things holds it
back (log entry 1) or an earlier lane at its home does. Choice 1 leaves the lane on its way, 2 performs it and leaves its answer on
its way. -/
def State.sendLanes (s : State) (id : Nat) : List Nat → State
  | [] => s
  | l :: t =>
    match (s.access id).bind (fun a => (a.lane l).map (fun ln => (a, ln))) with
    | some (a, ln) =>
      -- a lane that stands with another of a HIST is not sent itself
      if ln.st != .pend then s.sendLanes id t
      else
      let ch := s.choose 3
      let s := ch.2
      if ch.1 = 1 || !s.mayPerform a ln then s.sendLanes id t
      else if ch.1 = 2 then (s.performLane id l).sendLanes id t
      else (s.performAnswer id l).sendLanes id t
    | none => s.sendLanes id t

/-- Sends the lanes of an access that has its number. -/
def State.launchAccess (s : State) (a : Access) : State :=
  (({ s with accesses := s.accesses ++ [a] }).sendLanes a.id (a.lanes.map ALane.lane)).reap a.id

/-- Issues an access: gives it a number and sends its lanes (R206). -/
def State.issue (s : State) (a : Access) : Nat × State :=
  let i := s.newId
  (i.1, i.2.launchAccess { a with id := i.1 })

/-! ## Waiting for accesses -/

/-- Brings the lanes of one access forward as far as their homes allow: sends, performs and answers them in order. -/
def State.settleLanes (s : State) (id : Nat) : List Nat → State
  | [] => s
  | l :: t =>
    match (s.access id).bind (fun a => (a.lane l).map (fun ln => (a, ln))) with
    | some (a, ln) =>
      (match ln.st with
        | .pend => if s.mayPerform a ln then s.performAnswer id l else s
        | .recall => s.performAnswer id l
        | .forwarded => (s.forwardOver false id l).answerLane id l
        | .perf => s.answerLane id l
        | _ => s).settleLanes id t
    | none => s.settleLanes id t
def State.settleAll (s : State) : List Access → State
  | [] => s
  | a :: t => ((s.settleLanes a.id (a.lanes.map ALane.lane)).reap a.id).settleAll t

/-- Does every access of the unit that `need` names have all its answers? Error lanes count as answered. -/
def State.answered (s : State) (u : UnitId) (need : Access → Bool) : Bool :=
  (s.accessesOf u).all (fun a => !need a || a.complete)

/-- Waits for the accesses of a unit that `need` names: those on their way are brought forward in program order, as the wait makes
them be; false where a lane still waits for a walk, a fault's reply or a word to fill. -/
def State.settle (s : State) (u : UnitId) (need : Access → Bool) : Bool × State :=
  if s.answered u need then (true, s)
  else
    let s := s.settleAll (s.accessesOf u)
    (s.answered u need, s)

/-- Does a unit stand before or in its replay: homes hold lanes of it, or replies have come for them (R430)? -/
def State.replaying (s : State) (u : UnitId) : Bool := (s.accessesOf u).any (fun a => a.lanes.any (fun l => l.st == .held))

/-- Held lanes are performed in order, each one only after the one before: the first that its home cannot perform yet stops the replay. -/
def State.replayLanes (s : State) : List (Nat × Nat) → State
  | [] => s
  | (id, l) :: t =>
    let s := (s.setLaneSt id l .pend).performAnswer id l
    match (s.access id).bind (fun a => a.lane l) with
    | some ln => if ln.st == .done || ln.st == .err || ln.st == .perf || ln.st == .waiting then s.replayLanes t else s
    | none => s.replayLanes t

/-- The lanes of a unit that are held, in issue order and ascending lane order. -/
def State.heldLanes (s : State) (u : UnitId) : List (Nat × Nat) :=
  (s.accessesOf u).flatMap (fun a => (a.lanes.filter (fun l => l.st == .held)).map (fun l => (a.id, l.lane)))

/-- Has a lane that the replay has reached yet to be performed, its page being walked or its access being on its way to another side? -/
def State.replayWaits (s : State) (u : UnitId) : Bool :=
  (s.accessesOf u).any (fun a => a.lanes.any (fun l => l.st == .walk || l.st == .forwarded || l.st == .recall))

/-- The lanes that homes have held, and those replied to, are replayed in order, once the unit waits for no other reply (R206, R430). -/
def State.replay (s : State) (u : UnitId) : State :=
  if s.faulted u || !s.replaying u || s.replayWaits u then s else s.replayLanes (s.heldLanes u)

end Sys2Proof.Machine
end

