-- ==== Sys2Proof/Machine/Bins.lean ====
section
/-! DEFINITION. The bins of the Col gatherer (R117, R119, R350, R372): what a request asks, the order of first attempts, and a thread
that enters. -/

namespace Sys2Proof.Machine

/-- A thread's or a wave's PC: the bundle at which it stands, APC for a wave. -/
def State.pcOf (s : State) : UnitId → W64
  | .thread u => (s.thread u).pc
  | .wave w => (s.wave w).apc

def Bin.takes (b : Bin) (k : BinKey) : Bool :=
  b.closed.isNone && b.target == k.target && b.tmpl == k.tmpl && b.ctx == k.ctx && b.fpctl == k.fpctl && b.frag == k.frag
    && decide (b.entries.length < 64)

/-- The open bin of a key, or a free bin. -/
def Vale.binFor (v : Vale) (k : BinKey) : Option Nat :=
  match v.bins.find? (fun e => e.2.takes k) with
  | some e => some e.1
  | none => freeIndex v.bins.keys 16

/-- Enters one entry: a full bin is emitted, with CAUSE 0 (3 for fragments, R350); false where no bin can take it. -/
def State.binEnter (s : State) (v : Nat) (k : BinKey) (key : Nat) (body : BinBody) : Bool × State :=
  match (s.vale v).binFor k with
  | none => (false, s)
  | some b =>
    let n := s.newId
    let old : Bin := ((s.vale v).bins.find b).getD
      { target := k.target, tmpl := k.tmpl, ctx := k.ctx, fpctl := k.fpctl, frag := k.frag, nv := k.nv, scr := k.scr,
        entries := [], oldest := s.time }
    let es := old.entries ++ [{ key := key, arrival := n.1, body := body }]
    let new := { old with entries := es, closed := if es.length = 64 then some (if k.frag then 3 else 0) else none }
    (true, n.2.modVale v (fun x => { x with bins := x.bins.put b new }))

/-- A count for each key: the entries that it asks for. -/
def bumpKey (k : BinKey) : List (BinKey × Nat) → List (BinKey × Nat)
  | [] => [(k, 1)]
  | (j, n) :: t => if j = k then (j, n + 1) :: t else (j, n) :: bumpKey k t

/-- Has the Vale, for every key, a bin with room for its entries, or a free bin (R117, R372)? -/
def Vale.room (v : Vale) (ks : List BinKey) : Bool :=
  let need := ks.foldl (fun l k => bumpKey k l) []
  let fresh := need.filter (fun e => match v.bins.find? (fun b => b.2.takes e.1) with
    | some b => decide (64 < b.2.entries.length + e.2)
    | none => true)
  decide (fresh.length + v.bins.length ≤ 16)

/-- The thread that a lane stands for, if it stands for one. -/
def Wave.laneThread (w : Wave) (l : Nat) : Option Nat := w.lanes.find l

/-- FPCTL that a lane carries: its thread's, or the wave's for a lane of a launch. -/
def State.laneFpctl (s : State) (w l : Nat) : BitVec 6 :=
  match (s.wave w).laneThread l with
  | some t => (s.thread t).c.fpctl
  | none => (s.wave w).c.fpctl

/-- What the PASS.RIDGE or REPACK at a unit's PC asks of the gatherer, without the header's fields. -/
def State.binRequest (s : State) (u : UnitId) : List BinKey :=
  let key (off : W32) (t : BitVec 4) (fp : BitVec 6) : BinKey :=
    { target := s.pcOf u + (immOf off <<< (3 : Nat)), tmpl := t.toNat, ctx := (s.com u).ctx, fpctl := fp, frag := false, nv := 0, scr := 0 }
  match (s.com u).after, (s.com u).bundle.map Bundle.ci with
  | some (.bin _ k _ _), _ => [k]
  | _, some (.passRidge _ t off) => [key off t (s.com u).fpctl]
  | _, some (.repack _ t off) =>
    (match u with
      | .thread _ => [key off t (s.com u).fpctl]
      | .wave w => (Mask.lanes (s.wave w).exec).map (fun l => key off t (s.laneFpctl w l)))
  | _, _ => []

/-- May a unit's request be served: there is room, and no older request waits that could be taken (R117)? -/
def State.binTurn (s : State) (v : Nat) (u : UnitId) : Bool :=
  let x := s.vale v
  x.room (s.binRequest u)
    && (x.binWait.takeWhile (· != u)).all (fun o => !s.unitExists o || (s.binRequest o).isEmpty || !x.room (s.binRequest o))

/-- The request waits in the order of first attempts. -/
def State.binWaits (s : State) (v : Nat) (u : UnitId) : State :=
  s.modVale v (fun x => { x with binWait := if x.binWait.contains u then x.binWait else x.binWait ++ [u] })
def State.binServed (s : State) (v : Nat) (u : UnitId) : State :=
  s.modVale v (fun x => { x with binWait := x.binWait.filter (· != u) })

/-- A thread whose accesses are performed enters a bin in its turn: it leaves its slot, whose home slot stays AWAY (R114, R117). -/
def State.joinBin (s : State) (t v : Nat) (k : BinKey) (key : Nat) (retpos : Option Nat) : Option State :=
  if !s.binTurn v (.thread t) then none
  else
    let e := (s.binServed v (.thread t)).binEnter v k key (.thread t)
    let b := ((s.vale v).binFor k).getD 0
    some (e.2.modThread t (fun x => { x with
      retpos := retpos, loc := .bin v b, pc := k.target, slotBit := false,
      c := { x.c with bundle := none, exempt := false, parkedAt := some x.pos } }))

end Sys2Proof.Machine
end

