-- ==== Sys2Proof/Machine/Paths.lean ====
section
/-! DEFINITION. The divergence masks and the stack of a wave (R126 to R132): leaving lanes, the choice of the next path, returns of
service groups, and the timeout of a WAITR. -/

namespace Sys2Proof.Machine

/-- Lanes leave LIVE, EXEC and every mask of the stack (R111, R123). -/
def Wave.removeLanes (w : Wave) (m : Mask) : Wave :=
  { w with
    live := w.live &&& ~~~m
    exec := w.exec &&& ~~~m
    stack := w.stack.map (fun e => { e with outer := e.outer &&& ~~~m, pend := e.pend &&& ~~~m }) }

/-- Runs lanes at a PC; a switch of path resets the spin detector, and the same lanes going on do not (R133). -/
def Wave.runAt (w : Wave) (m : Mask) (pc : W64) : Wave := { w with exec := m, apc := pc, spin := if m = w.exec then w.spin else {} }

/-- The group of returned lanes that came back first among those of the present depth (R129 rule 2). -/
def firstBack (depth : Nat) : List SvcGroup → Option SvcGroup
  | [] => none
  | g :: t =>
    let r := firstBack depth t
    match g.back with
    | some n => if g.depth = depth then
        (match r with
          | some h => if n ≤ h.back.getD 0 then some g else some h
          | none => some g)
      else r
    | none => r

/-- The oldest late group whose lanes have returned (R129 rule 5, R132). -/
def firstLate : List SvcGroup → Option SvcGroup
  | [] => none
  | g :: t => if g.back.isSome then some g else firstLate t

/-- The choice of R129 over the stack, top first, when the current path has ended (`ran` none) or waits with the lanes `ran`. True
where a path runs, false where the wave issues nothing. -/
def selectFrom (w : Wave) (ran : Mask) : List DivEntry → Wave × Bool
  | top :: rest =>
    let depth := rest.length + 1
    if top.pend != 0 then
      (({ w with stack := { top with pend := 0 } :: rest }).runAt top.pend top.ppc, true)
    else match firstBack depth w.groups with
      | some g => (({ w with stack := top :: rest, groups := w.groups.filter (· != g) }).runAt g.lanes g.pc, true)
      | none =>
        let others := top.outer &&& w.live &&& ~~~w.absent &&& ~~~ran
        if others != 0 && top.jpc != 0 then (({ w with stack := top :: rest }).runAt others top.jpc, true)
        else if top.outer &&& w.live == 0 then selectFrom { w with stack := rest } ran rest
        else ({ w with stack := top :: rest, exec := 0 }, false)
  | [] =>
    match firstBack 0 w.groups with
    | some g => (({ w with stack := [], groups := w.groups.filter (· != g) }).runAt g.lanes g.pc, true)
    | none =>
      if w.live == 0 then
        match firstLate w.lateGroups with
        | some g =>
          (({ w with stack := [], live := g.lanes, late := w.late &&& ~~~g.lanes, lateRun := true,
                     lateGroups := w.lateGroups.filter (· != g) }).runAt g.lanes g.pc, true)
        | none => ({ w with stack := [], exec := 0 }, false)
      else ({ w with stack := [], exec := 0 }, false)

def Wave.select (w : Wave) (ran : Mask) : Wave × Bool := selectFrom w ran w.stack

/-- Has the wave ended: no lane live, none late (R132)? -/
def Wave.over (w : Wave) : Bool := w.live == 0 && w.late == 0 && w.groups.isEmpty && w.absent == 0

/-- Lane `l` returns from its service call: it leaves ABSENT and forms a returned group, or a returned late group (R131, R132). -/
def Wave.laneBack (w : Wave) (l : Nat) (order : Nat) : Wave :=
  let b := Mask.ofLanes [l]
  let split (gs : List SvcGroup) : List SvcGroup :=
    gs.flatMap (fun g => if g.back.isNone && g.lanes.getLsbD l then
      (if g.lanes &&& ~~~b == 0 then [] else [{ g with lanes := g.lanes &&& ~~~b }]) ++ [{ g with lanes := b, back := some order }]
      else [g])
  { w with absent := w.absent &&& ~~~b, groups := split w.groups, lateGroups := split w.lateGroups }

/-- The limit of a WAITR ends: the missing lanes become late, leave LIVE and every stack mask (R130). -/
def Wave.makeLate (w : Wave) (miss : Mask) : Wave :=
  let moved := (w.groups.filter (fun g => g.lanes &&& miss != 0))
  let w := w.removeLanes miss
  { w with
    absent := w.absent
    late := w.late ||| miss
    groups := w.groups.filter (fun g => g.lanes &&& miss == 0)
    lateGroups := w.lateGroups ++ moved }

end Sys2Proof.Machine
end

