-- ==== Sys2Proof/Machine/Ops.lean ====
section
/-! DEFINITION. The shared operations of units: status words and context images (R78, R79, R444), the end of threads, waves and
blocks (R111, R380, R391), taking a trap and returning from one (R409 to R413, R418), the completion of bundles with the repeat
buffer (R44, R106), service calls (R416), and the frame in which every instruction of a bundle executes (`runC`, `runA`: R62, R66,
R67, R508). -/

namespace Sys2Proof.Machine

/-- R504. -/
def Cause.code : Cause → Nat
  | .undefOpcode => 0x01 | .wrongEngine => 0x02 | .privileged => 0x03 | .reservedField => 0x04 | .badOperand => 0x05
  | .badBundle => 0x06 | .misaligned => 0x07 | .accessViolation => 0x08 | .fpException => 0x09 | .queueDeadlock => 0x0A
  | .blockingInTask => 0x0B | .accLeak => 0x0C | .breakpoint => 0x0D | .singleStep => 0x0E | .trapInstruction => 0x0F
  | .launchDepth => 0x10 | .traceDepth => 0x11 | .contourRange => 0x12

def bit (b : Bool) (n : Nat) : Nat := if b then 2 ^ n else 0

/-! ## Status words -/

/-- SSTAT (R79). -/
def State.sstat (s : State) (u : UnitId) : W64 :=
  let c := s.com u
  let own : Nat := match u with
    | .thread i => let t := s.thread i; t.slotn * 2 ^ 35 + s.slotClass t.pos t.slotn * 2 ^ 33 + bit t.sup 32 + bit t.slotBit 7
    | .wave i => (s.wave i).slot * 2 ^ 35
  BitVec.ofNat 64 (s.unitSrc u * 2 ^ 48 + own + bit c.ov 1 + bit c.dz 0)

/-- RPTS (R108). -/
def Rpt.word (r : Rpt) : W64 :=
  BitVec.ofNat 64 (bit r.act 63 + r.lenm1.toNat * 2 ^ 57 + r.pos.toNat * 2 ^ 51 + r.rc.toNat)

/-- The wait codes of R432. -/
def waitCode (s : State) (u : UnitId) : Nat :=
  match (s.com u).wait with
  | .fault => 1 | .job .. => 2 | .mailbox .. => 3 | .sleep .. => 4 | .lwait .. => 5 | .launchq _ => 6 | .svc | .joinv | .waitr .. => 7
  | .trap => 8
  | .hold _ => if s.faulted u then 1 else 0
  | _ => 0

/-- Entries of the fault record: accesses with faulted or held lanes, and error entries (R431). -/
def State.nfr (s : State) (u : UnitId) : Nat :=
  ((s.accessesOf u).filter (fun a => a.lanes.any (fun l => l.st.isTable || l.st == .held))).length + (s.com u).frec.length

/-- PEND (R444). -/
def State.pendWord (s : State) (u : UnitId) : W64 :=
  let c := s.com u
  let svcr := match u with | .thread i => (s.thread i).svc.isSome | .wave _ => false
  c.rpt.word ||| BitVec.ofNat 64
    (c.prio.toNat * 2 ^ 49 + waitCode s u % 16 * 2 ^ 45 + s.nfr u % 16 * 2 ^ 41 + bit svcr 40)

/-- The context image of a thread, 20 words (R78). -/
def State.contextImage (s : State) (u : Nat) : List W64 :=
  let t := s.thread u
  [t.pc, s.sstat (.thread u)] ++ (List.range 15).map (fun i => t.reg (i + 1))
    ++ [t.tid, BitVec.ofNat 64 (t.c.fpctl.toNat + t.c.fpst.toNat * 2 ^ 32), s.pendWord (.thread u)]

/-! ## The ends of units -/

/-- The grid's exit code and its count of units ended without EXIT (R380). -/
def State.gridEnd (s : State) (g : Option Nat) (code : W32) (killed : Bool) : State :=
  match g with
  | none => s
  | some i => s.modGrid i (fun g => if killed then { g with killed := g.killed + 1 } else { g with code := g.code ||| code })

/-- A barrier phase completes (R391): waiters see that PH has moved on. -/
def Bar.advance (b : Bar) : Bar := if b.exp ≤ b.arr then { b with ph := b.ph + 1, arr := 0 } else b

/-- A member ends during a phase whose count was 0: EXP drops, and the phase completes if enough have arrived (R391). -/
def Bar.memberEnd (members : Nat) (b : Bar) : Bar :=
  if 0 < b.arr ∧ b.zero then ({ b with exp := members }).advance else b

/-- Is a job with a scratchpad destination outstanding for the block (R258)? -/
def State.spadJob (s : State) (b : Nat) : Bool :=
  s.jobs.any (fun e => e.2.status == 0 && e.2.blk == some b && e.2.moves.any JobMove.scratch)

/-- A member leaves its block by ending; the block ends with its last member, and its scratchpad stays until no job writes it. -/
def State.memberEnd (s : State) (b : Option Nat) (u : UnitId) : State :=
  match b with
  | none => s
  | some i =>
    match s.blocks.find i with
    | none => s
    | some k =>
      let ms := k.members.filter (· != u)
      let k := { k with members := ms, bars := k.bars.map (fun e => (e.1, e.2.memberEnd ms.length)) }
      if ms.isEmpty && !s.spadJob i then { s with blocks := s.blocks.drop i } else s.setBlock i k

/-- The depth of the grid that a LAUNCH of the unit makes: 1 in a task (R386). -/
def State.launchDepth (s : State) (u : UnitId) : Nat :=
  match (s.com u).grid with
  | some g => (s.grid g).depth + 1
  | none => 1

/-- A device-side queue entry of depth `c` is free again (R387). -/
def State.freeEntry (s : State) (die c : Nat) (shared : Bool) : State :=
  s.modDie die (fun d => if shared then { d with shared := d.shared - 1 }
    else { d with reserved := d.reserved.put c (d.reserved.getD c 0 - 1) })

/-- A unit gives back the entry that its LAUNCH has taken (R386). -/
def State.returnLaunch (s : State) (u : UnitId) : State :=
  match (s.com u).granted with
  | some shared => (s.freeEntry (s.unitDie u) (s.launchDepth u) shared).modCom u (fun c => { c with granted := none })
  | none => s

/-- A debug stop of a unit holds no other unit any more (R138). -/
def State.unstop (s : State) (u : UnitId) : State :=
  { s with
    threads := s.threads.map (fun e => (e.1, { e.2 with c := { e.2.c with stopped := e.2.c.stopped.filter (· != u) } }))
    waves := s.waves.map (fun e => (e.1, { e.2 with c := { e.2.c with stopped := e.2.c.stopped.filter (· != u) } })) }

/-- A grid with its ancestors, at most 11 (R386). -/
def State.lineage (s : State) : Nat → Option Nat → List Nat
  | n + 1, some g => g :: s.lineage n (s.grid g).parent
  | _, _ => []

/-- Nothing of a unit stays behind: its waits, its requests, the answers it waits for; but for accesses that are on their way to the host or a
peer, whose answers no unit takes (R440, R441) and for which the completions of its grid wait (R453). -/
def State.forget (s : State) (u : UnitId) : State :=
  let owed := s.lineage 11 (s.com u).grid
  let wave : Option UnitId := match u with
    | .thread t => (match (s.thread t).loc with | .lane w _ => some (.wave w) | _ => none)
    | .wave _ => none
  { s.unstop u with
    accesses := s.accesses.filterMap (fun a =>
      if a.unit != u then some (if wave == some a.unit then { a with owed := a.owed ++ owed } else a)
      else match a.lanes.filter (fun l => l.st == .forwarded) with
        | [] => none
        | ls => some { a with lanes := ls, owed := a.owed ++ owed })
    reqs := s.reqs.filter (fun r => match r.2 with | .steal t _ _ => t != u | _ => true)
    waiters := s.waiters.filter (fun w => w.unit != u)
    jobs := s.jobs.filter (fun j => j.2.accepted || j.2.owner != u)
    vales := s.vales.map (fun e => (e.1, { e.2 with
      mailWait := e.2.mailWait.filter (fun p => p.2 != u)
      binWait := e.2.binWait.filter (· != u)
      frames := e.2.frames.filter (fun f => f.2 != u)
      traps := e.2.traps.filter (fun t => t.unit != u) }))
    dies := s.dies.map (fun e => (e.1, { e.2 with launchq := e.2.launchq.filter (· != u) })) }

/-- A thread ends (R111): its slot and home slot are free; a task counts out of RUN (R260). -/
def State.endThread (s : State) (u : Nat) (code : W32) (killed : Bool) : State :=
  let t := s.thread u
  let s := s.gridEnd t.c.grid code killed
  let s := match t.task with
    | some k => s.setRun k.pos k.type ((s.vec k.pos k.type).run - 1)
    | none => s
  let s := ((s.memberEnd t.c.block (.thread u)).returnLaunch (.thread u)).forget (.thread u)
  { s with threads := s.threads.drop u }

/-- The threads that lanes stand for end (R114). -/
def State.endLanes (s : State) (w : Nat) (m : Mask) (code : W32) (killed : Bool) : State :=
  let ls := (s.wave w).lanes.filter (fun e => m.getLsbD e.1)
  let s := ls.foldl (fun s e => s.endThread e.2 code killed) s
  s.modWave w (fun x => { x with lanes := x.lanes.filter (fun e => !m.getLsbD e.1) })

/-- A wave ends: the threads still in it end, queued entries are discarded (R64), its tiles and slots are free. -/
def State.endWave (s : State) (w : Nat) (code : W32) (killed : Bool) : State :=
  let s := s.endLanes w (BitVec.allOnes 64) code killed
  let x := s.wave w
  let s := s.gridEnd x.c.grid code killed
  let s := ((s.memberEnd x.c.block (.wave w)).returnLaunch (.wave w)).forget (.wave w)
  { s with waves := s.waves.drop w }

def State.endUnit (s : State) (u : UnitId) (code : W32) (killed : Bool) : State :=
  match u with
  | .thread i => s.endThread i code killed
  | .wave i => s.endWave i code killed

/-! ## Parking -/

/-- A thread that is about to leave its slot notes where it goes back to: its home slot, or a free one of the same class on the core (R418,
R433). -/
def State.leaveSlot (s : State) (i : Nat) : State :=
  s.modThread i (fun t => { t with toHome := t.atHome, cls := s.issueClass t, c := { t.c with parkedAt := some t.pos } })

/-- The block of a parked wave notes the first park time (R436); a parked thread leaves its slot for the Cirque store (R433). -/
def State.parkUnit (s : State) (u : UnitId) : State :=
  match u with
  | .thread i =>
    let s := s.leaveSlot i
    s.modThread i (fun t => { t with loc := .cirque (t.pos / 768) })
  | .wave i =>
    match (s.wave i).c.block with
    | some b => s.modBlock b (fun k => { k with
        swap := if k.swap == .res then .prk else k.swap, parkTime := some (k.parkTime.getD s.time) })
    | none => s

/-- A unit parks with a wait reason. -/
def State.park (s : State) (u : UnitId) (w : Wait) : State :=
  (if w == Wait.fault then s.countUnit u 0x006 else s).setWait u w |>.parkUnit u

/-! ## Taking a trap (R66, R67, R408 to R413) -/

/-- CPC (R66): the next A-slot of the compute stream. -/
def Wave.cpc (w : Wave) : W64 := match w.lead with | l :: _ => l.pc | [] => w.apc

/-- DETAIL of error-log cause 0x01 (R464). -/
def trapDetail (i : TrapInfo) : W64 := (i.detail <<< (8 : Nat)) ||| BitVec.ofNat 64 i.cause.code

/-- A debug stop of a wave holds it, and with BLOCKSTOP the other waves of its block, at their next bundle boundary (R138). -/
def State.blockStop (s : State) (u : UnitId) (c : Cause) : State :=
  let hold (s : State) (m : UnitId) : State := s.modCom m (fun c => { c with stopped := u :: c.stopped.filter (· != u) })
  if c == .breakpoint || c == .singleStep then
    match (s.com u).block with
    | some b => if (s.vale (s.unitVale u)).dbgsw.getLsbD 9 then ((s.block b).members.filter (· != u)).foldl hold (hold s u) else hold s u
    | none => hold s u
  else s

/-- Does the unit run in supervisor mode? -/
def State.isSup (s : State) : UnitId → Bool
  | .thread t => (s.thread t).sup
  | .wave _ => false

/-- The partition of a unit: its context's function, in supervisor mode that of its Vale. -/
def State.partOf (s : State) (u : UnitId) : Nat := if s.isSup u then (s.vale (s.unitVale u)).func else s.ctxFunc (s.com u).ctx

/-- The block of a wave that is swapped out (R436). -/
def State.outBlock (s : State) (u : UnitId) : Option Block :=
  match u, (s.com u).block with
  | .wave _, some b => let k := s.block b; if k.swap == .swp || k.swap == .rdy then some k else none
  | _, _ => none

/-- Does a function's partition run on a die: switched in on a Vale there, and not halted on it (R388, R399)? -/
def State.runsOnDie (s : State) (fn d : Nat) : Bool :=
  (List.range 24).any (fun i => s.holdsVale fn (d * 24 + i) && !s.stoppedOn fn (d * 24 + i))

/-- Does the partition of a unit not run where the unit is, so that the limits of SLEEP and LWAIT do not count (R388, R399, R405)? A block that is
swapped out may come back on any Vale of its die. -/
def State.limitPaused (s : State) (u : UnitId) : Bool :=
  (s.com u).away || (match s.outBlock u with
    | some k => !s.runsOnDie (s.partOf u) k.die
    | none => s.stoppedOn (s.partOf u) (s.unitVale u))

/-- Is every lane of the unit's accesses answered, or recorded by a fault, or one of an LDSYNC that waits at the slot where the unit stands
(R66, R206)? -/
def State.trapQuiet (s : State) (u : UnitId) : Bool :=
  (s.accessesOf u).all (fun a => a.lanes.all (fun l => l.over || l.st.isTable || l.st == .held || l.st == .waiting))

/-- A stopped unit sends its trap once the accesses before it have their effect on memory: a thread leaves its slot and waits for a frame, and the
trap waits in arrival order at the Vale's Summit core (R66, R408, R412 steps 2 to 4). -/
def State.sendTrap (s : State) (u : UnitId) : State :=
  match (s.com u).trapped with
  | none => s
  | some m =>
    if (s.com u).wait != .trap || !s.trapQuiet u then s
    else
      let v := s.unitVale u
      let i := s.newId
      let s := i.2.modCom u (fun c => { c with trapped := none })
      let s := match u with
        | .thread t => (s.leaveSlot t).modThread t (fun x => { x with loc := .trapWait v })
        | .wave _ => s
      (s.modVale v (fun x => { x with traps := x.traps ++ [{ m with arr := i.1 }] })).coreEvent (v * 32)

/-- Is an instruction of the access stream that keeps its slot still in flight, so that the C-slot completes before a trap of the compute stream is
taken? One whose lanes stand in the fault record, or an LDSYNC that only waits for its word, is where the access stream is blocked (R66, R206). -/
def State.holdRuns (s : State) (u : UnitId) : Bool :=
  match (s.com u).ownWait with
  | .hold id => match s.access id with
    | some a => !a.lanes.any (fun l => l.st.isTable || l.st == .held)
        && !(a.lanes.any (fun l => l.st == .waiting) && a.lanes.all (fun l => l.over || l.st == .waiting))
    | none => false
  | _ => false

/-- A trap is taken: in supervisor mode it is logged and the thread ends as by EXIT, once its accesses are performed (R111, R409); else the unit is
TRAPPED, a wave with wait reason TRAP, and a wait that the trap interrupts goes on at RESUME (R66, R67, R412 step 1). -/
def State.takeTrap (s : State) (u : UnitId) (i : TrapInfo) : State :=
  let slotb := i.slot || (match u with | .thread t => (s.thread t).slotBit | .wave _ => false)
  let m : TrapMsg := { unit := u, info := i, time := s.time, slotBit := slotb }
  if s.isSup u then
    let s := s.logError 0x01 (s.unitSrc u) (s.unitFunc u) 1 (s.pcOf u) (trapDetail i)
    let s := s.modCom u (fun c => { c with
      wait := .none, bundle := none, frec := [], redo := none, trapped := some m, after := some (.exit 0) })
    let s := match u with | .thread t => s.modThread t (fun x => { x with slotBit := false }) | .wave _ => s
    if s.answered u (fun _ => true) then s.endUnit u 0 false else s
  else
    let s := s.modCom u (fun c =>
      let own := c.ownWait
      let idle := own == .none
      { c with
        wait := .trap, under := own, trapped := some m, stepping := false, bundle := if idle then none else c.bundle,
        walk := c.walk && !idle, until_ := if idle then none else c.until_ })
    let s := match u with
      | .wave w => ((s.modWave w (fun x => { x with leaked := i.cause == Cause.accLeak, trapDue := false })).parkUnit u).blockStop u i.cause
      | .thread _ => s
    s.sendTrap u

/-- ERET with MODE KILL ends a unit, once its accesses are performed (R223, R418). -/
def State.killUnit (s : State) (u : UnitId) : State :=
  if s.answered u (fun _ => true) then s.endUnit u 0 true
  else s.modCom u (fun c => { c with wait := .trap, trapped := none, frec := [], redo := none, after := some .kill })

/-- Frame `f` of a Summit core (R412). -/
def framePlace (v f : Nat) : Nat := bankPlace (v * 32) (0x3C000 + 0x100 * f)

/-- The frame's bytes (R413). -/
def State.frameBytes (s : State) (m : TrapMsg) : List Byte :=
  let u := m.unit
  let kind : Nat := match u with | .thread t => if isSummit (s.thread t).pos then 1 else 0 | .wave _ => 2
  let ctx := (s.com u).ctx
  let head := m.info.cause.code + bit m.slotBit 8 + kind * 2 ^ 9 + s.unitSrc u * 2 ^ 16 + s.ctxFunc ctx % 16 * 2 ^ 32 + ctx * 2 ^ 36
  let cpc : W64 := match u with | .thread _ => 0 | .wave w => (s.wave w).cpc
  let id : W64 := match u with
    | .thread t => (s.thread t).tid
    | .wave w => let x := s.wave w; BitVec.ofNat 64 (x.eng % 4 + x.slot * 4 + x.eng / 4 * 256)
  let img : List W64 := match u with | .thread t => s.contextImage t | .wave _ => List.replicate 20 0
  ([BitVec.ofNat 64 head, s.pcOf u, cpc, m.info.detail, m.info.mask, m.info.addr, BitVec.ofNat 64 m.time, id] ++ img
    ++ List.replicate 4 (0 : W64)).flatMap (fun (x : W64) => bytesLE 8 x.toNat)

/-- A new thread of a core, with the next TID there (R78). -/
def State.newThread (s : State) (p : Nat) (t : Thread) : Nat × State :=
  let i := s.newId
  let id := i.2.newTid p
  (i.1, { id.2 with threads := id.2.threads.put i.1 { t with tid := id.1, loc := .cirque (p / 768), entering := true } })

/-- A new thread on a core: it takes a free slot of a class, or waits in the core's inbox (R115, R408). -/
def State.startThread (s : State) (p cls : Nat) (t : Thread) : Nat × State :=
  let r := s.newThread p t
  (r.1, r.2.returnThread r.1 p cls)

/-- TVEC and SVEC hold bits 54:6 (R411). -/
def vecAddr (x : W64) : W64 := x &&& 0x7FFFFFFFFFFFC0

/-- The handler thread of step 6 of R412. -/
def handlerThread (pc : W64) (frame : W64) (cause ctx : Nat) : Thread :=
  { pc := pc, sctx := ctx, c := { ctx := ctx },
    regs := ((Vector.replicate 16 0).setIfInBounds 1 frame).setIfInBounds 2 (BitVec.ofNat 64 cause) }

/-- The least of the numbers of arrival of what waits to start in a free slot of a class, beside traps: threads that enter, and the message that
would start a task next (R261, R408). -/
def State.entryOrder (s : State) (p cls : Nat) : Option Nat :=
  let thread := (firstOf (s.inboxThreads p cls true)).map Prod.fst
  let task := (s.bestMsg p (s.startableMsgs p cls)).map Msg.id
  match thread, task with
  | some a, some b => some (min a b)
  | some a, none => some a
  | none, b => b

/-- Does number `n` come before another, if there is one? -/
def before (n : Nat) : Option Nat → Bool
  | none => true
  | some m => decide (n < m)

/-- The trap of a Vale that takes a class-0 slot of its Summit core next: the oldest, if a frame is free, TVEC is not 0, and no thread waits to return
there (R115, R412). -/
def State.trapTurn (s : State) (v : Nat) : Option (TrapMsg × Nat) :=
  let x := s.vale v
  match x.traps, freeIndex x.frames.keys 32 with
  | m :: _, some f => if vecAddr x.tvec == 0 || !(s.inboxThreads (v * 32) 0 false).isEmpty then none else some (m, f)
  | _, _ => none

/-- The oldest trap of a Vale is delivered in its turn, if a frame and a class-0 Summit slot are free: the frame is written and a handler starts at
TVEC; with TVEC 0 the unit ends as by ERET with MODE KILL and the error log records the trap (R408, R412). -/
def State.deliverTrap (s : State) (v : Nat) : Option State :=
  let x := s.vale v
  match x.traps with
  | [] => none
  | m :: rest =>
    let s1 := s.setVale v { x with traps := rest }
    if vecAddr x.tvec == 0 then
      some ((s1.logError 0x01 (s.unitSrc m.unit) (s.unitFunc m.unit) 1 (s.pcOf m.unit) (trapDetail m.info)).killUnit m.unit)
    else
      match s.trapTurn v with
      | none => none
      | some (_, f) =>
        if !before m.arr (s.entryOrder (v * 32) 0) then none
        else
          let s2 := s1.rawPutBytes (framePlace v f) (s.frameBytes m)
          let s2 := s2.modVale v (fun y => { y with frames := y.frames.put f m.unit })
          let s2 := match m.unit with
            | .thread t => s2.modThread t (fun y => { y with loc := .frame v f })
            | .wave _ => s2
          let h := s2.newThread (v * 32)
            (handlerThread (vecAddr x.tvec) (BitVec.ofNat 64 (windowAddr (v * 32) (0x3C000 + 0x100 * f))) m.info.cause.code (s.com m.unit).ctx)
          h.2.takeSlot h.1 (v * 32) 0

/-! ## Returning from a trap (R418) -/

/-- The frame of a Summit core at an address, and the unit it holds. -/
def State.frameAt (s : State) (v : Nat) (a : W64) : Option (Nat × UnitId) :=
  ((s.vale v).frames.find? (fun e => windowAddr (v * 32) (0x3C000 + 0x100 * e.1) == a.toNat)).map (fun e => (e.1, e.2))

/-- What an instruction that waits to execute again has begun is void: the lanes it would send again, the request phase of its GATH. -/
def State.dropBegun (s : State) (u : UnitId) : State :=
  { s.modCom u (fun c => { c with redo := none, walk := false, until_ := none }) with
    jobs := s.jobs.filter (fun j => j.2.accepted || j.2.owner != u) }

/-- The edited context image of a thread: every field but TID and PEND (R413). An edited PC or SLOT names another slot to execute,
and what was due after the old bundle is void. -/
def State.loadImage (s : State) (u place : Nat) : State :=
  let w (i : Nat) : W64 := BitVec.ofNat 64 (s.rd (place + 8 * i) 8)
  let s := if w 0 == (s.thread u).pc && (w 1).getLsbD 7 == (s.thread u).slotBit then s
    else (s.dropBegun (.thread u)).modCom (.thread u) (fun c => { c with after := none, stepDue := false })
  s.modThread u (fun t =>
    let slot := (w 1).getLsbD 7
    { t with
      npc := if w 0 == t.pc && slot == t.slotBit then t.npc else w 0 + 8
      pc := w 0, slotBit := slot
      regs := Vector.ofFn (fun i => if i.val = 0 then 0 else w (i.val + 1))
      c := { t.c with
        dz := (w 1).getLsbD 0, ov := (w 1).getLsbD 1, fpctl := (w 18).truncate 6, fpst := ((w 18) >>> (32 : Nat)).truncate 6,
        bundle := none } })

/-- The lanes of an access that are sent again after an error: those of ERRM, the lanes of a HIST that share an address in one step (R316, R505). -/
def Access.errLanes (a : Access) : List ALane :=
  let ls := a.lanes.filter (fun l => l.st == .err)
  ls.map (fun l => { l with st := if (match a.op with | .hist _ => ls.any (fun x => x.ea == l.ea && decide (x.lane < l.lane)) | _ => false)
    then LaneSt.done else LaneSt.pend })

/-- The lanes of the error entries are sent again, once each, in issue order; the entries of an LDQ still wait for its number (R505). -/
def State.resendErrors (s : State) (u : UnitId) : State :=
  let es := (s.com u).frec
  let s := s.modCom u (fun c => { c with frec := [] })
  es.foldl (fun s a => s.launchAccess { a with lanes := a.errLanes }) s

/-- The wait of a trapped unit ends: it goes on, exempt from address match once, stepped if the Vale's debug registers name it
(R137, R418); the waves its debug stop held go on with it (R138). -/
def State.resumeUnit (s : State) (u : UnitId) : State :=
  let v := s.vale (s.unitVale u)
  let step : Bool := match u with
    | .thread t => (s.thread t).tid == v.dbgss && v.dbgss != BitVec.allOnes 64
    | .wave w => let x := s.wave w; v.dbgsw.getLsbD 8 && bitsOf v.dbgsw 6 2 == x.slot && bitsOf v.dbgsw 1 0 == x.eng % 4
  let s := (s.modCom u (fun c => { c with wait := c.under, under := .none, exempt := true, stepping := step })).unstop u
  let s := match u with
    | .thread t =>
      let x := s.thread t
      s.returnThread t x.pos x.cls
    | .wave w => let i := s.newId; i.2.modWave w (fun x => { x with started := i.1 })
  s.resendErrors u

/-- A wait that a trap has interrupted ends with REDIRECT: lanes of an LDSYNC that still wait for their word are withdrawn, and the answers of the
others go nowhere (R418). -/
def State.dropWait (s : State) (u : UnitId) : State :=
  let id : Option Nat := match (s.com u).under with | .hold id => some id | _ => none
  let s := s.modCom u (fun c => { c with under := .none })
  let s := { s with
    waiters := s.waiters.filter (fun w => w.unit != u)
    vales := s.vales.map (fun e => (e.1, { e.2 with mailWait := e.2.mailWait.filter (fun p => p.2 != u), binWait := e.2.binWait.filter (· != u) }))
    dies := s.dies.map (fun e => (e.1, { e.2 with launchq := e.2.launchq.filter (· != u) })) }
  match id with
  | none => s
  | some n =>
    (s.modAccess n (fun a => { a with
      holding := false, dest := .none,
      lanes := a.lanes.filterMap (fun l => if l.st == .waiting then none else some (if l.st == .err then { l with st := .done } else l)) })).reap n

/-- The tiles that a wave still holds at its final EXIT are freed when it resumes (R289). -/
def State.freeTiles (s : State) (w : Nat) : State := s.modWave w (fun x => if x.leaked then { x with t := [], leaked := false } else x)

/-- ERET (R418) on frame `f`: MODE 0 RESUME, 1 REDIRECT to `target`, 2 KILL. The frame is free afterwards. -/
def State.returnTrap (s : State) (v f : Nat) (u : UnitId) (mode : Nat) (target : W64) : State :=
  let s := match u with
    | .thread t => if mode ≠ 2 then s.loadImage t (framePlace v f + 0x40) else s
    | .wave _ => s
  let s := s.modVale v (fun x => { x with frames := x.frames.drop f })
  match mode with
  | 0 =>
    let s := match u with | .wave w => s.freeTiles w | .thread _ => s
    s.resumeUnit u
  | 1 =>
    let s := ((s.returnLaunch u).dropBegun u).dropWait u
    let s := s.modCom u (fun c => { c with frec := [], bundle := none, after := none, stepDue := false })
    let s := match u with
      | .thread t => s.modThread t (fun x => { x with pc := target, slotBit := false })
      | .wave w => s.modWave w (fun x => { x with apc := target, lead := [], computeWait := false })
    s.resumeUnit u
  | _ => s.killUnit u

/-! ## Completing bundles -/

/-- What an instruction does to its unit: executed (the bundle goes on), executed with another next bundle, a precise trap at this
slot, not executed yet (the slot is tried again), or executed with the unit's place settled already. -/
inductive Res where
  | done (s : State)
  | goto (s : State) (target : W64)
  | trap (s : State) (i : TrapInfo)
  | stall (s : State)
  | gone (s : State)

/-- A service thread's start (R416). -/
def serviceThread (pc : W64) (ctx : Nat) (regs : Vector W64 16) (info : W64) (o : SvcOrigin) : Thread :=
  { pc := pc, sctx := ctx, c := { ctx := ctx }, regs := regs, sinfo := info, svc := some o }

def svcInfo (kind lane src : Nat) (num : W32) : W64 :=
  BitVec.ofNat 64 (kind * 2 ^ 54 + lane * 2 ^ 48 + src * 2 ^ 32 + num.toNat)

/-- Registers from a function of their number. -/
def regsOf (f : Nat → W64) : Vector W64 16 := Vector.ofFn (fun i => if i.val = 0 then 0 else f i.val)

/-- The whole wave takes a service call: EXEC is LIVE and no other live lane is on the stack (R131). -/
def Wave.wholeSvc (w : Wave) : Bool := w.exec == w.live && w.stack.all (fun e => e.outer &&& w.live &&& ~~~w.exec == 0)

/-- The service call proper, after the whole bundle and the step of R114 (R416): a thread continues at SVEC in a class-0 Summit
slot; a whole wave parks while a service thread runs; part of a wave's lanes become ABSENT, each with a service thread. -/
def State.svcCall (s : State) (u : UnitId) (num : W32) : State :=
  let v := s.unitVale u
  let svec := vecAddr (s.vale v).svec
  let src := s.unitSrc u
  match u with
  | .thread i =>
    let t := s.thread i
    let o : SvcOrigin := { unit := u, lane := none, pos := t.pos, cls := s.issueClass t, homeSlot := t.atHome, ret := t.pc }
    let s := s.modThread i (fun t => { t with
      pc := svec, svc := some o, sinfo := svcInfo 0 0 src num, sctx := t.c.ctx, phys := false, loc := .svcWait v, entering := true })
    (s.returnThread i (v * 32) 0)
  | .wave i =>
    let w := s.wave i
    let o (l : Option Nat) : SvcOrigin := { unit := u, lane := l, pos := s.unitPos u, cls := 0, homeSlot := false, ret := w.apc }
    if w.wholeSvc then
      let r := s.startThread (v * 32) 0 (serviceThread svec w.c.ctx (regsOf w.kreg) (svcInfo 1 0 src num) (o none))
      r.2.park u .svc
    else
      let ls := Mask.lanes w.exec
      let s := ls.foldl (fun s l =>
        (s.startThread (v * 32) 0 (serviceThread svec w.c.ctx
          (regsOf (fun n => join64 ((w.vreg n).at l) ((w.vreg (16 + n)).at l))) (svcInfo 2 l src num) (o (some l)))).2) s
      let x := s.wave i
      let x := { x with absent := x.absent ||| x.exec, groups := x.groups ++ [({ lanes := x.exec, pc := x.apc, depth := x.stack.length, back := none } : SvcGroup)] }
      let r := x.select 0
      let s := s.setWave i r.1
      if r.2 then s else s.park u .joinv

/-- Registers k1 to k15 from a service thread's. -/
def Wave.fromRegs (w : Wave) (t : Thread) : Wave := (List.range 15).foldl (fun w i => w.setK (i + 1) (t.reg (i + 1))) w

/-- Lane `l` from a service thread's registers, where the wave's allocation holds them (R417). -/
def Wave.laneFromRegs (w : Wave) (l : Nat) (t : Thread) : Wave :=
  (List.range 15).foldl (fun w i =>
    let n := i + 1
    let w := if n < w.nv then w.setV n ((w.vreg n).put l (lo32 (t.reg n))) else w
    if 16 + n < w.nv then w.setV (16 + n) ((w.vreg (16 + n)).put l (hi32 (t.reg n))) else w) w

/-- The status flags of a service thread join those of the wave (R156). -/
def Common.joinFlags (c : Common) (d : Common) : Common := { c with fpst := c.fpst ||| d.fpst, dz := c.dz || d.dz, ov := c.ov || d.ov }

/-- The return of a service call, after the step of R114 (R417): a thread goes back to its calling core; a whole wave takes k1 to k15 and
its wait ends; a lane takes its registers and comes back as a group. The return is an acquire of the wave (R230, R237). -/
def State.svcReturn (s : State) (i : Nat) : State :=
  let t := s.thread i
  match t.svc with
  | none => s
  | some o =>
    match o.unit, o.lane with
    | .thread _, _ =>
      (s.modThread i (fun t => { t with
        svc := none, sinfo := 0, phys := false, sup := false, slotBit := false, pc := o.ret, toHome := o.homeSlot,
        c := { t.c with rpt := { t.c.rpt with act := false }, bundle := none } })).returnThread i o.pos o.cls
    | .wave w, none =>
      let s := if (s.waves.find w).isSome then s.modWave w (fun x =>
          let y := x.fromRegs t
          let c := y.c.joinFlags t.c
          { y with c := if c.ownWait == Wait.svc then c.setOwnWait .none else c })
        else s
      (s.endThread i 0 false).l1Acquire (.wave w)
    | .wave w, some l =>
      let n := s.newId
      let s := if (n.2.waves.find w).isSome then n.2.modWave w (fun x =>
          let y := (x.laneFromRegs l t).laneBack l n.1
          { y with c := y.c.joinFlags t.c })
        else n.2
      (s.endThread i 0 false).l1Acquire (.wave w)

/-- The copy engine of a unit's jobs: that of its home core's octet, or JENG of a wave (R244). -/
def State.jobEngine (s : State) : UnitId → Nat
  | .thread t => (s.thread t).tid.toNat / 2 ^ 52 / 8
  | .wave w => (s.wave w).jeng

/-- The status of a job for its submitter: 0 PENDING, 1 DONE, 2 ERROR; an ID that names none is complete (R246). -/
def State.jobStatus (s : State) (eng id : Nat) (u : UnitId) : Nat :=
  match s.jobs.vals.find? (fun j => j.accepted && j.eng == eng && j.id == id && j.owner == u) with
  | some j => j.status
  | none =>
    match (s.copyEng eng).history.find? (fun h => h.1 == id && h.2.2 == u) with
    | some h => h.2.1
    | none => 1

/-! ## What is due after a bundle -/

/-- The A-slot of the latched bundle, if the bundle is paired. -/
def State.pendingA (s : State) (u : UnitId) : Option Instr := (s.com u).bundle.bind Bundle.ai

def regTouch (a b : Reg) : Bool :=
  a == b || (match a, b with | .vAny, .v _ => true | .v _, .vAny => true | .vAny, .vAny => true | _, _ => false)
def regsMeet (a b : List Reg) : Bool := a.any (fun x => b.any (regTouch x))

/-- The registers that an access in flight will write. -/
def Access.regs (a : Access) : List Reg :=
  match a.dest with
  | .none => []
  | .reg n => [gpr (isRidge a.unit) n]
  | .vreg n pair => if pair then [.v n, .v (n + 1)] else [.v n]
  | .queue .. | .slot .. => []
  | .tile t => [.t t]

/-- Does an error entry hold a register that the slot names (R505)? -/
def State.heldRegs (s : State) (u : UnitId) (use : RegUse) : Bool :=
  (s.com u).frec.any (fun (a : Access) => regsMeet a.regs (use.reads ++ use.writes))

/-- How many entries of each queue an instruction takes or pushes: a 64-bit value has two (R63). -/
def queueWidth : Instr → Nat
  | .ldq m => if m.sz == 3 then 2 else 1
  | .st m => if m.sz == 3 then 2 else 1
  | .sts m => if m.sz == 3 then 2 else 1
  | .stl m => if m.sz == 3 then 2 else 1
  | .stf m => if m.sz == 3 then 2 else 1
  | .memoryLoneForm _ m _ => if m.sz == 3 then 2 else 1
  | .phlx _ => 2
  | _ => 1
def lqOf (l : List Reg) : List Nat := l.filterMap (fun r => match r with | .lq n => some n | _ => none)
def sqOf (l : List Reg) : List Nat := l.filterMap (fun r => match r with | .sq n => some n | _ => none)

/-- Can the compute stream not execute its next A-slot before the access stream goes on: its sq queue is full, or its lq queue has fewer entries
reserved than it takes (R63, R138)? -/
def Wave.computeStuck (w : Wave) : Bool :=
  match w.lead with
  | [] => false
  | l :: _ =>
    let u := regUse true l.ai
    (lqOf u.reads).any (fun q => decide ((w.lq.getD q []).length < queueWidth l.ai * ((lqOf u.reads).filter (· == q)).length))
      || (sqOf u.writes).any (fun q => decide (8 ≤ (w.sq.getD q []).length))

/-- Stands a unit at a bundle boundary for a releasing trap: also where the A-slot of its bundle waits for a register that an error entry
holds, so that the boundary cannot come (R505, R508)? -/
def State.errorBoundary (s : State) (u : UnitId) : Bool :=
  match u with
  | .thread t =>
    !(s.thread t).slotBit
      || (match s.pendingA u with
          | some i => s.heldRegs u (regUse false i)
          | none => true)
  | .wave _ => true

/-- The trap of a holding instruction with error lanes: MASK = ERRM, DETAIL the bundle, ADDR the lowest failing lane (R206, R505); a
header's fetch fails as a transfer does (R103, R507). -/
def Access.errTrap (a : Access) : TrapInfo :=
  if a.op == .fetch then { cause := .accessViolation } else
  { cause := .accessViolation, detail := a.pc, mask := if isRidge a.unit then a.errMask else 1,
    addr := ((a.lanes.find? (fun l => l.st == .err)).map ALane.ea).getD 0 }

/-- The trap of releasing accesses with error lanes: the first entry gives MASK, DETAIL and ADDR (R505). A thread whose end is due takes no more. -/
def State.errorTrap (s : State) (u : UnitId) : Option TrapInfo :=
  match (s.com u).frec with
  | a :: _ => if (s.com u).wait == .none && (s.com u).trapped.isNone && s.errorBoundary u then some a.errTrap else none
  | [] => none

/-- A trap before the bundle at the PC is found again after another. -/
def After.kept : After → Option After
  | .trapHere _ => none
  | a => some a

/-- That trap is taken, before what is due after the bundle. -/
def State.takeErrorTrap (s : State) (u : UnitId) (i : TrapInfo) : State :=
  (s.modCom u (fun c => { c with bundle := none, after := c.after.bind After.kept })).takeTrap u i

/-- Is what is due late: accesses are on their way, or the compute stream is behind? For a trap or a debug stop the compute stream has caught
up when it cannot go on (R66, R114, R138, R223). -/
def State.afterLate (s : State) (u : UnitId) (a : After) (answered : Bool) : Bool :=
  let stop : Bool := (s.com u).stepDue || (match a with | .trap _ | .trapHere _ => true | _ => false)
  match u, a with
  | .thread _, .yield .. => false
  | .thread _, _ => !stop && !answered
  | .wave w, .yield .. => stop && !(s.wave w).lead.isEmpty && !(s.wave w).computeStuck
  | .wave w, _ => if stop then !(s.wave w).lead.isEmpty && !(s.wave w).computeStuck else !(s.wave w).lead.isEmpty || !answered

/-- What is due after the whole bundle takes place, or stays due while it is late. An error answer traps first, then a step (R137, R505). -/
def State.runAfter (s : State) (u : UnitId) : State :=
  match (s.com u).after with
  | none => s
  | some a =>
    let r := s.settle u (fun _ => true)
    let s := r.2
    if s.afterLate u a r.1 then s
    else match s.errorTrap u with
      | some i => s.takeErrorTrap u i
      | none =>
        if (s.com u).stepDue then (s.modCom u (fun c => { c with stepDue := false })).takeTrap u { cause := .singleStep }
        else
          let s := s.modCom u (fun c => { c with after := none })
          match a with
          | .trap i => s.takeTrap u i
          | .trapHere i => s.takeTrap u i
          | .svc n => s.svcCall u n
          | .sret => match u with | .thread t => s.svcReturn t | .wave _ => s
          | .exit code => s.endUnit u code false
          | .endWave => s.endUnit u 0 false
          | .kill => s.endUnit u 0 true
          | .bin v k key rp =>
            (match u with
              | .thread t => (s.joinBin t v k key rp).getD ((s.binWaits v u).modCom u (fun c => { c with after := some a }))
              | .wave _ => s)
          | .yield eng id => if s.jobStatus eng id u == 0 then s.park u (.job eng id none) else s.l1Acquire u

/-- A unit's next bundle. -/
def State.setPc (s : State) (u : UnitId) (pc : W64) : State :=
  match u with
  | .thread i => s.modThread i (fun t => { t with pc := pc, slotBit := false })
  | .wave i => s.modWave i (fun w => { w with apc := pc })

/-- The loop-back of R106 after a body bundle at `pc`, whose next bundle would be `next`. -/
def Rpt.loop (r : Rpt) (pc next : W64) : Rpt × W64 :=
  if r.pos == r.lenm1 then
    if r.rc == 1 then ({ r with act := false, pos := 0, rc := 0 }, next)
    else ({ r with pos := 0, rc := r.rc - 1 }, pc - (r.lenm1.zeroExtend 64 <<< (3 : Nat)))
  else ({ r with pos := r.pos + 1 }, next)

/-- The bundle at `pc` has executed: the PC moves on, under the repeat buffer where the bundle is in an active body, and what is due
follows (R44, R106, R137). A step waits past supervisor bundles, which are never stepped (R136). -/
def State.endBundle (s : State) (u : UnitId) (pc next : W64) : State :=
  let c := s.com u
  let r : Rpt × W64 := if c.body && c.rpt.act then c.rpt.loop pc next else (c.rpt, next)
  let step := c.stepping && !s.isSup u
  let after : Option After := match c.after with
    | some a => some a
    | none => if step then some (.trap { cause := .singleStep }) else none
  let due : Bool := step && (match c.after with | some (.svc _) => true | some (.yield ..) => true | some (.bin ..) => true | _ => false)
  let s := s.countUnit u 0x002
  let s := (s.modCom u (fun c => { c with
    rpt := r.1, bundle := none, body := false, redo := none, walk := false, until_ := none, exempt := false, after := after,
    stepping := c.stepping && s.isSup u, stepDue := due })).setPc u r.2
  match after with
  | none => s
  | some _ => s.runAfter u

def isNopA : Instr → Bool
  | .nopA => true
  | _ => false

/-- A C-slot or a lone instruction at `pc` has executed. A thread goes on to the A-slot of a paired bundle (R44); a wave leaves the A-slot to
its compute stream, on the lanes `ex` that reached the bundle (R61, R62). The compute stream reaches the A-slot of a bundle only once its
C-slot has executed (log entry 92). -/
def State.retireC (s : State) (u : UnitId) (pc : W64) (target : Option W64) (ex : Mask) : State :=
  let next := target.getD (pc + 8)
  let s := s.modCom u (fun c => { c with deadlock := none })
  match u with
  | .thread i =>
    match s.pendingA u with
    | some _ => s.modThread i (fun t => { t with slotBit := true, npc := next })
    | none => s.endBundle u pc next
  | .wave i =>
    let w := s.wave i
    let ai := (s.pendingA u).getD .nopA
    let s := if w.lead.isEmpty && isNopA ai then s
      else s.modWave i (fun w => { w with lead := w.lead ++ [⟨pc, ai, ex, w.c.words⟩] })
    s.endBundle u pc next

/-- An A-slot has executed: a thread's bundle is complete; a wave's compute stream moves on, and what waited for it follows. A lone
A-class instruction is a bundle of its own. -/
def State.retireA (s : State) (u : UnitId) : State :=
  match u with
  | .thread i =>
    let t := s.thread i
    if t.slotBit then s.endBundle u t.pc t.npc else s.endBundle u t.pc (t.pc + 8)
  | .wave i =>
    match (s.wave i).lead with
    | _ :: rest =>
      let s := s.modWave i (fun w => { w with lead := rest, computeWait := false, trapDue := false, c := { w.c with deadlock := none } })
      if rest.isEmpty then s.runAfter u else s
    | [] => s.endBundle u (s.wave i).apc ((s.wave i).apc + 8)

/-! ## Waiting for registers (R62, R508) -/

/-- Every register that the slot names and that an access in flight will write, or an error entry holds, is waited for. -/
def State.waitRegs (s : State) (u : UnitId) (use : RegUse) : Bool × State :=
  let r := s.settle u (fun a => regsMeet a.regs (use.reads ++ use.writes))
  (r.1 && !r.2.heldRegs u use, r.2)

/-- An MMA-class instruction: its kind, its fields as a lone form, whether it is paired (R292). -/
def mmaOf : Instr → Option (MmaKind × LA × Bool)
  | .mma d a b kb => some (.mma, toLA 0x2B (.p d a b kb false), true)
  | .mmas d a b kb => some (.mmas, toLA 0x2C (.p d a b kb false), true)
  | .mmax d a b kb => some (.mmax, toLA 0x2D (.p d a b kb false), true)
  | .mmaLone k f => some (k, f, false)
  | _ => none

/-- The LANE position of MSA (R276). -/
def Wave.scalePos (w : Wave) : Nat := bitsOf w.msa 15 8 * 4 + bitsOf w.msa 17 16
/-- How many row-scale positions an MMA-class instruction uses. -/
def Wave.scaleUses (w : Wave) (k : MmaKind) : Nat := if bitsOf w.msa 19 18 = 2 then (if k == .mma then 1 else 2) else 0

/-- First register of the metadata pair of an MMAS with metadata in registers (R292). -/
def metaReg (n : Nat) (f : LA) (paired : Bool) : Nat := if paired then f.a.toNat + n else f.c.toNat

/-- The v-registers that an MMA-class instruction reads, its row scales from LANE position `p` on (R299). -/
def Wave.mmaRegs (w : Wave) (k : MmaKind) (f : LA) (paired : Bool) (p : Nat) : List Nat :=
  let n := tyWidth w.mfa
  let group : List Nat := if f.kb then [] else (List.range (n * (if k == .mmax then 2 else 1))).map (fun i => f.a.toNat + i)
  let pair : List Nat := if k == .mmas && !f.kc then [metaReg n f paired, metaReg n f paired + 1] else []
  group ++ pair ++ (List.range (w.scaleUses k)).map (fun i => (p + i) % 1024 / 4)

/-- The registers of an A-slot, an MMA-class instruction's v-registers by number. -/
def Wave.useAt (w : Wave) (p : Nat) (i : Instr) : RegUse :=
  let use := regUse true i
  match mmaOf i with
  | some (k, f, pd) => { use with reads := use.reads.filter (fun r => match r with | .vAny | .v _ => false | _ => true) ++ (w.mmaRegs k f pd p).map Reg.v }
  | none => use

/-- The registers of the A-slots that the compute stream has not executed, in order. -/
def Wave.leadUses (w : Wave) (p : Nat) : List LeadSlot → List RegUse
  | [] => []
  | l :: t => w.useAt p l.ai :: w.leadUses (match mmaOf l.ai with | some (k, _) => p + w.scaleUses k | none => p) t

/-- The registers of a slot of a unit. -/
def State.useOf (s : State) (u : UnitId) (i : Instr) : RegUse :=
  match u with
  | .thread _ => regUse false i
  | .wave w => (s.wave w).useAt (s.wave w).scalePos i

/-- An MMA-class instruction has not issued in the compute stream: CRD and CWR of the matrix registers wait (R279). -/
def Wave.mmaAhead (w : Wave) : Bool := w.lead.any (fun l => (mmaOf l.ai).isSome)

/-- Does any A-slot ahead read rows by a stream register (R303)? -/
def Wave.streamAhead (w : Wave) : Bool :=
  w.lead.any (fun l => match mmaOf l.ai with | some (_, f, _) => f.kb || f.kc | none => false)

/-- Registers whose use is interlocked between the streams (R62, R282, R285). -/
def interlocked : Reg → Bool
  | .y _ | .t _ => true
  | r => countedWrite r

/-- Does a slot that the compute stream has not executed meet the registers of a C-slot (R62)? EXEC travels with the slot. -/
def State.leadClash (s : State) (u : UnitId) (use : RegUse) : Bool :=
  match u with
  | .thread _ => false
  | .wave i =>
    let own (l : List Reg) : List Reg := l.filter (fun r => r != .exec && (match r with | .lq _ => false | .sq _ => false | _ => true))
    ((s.wave i).leadUses (s.wave i).scalePos (s.wave i).lead).any (fun a =>
      regsMeet (own (use.reads ++ use.writes)) (own (a.writes.filter interlocked))
        || regsMeet (own (use.writes.filter interlocked)) (own a.reads))

/-- The access stream is at most 16 bundles ahead of the compute stream (R61). -/
def State.leadFull (s : State) (u : UnitId) : Bool :=
  match u with
  | .thread _ => false
  | .wave i => decide (16 ≤ (s.wave i).lead.length)

/-! ## The spin detector's notes (R133) -/

/-- EXEC of a wave as a slot finds it. -/
def State.execOf (s : State) : UnitId → Mask
  | .thread _ => 0
  | .wave i => (s.wave i).exec

/-- EXEC as an A-slot reads it: that of the lanes that reached its bundle (R62). -/
def State.aExec (s : State) (i : Nat) : Mask :=
  match (s.wave i).lead with
  | l :: _ => l.exec
  | [] => (s.wave i).exec

/-- ACTIVE: EXEC and the mask of MSEL; the thread itself on a spur or Summit core (R61, R192). -/
def State.active (s : State) (u : UnitId) (msel : BitVec 3) : Mask :=
  match u with
  | .thread _ => 1
  | .wave i => s.aExec i &&& (s.wave i).mask msel.toNat

/-- A stream register of a wave. -/
def Wave.stream (w : Wave) (n : Nat) : Stream := w.y.getD n {}
/-- A stream register as the 16 bytes of a wave's context hold it (R280). -/
def Stream.word (y : Stream) : BitVec 128 :=
  (0 : BitVec 32) ++ y.step ++ y.pitch ++ (0 : BitVec 10) ++ y.cur ++ y.wrap ++ y.base

/-- What the detector notes of a slot: the registers that it writes at once, the lanes, and the entries of a queue that it pushes. -/
structure Note where
  writes : List Reg
  act : Mask
  entries : Nat
  deriving DecidableEq, Repr

/-- Notes of a value in each of some lanes. Notes add up, so that their order does not count. -/
def noteLanes (h : W64) (act : Mask) (code : Nat) (f : Nat → Nat) : W64 :=
  (Mask.lanes act).foldl (fun h l => h + Config.spinMix (BitVec.ofNat 64 l) code (f l)) h

/-- The note of a tile's rows: each element by its row and column. -/
def Tile.note (t : Tile) (h : W64) (act : Mask) (n : Nat) : W64 :=
  t.elems.foldl (fun h e => if act.getLsbD (e.1 / 64) then h + Config.spinMix (BitVec.ofNat 64 e.1) (0x300 + n) e.2.toNat else h) h

/-- The note of one written register, in each lane that the slot writes. -/
def Wave.noteReg (w : Wave) (n : Note) (h : W64) : Reg → W64
  | .k r => h + Config.spinMix 0 r (w.kreg r).toNat
  | .m r => h + Config.spinMix 0 (0x200 + r) (w.mask r).toNat
  | .v r => noteLanes h n.act (0x100 + r) (fun l => ((w.vreg r).at l).toNat)
  | .y r => h + Config.spinMix 0 (0x400 + r) (w.stream r).word.toNat
  | .t r => (match w.t.find r with | some t => t.note h n.act r | none => h + Config.spinMix 0 (0x300 + r) 0)
  | .sq r => ((w.sq.getD r []).reverse.take n.entries).foldl (fun h e => noteLanes h n.act (0x500 + r) (fun l => (e.vals.at l).toNat)) h
  | _ => h

/-- What a slot has written joins the hash. -/
def State.noteWrites (s : State) (u : UnitId) (n : Note) : State :=
  match u with
  | .thread _ => s
  | .wave i =>
    if (s.wave i).stack.isEmpty then s
    else s.modWave i (fun w => { w with spin := { w.spin with hash := n.writes.foldl (w.noteReg n) w.spin.hash } })

/-- Is a destination of the instruction written by answers, which the detector notes as they come? -/
def byAnswer : Instr → Bool
  | .ld _ | .lds _ | .lda _ | .ldsync _ | .memoryLoneForm .. | .atom .. | .amsg .. => true
  | _ => false

/-- Is a tile that the instruction names written later, by its step or by the words that it loads? -/
def tileLater : Instr → Bool
  | .mma .. | .mmas .. | .mmax .. | .mmaLone .. | .accld .. | .accldLone .. => true
  | _ => false

/-- The note of a slot: a masked instruction writes the lanes of ACTIVE. -/
def State.noted (s : State) (u : UnitId) (i : Instr) : Note :=
  let ws := (s.useOf u i).writes
  { writes := if byAnswer i then [] else if tileLater i then ws.filter (fun r => match r with | .t _ => false | _ => true) else ws
    act := match aClass i with | some (maj, f) => s.active u (toLA maj f).msel | none => s.execOf u
    entries := queueWidth i }

/-! ## The frame of every instruction -/

/-- Is the access stream blocked on a queue or on the lead limit (R61, R63)? -/
def Wave.accessBlocked (w : Wave) : Bool :=
  decide (16 ≤ w.lead.length) ||
  (match w.c.bundle with
    | none => false
    | some b =>
      let u := regUse true b.ci
      let n := queueWidth b.ci
      (sqOf u.reads).any (fun q => decide ((w.sq.getD q []).length < n))
        || (lqOf u.writes).any (fun q => decide (8 < (w.lq.getD q []).length + n)))

/-- The A-slot that the compute stream has reached: the next one behind the access stream, or that of the bundle whose C-slot waits. -/
def Wave.computeAt (w : Wave) : Option Instr :=
  match w.lead with
  | l :: _ => some l.ai
  | [] => w.c.bundle.bind Bundle.ai

/-- Is the compute stream blocked on a queue (R63)? -/
def Wave.computeBlocked (w : Wave) : Bool :=
  match w.computeAt with
  | none => false
  | some i =>
    let u := regUse true i
    let n := queueWidth i
    (lqOf u.reads).any (fun q =>
        let es := w.lq.getD q []
        let need := n * ((lqOf u.reads).filter (· == q)).length
        decide (es.length < need) || (es.take need).any (fun e => e.pend != 0))
      || (sqOf u.writes).any (fun q => decide (8 ≤ (w.sq.getD q []).length))

/-- The actor of a unit, or of a wave's compute stream, has tried its slot in vain. -/
def State.noteTried (s : State) (u : UnitId) (compute : Bool) : State :=
  let a : Actor := match u with | .thread t => .thread t | .wave w => if compute then .compute w else .access w
  { s with tried := a :: s.tried }

/-- The condition of R65, from when it holds. -/
def State.deadlocked (s : State) (i : Nat) : Bool :=
  let w := s.wave i
  -- sixteen instructions outstanding count as a block only for one that pops a queue (R221)
  let many : Bool := decide (16 ≤ ((s.accessesOf (.wave i)).filter (fun a => !a.complete)).length)
    && (match w.c.bundle with | none => false | some b => !(sqOf (regUse true b.ci).reads).isEmpty)
  (w.accessBlocked || many) && w.computeBlocked && !(s.accessesOf (.wave i)).any (fun a => match a.dest with | .queue .. => true | _ => false)

/-- A slot that cannot execute yet changes nothing, but the unit's accesses come forward; a wave whose two streams are blocked notes since
when (R65). -/
def State.stalled (s : State) (u : UnitId) (compute : Bool := false) : State :=
  let s := ((s.settle u (fun _ => true)).2).noteTried u compute
  match u with
  | .thread _ => s
  | .wave i =>
    if s.deadlocked i then s.modCom u (fun c => { c with deadlock := some (c.deadlock.getD s.acount) })
    else s.modCom u (fun c => { c with deadlock := none })

/-- The outcome of a C-slot. -/
def State.applyC (s : State) (u : UnitId) (n : Note) : Res → State
  | .done t => (t.noteWrites u n).retireC u (s.pcOf u) none (s.execOf u)
  | .goto t a => (t.noteWrites u n).retireC u (s.pcOf u) (some a) (s.execOf u)
  | .trap t i => t.takeTrap u i
  | .stall t => t.stalled u
  | .gone t => t

/-- Does a wave's compute stream stand at the A-slot of a paired bundle? A lone instruction counts as the C-slot (R49). -/
def State.atASlot (s : State) (u : UnitId) : Bool :=
  match u with
  | .thread _ => false
  | .wave i => (match (s.wave i).lead with | l :: _ => !l.words.1.getLsbD 31 | [] => false)

/-- The outcome of an A-slot; a compute stream that cannot execute its slot is marked as waiting, and one that traps beside a C-slot in flight traps once
that has completed (R66). -/
def State.applyA (_s : State) (u : UnitId) (n : Note) : Res → State
  | .done t => (t.noteWrites u n).retireA u
  | .goto t _ => (t.noteWrites u n).retireA u
  | .trap t i =>
    match u with
    | .wave w =>
      if (t.wave w).lead.isEmpty || !t.holdRuns u then t.takeTrap u { i with slot := i.slot || t.atASlot u }
      else (t.modWave w (fun x => { x with trapDue := true })).noteTried u true
    | .thread _ => t.takeTrap u { i with slot := i.slot || t.atASlot u }
  | .stall t =>
    (match u with | .thread _ => t | .wave i => t.modWave i (fun w => { w with computeWait := true })).stalled u true
  | .gone t => t

/-- Does an instruction of the access stream access memory, and does it write or send (R233)? -/
def memoryUse : Instr → Option Bool
  | .ld _ | .ldq _ | .lds _ | .lda _ | .ldsync _ | .pf .. | .bldq .. | .accld .. | .accldLone .. => some false
  | .cpyj .. | .cpyjLone .. | .tload .. | .launch .. | .lwait .. | .lwaitLone .. | .sleep .. | .sleepLone .. => some false
  | .traceRidge .. | .repack .. | .passRidge .. | .passSpur .. => some false
  | .st _ | .sts _ | .stl _ | .stf _ | .atom .. | .amsg .. | .cwb .. | .cinv .. | .hist .. | .gath .. | .scat .. => some true
  | .send .. | .sendLone .. | .task .. | .accsv .. | .accsvLone .. | .wake .. | .wakeLone .. => some true
  | .cview .. | .cviewLone .. | .ctile .. | .csegLin .. | .csegQuad .. | .csegCub .. | .ctri .. | .ctriFrag .. => some true
  | .cfill .. | .cfillLone .. | .cclose .. => some true
  | .memoryLoneForm k _ _ => match k with
    | .st | .sts | .stl | .stf => some true
    | .ld | .lds | .ldq | .lda | .ldsync => some false
  | _ => none

/-- Is a fence complete: every access that it names is performed in every lane (R233)? -/
def State.fenceOver (s : State) (u : UnitId) (f : Fence) : Bool := (s.accessesOf u).all (fun a => a.complete || !f.ids.contains a.id)

/-- Fences that are complete end; that of a FENCE drops the PRIVATE sectors of the L1 (R201, R233). -/
def State.endFences (s : State) (u : UnitId) : State :=
  let ended := (s.com u).fences.filter (s.fenceOver u)
  if ended.isEmpty then s
  else
    let t := s.modCom u (fun c => { c with fences := c.fences.filter (fun f => !s.fenceOver u f) })
    if ended.any Fence.full then t.l1Acquire u else t

/-- Does a fence hold an instruction: a FENCE every later memory instruction, a FENCE.ST those that write (R233)? -/
def State.fenced (s : State) (u : UnitId) (i : Instr) : Bool :=
  match memoryUse i with
  | none => false
  | some w => (s.com u).fences.any (fun f => f.full || w)

/-- A C-slot of unit `u`. An instruction whose result has been written for it while it waited is complete. -/
def State.stepC (s : State) (u : UnitId) (i : Instr) (f : State → UnitId → Res) : State :=
  match (s.com u).wait with
  | .answered acq =>
    let s := s.setWait u .none
    ((if acq then s.l1Acquire u else s).noteWrites u (s.noted u i)).retireC u (s.pcOf u) none (s.execOf u)
  | _ =>
    let s := s.endFences u
    let use := s.useOf u i
    let r := s.waitRegs u use
    if !r.1 || r.2.leadClash u use || r.2.leadFull u || r.2.fenced u i then r.2.stalled u
    else
      let n := s.noted u i
      let s := r.2.modCom u (fun c => { c with body := c.rpt.act })
      s.applyC u n (f s u)

/-- An A-slot of unit `u`. -/
def State.stepA (s : State) (u : UnitId) (i : Instr) (f : State → UnitId → Res) : State :=
  let n := s.noted u i
  let r := s.waitRegs u (s.useOf u i)
  if !r.1 then r.2.applyA u n (.stall r.2)
  else
    let s := match u with
      | .thread t => if (r.2.thread t).slotBit then r.2 else r.2.modCom u (fun c => { c with body := c.rpt.act })
      | .wave w => if (r.2.wave w).lead.isEmpty then r.2.modCom u (fun c => { c with body := c.rpt.act }) else r.2
    s.applyA u n (f s u)

/-- Does a unit stand ready to execute, on dies that run? -/
def State.ready (s : State) (u : UnitId) : Bool := s.adentoth.st == 1 && s.unitExists u

/-- A C-class or lone instruction executes in the current unit. -/
def runC (s : State) (i : Instr) (f : State → UnitId → Res) : Host.Outcome State Fault Refusal :=
  match s.cur with
  | some u => if s.ready u then .next (s.stepC u i f) else .fault .noUnit
  | none => .fault .noUnit

/-- An A-class instruction executes in the current unit. -/
def runA (s : State) (i : Instr) (f : State → UnitId → Res) : Host.Outcome State Fault Refusal :=
  match s.cur with
  | some u => if s.ready u then .next (s.stepA u i f) else .fault .noUnit
  | none => .fault .noUnit

end Sys2Proof.Machine
end

