-- ==== Sys2Proof/Machine/Flags.lean ====
section
/-! DEFINITION. The flags that instructions compute: DZ and OV of SSTAT (R79, R80) and the sticky flags of FPST under the enables
of FPCTL (R152 to R154). -/

namespace Sys2Proof.Machine

/-- A scalar instruction's flags join SSTAT (R80). -/
def State.orSstat (s : State) (u : UnitId) (dz ov : Bool) : State :=
  s.modCom u (fun c => { c with dz := c.dz || dz, ov := c.ov || ov })

/-- An instruction's flags join FPST (R152). -/
def State.orFpst (s : State) (u : UnitId) (fl : FFlags) : State := s.modCom u (fun c => { c with fpst := c.fpst ||| fl })

/-- The flags of the listed lanes together. -/
def flagsOver (ls : List Nat) (fl : Nat → FFlags) : FFlags := ls.foldl (fun a l => a ||| fl l) 0

/-- The lanes that raise an enabled flag. -/
def enabledLanes (ctl : FFlags) (ls : List Nat) (fl : Nat → FFlags) : Mask := Mask.ofLanes (ls.filter (fun l => fl l &&& ctl != 0))

/-- The FP_EXCEPTION of R154, if a flag is enabled: DETAIL holds the flags, MASK the lanes on a Ridge engine. -/
def State.fpTrap (s : State) (u : UnitId) (fl : FFlags) (lanes : Mask) : Option TrapInfo :=
  if fl &&& (s.com u).fpctl == 0 then none
  else some { cause := .fpException, detail := fl.zeroExtend 64, mask := if isRidge u then lanes else 0 }

end Sys2Proof.Machine
end

