-- ==== Sys2Proof/Machine/Operands.lean ====
section
/-! DEFINITION. Operand forms: the 32- and 64-bit forms of scalar operations (R84), the lane operands of A-class instructions with
their kind bits, masks and queues (R57, R59, R63, R169 to R172, R192), and packed elements (R141). -/

namespace Sys2Proof.Machine

/-! ## Scalar operands -/

/-- An operation of width `n`, for the 64-bit and the 32-bit form alike. -/
abbrev WordOp := (n : Nat) → BitVec n → BitVec n → BitVec n

/-- The W = 1 form reads bits 31:0 and writes the sign-extended 32-bit result (R84). -/
def widthForm (w : Bool) (f : WordOp) (a b : W64) : W64 :=
  if w then (f 32 (lo32 a) (lo32 b)).signExtend 64 else f 64 a b

/-- D := op(A, B). -/
def State.alu (s : State) (u : UnitId) (d a : Reg6) (w : Bool) (b : W64) (f : WordOp) : State :=
  s.setReg u d.toNat (widthForm w f (s.reg u a.toNat) b)

/-! ## Lane operands -/

/-- Pops the oldest entry of lq `q`; none while it is not complete (R63). -/
def Wave.popLq (w : Wave) (q : Nat) : Option (Lanes × Wave) :=
  match w.lq.getD q [] with
  | e :: rest => if e.pend == 0 then some (e.vals, { w with lq := w.lq.put q rest }) else none
  | [] => none

/-- Pops the oldest entry of sq `q` (R63). -/
def Wave.popSq (w : Wave) (q : Nat) : Option (Lanes × Wave) :=
  match w.sq.getD q [] with
  | e :: rest => some (e.vals, { w with sq := w.sq.put q rest })
  | [] => none

/-- Pushes an entry on sq `q`; none while it holds eight (R63). -/
def Wave.pushSq (w : Wave) (q : Nat) (v : Lanes) : Option Wave :=
  let es := w.sq.getD q []
  if 8 ≤ es.length then none else some { w with sq := w.sq.put q (es ++ [{ vals := v, pend := 0 }]) }

/-- A source operand: what each lane reads, and the state after a pop; none where the stream must wait (R170). -/
def State.laneSrc (s : State) (u : UnitId) (kind : Bool) (code : BitVec 8) : Option ((Nat → W32) × State) :=
  match u with
  | .thread i => let x := lo32 ((s.thread i).reg code.toNat); some (fun _ => x, s)
  | .wave i =>
    let w := s.wave i
    if kind then
      if code.toNat < 0x40 then let x := lo32 (w.kreg code.toNat); some (fun _ => x, s)
      else match w.popLq (code.toNat - 0x40) with
        | some (v, w) => some (v.at, s.setWave i w)
        | none => none
    else let v := w.vreg code.toNat; some (v.at, s)

/-- A destination operand: the lanes of ACTIVE, or an entry of an sq queue with 0 in the other lanes; none where the queue is full
(R170, R171). A 32-bit result on a spur or Summit core clears bits 63:32 (R192). -/
def State.laneDst (s : State) (u : UnitId) (kd : Bool) (d : BitVec 8) (act : Mask) (r : Nat → W32) : Option State :=
  match u with
  | .thread i => some (s.modThread i (fun t => t.setReg d.toNat ((r 0).zeroExtend 64)))
  | .wave i =>
    let w := s.wave i
    if kd then (w.pushSq (d.toNat - 0x44) (Lanes.gen (fun l => if act.getLsbD l then r l else 0))).map (s.setWave i)
    else some (s.setWave i (w.setLanes d.toNat act r))

/-- The lanes of a mask that exist for a unit. -/
def laneList (u : UnitId) (m : Mask) : List Nat := match u with | .thread _ => [0] | .wave _ => Mask.lanes m

/-- Ends a lane instruction: FP_EXCEPTION before anything is written (R154, R172), else the destination and FPST. `s` is the state
before the sources were popped, `t` the state after. -/
def State.laneEnd (s t : State) (u : UnitId) (f : LA) (act : Mask) (r : Nat → W32) (fl : FFlags) (bad : Mask) : Res :=
  match s.fpTrap u fl bad with
  | some i => .trap s i
  | none => match t.laneDst u f.kd f.d act r with
    | some t => .done (t.orFpst u fl)
    | none => .stall s

/-- Which of A, B and C a lane instruction reads as register operands. -/
structure LaneSrcs where
  a : Bool := true
  b : Bool := true
  c : Bool := false
  deriving DecidableEq, Repr

/-- Reads the sources in the order A, B, C (R59). -/
def State.laneSources (s : State) (u : UnitId) (f : LA) (n : LaneSrcs) :
    Option ((Nat → W32) × (Nat → W32) × (Nat → W32) × State) :=
  let none' : (Nat → W32) := fun _ => 0
  match (if n.a then s.laneSrc u f.ka f.a else some (none', s)) with
  | none => none
  | some (a, s) => match (if n.b then s.laneSrc u f.kb f.b else some (none', s)) with
    | none => none
    | some (b, s) => match (if n.c then s.laneSrc u f.kc f.c else some (none', s)) with
      | none => none
      | some (c, s) => some (a, b, c, s)

/-- A lane instruction whose result in a lane follows from the sources: value and flags (R171). `g` also sees ACTIVE and the whole
sources, for the exchange instructions. -/
def State.laneOp (s : State) (u : UnitId) (f : LA) (n : LaneSrcs)
    (g : (Nat → W32) → (Nat → W32) → (Nat → W32) → Mask → Nat → W32 × FFlags) : Res :=
  match s.laneSources u f n with
  | none => .stall s
  | some (a, b, c, t) =>
    let act := s.active u f.msel
    let r := g a b c act
    let ls := laneList u act
    let fl := flagsOver ls (fun l => (r l).2)
    s.laneEnd t u f act (fun l => (r l).1) fl (enabledLanes (s.com u).fpctl ls (fun l => (r l).2))

/-- A lane instruction with no flags. -/
def State.laneMap (s : State) (u : UnitId) (f : LA) (n : LaneSrcs) (g : W32 → W32 → W32 → W32) : Res :=
  s.laneOp u f n (fun a b c _ l => (g (a l) (b l) (c l), 0))

/-! ## Packed elements (R141) -/

/-- Element `i` of width `w`. -/
def elemOf (w i : Nat) (x : W32) : Nat := x.toNat / 2 ^ (w * i) % 2 ^ w

/-- Element-wise results of width `w`, with the flags together. -/
def packed (w : Nat) (g : Nat → Nat × FFlags) : W32 × FFlags :=
  (List.range (32 / w)).foldl (fun acc i => let r := g i; (acc.1 ||| BitVec.ofNat 32 (r.1 % 2 ^ w * 2 ^ (w * i)), acc.2 ||| r.2)) (0, 0)

end Sys2Proof.Machine
end

