-- ==== Sys2Proof/Machine/Records.lean ====
section
/-! DEFINITION. Reads of records, headers and bundles by an instruction (R206, R505): every word is translated and read at once where
its page is mapped; where it is not, an access for that word is sent and the instruction waits and begins again. -/

namespace Sys2Proof.Machine

/-- Does a region allow an access of kind `k`: 0 read, 1 write, 2 fetch, 3 atomic? -/
def ProtRegion.allows (r : ProtRegion) (k : Nat) : Bool :=
  match k with
  | 0 => r.read
  | 1 => r.write
  | 2 => r.fetch
  | _ => r.read && r.write

/-- Does the protection unit of a core refuse an access to its bank through the local window? The lowest-numbered region that covers the offset
decides, for user code (R31, R33; log entry 25). -/
def State.protBad (s : State) (u : UnitId) (k : Nat) (a : W64) : Bool :=
  let off := a.toNat - Config.localBase
  inLocal a.toNat && !s.isSup u
    && ((s.position (s.unitPos u)).prot.find? (fun r => decide (r.first ≤ off) && decide (off ≤ r.last))).any (fun r => !r.allows k)

/-- The address that a unit may not send, for an access of kind `k` (R30, R32, R33, R205). -/
def State.badAddr (s : State) (u : UnitId) (a : W64) (k : Nat := 0) : Bool := addrBad (isRidge u) a || s.protBad u k a

def State.spaceOf (s : State) (u : UnitId) : Space := if s.unitPhys u then .phys else .virt

/-- SCTL governs the accesses of a supervisor thread's instructions; the fetch of the instructions themselves stays in the thread's own
context (R410; log entry 35). -/
def State.opCtx (s : State) (u : UnitId) (op : AccOp) : Nat := if op == .fetch then (s.com u).ctx else s.unitCtx u
def State.opSpace (s : State) (u : UnitId) (op : AccOp) : Space := if op == .fetch then .virt else s.spaceOf u

/-- The log entry of an ACCESS_VIOLATION that the issuing engine takes (R30). -/
def State.logViolation (s : State) (u : UnitId) (a : W64) : State := s.logError 0x02 (s.unitSrc u) (s.unitFunc u) 1 a 0

/-- ACCESS_VIOLATION on a target or a record address that no request may name (R30, R103). -/
def State.violation (s : State) (u : UnitId) (a : W64) : Res := .trap (s.logViolation u a) { cause := .accessViolation }

/-- An access of unit `u` to one address. -/
def State.access1 (s : State) (u : UnitId) (op : AccOp) (bytes : Nat) (a data : W64) (holding : Bool) : Access :=
  { id := 0, unit := u, op := op, bytes := bytes, dest := .none, space := s.opSpace u op, ctx := s.opCtx u op,
    gen := (s.ctx (s.opCtx u op)).gen, pos := s.unitPos u, holding := holding, acquire := false,
    w0 := (s.com u).words.1, w1 := (s.com u).words.2, pc := s.pcOf u, lanes := [{ lane := 0, ea := a, data := data }] }

/-- Is the unit's limit of memory instructions outstanding reached (R221)? -/
def State.memFull (s : State) (u : UnitId) : Bool :=
  decide ((if isRidge u then 16 else 8) ≤ ((s.accessesOf u).filter (fun a => !a.complete)).length)

/-- Sends a holding access for a word that could not be read at once; the instruction begins again when it is over, or when the limit of R221 lets it
send. -/
def State.probeWord (s : State) (u : UnitId) (op : AccOp) (bytes : Nat) (a : W64) : State :=
  if s.memFull u then s.noteTried u false else
  let r := s.issue (s.access1 u op bytes a 0 true)
  r.2.setWait u (.hold r.1)

/-- The holding access of a unit that waits on one. -/
def State.heldAccess (s : State) (u : UnitId) : Option Access :=
  match (s.com u).wait with
  | .hold id => s.access id
  | _ => none

def State.dropAccess (s : State) (id : Nat) : State := { s with accesses := s.accesses.filter (fun a => a.id != id) }

/-- An instruction that waited for a word of a record begins again: its access is over, and an error response traps. -/
def State.recordStart (s : State) (u : UnitId) : Except (State × TrapInfo) State :=
  match s.heldAccess u with
  | none => .ok s
  | some a =>
    let s := (s.dropAccess a.id).setWait u .none
    if !a.failed then .ok s else .error (s, a.errTrap)

/-- What a read of a record's word gives. -/
inductive Rd where
  | ok (v : Nat) (s : State)
  | stop (r : Res)

/-- May the other side of a link answer for a word of a record before it is read or written: a read that no home caches, a write in the SYSTEM domain
(R234, R458)? Choice 1 says that the access goes there (log entry 1). -/
def State.asksSide (s : State) (c va place : Nat) (write : Bool) : Bool × State :=
  if placeOut place && (if write then s.domOf c va == 3 else (s.homesOf place).isEmpty) then
    let ch := s.choose 2
    (ch.1 == 1, ch.2)
  else (false, s)

/-- Reads `n` bytes: the value, or what becomes of the instruction. The address is checked as that of a load (R205). -/
def State.readNow (s : State) (u : UnitId) (op : AccOp) (n : Nat) (a : W64) : Rd :=
  if s.badAddr u a op.kind then .stop (.trap (s.logViolation u a) { cause := .accessViolation, addr := if op == .fetch then 0 else a })
  else if op != .fetch && a.toNat % n != 0 then .stop (.trap s { cause := .misaligned, addr := a })
  else
    let c := s.opCtx u op
    match xlat s (s.opSpace u op) c (s.ctx c).gen (s.unitPos u) op.kind a.toNat with
    | .ok place cls grain =>
      let out := s.asksSide c a.toNat place false
      let s := out.2
      if s.badRead place n || out.1 then .stop (.stall (s.probeWord u op n a))
      else
        let s := ((s.useEntry (s.opSpace u op) c a.toNat).correct place n (s.ctxFunc c)).homeUse (s.opSpace u op) c (s.unitPos u) a.toNat place
        let r := s.readAt (s.unitEng u) c a.toNat place n (s.effClass (s.unitEng u) c a.toNat cls) grain
        .ok r.1 r.2
    | _ => .stop (.stall (s.probeWord u op n a))

/-- Reads consecutive 8-byte words. -/
def State.readWords (s : State) (u : UnitId) (a : W64) : Nat → Except Res (List W64 × State)
  | 0 => .ok ([], s)
  | n + 1 =>
    match s.readNow u (.load false) 8 a with
    | .stop r => .error r
    | .ok v s => match s.readWords u (a + 8) n with
      | .error r => .error r
      | .ok (vs, s) => .ok (BitVec.ofNat 64 v :: vs, s)

/-- The homes of consecutive words. -/
def State.wordHomes (s : State) (u : UnitId) (a : W64) (n : Nat) : List Home :=
  (List.range n).map (fun i => s.homeOf (s.spaceOf u) (s.unitCtx u) (s.unitPos u) (a + BitVec.ofNat 64 (8 * i)).toNat)

/-- Has an access a lane at one of the homes that has not been performed, or that waits for the replay of a fault? -/
def State.meetsHome (s : State) (hs : List Home) (a : Access) : Bool :=
  a.lanes.any (fun l => (l.underway a.op || l.st.isTable || l.st == .held) && hs.contains (s.homeOf a.space a.ctx a.pos l.ea.toNat))

/-- Must an earlier access of the unit be performed before words of a record are read: it has a lane at one of their homes, or the unit's Ridge L1
performs both it and one of the words, in program order (R227)? -/
def State.meetsRecord (s : State) (u : UnitId) (a : W64) (n : Nat) (b : Access) : Bool :=
  let word (i : Nat) : Access := s.access1 u (.load false) 8 (a + BitVec.ofNat 64 (8 * i)) 0 false
  s.meetsHome (s.wordHomes u a n) b
    || ((List.range n).any (fun i => (word i).lanes.any (fun l => s.laneInL1 (word i) l false)) && b.lanes.any (fun l => l.underway b.op && s.laneInL1 b l true))

/-- Before a record is read, the unit's earlier accesses that R227 orders before it have been performed; then the record's words, or what
becomes of the instruction (R206, R505). -/
def State.record (s : State) (u : UnitId) (a : W64) (n : Nat) : Except Res (List W64 × State) :=
  match s.recordStart u with
  | .error (s, i) => .error (.trap s i)
  | .ok s =>
    let r := s.settle u (s.meetsRecord u a n)
    if !r.1 then .error (.stall r.2) else r.2.readWords u a n

/-- Writes 8-byte words at once where the page is mapped for writing; a word that is not is sent as a holding store. -/
def State.writeNow (s : State) (u : UnitId) (a : W64) (bs : List Byte) : Option State :=
  let c := s.unitCtx u
  match xlat s (s.spaceOf u) c (s.ctx c).gen (s.unitPos u) 1 a.toNat with
  | .ok place cls grain => some (((s.useEntry (s.spaceOf u) c a.toNat).homeUse (s.spaceOf u) c (s.unitPos u) a.toNat place).writeAt (s.unitEng u) c a.toNat place (s.effClass (s.unitEng u) c a.toNat cls) grain bs)
  | _ => none

end Sys2Proof.Machine
end

