-- ==== Sys2Proof/Machine/Gather.lean ====
section
/-! DEFINITION. The Col gatherer (R116 to R125, R350, R372, R507): pass headers, translation templates, bins, and lanes that leave a
wave. -/

namespace Sys2Proof.Machine

/-! ## Pass headers (R507) -/

/-- V-registers and scratchpad bytes that a valid header gives for an entry of the named engine; none where the header fails. -/
def passHeader (ridge : Bool) (w : W64) : Option (Nat × Nat) :=
  let regs := bitsOf w 4 0
  let scr := bitsOf w 15 5
  let ok := w.getLsbD 63 && bitsOf w 62 21 == 0 && w.getLsbD 20 == ridge && decide (scr ≤ 512)
    && (if ridge then decide (1 ≤ regs ∧ regs ≤ 16) else regs == 0)
  if ok then some (regs * 16, scr * 512) else none

/-- The header of an entry is fetched by the issuing unit; it lies 64 bytes below the entry. -/
def State.readHeader (s : State) (u : UnitId) (ridge : Bool) (target : W64) : Except Res ((Nat × Nat) × State) :=
  match s.recordStart u with
  | .error (s, i) => .error (.trap s i)
  | .ok s =>
    match s.readNow u .fetch 8 (target - 64) with
    | .stop r => .error r
    | .ok v s => match passHeader ridge (BitVec.ofNat 64 v) with
      | some h => .ok (h, s)
      | none => .error (.trap s { cause := .badOperand })

/-! ## Templates (R118) -/

/-- Entry `i` of template `t`: VHI in bits 15:8, VLO in bits 7:0. -/
def Vale.tmpl (v : Vale) (t i : Nat) : W16 :=
  let std : W16 := BitVec.ofNat 16 ((16 + i) * 256 + i)
  if t = 0 then std else v.templ.getD (16 * t + i) std

/-- Is a v-register carried by an entry that names it? -/
def carried (nv r : Nat) : Bool := r != 0 && r != 16 && decide (r < nv)

/-- The register s_i and the half of it (true: bits 63:32) that fills v-register `r` on gather: of several entries the highest, and
where one entry names `r` twice the half that the gatherer takes (log entry 1). -/
def gatherFrom (v : Vale) (t nv r : Nat) (hiFirst : Bool) : Option (Nat × Bool) :=
  if !carried nv r then none else
  ((List.range 15).map (fun k => 15 - k)).findSome? (fun i =>
    let e := v.tmpl t i
    let h : Bool := bitsOf e 15 8 == r
    let l : Bool := bitsOf e 7 0 == r
    if h && (hiFirst || !l) then some (i, true) else if l then some (i, false) else none)

/-- The value of a gathered v-register in a lane whose thread is `th`. -/
def gatherVal (v : Vale) (t nv : Nat) (hiFirst : Bool) (th : Thread) (r : Nat) : W32 :=
  if r = 0 then lo32 th.tid else if r = 16 then hi32 th.tid
  else match gatherFrom v t nv r hiFirst with
    | some (i, true) => hi32 (th.reg i)
    | some (i, false) => lo32 (th.reg i)
    | none => 0

/-- s1 to s15 rebuilt from a lane's registers. -/
def laneImage (v : Vale) (w : Wave) (t l : Nat) : Vector W64 16 :=
  regsOf (fun i =>
    let e := v.tmpl t i
    let part (r : Nat) : W32 := if carried w.nv r then (w.vreg r).at l else 0
    join64 (part (bitsOf e 7 0)) (part (bitsOf e 15 8)))

/-! ## Lanes that leave -/

/-- A thread is made for a lane that stands for none: no TID, no home, a member of no block (R370, R372, R392). -/
def State.laneToThread (s : State) (w l : Nat) : Nat × State :=
  match (s.wave w).laneThread l with
  | some t => (t, s)
  | none =>
    let x := s.wave w
    let i := s.newId
    let c : Common := { ctx := x.c.ctx, fpctl := x.c.fpctl, prio := x.c.prio, cap := x.c.cap, grid := x.c.grid }
    let t : Thread := { c := c, loc := .lane w l }
    (i.1, { i.2 with threads := i.2.threads.put i.1 t })

/-- A lane becomes the image of its thread: registers rebuilt under a template, the wave's flags ORed in (R81, R118, R123, R156). -/
def State.laneOut (s : State) (w l t : Nat) (keep : Nat) (target : W64) : Nat × State :=
  let x := s.wave w
  let img := laneImage (s.vale (s.unitVale (.wave w))) x t l
  let r := s.laneToThread w l
  let s := r.2.modThread r.1 (fun th => { th with
    regs := Vector.ofFn (fun i => if i.val ≤ keep then img.getD i.val 0 else 0)
    pc := target, slotBit := false
    c := { th.c with dz := th.c.dz || x.c.dz, ov := th.c.ov || x.c.ov, fpst := th.c.fpst ||| x.c.fpst, bundle := none,
                     rpt := {}, wait := .none } })
  (r.1, s.modWave w (fun y => { y with lanes := y.lanes.filter (fun e => e.1 != l) }))

/-- Would the wave be over without the lanes of EXEC (R111, R132)? -/
def Wave.final (w : Wave) : Bool := (w.removeLanes w.exec).over

/-- ACC_LEAK: the final EXIT of a wave that still holds tiles (R111, R289). -/
def Wave.leak (w : Wave) : Option TrapInfo :=
  if w.final && !w.t.isEmpty then
    some { cause := .accLeak, detail := BitVec.ofNat 64 ((w.t.keys.map (fun n => 2 ^ (n % 16))).foldl (· ||| ·) 0) }
  else none

/-- The path of a wave has ended, its lanes are gone: the wave ends after its drain, or another path runs, or it waits (R111, R129).
A repeat that the path was in is over with it. -/
def State.pathEnd (s : State) (w : Nat) : Res :=
  let x := s.wave w
  let x := { x with c := { x.c with rpt := { x.c.rpt with act := false } } }
  if x.over then .done ((s.setWave w x).modCom (.wave w) (fun c => { c with after := some .endWave }))
  else
    let r := x.select 0
    if r.2 then .goto (s.setWave w r.1) r.1.apc
    else .done ((s.setWave w r.1).park (.wave w) .joinv)

/-- The lanes of EXEC leave the wave. -/
def State.dropExec (s : State) (w : Nat) : State := s.modWave w (fun x => x.removeLanes x.exec)

end Sys2Proof.Machine
end

