-- ==== Sys2Proof/Machine/Control.lean ====
section
/-! DEFINITION. Control flow, divergence and migration (spec/04 R100 to R139). -/

namespace Sys2Proof.Machine

/-! ## Transfers (R100 to R105) -/

/-- The target of an offset in bundles. -/
def State.relTarget (s : State) (u : UnitId) (off : W64) : W64 := s.pcOf u + (off <<< (3 : Nat))

/-- Bits 63:55 of a target (R103). -/
def targetBad (t : W64) : Bool := decide (2 ^ 55 ≤ t.toNat)

/-- UNDEF_OPCODE with DETAIL 1: the instruction stands in an active repeat body (R107). -/
def State.bodyTrap (s : State) (u : UnitId) (r : Res) : Res :=
  if (s.com u).body then .trap s { cause := .undefOpcode, detail := 1 } else r

/-- The spin detector at a taken backward transfer (R133): where the wave goes on. -/
def Wave.spinTaken (w : Wave) (limit : Nat) (pc tgt : W64) : Wave × W64 :=
  if w.spin.addr ≠ some pc then ({ w with spin := { addr := some pc } }, tgt)
  else
    let count := if w.spin.prev = some w.spin.hash then w.spin.count + 1 else 0
    let on (n : Nat) : Wave := { w with spin := { addr := some pc, hash := 0, prev := some w.spin.hash, count := n } }
    if count < limit then (on count, tgt)
    else match w.stack with
      | [] => (on 0, tgt)
      | top :: rest =>
        let saved := { top with pend := w.exec, ppc := tgt }
        if top.pend != 0 then (({ w with stack := saved :: rest }).runAt top.pend top.ppc, top.ppc)
        else match firstBack (rest.length + 1) w.groups with
          | some g => (({ w with stack := saved :: rest, groups := w.groups.filter (· != g) }).runAt g.lanes g.pc, g.pc)
          | none => (on 0, tgt)

/-- Is the transfer one that the spin detector watches: it is on, the path has siblings, the transfer goes back? -/
def State.spinWatched (s : State) (i : Nat) (pc tgt : W64) : Bool :=
  let w := s.wave i
  !w.stack.isEmpty && (s.vale (w.eng / 4)).spinLimit != 0 && decide (tgt.toNat ≤ pc.toNat)

/-- A taken B, BC, JMP or RET: it ends an active repeat (R107) and reports to the spin detector. The detector looks at a path's
writes once the compute stream has caught up or cannot go on, its matrix steps have run, and loads have their answers. -/
def State.taken (s : State) (u : UnitId) (tgt : W64) : Res :=
  if targetBad tgt then s.violation u tgt
  else
    let s1 := s.modCom u (fun c => { c with rpt := if c.body then { c.rpt with act := false } else c.rpt })
    match u with
    | .thread _ => .goto s1 tgt
    | .wave i =>
      let pc := s.pcOf u
      if !s.spinWatched i pc tgt then .goto s1 tgt
      else
        let q := s.settle u (fun a => a.dest != .none)
        if !q.1 || !(s.wave i).steps.isEmpty || (!(s.wave i).lead.isEmpty && !(s.wave i).computeStuck) then .stall q.2
        else
        let s1 := q.2.modCom u (fun c => { c with rpt := if c.body then { c.rpt with act := false } else c.rpt })
        let r := (s1.wave i).spinTaken (s.vale ((s.wave i).eng / 4)).spinLimit.toNat pc tgt
        .goto (s1.setWave i r.1) r.2

/-- NOP (R102). -/
def execNopC (lone : Bool) (s : State) : Host.Outcome State Fault Refusal := runC s (.nopC lone) (fun s _ => .done s)
/-- NOP of the A-slot (R54). -/
def execNopA (s : State) : Host.Outcome State Fault Refusal := runA s .nopA (fun s _ => .done s)

/-- B (R102). -/
def execB (off : BitVec 25) (s : State) : Host.Outcome State Fault Refusal :=
  runC s (.b off) (fun s u => s.taken u (s.relTarget u (off.signExtend 64)))

/-- LINK (R102). -/
def linkNum (u : UnitId) : Nat := if isRidge u then 63 else 15

/-- CALL (R102, R107). -/
def execCall (off : BitVec 25) (s : State) : Host.Outcome State Fault Refusal :=
  runC s (.call off) (fun s u =>
    let tgt := s.relTarget u (off.signExtend 64)
    s.bodyTrap u (if targetBad tgt then s.violation u tgt else .goto (s.setReg u (linkNum u) (s.pcOf u + 8)) tgt))

/-- The comparison of BC (R48, R102). -/
def condHolds (c : Cond) (a b : W64) : Bool :=
  match c with
  | .eq => a == b
  | .ne => a != b
  | .lt => a.slt b
  | .ge => !a.slt b
  | .ltn => a.ult b
  | .gen => !a.ult b

def State.branch (s : State) (u : UnitId) (c : Cond) (a b : Reg6) (off : W64) : Res :=
  if condHolds c (s.reg u a.toNat) (s.reg u b.toNat) then s.taken u (s.relTarget u off) else .done s

/-- BC (R102). -/
def execBc (c : Cond) (a b : Reg6) (off : BitVec 10) (s : State) : Host.Outcome State Fault Refusal :=
  runC s (.bc c a b off) (fun s u => s.branch u c a b (off.signExtend 64))
/-- BC, lone. -/
def execBcLone (c : Cond) (a b : Reg6) (off : W32) (s : State) : Host.Outcome State Fault Refusal :=
  runC s (.bcLone c a b off) (fun s u => s.branch u c a b (immOf off))

/-- A register target must be a multiple of 8 (R103). -/
def State.aligned (s : State) (tgt : W64) (r : Res) : Res := if tgt &&& 7 != 0 then .trap s { cause := .misaligned } else r

/-- JMP reads A before it writes D; a trap writes nothing (R102, R103). -/
def execJmp (d a : Reg6) (s : State) : Host.Outcome State Fault Refusal :=
  runC s (.jmp d a) (fun s u =>
    let tgt := s.reg u a.toNat
    s.aligned tgt (match s.taken u tgt with
      | .goto t x => .goto (t.setReg u d.toNat (s.pcOf u + 8)) x
      | r => r))

/-- RET (R102). -/
def execRet (a : Reg6) (s : State) : Host.Outcome State Fault Refusal :=
  runC s (.ret a) (fun s u => s.aligned (s.reg u a.toNat) (s.taken u (s.reg u a.toNat)))

/-! ## The repeat buffer (R106 to R109) -/

/-- RPTX (R107). -/
def execRptx (s : State) : Host.Outcome State Fault Refusal :=
  runC s .rptx (fun s u =>
    let r := (s.com u).rpt
    if r.act then
      .goto (s.modCom u (fun c => { c with rpt := { c.rpt with act := false } }))
        (s.pcOf u - (r.pos.zeroExtend 64 <<< (3 : Nat)) + ((r.lenm1.zeroExtend 64 + 1) <<< (3 : Nat)))
    else .done s)

/-- RPT with its count (R106). -/
def State.repeatBody (s : State) (u : UnitId) (lenm1 : Reg6) (count : W32) : Res :=
  s.bodyTrap u
    (if count = 0 then .goto s (s.pcOf u + ((lenm1.zeroExtend 64 + 2) <<< (3 : Nat)))
    else .done (s.modCom u (fun c => { c with rpt := { act := true, lenm1 := lenm1, pos := 0, rc := count } })))

/-- RPT (R106). -/
def execRpt (a lenm1 : Reg6) (s : State) : Host.Outcome State Fault Refusal :=
  runC s (.rpt a lenm1) (fun s u => s.repeatBody u lenm1 (lo32 (s.reg u a.toNat)))
/-- RPT, lone. -/
def execRptLone (lenm1 : Reg6) (cnt : W32) (s : State) : Host.Outcome State Fault Refusal :=
  runC s (.rptLone lenm1 cnt) (fun s u => s.repeatBody u lenm1 cnt)

/-! ## Ending and suspending (R110 to R113) -/

/-- EXIT: a thread ends once its memory operations are performed; on a Ridge engine the lanes of EXEC retire, and the threads that
they stand for end (R111, R114). -/
def State.exitUnit (s : State) (u : UnitId) (code : W32) : Res :=
  match u with
  | .thread _ => .done (s.modCom u (fun c => { c with after := some (.exit code) }))
  | .wave i =>
    match (s.wave i).leak with
    | some t => .trap s t
    | none =>
      -- threads that end wait for their accesses (R111, R237)
      let ends : Bool := (s.wave i).lanes.any (fun e => (s.wave i).exec.getLsbD e.1)
      let r := if ends then s.settle u (fun _ => true) else (true, s)
      if !r.1 then .stall r.2
      else
      let s := r.2.gridEnd (r.2.wave i).c.grid code false
      (s.endLanes i (s.wave i).exec code false |>.dropExec i).pathEnd i

/-- EXIT (R111). -/
def execExit (s : State) : Host.Outcome State Fault Refusal := runC s .exit (fun s u => s.exitUnit u 0)
/-- EXIT, lone, with its code. -/
def execExitLone (code : W32) (s : State) : Host.Outcome State Fault Refusal := runC s (.exitLone code) (fun s u => s.exitUnit u code)

/-- YIELD: the job's continuation is set, and the unit parks after its bundle while the job is outstanding (R107, R112). -/
def State.yieldJob (s : State) (u : UnitId) (a : Reg6) (cont : W64) : Res :=
  s.bodyTrap u
    (if targetBad cont then s.violation u cont
    else .goto (s.modCom u (fun c => { c with after := some (.yield (s.jobEngine u) (bitsOf (s.reg u a.toNat) 15 0)) })) cont)

/-- YIELD (R112). -/
def execYield (a : Reg6) (s : State) : Host.Outcome State Fault Refusal :=
  runC s (.yield a) (fun s u => s.yieldJob u a (s.pcOf u + 8))
/-- YIELD, lone. -/
def execYieldLone (a : Reg6) (off : W32) (s : State) : Host.Outcome State Fault Refusal :=
  runC s (.yieldLone a off) (fun s u => s.yieldJob u a (s.relTarget u (immOf off)))

/-- BKPT traps after its whole bundle; the record holds the tag, and where a step falls due with it, a mark whose place the record's
layout does not give (R113, R137; log entry 2). -/
def State.breakTag (s : State) (u : UnitId) (tag : W32) : Res :=
  if (s.com u).stepping then
    let f := s.free
    .done (f.2.modCom u (fun c => { c with after := some (.trap { cause := .breakpoint, detail := join64 tag (lo32 f.1) }) }))
  else .done (s.modCom u (fun c => { c with after := some (.trap { cause := .breakpoint, detail := tag.zeroExtend 64 }) }))

/-- BKPT (R113). -/
def execBkpt (s : State) : Host.Outcome State Fault Refusal := runC s .bkpt (fun s u => s.breakTag u 0)
/-- BKPT, lone. -/
def execBkptLone (tag : W32) (s : State) : Host.Outcome State Fault Refusal := runC s (.bkptLone tag) (fun s u => s.breakTag u tag)

/-! ## PASS (R114 to R125) -/

/-- The target of a lone transfer to an entry, after the checks that come before any effect (R103, R107, R409); a supervisor thread is
refused before a repeat body is looked at (log entry 49). -/
def State.passTarget (s : State) (u : UnitId) (off : W32) (f : W64 → Res) : Res :=
  if s.isSup u then .trap s { cause := .badOperand }
  else
    let tgt := s.relTarget u (immOf off)
    s.bodyTrap u (if targetBad tgt then s.violation u tgt else f tgt)

/-- A thread enters a bin once its accesses are performed (R114, R117). A stepped one takes SINGLE_STEP after its bundle, at the target, and enters
when it resumes (R137; log entry 100). -/
def State.threadToBin (s : State) (t v : Nat) (k : BinKey) (key : Nat) (retpos : Option Nat) : Res :=
  let u : UnitId := .thread t
  if (s.com u).stepping then .goto (s.modCom u (fun c => { c with after := some (.bin v k key retpos) })) k.target
  else
    let r := s.settle u (fun _ => true)
    if !r.1 then .stall r.2
    else match r.2.joinBin t v k key retpos with
      | some x => .gone x
      | none => .stall (r.2.binWaits v u)

/-- PASS.RIDGE (R117); a RETPOS stays with the thread (R373). -/
def execPassRidge (b : Reg6) (tmpl : BitVec 4) (off : W32) (s : State) : Host.Outcome State Fault Refusal :=
  runC s (.passRidge b tmpl off) (fun s u => s.passTarget u off (fun tgt =>
    match s.readHeader u true tgt with
    | .error r => r
    | .ok (h, s) =>
      match u with
      | .thread t =>
        let k : BinKey := { target := tgt, tmpl := tmpl.toNat, ctx := (s.com u).ctx, fpctl := (s.com u).fpctl, frag := false,
                            nv := h.1, scr := h.2 }
        s.threadToBin t (s.unitVale u) k (bitsOf (s.reg u b.toNat) 15 0) (s.thread t).retpos
      | .wave _ => .done s))

/-- The thread is on its way to a core: into its home slot there where `home` is set, else into a free class-0 slot (R123, R370, R373). -/
def State.sendThread (s : State) (t p : Nat) (home : Bool) : State :=
  s.modThread t (fun x => { x with loc := .retry (p / 32), cls := 0, toHome := home, c := { x.c with parkedAt := some p } })

/-- The core to which a returning lane goes: the one a REPACK named, else its home core (R123, R373). -/
def returnCore (v : Nat) (t : Thread) : Nat :=
  match t.retpos with
  | some p => v * 32 + p
  | none => (t.home.map Prod.fst).getD 0

/-- The lanes of EXEC become threads again, in ascending order. -/
def State.lanesHome (s : State) (w : Nat) (tmpl : Nat) (tgt : W64) : List Nat → State
  | [] => s
  | l :: rest =>
    let o := s.laneOut w l tmpl 15 tgt
    let p := returnCore (s.unitVale (.wave w)) (s.thread o.1)
    let home := (s.thread o.1).retpos.isNone
    ((o.2.modThread o.1 (fun x => { x with retpos := none })).sendThread o.1 p home).lanesHome w tmpl tgt rest

/-- Has every lane of EXEC a home core? -/
def State.lanesHaveHome (s : State) (w : Nat) : Bool :=
  (Mask.lanes (s.wave w).exec).all (fun l => match (s.wave w).laneThread l with
    | some t => (s.thread t).home.isSome
    | none => false)

/-- PASS.SPUR (R123). -/
def execPassSpur (tmpl : BitVec 4) (off : W32) (s : State) : Host.Outcome State Fault Refusal :=
  runC s (.passSpur tmpl off) (fun s u => s.passTarget u off (fun tgt =>
    match s.readHeader u false tgt with
    | .error r => r
    | .ok (_, s) =>
      match u with
      | .thread _ => .done s
      | .wave i =>
        let r := s.settle u (fun _ => true)
        if !r.1 || !(r.2.wave i).lead.isEmpty then .stall r.2
        else if !r.2.lanesHaveHome i then .trap r.2 { cause := .badOperand }
        else match (r.2.wave i).leak with
          | some t => .trap r.2 t
          | none => ((r.2.lanesHome i tmpl.toNat tgt (Mask.lanes (r.2.wave i).exec)).dropExec i).pathEnd i))

/-- Emits the open bins of a target and template in a context, a fragment bin with its own CAUSE (R119, R124, R350). -/
def State.flushBins (s : State) (v : Nat) (tgt : W64) (tmpl ctx : Nat) : State :=
  s.modVale v (fun x => { x with bins := x.bins.map (fun e =>
    if e.2.closed.isNone && e.2.target == tgt && e.2.tmpl == tmpl && e.2.ctx == ctx then (e.1, { e.2 with closed := some (if e.2.frag then 3 else 2) }) else e) })

/-- PASS.FLUSH (R124). -/
def execPassFlush (tmpl : BitVec 4) (off : W32) (s : State) : Host.Outcome State Fault Refusal :=
  runC s (.passFlush tmpl off) (fun s u => s.passTarget u off (fun tgt =>
    .done (s.flushBins (s.unitVale u) tgt tmpl.toNat (s.com u).ctx)))

/-! ## Divergence (R126 to R132) -/

/-- BRV (R128). -/
def State.splitPath (s : State) (i : Nat) (m : BitVec 3) (tgt : W64) : Res :=
  let w := s.wave i
  if 32 ≤ w.stack.length then .trap s { cause := .badOperand, detail := 32 }
  else
    let t := w.exec &&& w.mask m.toNat
    let f := w.exec &&& ~~~(w.mask m.toNat)
    let e : DivEntry := { outer := w.exec, pend := if t == 0 then 0 else f, ppc := tgt, jpc := 0 }
    let w1 := { w with stack := e :: w.stack }
    if t != 0 then .done (s.setWave i (w1.runAt t w.apc))
    else .goto (s.setWave i (w1.runAt f tgt)) tgt

/-- The target of BRV and ELSEV, and what follows where it is good; both are forbidden in a repeat body (R103, R107, R127). A target
that cannot be fetched is found before a full path stack (log entry 49). -/
def State.diverge (s : State) (u : UnitId) (tgt : W64) (f : Nat → Res) : Res :=
  s.bodyTrap u (s.aligned tgt (if targetBad tgt then s.violation u tgt else match u with | .wave i => f i | .thread _ => .done s))

/-- BRV. -/
def execBrv (m : BitVec 3) (b : Reg6) (s : State) : Host.Outcome State Fault Refusal :=
  runC s (.brv m b) (fun s u => s.diverge u (s.reg u b.toNat) (fun i => s.splitPath i m (s.reg u b.toNat)))
/-- BRV, lone. -/
def execBrvLone (m : BitVec 3) (off : W32) (s : State) : Host.Outcome State Fault Refusal :=
  runC s (.brvLone m off) (fun s u => s.diverge u (s.relTarget u (immOf off)) (fun i => s.splitPath i m (s.relTarget u (immOf off))))

/-- ELSEV (R128). -/
def State.otherPath (s : State) (i : Nat) (tgt : W64) : Res :=
  let w := s.wave i
  match w.stack with
  | [] => .goto s tgt
  | top :: rest =>
    if top.pend != 0 then
      .goto (s.setWave i (({ w with stack := { top with jpc := tgt, pend := 0 } :: rest }).runAt top.pend top.ppc)) top.ppc
    else .goto (s.setWave i { w with stack := { top with jpc := tgt } :: rest }) tgt

/-- ELSEV. -/
def execElsev (b : Reg6) (s : State) : Host.Outcome State Fault Refusal :=
  runC s (.elsev b) (fun s u => s.diverge u (s.reg u b.toNat) (fun i => s.otherPath i (s.reg u b.toNat)))
/-- ELSEV, lone. -/
def execElsevLone (off : W32) (s : State) : Host.Outcome State Fault Refusal :=
  runC s (.elsevLone off) (fun s u => s.diverge u (s.relTarget u (immOf off)) (fun i => s.otherPath i (s.relTarget u (immOf off))))

/-- Lanes that a join still waits for: those away on a service call, and those back that have not run to the join (R128 to R130). -/
def Wave.missing (w : Wave) (top : DivEntry) (depth : Nat) : Mask :=
  (top.outer &&& w.absent)
    ||| ((w.groups.filter (fun g => g.back.isSome && g.depth == depth)).map SvcGroup.lanes).foldl (· ||| ·) 0

/-- A limit in a-cycles has passed, of a time in thousandths of an a-cycle (R38, R39). -/
def limitOver (elapsed limit : Nat) : Bool := decide (1000 * limit ≤ elapsed)

/-- May the limit of a WAITR end the wait: lanes are still away, and no lanes that are back have yet to run to the join (R129, R130)? -/
def Wave.mayTimeout (w : Wave) : Bool :=
  match w.stack with
  | top :: rest => (top.outer &&& w.absent) != (0 : Mask) && (firstBack (rest.length + 1) w.groups).isNone
  | [] => false

/-- The limit of a WAITR ends at the topmost entry (R130): D takes the lanes that are away, they become late, and the others go on. -/
def Wave.timeout (w : Wave) (d : Nat) : Wave :=
  match w.stack with
  | [] => w.setK d 0
  | top :: _ =>
    let miss := top.outer &&& w.absent
    let w := (w.setK d miss).makeLate miss
    match w.stack with
    | [] => w
    | top :: rest => ({ w with stack := rest }).runAt (top.outer &&& w.live) (top.jpc + 8)

/-- JOINV, and WAITR with its destination and limit (R128 to R130). -/
def State.join (s : State) (i : Nat) (waitr : Option (Reg6 × Nat)) : Res :=
  let w := s.wave i
  let fin (x : Wave) : State := s.setWave i (match waitr with | some (d, _) => x.setK d.toNat 0 | none => x)
  match w.stack with
  | [] => .done (fin w)
  | top :: rest =>
    let top := { top with jpc := w.apc }
    if top.pend != 0 then
      .goto (s.setWave i (({ w with stack := { top with pend := 0 } :: rest }).runAt top.pend top.ppc)) top.ppc
    else if w.missing top (rest.length + 1) == 0 then
      .done (fin (({ w with stack := rest }).runAt (top.outer &&& w.live) w.apc))
    else
      let since := top.since.getD s.acount
      let top := match waitr with | some _ => { top with since := some since } | none => top
      let w := { w with stack := top :: rest }
      match waitr with
      | some (d, limit) =>
        if limitOver (s.acount - since) limit && w.mayTimeout then
          .goto (s.setWave i (w.timeout d.toNat)) (w.timeout d.toNat).apc
        else
          let r := w.select w.exec
          if r.2 then .goto (s.setWave i r.1) r.1.apc else .done ((s.setWave i r.1).park (.wave i) (.waitr d limit))
      | none =>
        let r := w.select w.exec
        if r.2 then .goto (s.setWave i r.1) r.1.apc else .done ((s.setWave i r.1).park (.wave i) .joinv)

def State.joinUnit (s : State) (u : UnitId) (waitr : Option (Reg6 × Nat)) : Res :=
  s.bodyTrap u (match u with | .wave i => s.join i waitr | .thread _ => .done s)

/-- JOINV. -/
def execJoinv (lone : Bool) (s : State) : Host.Outcome State Fault Refusal := runC s (.joinv lone) (fun s u => s.joinUnit u none)
/-- WAITR. -/
def execWaitr (d a : Reg6) (s : State) : Host.Outcome State Fault Refusal :=
  runC s (.waitr d a) (fun s u => s.joinUnit u (some (d, (s.reg u a.toNat).toNat)))
/-- WAITR, lone. -/
def execWaitrLone (d : Reg6) (limit : W32) (s : State) : Host.Outcome State Fault Refusal :=
  runC s (.waitrLone d limit) (fun s u => s.joinUnit u (some (d, limit.toNat)))

end Sys2Proof.Machine
end

