-- ==== Sys2Proof/Machine/MemAccess.lean ====
section
/-! DEFINITION. Loads, stores, full-empty forms, atomics, HIST, prefetch and cache maintenance (spec/07 R203 to R224, spec/11 R315 to
R317). -/

namespace Sys2Proof.Machine

/-! ## Addresses and operands (R203, R204) -/

/-- What a format CM word and its extension say about the address, with the engine's reading of DK. -/
structure MemForm where
  m : MemOp
  uniform : Bool
  noix : Bool
  msel : BitVec 3
  scale : Nat
  off : W64

/-- The address operands of an instruction whose uniform form `uni` names; NOIX is MOD bit 3 where `nx` says so. -/
def memForm (uni nx : Bool) (m : MemOp) (e : Option MemExt) : MemForm :=
  match e with
  | none => { m := m, uniform := uni, noix := false, msel := 0, scale := szBytes m.sz, off := 0 }
  | some x =>
    { m := m, uniform := uni, noix := nx && x.md.getLsbD 3, msel := x.msel, scale := if x.xs then 1 else szBytes m.sz,
      off := x.off.signExtend 64 }

/-- The lanes of an access: EXEC and the mask, or the single lane of a uniform form or a thread. -/
def State.memLanes (s : State) (u : UnitId) (f : MemForm) : List Nat :=
  match u with
  | .thread _ => [0]
  | .wave i => if f.uniform then [0] else Mask.lanes ((s.wave i).exec &&& (s.wave i).mask f.msel.toNat)

/-- EA of a lane (R204). -/
def State.memEa (s : State) (u : UnitId) (f : MemForm) (l : Nat) : W64 :=
  let idx : W64 :=
    if f.noix then 0
    else match u with
      | .thread i => (s.thread i).reg f.m.x.toNat
      | .wave i => if f.uniform then (s.wave i).kreg (f.m.x.toNat % 64) else (s.lreg i l f.m.x.toNat).signExtend 64
  s.reg u f.m.b.toNat + idx * BitVec.ofNat 64 f.scale + f.off

/-- A data register or pair from number `d` on: `wide` for the two v-registers of a 64-bit lane. -/
def State.memReg (s : State) (u : UnitId) (f : MemForm) (d : Nat) (wide : Bool) (l : Nat) : W64 :=
  match u with
  | .thread i => (s.thread i).reg d
  | .wave i =>
    if f.uniform then (s.wave i).kreg d
    else if wide then join64 (s.lreg i l d) (s.lreg i l (d + 1)) else (s.lreg i l d).zeroExtend 64

/-- The sq queue that a store's D names, if it names one. -/
def sqCode (ridge : Bool) (m : MemOp) : Option Nat :=
  if ridge && m.dk then (match codeReg m.d with | some (.sq q) => some q | _ => none) else none

/-- The data of a store, lane by lane: the register, or the oldest entries of the queue (two for 64 bits); none while the queue has
too few. -/
def State.storeData (s : State) (u : UnitId) (f : MemForm) : Option (Nat → W64) :=
  match sqCode (isRidge u) f.m, u with
  | some q, .wave i =>
    (match f.m.sz == 3, (s.wave i).sq.getD q [] with
      | false, a :: _ => some (fun l => (a.vals.at l).zeroExtend 64)
      | true, a :: b :: _ => some (fun l => join64 (a.vals.at l) (b.vals.at l))
      | _, _ => none)
  | _, _ => some (fun l => s.memReg u f f.m.d.toNat (f.m.sz == 3) l)

/-- The queue entries of a store are taken. -/
def State.popStore (s : State) (u : UnitId) (f : MemForm) : State :=
  match sqCode (isRidge u) f.m, u with
  | some q, .wave i =>
    s.modWave i (fun w => { w with sq := w.sq.put q ((w.sq.getD q []).drop (if f.m.sz == 3 then 2 else 1)) })
  | _, _ => s

/-- The destination of a load or an atomic. -/
def memDest (u : UnitId) (f : MemForm) : Dest :=
  if isRidge u && !f.uniform then .vreg f.m.d.toNat (f.m.sz == 3) else .reg (f.m.d.truncate 6)

/-! ## The checks before a request (R205) -/

/-- The block's scratchpad and its size. -/
def State.unitScr (s : State) (u : UnitId) : Nat := match (s.com u).block with | some b => (s.block b).scr | none => 0
def State.spadSpace (s : State) (u : UnitId) : Space := .scratch ((s.com u).block.getD 0)

def isScratch : Space → Bool
  | .scratch _ => true
  | _ => false

/-- Check 1 and check 2 of R205 on one lane, for an access of kind `k` (R422). -/
def State.laneCheck (s : State) (u : UnitId) (sp : Space) (width : Nat) (a : W64) (k : Nat := 0) : Option Cause :=
  let bad := if isScratch sp then decide (s.unitScr u ≤ a.toNat) else s.badAddr u a k
  if bad then some .accessViolation else if a.toNat % width != 0 then some .misaligned else none

/-- The precise trap of R205: the cause of the lowest failing lane, the mask of all. -/
def checkTrap (u : UnitId) (fails : List (Nat × W64 × Cause)) : Option TrapInfo :=
  match fails with
  | [] => none
  | (_, a, c) :: _ =>
    some { cause := c, mask := if isRidge u then Mask.ofLanes (fails.map (fun f => f.1)) else 1, addr := a }

/-- Every lane is checked; an address with any of bits 63:55 set is logged (R30). -/
def State.memCheck (s : State) (u : UnitId) (sp : Space) (width : Nat) (eas : List (Nat × W64)) (r : Res) (k : Nat := 0) : Res :=
  let fails := eas.filterMap (fun e => (s.laneCheck u sp width e.2 k).map (fun c => (e.1, e.2, c)))
  match checkTrap u fails with
  | none => r
  | some i =>
    let far := if isScratch sp then [] else fails.filter (fun f => decide (2 ^ 55 ≤ f.2.1.toNat))
    .trap (far.foldl (fun s f => s.logViolation u f.2.1) s) i

/-! ## Issuing (R206, R221, R505) -/

/-- An access of the bundle in execution. -/
def State.memAccess (s : State) (u : UnitId) (sp : Space) (op : AccOp) (bytes : Nat) (dest : Dest) (holding acquire : Bool)
    (lanes : List ALane) : Access :=
  { id := 0, unit := u, op := op, bytes := bytes, dest := dest, space := sp, ctx := s.unitCtx u, gen := (s.ctx (s.unitCtx u)).gen,
    pos := s.unitPos u, holding := holding, acquire := acquire, w0 := (s.com u).words.1,
    w1 := (s.com u).words.2, pc := s.pcOf u, lanes := lanes }

/-- The spin detector's note of stores (R133). -/
def State.noteStores (s : State) (u : UnitId) (lanes : List ALane) : State :=
  match u with
  | .thread _ => s
  | .wave i =>
    if (s.wave i).stack.isEmpty then s
    else
      let mix (h : W64) (l : ALane) : W64 := Config.spinMix (Config.spinMix h 0x400 l.ea.toNat) 0x401 l.data.toNat
      s.modWave i (fun w => { w with spin := { w.spin with hash := lanes.foldl mix w.spin.hash } })

/-- A releasing access is sent; without lanes nothing is. -/
def State.sendRel (s : State) (a : Access) : State := if a.lanes.isEmpty then s else (s.issue a).2

/-- A holding access is sent and, once every lane is answered, finished with `fin`; meanwhile the instruction waits, and with it
the whole access stream of a wave (R505; log entry 94). -/
def State.sendHold (s : State) (u : UnitId) (a : Access) (fin : State → State) : Res :=
  if a.lanes.isEmpty then .done (fin s)
  else
    let r := s.issue a
    match r.2.access r.1 with
    | some b =>
      if b.complete && !b.failed then .done (fin (r.2.dropAccess r.1)) else .stall (r.2.setWait u (.hold r.1))
    | none => .done (fin r.2)

/-- A holding instruction whose access has been sent: complete, or a trap for its error lanes, which a resume sends again. -/
def State.holdAgain (s : State) (u : UnitId) (fin : State → State) (first : Res) : Res :=
  match s.heldAccess u with
  | none => first
  | some a =>
    if !a.complete then .stall s
    else
      let s := (s.dropAccess a.id).setWait u .none
      if !a.failed then .done (fin s) else .trap (s.modCom u (fun c => { c with redo := some a })) a.errTrap

/-- The lanes that a resumed holding instruction sends: those of ERRM (R505). -/
def State.redoLanes (s : State) (u : UnitId) (ls : List Nat) : List Nat :=
  match (s.com u).redo with
  | some a => ls.filter (fun l => a.lanes.any (fun x => x.lane == l && x.st == .err))
  | none => ls

/-- The answers of an instruction whose error lanes were sent again, together with those of its first sending. -/
def mergeRedo (old : Option Access) (a : Access) : Access :=
  match old with
  | some o => { a with lanes := o.lanes.filter (fun l => !a.lanes.any (fun x => x.lane == l.lane)) ++ a.lanes }
  | none => a

/-- Waits for earlier accesses before an instruction is sent. -/
def State.after (s : State) (u : UnitId) (need : Access → Bool) (f : State → Res) : Res :=
  let r := s.settle u need
  if r.1 && !r.2.memFull u then f r.2 else .stall r.2

/-! ## Loads (R208, R209, R211, R213) -/

/-- The space of a kind: LDS, STS and the SPAD forms name the scratchpad (R204). -/
def State.kindSpace (s : State) (u : UnitId) (spad : Bool) : Space := if spad then s.spadSpace u else s.spaceOf u

/-- LD and LDS. -/
def State.loadPlain (s : State) (u : UnitId) (f : MemForm) (spad sx : Bool) : Res :=
  let sp := s.kindSpace u spad
  let eas := (s.memLanes u f).map (fun l => (l, s.memEa u f l))
  s.memCheck u sp (szBytes f.m.sz) eas
    (s.after u (fun _ => false) (fun s =>
      .done (s.sendRel (s.memAccess u sp (.load sx) (szBytes f.m.sz) (memDest u f) false false
        (eas.map (fun e => { lane := e.1, ea := e.2 }))))))

/-- LDQ reserves its entries at issue, which the access's number marks, or none of zeros that no access fills (R63, R209). -/
def State.loadQueue (s : State) (u : UnitId) (f : MemForm) (sx : Bool) : Res :=
  match u with
  | .thread _ => .done s
  | .wave i =>
    let q := f.m.d.toNat - 0x40
    let n := if f.m.sz == 3 then 2 else 1
    let sp := s.spaceOf u
    let eas := (s.memLanes u f).map (fun l => (l, s.memEa u f l))
    s.memCheck u sp (szBytes f.m.sz) eas
      (if 8 < ((s.wave i).lq.getD q []).length + n then .stall s
      else s.after u (fun _ => false) (fun s =>
        let pend := Mask.ofLanes (eas.map Prod.fst)
        let e (hi : Bool) : QEntry := { vals := Lanes.zero, pend := pend, tag := if eas.isEmpty then 0 else s.fresh, hi := hi }
        let s1 := s.modWave i (fun w => { w with
          lq := w.lq.put q (w.lq.getD q [] ++ (if n = 2 then [e false, e true] else [e false])) })
        .done (s1.sendRel (s1.memAccess u sp (.load sx) (szBytes f.m.sz) (.queue q (n == 2)) false false
          (eas.map (fun e => { lane := e.1, ea := e.2 }))))))

/-- LDA and LDSYNC: a holding load with acquire semantics. -/
def State.loadHold (s : State) (u : UnitId) (f : MemForm) (sp : Space) (op : AccOp) : Res :=
  s.holdAgain u (fun s => s.l1Acquire u)
    (let eas := (s.redoLanes u (s.memLanes u f)).map (fun l => (l, s.memEa u f l))
    s.memCheck u sp (szBytes f.m.sz) eas
      (s.after u (fun _ => false) (fun s =>
        s.sendHold u (s.memAccess u sp op (szBytes f.m.sz) (memDest u f) true true (eas.map (fun e => { lane := e.1, ea := e.2 })))
          (fun s => s.l1Acquire u))))

/-- LDSYNC in a task (R215). -/
def State.inTask (s : State) (u : UnitId) : Bool := match u with | .thread t => (s.thread t).task.isSome | .wave _ => false
def State.loadSync (s : State) (u : UnitId) (f : MemForm) (spad sx cons : Bool) : Res :=
  if s.inTask u then .trap s { cause := .blockingInTask } else s.loadHold u f (s.kindSpace u spad) (.sync sx cons)

/-! ## Stores (R210, R211, R214) -/

/-- A scratchpad write of a wave waits for the stream-fed reads that come before it (R303). -/
def State.streamHeld (s : State) (u : UnitId) : Bool := match u with | .thread _ => false | .wave i => (s.wave i).streamAhead

/-- ST and STS: sent once every earlier load is performed (R229). -/
def State.storePlain (s : State) (u : UnitId) (f : MemForm) (spad : Bool) : Res :=
  let sp := s.kindSpace u spad
  let eas := (s.memLanes u f).map (fun l => (l, s.memEa u f l))
  s.memCheck (k := 1) u sp (szBytes f.m.sz) eas
    (match s.storeData u f with
      | none => .stall s
      | some d => if spad && s.streamHeld u then .stall s else s.after u (fun a => a.op.isLoad) (fun s =>
        let lanes : List ALane := eas.map (fun e => { lane := e.1, ea := e.2, data := d e.1 })
        let s := (s.popStore u f).noteStores u lanes
        .done (s.sendRel (s.memAccess u sp .store (szBytes f.m.sz) .none false false lanes))))

/-- STL and STF: sent once every earlier access is performed; a queue's entries are taken when the instruction is complete. -/
def State.storeHold (s : State) (u : UnitId) (f : MemForm) (spad full : Bool) : Res :=
  s.holdAgain u (fun s => s.popStore u f)
    (let sp := s.kindSpace u spad
    let eas := (s.redoLanes u (s.memLanes u f)).map (fun l => (l, s.memEa u f l))
    s.memCheck (k := 1) u sp (szBytes f.m.sz) eas
      (match s.storeData u f with
        | none => .stall s
        | some d => if spad && s.streamHeld u then .stall s else s.after u (fun _ => true) (fun s =>
          let lanes : List ALane := eas.map (fun e => { lane := e.1, ea := e.2, data := d e.1 })
          (s.noteStores u lanes).sendHold u
            (s.memAccess u sp (if full then .storeFull else .store) (szBytes f.m.sz) .none true false lanes)
            (fun s => s.popStore u f))))

/-! ## The nine memory majors (R208) -/

/-- A memory major in its paired or lone form. -/
def State.memOp (s : State) (u : UnitId) (k : MemKind) (m : MemOp) (e : Option MemExt) : Res :=
  let f := memForm (memUniform (isRidge u) m) true m e
  let md : BitVec 8 := match e with | some x => x.md | none => 0
  match k with
  | .ld => s.loadPlain u f false (md.getLsbD 0)
  | .lds => s.loadPlain u f true (md.getLsbD 0)
  | .ldq => s.loadQueue u f (md.getLsbD 0)
  | .lda => s.loadHold u f (s.spaceOf u) (.load (md.getLsbD 0))
  | .ldsync => s.loadSync u f (md.getLsbD 1) (md.getLsbD 0) (md.getLsbD 2)
  | .st => s.storePlain u f false
  | .sts => s.storePlain u f true
  | .stl => s.storeHold u f false false
  | .stf => s.storeHold u f (md.getLsbD 1) true

/-- LD (R209). -/
def execLd (m : MemOp) (s : State) : Host.Outcome State Fault Refusal := runC s (.ld m) (fun s u => s.memOp u .ld m none)
/-- ST (R210). -/
def execSt (m : MemOp) (s : State) : Host.Outcome State Fault Refusal := runC s (.st m) (fun s u => s.memOp u .st m none)
/-- LDQ (R209). -/
def execLdq (m : MemOp) (s : State) : Host.Outcome State Fault Refusal := runC s (.ldq m) (fun s u => s.memOp u .ldq m none)
/-- LDS (R195, R209). -/
def execLds (m : MemOp) (s : State) : Host.Outcome State Fault Refusal := runC s (.lds m) (fun s u => s.memOp u .lds m none)
/-- STS (R195, R210). -/
def execSts (m : MemOp) (s : State) : Host.Outcome State Fault Refusal := runC s (.sts m) (fun s u => s.memOp u .sts m none)
/-- LDA (R211). -/
def execLda (m : MemOp) (s : State) : Host.Outcome State Fault Refusal := runC s (.lda m) (fun s u => s.memOp u .lda m none)
/-- STL (R211). -/
def execStl (m : MemOp) (s : State) : Host.Outcome State Fault Refusal := runC s (.stl m) (fun s u => s.memOp u .stl m none)
/-- LDSYNC (R213). -/
def execLdsync (m : MemOp) (s : State) : Host.Outcome State Fault Refusal :=
  runC s (.ldsync m) (fun s u => s.memOp u .ldsync m none)
/-- STF (R214). -/
def execStf (m : MemOp) (s : State) : Host.Outcome State Fault Refusal := runC s (.stf m) (fun s u => s.memOp u .stf m none)
/-- The lone form of the nine memory majors (R208). -/
def execMemoryLoneForm (k : MemKind) (m : MemOp) (e : MemExt) (s : State) : Host.Outcome State Fault Refusal :=
  runC s (.memoryLoneForm k m e) (fun s u => s.memOp u k m (some e))

/-! ## Atomics (R216 to R218) -/

/-- The new value of a CAS: the register or pair after D. -/
def State.casNew (s : State) (u : UnitId) (f : MemForm) (l : Nat) : W64 :=
  let wide := f.m.sz == 3
  s.memReg u f (f.m.d.toNat + (if isRidge u && !f.uniform && wide then 2 else 1)) wide l

/-- ATOM: sent once every earlier load is performed, or every earlier access where it releases; posted with NR and .RLX. -/
def State.atomic (s : State) (u : UnitId) (m : MemOp) (e : MemExt) : Res :=
  let f := memForm (memUniform (isRidge u) m) false m (some e)
  let op := bitsOf e.md 3 0
  let ord := bitsOf e.md 5 4
  let nr := e.md.getLsbD 7
  let posted := nr && ord == 0
  let acq := ord % 2 == 1
  let rel := decide (2 ≤ ord)
  let fin (s : State) : State := if acq then s.l1Acquire u else s
  let sp := s.spaceOf u
  s.holdAgain u fin
    (let eas := (s.redoLanes u (s.memLanes u f)).map (fun l => (l, s.memEa u f l))
    s.memCheck (k := 3) u sp (szBytes m.sz) eas
      (s.after u (fun a => rel || a.op.isLoad) (fun s =>
        let lanes : List ALane := eas.map (fun x =>
          { lane := x.1, ea := x.2, data := s.memReg u f m.d.toNat (m.sz == 3) x.1,
            data2 := if op = 7 then s.casNew u f x.1 else 0 })
        let a := s.memAccess u sp (.atom op (e.md.getLsbD 6) nr) (szBytes m.sz) (if nr then .none else memDest u f) (!posted) acq lanes
        let s := s.noteStores u lanes
        if posted then .done (s.sendRel a) else s.sendHold u a fin)))

/-- ATOM (R217). -/
def execAtom (m : MemOp) (e : MemExt) (s : State) : Host.Outcome State Fault Refusal :=
  runC s (.atom m e) (fun s u => s.atomic u m e)

/-! ## HIST (R315 to R317) -/

/-- Lanes with one EA are combined: each EA once, at its lowest lane, with the exact sum of the increments. -/
def combine : List (Nat × W64 × Nat) → List (Nat × W64 × Nat)
  | [] => []
  | (l, a, n) :: t =>
    let rest := combine t
    match rest.find? (fun e => e.2.1 == a) with
    | some e => (l, a, n + e.2.2) :: rest.filter (fun e => e.2.1 != a)
    | none => (l, a, n) :: rest

/-- HIST: posted, sent once every earlier load is performed. The lowest lane of each EA carries the sum of the lanes with that EA; the others
stand with it (R316). -/
def State.histogram (s : State) (u : UnitId) (m : MemOp) (e : Option MemExt) : Res :=
  let f := memForm (memUniform (isRidge u) m) true m e
  let md : BitVec 8 := match e with | some x => x.md | none => 0
  let sp := s.kindSpace u (md.getLsbD 0)
  let w := szBytes m.sz
  let eas := (s.memLanes u f).map (fun l => (l, s.memEa u f l))
  s.memCheck (k := 3) u sp w eas
    (if md.getLsbD 0 && s.streamHeld u then .stall s else s.after u (fun a => a.op.isLoad) (fun s =>
      let inc (l : Nat) : Nat := if md.getLsbD 1 then 1 else (s.memReg u f m.d.toNat (m.sz == 3) l).toNat % 2 ^ (8 * w)
      let sums := combine (eas.map (fun x => (x.1, x.2, inc x.1)))
      let lanes : List ALane := eas.map (fun x => match sums.find? (fun e => e.1 == x.1) with
        | some e => { lane := x.1, ea := x.2, data := BitVec.ofNat 64 e.2.2, data2 := BitVec.ofNat 64 (e.2.2 / 2 ^ 64) }
        | none => { lane := x.1, ea := x.2, st := .done })
      let s := s.noteStores u lanes
      .done (s.sendRel (s.memAccess u sp (.hist (md.getLsbD 2)) w .none false false lanes))))

/-- HIST (R316). -/
def execHist (m : MemOp) (e : Option MemExt) (s : State) : Host.Outcome State Fault Refusal :=
  runC s (.hist m e) (fun s u => s.histogram u m e)

/-! ## Prefetch and cache maintenance (R220) -/

/-- The bytes of an extent: 32, 128, 512 or 2,048. -/
def extentBytes (sz : BitVec 2) : Nat := 32 * 4 ^ sz.toNat

/-- The extents of an instruction's lanes: base and length. -/
def State.extents (s : State) (u : UnitId) (m : MemOp) (e : Option MemExt) : List (Nat × Nat) :=
  let f := memForm (isRidge u && m.dk) false m e
  let n := extentBytes m.sz
  (s.memLanes u f).map (fun l => ((s.memEa u f l).toNat / n * n, n))

def meets (a n b k : Nat) : Bool := decide (a < b + k) && decide (b < a + n)

/-- A sector whose address is translated is brought into the L1 of the engine, or into the home cache of its slice: for a core, and for a HOMED
page; a way that the scratchpad lends takes none (R196). -/
def State.fillSector (s : State) (p : Prefetch) (place cls grain : Nat) : State :=
  let home : State := match s.homeOf p.space p.ctx p.pos p.va with | .slice h => s.homeTouch h place 0 (some (p.pos / 32)) (s.ctxFunc p.ctx) | _ => s
  match p.eng with
  | none => home
  | some e =>
    let cls := s.effClass (some e) p.ctx p.va cls
    if cls == 2 then home
    else if s.badRead (place / 32 * 32) 32 then s
    else if cls == 3 then s.l1Coherent (some e) p.ctx p.va place grain false true
    else if (s.l1Find e p.ctx (p.va / 32 * 32)).isSome then s
    else s.l1Fill e p.ctx p.va cls place false

/-- A sector is brought in unless the access would fault or be refused; where its cache misses, it waits for the walk (PF, R424). At a
Plateau address nothing happens. -/
def State.prefetchSector (s : State) (p : Prefetch) : State :=
  if inPlateau p.va || inLocal p.va then s
  else match xlat s p.space p.ctx (s.ctx p.ctx).gen p.pos 0 p.va with
  | .ok place cls grain => s.fillSector p place cls grain
  | .miss c => { s.startWalk c p.ctx p.va 0 with prefetches := s.prefetches.filter (· != p) ++ [p] }
  | _ => s

/-- Is the page of an address being walked? -/
def State.pageWalked (s : State) (c va : Nat) : Bool := s.walks.any (fun w => w.ctx == c && w.page == va / 2 ^ 16 && !w.stale)

/-- PREFETCH: a sector that has waited for a walk. -/
def State.prefetchOn (s : State) (p : Prefetch) : State :=
  if s.pageWalked p.ctx p.va then s else ({ s with prefetches := s.prefetches.filter (· != p) } : State).prefetchSector p

/-- PF (R220): an address from R205's first check drops the lane. -/
def State.prefetch (s : State) (u : UnitId) (m : MemOp) (e : Option MemExt) : State :=
  let f := memForm (isRidge u && m.dk) false m e
  let n := extentBytes m.sz
  (((s.memLanes u f).map (s.memEa u f)).filter (fun a => !s.badAddr u a)).foldl (fun s a =>
    (List.range (n / 32)).foldl (fun s i =>
      s.prefetchSector { eng := s.unitEng u, space := s.spaceOf u, ctx := s.unitCtx u, pos := s.unitPos u, va := a.toNat / n * n + 32 * i }) s) s

/-- PF. -/
def execPf (m : MemOp) (e : Option MemExt) (s : State) : Host.Outcome State Fault Refusal :=
  runC s (.pf m e) (fun s u => .done (s.prefetch u m e))

/-- CWB and CINV: after the unit's earlier accesses to the extent, the engine's copies there are kept in S, or dropped. Written data
stand in memory already. On a spur or Summit core they do nothing. -/
def State.maintain (s : State) (u : UnitId) (m : MemOp) (e : Option MemExt) (inv : Bool) : Res :=
  match s.unitEng u with
  | none => .done s
  | some g =>
    let all := m.sz == 3
    let f := memForm (isRidge u && m.dk) false m e
    let ext := s.extents u m e
    let c := s.unitCtx u
    let hit (a n : Nat) : Bool := all || ext.any (fun x => meets x.1 x.2 a n)
    s.memCheck u (s.spaceOf u) 1 (if all then [] else (s.memLanes u f).map (fun l => (l, s.memEa u f l)))
      (let r := s.settle u (fun a => a.lanes.any (fun l => hit l.ea.toNat a.bytes))
      if !r.1 then .stall r.2
      else
        let mine (x : Sector) : Bool := (all || x.ctx == c) && hit x.va x.span
        .done (r.2.modEngine g (fun k => { k with
          l1 := if inv then k.l1.filter (fun x => !mine x)
            else k.l1.map (fun x => if mine x && x.st == .m then { x with st := .s } else x) })))

/-- CWB (R220). -/
def execCwb (m : MemOp) (e : Option MemExt) (s : State) : Host.Outcome State Fault Refusal :=
  runC s (.cwb m e) (fun s u => s.maintain u m e false)
/-- CINV (R220). -/
def execCinv (m : MemOp) (e : Option MemExt) (s : State) : Host.Outcome State Fault Refusal :=
  runC s (.cinv m e) (fun s u => s.maintain u m e true)

/-! ## Fences (R232, R233) -/

/-- What FENCE.ST waits for: writes. -/
def AccOp.isWrite : AccOp → Bool
  | .store | .storeFull | .atom .. | .hist _ => true
  | .amsg _ | .contour .. => true
  | .probe w => w
  | _ => false

/-- A fence: a core waits for the accesses that it names; a wave's access stream goes on, and only its later memory instructions wait (R233). -/
def State.fenceUnit (s : State) (u : UnitId) (full : Bool) (need : Access → Bool) : Res :=
  let r := s.settle u need
  if r.1 then .done (if full then r.2.l1Acquire u else r.2)
  else match u with
    | .thread _ => .stall r.2
    | .wave _ =>
      let ids := ((r.2.accessesOf u).filter (fun a => need a && !a.complete)).map Access.id
      .done (r.2.modCom u (fun c => { c with fences := c.fences ++ [⟨ids, full⟩] }))

/-- FENCE (R233). -/
def execFence (s : State) : Host.Outcome State Fault Refusal := runC s .fence (fun s u => s.fenceUnit u true (fun _ => true))
/-- FENCE.ST (R233). -/
def execFenceSt (s : State) : Host.Outcome State Fault Refusal := runC s .fenceSt (fun s u => s.fenceUnit u false (fun a => a.op.isWrite))

end Sys2Proof.Machine
end

