-- ==== Sys2Proof/Machine/Jobs.lean ====
section
/-! DEFINITION. Copy jobs: CPYJ, CPYQ, CPYW, GATH, SCAT and TLOAD, and the steps of the copy engines (spec/09 R244 to R258, spec/08
R240). -/

namespace Sys2Proof.Machine

/-! ## The copy engine's queue (R244 to R246) -/

/-- Is a job saved with its partition, which is switched out of the Vale (R258, R439)? One with a scratchpad destination runs to its end. -/
def State.jobSaved (s : State) (j : Job) : Bool := !s.holdsVale j.func (j.eng / 4) && !j.moves.any JobMove.scratch

/-- The jobs in the queue of an engine. -/
def State.jobsOf (s : State) (eng : Nat) : AList Job := s.jobs.filter (fun e => e.2.eng == eng && !s.jobSaved e.2)

/-- The next ID of an engine: 1 to 0xFFFF, then 1 again. Statuses older than 1,024 IDs are forgotten (R246). -/
def State.newJobId (s : State) (eng : Nat) : Nat × State :=
  let e := s.copyEng eng
  let id := e.nextId
  let near (h : Nat × Nat × UnitId) : Bool :=
    let d := (id + 65535 - h.1) % 65535
    decide (0 < d) && decide (d < 1024)
  (id, s.setCopyEng eng { e with nextId := if id = 0xFFFF then 1 else id + 1, history := e.history.filter near })

/-- A job with its ID, which it takes when it is accepted (R254, R492), its number in the model, and the state. -/
def State.addJob (s : State) (u : UnitId) (blk : Option Nat) (kind : JobKind) (moves : List JobMove) (accepted : Bool) : Nat × State :=
  let eng := s.jobEngine u
  let i := if accepted then s.newJobId eng else (0, s)
  let k := i.2.newId
  let c := s.unitCtx u
  let j : Job :=
    { eng := eng, id := i.1, owner := u, ctx := c, gen := (s.ctx c).gen, func := s.ctxFunc c, blk := blk, kind := kind,
      moves := moves, pos := s.unitPos u, accepted := accepted, order := k.1 }
  (i.1, { k.2 with jobs := k.2.jobs.put k.1 j })

/-- Is an ID among the 1,024 that an engine has issued last (R246)? -/
def CopyEngine.recent (e : CopyEngine) (id : Nat) : Bool :=
  decide (((if e.nextId = 1 then 0xFFFF else e.nextId - 1) + 65535 - id) % 65535 < 1024)

/-- A job ends with a status, which the engine keeps for its latest IDs: its marks go with it, a scratchpad that waited for it is free (R246,
R250, R258). -/
def State.endJob (s : State) (k status : Nat) : State :=
  match s.jobs.find k with
  | none => s
  | some j =>
    let s := { s with jobs := s.jobs.drop k }
    let s := s.modCopyEng j.eng (fun e => { e with history := if e.recent j.id then (j.id, status, j.owner) :: e.history else e.history })
    match j.blk with
    | some b =>
      (match s.blocks.find b with
        | some x => if x.members.isEmpty && !s.spadJob b then { s with blocks := s.blocks.drop b } else s
        | none => s)
    | none => s

/-- The home of a destination word of a job. -/
def State.moveHome (s : State) (c pos : Nat) (blk : Option Nat) (m : JobMove) : Home :=
  if m.scratch then .scratch (blk.getD 0) else s.homeOf .virt c pos m.dst.toNat

/-- The marks that a home holds (R250). -/
def markLimit : Home → Nat
  | .bank _ => 16
  | .slice _ => 256
  | .scratch _ => 32

/-- The jobs that hold a mark at a home: those with a destination word there, but for SCAT. -/
def State.marksAt (s : State) (h : Home) : Nat :=
  (s.jobs.filter (fun e => e.2.kind != .scat && e.2.status == 0 && !s.jobSaved e.2 && e.2.moves.any (fun m => s.moveHome e.2.ctx e.2.pos e.2.blk m == h))).length

/-- Has every home of a job's destination words a mark free? With fewer than 16 jobs in all, none can lack one. -/
def State.marksFree (s : State) (u : UnitId) (blk : Option Nat) (moves : List JobMove) : Bool :=
  decide (s.jobs.length < 16)
    || moves.all (fun m => let h := s.moveHome (s.unitCtx u) (s.unitPos u) blk m; decide (s.marksAt h < markLimit h))

/-- Do the engines of a Vale accept no job of the unit's partition, which is halted there (R258, R437)? -/
def State.jobsHalted (s : State) (u : UnitId) : Bool := s.stoppedOn (s.ctxFunc (s.unitCtx u)) (s.jobEngine u / 4)

/-- Must a submission wait: for the end of a halt, for a queue entry, or for a mark at a home (R245, R250, R258)? -/
def State.submitWaits (s : State) (u : UnitId) (blk : Option Nat) (kind : JobKind) (moves : List JobMove) : Bool :=
  s.jobsHalted u || decide (64 ≤ (s.jobsOf (s.jobEngine u)).length) || (kind != .scat && !s.marksFree u blk moves)

/-- Submission: the wait for a queue entry and for marks, then the job and the handle in D; a job without a word is complete at once
(R249). -/
def State.submitJob (s : State) (u : UnitId) (d : Nat) (blk : Option Nat) (kind : JobKind) (moves : List JobMove) : Res :=
  let eng := s.jobEngine u
  if s.submitWaits u blk kind moves then .stall (s.setWait u (.copyQueue eng))
  else
    let s := s.setWait u .none
    let k := (s.newJobId eng).2.fresh
    let r := s.addJob u blk kind moves true
    let s := r.2.setReg u d (BitVec.ofNat 64 r.1)
    .done (if moves.isEmpty then s.endJob k 1 else s)

/-! ## CPYJ (R247 to R249) -/

/-- A job's rows: addresses, bytes per row, number of rows, signed steps. -/
structure CopyRec where
  src : W64
  dst : W64
  rowlen : Nat
  rows : Nat
  sstride : W32
  dstride : W32
  deriving DecidableEq, Repr

/-- Has any byte of any row bits 63:55 set? Row addresses are linear in the row, so the ends decide. -/
def rowsFar (base : W64) (stride : W32) (rows len : Nat) : Bool :=
  let last : Int := (base.toNat : Int) + stride.toInt * ((rows : Int) - 1)
  let lo := min (base.toNat : Int) last
  let hi := max (base.toNat : Int) last + (len : Int) - 1
  decide (0 < rows) && decide (0 < len) && (decide (lo < 0) || decide ((2 : Int) ^ 55 ≤ hi))

/-- The checks of R249 in order. -/
def CopyRec.check (r : CopyRec) : Option TrapInfo :=
  if (r.src ||| r.dst) &&& 7 != 0 || r.rowlen % 8 != 0 || (r.sstride ||| r.dstride) &&& 7 != 0 then some { cause := .misaligned }
  else if rowsFar r.src r.sstride r.rows r.rowlen || rowsFar r.dst r.dstride r.rows r.rowlen then some { cause := .accessViolation }
  else if 2 ^ 31 < r.rowlen * r.rows then some { cause := .badOperand }
  else none

/-- Eight bytes from an address. -/
def wordFrom (a : W64) : List MoveSrc := (List.range 8).map (fun i => MoveSrc.byte (a + BitVec.ofNat 64 i))

/-- Of several moves to one word the last stays: that of the highest row (R249). -/
def lastMoves : List JobMove → List JobMove
  | [] => []
  | m :: t => if t.any (fun x => x.dst == m.dst) then lastMoves t else m :: lastMoves t

/-- The moves of a record, word by word. -/
def CopyRec.moves (r : CopyRec) : List JobMove :=
  let row (i : Nat) : List JobMove := (List.range (r.rowlen / 8)).map (fun k =>
    { dst := r.dst + BitVec.ofInt 64 (r.dstride.toInt * i) + BitVec.ofNat 64 (8 * k), scratch := false, srcScratch := false,
      bytes := wordFrom (r.src + BitVec.ofInt 64 (r.sstride.toInt * i) + BitVec.ofNat 64 (8 * k)) })
  let all := (List.range (if r.rowlen = 0 then 0 else r.rows)).flatMap row
  if r.rows ≤ 1 then all else lastMoves all

/-- The job of a record, once every earlier access of the submitter is performed (R240). An address that may not be sent is logged by the base of the
rows (log entry 115). -/
def State.copyRows (s : State) (u : UnitId) (d : Nat) (r : CopyRec) : Res :=
  match r.check with
  | some i => .trap (if i.cause == .accessViolation then s.logViolation u (if rowsFar r.src r.sstride r.rows r.rowlen then r.src else r.dst) else s) i
  | none =>
    let w := s.settle u (fun _ => true)
    if !w.1 then .stall w.2 else w.2.submitJob u d none .copy r.moves

/-- CPYJ, paired: the record at A. -/
def execCpyj (d a : Reg6) (s : State) : Host.Outcome State Fault Refusal :=
  runC s (.cpyj d a) (fun s u =>
    let p := s.reg u a.toNat
    if p &&& 7 != 0 then .trap s { cause := .misaligned, addr := p }
    else match s.record u p 4 with
      | .error r => r
      | .ok (ws, s) =>
        let w (i : Nat) : W64 := ws.getD i 0
        s.copyRows u d.toNat
          { src := w 0, dst := w 1, rowlen := (lo32 (w 2)).toNat, rows := (hi32 (w 2)).toNat, sstride := lo32 (w 3), dstride := hi32 (w 3) })

/-- CPYJ, lone. -/
def execCpyjLone (d a b : Reg6) (words : BitVec 28) (s : State) : Host.Outcome State Fault Refusal :=
  runC s (.cpyjLone d a b words) (fun s u =>
    if words == 0 then .trap s { cause := .badOperand }
    else s.copyRows u d.toNat
      { src := s.reg u b.toNat, dst := s.reg u a.toNat, rowlen := 8 * words.toNat, rows := 1, sstride := 0, dstride := 0 })

/-! ## CPYQ and CPYW (R251) -/

/-- CPYQ. -/
def execCpyq (d a : Reg6) (s : State) : Host.Outcome State Fault Refusal :=
  runC s (.cpyq d a) (fun s u =>
    .done (s.setReg u d.toNat (BitVec.ofNat 64 (s.jobStatus (s.jobEngine u) (bitsOf (s.reg u a.toNat) 15 0) u))))

/-- CPYW parks until the job has ended; the wake is an acquire. -/
def State.waitJob (s : State) (u : UnitId) (d : Nat) (id : Nat) : Res :=
  if s.inTask u then .trap s { cause := .blockingInTask }
  else
    let st := s.jobStatus (s.jobEngine u) id u
    if st = 0 then
      (match (s.com u).wait with
        | .job .. => .stall s
        | _ => .gone (s.park u (.job (s.jobEngine u) id (some (BitVec.ofNat 6 d)))))
    else .done (((s.setWait u .none).setReg u d (BitVec.ofNat 64 st)).l1Acquire u)

/-- CPYW. -/
def execCpyw (d a : Reg6) (s : State) : Host.Outcome State Fault Refusal :=
  runC s (.cpyw d a) (fun s u => s.waitJob u d.toNat (bitsOf (s.reg u a.toNat) 15 0))

/-! ## GATH and SCAT (R253, R254) -/

/-- Moves from single bytes: each destination word once, a later byte over an earlier one. -/
def putByteMove (scratch srcScratch : Bool) (a : W64) (x : MoveSrc) : List JobMove → List JobMove
  | [] => [{ dst := a &&& ~~~7, scratch := scratch, srcScratch := srcScratch,
             bytes := (List.replicate 8 MoveSrc.keep).set (a.toNat % 8) x }]
  | m :: t => if m.dst == a &&& ~~~7 then { m with bytes := m.bytes.set (a.toNat % 8) x } :: t
    else m :: putByteMove scratch srcScratch a x t

def byteMoves (scratch srcScratch : Bool) (l : List (W64 × MoveSrc)) : List JobMove :=
  l.foldl (fun ms e => putByteMove scratch srcScratch e.1 e.2 ms) []

/-- The lanes of a GATH or SCAT: lane, scattered address, contiguous address. -/
def State.gathLanes (s : State) (u : UnitId) (m : MemOp) (e : MemExt) : List (Nat × W64 × W64) :=
  let f := memForm false false m (some e)
  let ls := s.memLanes u f
  let base := s.reg u m.d.toNat
  ls.map (fun l =>
    let p := if e.md.getLsbD 1 then (ls.takeWhile (· != l)).length else l
    (l, s.memEa u f l, base + BitVec.ofNat 64 (p * szBytes m.sz)))

/-- The job of a GATH or SCAT. -/
def gathMoves (scat spad : Bool) (w : Nat) (ls : List (Nat × W64 × W64)) : List JobMove :=
  byteMoves (!scat && spad) (scat && spad) (ls.flatMap (fun l => (List.range w).map (fun j =>
    let k := BitVec.ofNat 64 j
    if scat then (l.2.1 + k, MoveSrc.byte (l.2.2 + k)) else (l.2.2 + k, MoveSrc.byte (l.2.1 + k)))))

/-- The job whose marks a GATH in its request phase has placed. -/
def State.gathJob (s : State) (u : UnitId) : Option Nat :=
  (s.jobs.find? (fun e => !e.2.accepted && e.2.owner == u)).map Prod.fst

/-- The moves of a GATH named anew, before its acceptance: a word that an STF has filled stays filled (R250). -/
def keepFilled (old new : List JobMove) : List JobMove :=
  new.map (fun m => { m with stf := m.stf || old.any (fun o => o.stf && o.dst == m.dst && o.scratch == m.scratch) })

/-- The lanes of a request, with the addresses at which they were accepted: lane, scattered address, contiguous address. -/
def Access.gathLanes (a : Access) : List (Nat × W64 × W64) := a.lanes.map (fun l => (l.lane, l.ea, l.data2))

/-- After the last lane is accepted: the job with its ID, and the handle in D. -/
def State.gathFinish (s : State) (u : UnitId) (m : MemOp) (e : MemExt) (scat : Bool) (ls : List (Nat × W64 × W64)) : Res :=
  let spad := e.md.getLsbD 0
  let blk := if spad then (s.com u).block else none
  let moves := gathMoves scat spad (szBytes m.sz) ls
  if scat then s.submitJob u m.d.toNat blk .scat moves
  else match (s.gathJob u).bind (fun k => (s.jobs.find k).map (fun j => (k, j))) with
    | some (k, j) =>
      let n := s.newJobId j.eng
      let i := n.2.newId
      let s := ({ i.2 with jobs := i.2.jobs.put k { j with id := n.1, accepted := true, order := i.1, moves := keepFilled j.moves moves } }).setReg u m.d.toNat (BitVec.ofNat 64 n.1)
      .done (if moves.isEmpty then s.endJob k 1 else s)
    | none => s.submitJob u m.d.toNat blk .gath moves

/-- The request phase: each scattered lane is translated and checked as the access that the job will make, a SCAT lane empties its
word, faults park the submitter; GATH marks its words first. Where lanes fail R205 on the scattered side and positions on the contiguous one, the trap
names the scattered side alone (log entry 105). A lane that is sent again after an error takes its addresses from the registers as
they are then (R413, R505). -/
def State.gather (s : State) (u : UnitId) (m : MemOp) (e : MemExt) (scat : Bool) : Res :=
  let w := szBytes m.sz
  let ls := s.gathLanes u m e
  let spad := e.md.getLsbD 0
  let blk := if spad then (s.com u).block else none
  match s.heldAccess u with
  | some a =>
    let all := mergeRedo (s.com u).redo a
    if !a.complete then .stall s
    else if !a.failed then
      (match s.gathFinish u m e scat all.gathLanes with
        | .done t => .done ((t.dropAccess a.id).setWait u .none)
        | .stall _ => .stall s
        | r => r)
    else
      let s := (s.dropAccess a.id).setWait u .none
      .trap (s.modCom u (fun c => { c with redo := some all })) a.errTrap
  | none =>
    s.memCheck (k := if scat then 1 else 0) u (s.spaceOf u) w (ls.map (fun l => (l.1, l.2.1)))
      (s.memCheck (k := if scat then 0 else 1) u (s.kindSpace u spad) w (ls.map (fun l => (l.1, l.2.2)))
        (s.after u (fun _ => true) (fun s =>
          if (s.gathJob u).isNone && s.submitWaits u blk (if scat then .scat else .gath) (gathMoves scat spad w ls) then
            .stall (s.setWait u (.copyQueue (s.jobEngine u)))
          else
            let s := s.setWait u .none
            let send := s.redoLanes u (ls.map (fun l => l.1))
            let lanes : List ALane := (ls.filter (fun l => send.contains l.1)).map (fun l => { lane := l.1, ea := l.2.1, data2 := l.2.2 })
            let a := s.memAccess u (s.spaceOf u) (.probe scat) w .none true false lanes
            let all := (mergeRedo (s.com u).redo a).gathLanes
            let moves := gathMoves false spad w all
            let s := match scat, s.gathJob u with
              | true, _ => s
              | false, some k => { s with jobs := s.jobs.map (fun (x : Nat × Job) => if x.1 = k then (k, { x.2 with moves := keepFilled x.2.moves moves }) else x) }
              | false, none => (s.addJob u blk .gath moves false).2
            match s.sendHold u a id with
            | .done t => t.gathFinish u m e scat all
            | r => r)))

/-- GATH. -/
def execGath (m : MemOp) (e : MemExt) (s : State) : Host.Outcome State Fault Refusal :=
  runC s (.gath m e) (fun s u => s.gather u m e false)
/-- SCAT. -/
def execScat (m : MemOp) (e : MemExt) (s : State) : Host.Outcome State Fault Refusal :=
  runC s (.scat m e) (fun s u => s.gather u m e true)

/-! ## TLOAD (R255, R256) -/

/-- A layout record. -/
structure Layout where
  base : W64
  stride : List W64
  ext : List Nat
  t : List Nat
  fmt : BitVec 4
  spad : Bool
  scaled : Bool
  sparse : Bool
  reserved : Bool
  tail : W64
  dest : W64
  dpitch : W64
  scales : W64
  sstride : W64
  mtab : W64
  mstride : W64
  sdest : W64
  mdest : W64
  deriving DecidableEq, Repr

/-- Extents and tile extents of which 0 reads as 1. -/
def one0 (n : Nat) : Nat := if n = 0 then 1 else n

def layoutOf (ws : List W64) : Layout :=
  let w (i : Nat) : W64 := ws.getD i 0
  let x := w 6
  { base := w 0, stride := [w 1, w 2, w 3]
    ext := [(lo32 (w 4)).toNat, (hi32 (w 4)).toNat, one0 (lo32 (w 5)).toNat, one0 (hi32 (w 5)).toNat]
    t := [bitsOf x 15 0, bitsOf x 31 16, one0 (bitsOf x 39 32), one0 (bitsOf x 47 40)]
    fmt := x.extractLsb' 48 4, spad := x.getLsbD 52, scaled := x.getLsbD 53, sparse := x.getLsbD 54
    reserved := bitsOf x 63 55 != 0, tail := w 15
    dest := w 7, dpitch := w 8, scales := w 9, sstride := w 10, mtab := w 11, mstride := w 12, sdest := w 13, mdest := w 14 }

/-- Bytes of a stored data row: half the elements under SPARSE. -/
def Layout.rowBytes (l : Layout) : Nat := l.t.getD 0 0 * tyWidth l.fmt / (if l.sparse then 2 else 1) / 8
def Layout.rows (l : Layout) : Nat := l.t.getD 1 0 * l.t.getD 2 1 * l.t.getD 3 1
/-- DPITCH 0 packs the rows: the stored rows, which SPARSE halves (log entry 90). -/
def Layout.pitch (l : Layout) : W64 := if l.dpitch == 0 then BitVec.ofNat 64 l.rowBytes else l.dpitch

/-- One past the highest destination byte of the tile, without wrap. -/
def Layout.destEnd (l : Layout) (doff : W32) : Int :=
  (l.dest.toNat : Int) + doff.toInt + (l.rows - 1 : Nat) * l.pitch.toInt + l.rowBytes

/-- Does a tile pass a scratchpad of `n` bytes? The offset of the field at fault. -/
def Layout.passes (l : Layout) (doff : W32) (n : Nat) : Option Nat :=
  let first : Int := (l.dest.toNat : Int) + doff.toInt
  let last := first + (l.rows - 1 : Nat) * l.pitch.toInt
  if l.rows = 0 ∨ l.rowBytes = 0 then none
  else if min first last < 0 ∨ (n : Int) < max first last + l.rowBytes then some 0x38
  else if l.scaled && decide (n < l.sdest.toNat + l.rows * (l.t.getD 0 0 / 32)) then some 0x68
  else if l.sparse && decide (n < l.mdest.toNat + l.rows * (l.t.getD 0 0 / 8)) then some 0x70
  else none

def firstSome {α : Type} : List (Option α) → Option α
  | [] => none
  | some x :: _ => some x
  | none :: t => firstSome t

/-- The checks of R256 in the order of its table: cause and the field's offset. A DOFF that is not a multiple of 8, which is no field, gives 0; T0 or
T1 of 0 is no failure of the table, and such a tile has no rows or no bytes, so its job completes at once (log entry 106). -/
def Layout.check (l : Layout) (ridge : Bool) (scr : Nat) (doff : W32) : Option TrapInfo :=
  let at_ (c : Cause) (b : Bool) (o : Nat) : Option TrapInfo := if b then some { cause := c, detail := BitVec.ofNat 64 o } else none
  let mis (x : W64) (o : Nat) : Option TrapInfo := at_ .misaligned (x &&& 7 != 0) o
  let far (x : W64) (o : Nat) : Option TrapInfo := at_ .accessViolation (decide (2 ^ 55 ≤ x.toNat)) o
  let wid := tyWidth l.fmt
  firstSome
    [mis l.base 0, mis (l.stride.getD 0 0) 8, mis (l.stride.getD 1 0) 0x10, mis (l.stride.getD 2 0) 0x18, mis l.dest 0x38,
     mis l.dpitch 0x40, at_ .misaligned (doff &&& 7 != 0) 0,
     far l.base 0, if l.spad then none else far l.dest 0x38, if l.scaled then far l.scales 0x48 else none,
     if l.sparse then far l.mtab 0x58 else none, if l.scaled && !l.spad then far l.sdest 0x68 else none,
     if l.sparse && !l.spad then far l.mdest 0x70 else none,
     at_ .badOperand l.reserved 0x30, at_ .badOperand (l.tail != 0) 0x78, at_ .badOperand (l.sparse && wid == 32) 0x30,
     at_ .badOperand (l.t.getD 0 0 * wid % 64 != 0 || (l.sparse && l.t.getD 0 0 % 8 != 0)) 0x30,
     at_ .badOperand (l.scaled && (l.t.getD 0 0 % 32 != 0 || !tyIn l.fmt [3, 4, 5, 6, 7])) 0x30,
     at_ .badOperand (l.spad && !ridge) 0x30,
     if l.spad then (l.passes doff scr).map (fun o => { cause := .badOperand, detail := BitVec.ofNat 64 o }) else none]

/-- The bytes of the tile row `r`: data, then scales, then metadata. Elements beyond an extent are code 0, a scale block beyond EXT0 is
0x7F; the row of SCALES and of META that a tile row takes is e1 + EXT1 · (e2 + EXT2 · e3), and a SPARSE row
stores ceil(EXT0 / 2) elements, the tile's from O0 · T0 / 2 on (log entry 106); what stands in the metadata beyond an extent, and in the scales of a row beyond one, is left open (log entry 2): free bytes
from number `n` on. -/
def Layout.rowMoves (l : Layout) (origin : W64) (doff : W32) (n r : Nat) : List (W64 × MoveSrc) :=
  let t (i : Nat) : Nat := l.t.getD i 1
  let o (i : Nat) : Nat := bitsOf origin (16 * i + 15) (16 * i)
  let idx : List Nat := [r % t 1, r / t 1 % t 2, r / t 1 / t 2]
  let e (i : Nat) : Nat := o i * t i + idx.getD (i - 1) 0
  let inRow : Bool := decide (e 1 < l.ext.getD 1 0) && decide (e 2 < l.ext.getD 2 1) && decide (e 3 < l.ext.getD 3 1)
  let wid := tyWidth l.fmt
  let half := if l.sparse then 2 else 1
  let rowSrc := l.base + BitVec.ofNat 64 (e 1) * l.stride.getD 0 0 + BitVec.ofNat 64 (e 2) * l.stride.getD 1 0
    + BitVec.ofNat 64 (e 3) * l.stride.getD 2 0
  -- stored elements of a row inside EXT0
  let inside := (l.ext.getD 0 0 + half - 1) / half
  let first := o 0 * t 0 / half
  let dst := l.dest + doff.signExtend 64 + BitVec.ofNat 64 r * l.pitch
  let data := (List.range l.rowBytes).map (fun k =>
    let bit := first * wid + 8 * k
    let a := rowSrc + BitVec.ofNat 64 (bit / 8)
    let left := inside * wid - bit
    (dst + BitVec.ofNat 64 k,
      if !inRow || left = 0 then MoveSrc.const 0 else if left < 8 then MoveSrc.low a left else MoveSrc.byte a))
  let rowNum := e 1 + l.ext.getD 1 0 * (e 2 + l.ext.getD 2 1 * e 3)
  let ns := t 0 / 32
  let sc := (List.range (if l.scaled then ns else 0)).map (fun k =>
    let b := o 0 * ns + k
    (l.sdest + BitVec.ofNat 64 (r * ns + k),
      if l.ext.getD 0 0 ≤ 32 * b then MoveSrc.const 0x7F
      else if !inRow then MoveSrc.const ((Config.freeValue (n + k)).truncate 8)
      else MoveSrc.byte (l.scales + BitVec.ofNat 64 rowNum * l.sstride + BitVec.ofNat 64 b)))
  let nm := t 0 / 8
  let md := (List.range (if l.sparse then nm else 0)).map (fun k =>
    let b := o 0 * nm + k
    (l.mdest + BitVec.ofNat 64 (r * nm + k),
      if !inRow || decide (l.ext.getD 0 0 ≤ 8 * b) then MoveSrc.const ((Config.freeValue (n + ns + k)).truncate 8)
      else MoveSrc.metadata (l.mtab + BitVec.ofNat 64 rowNum * l.mstride + BitVec.ofNat 64 b)))
  data ++ sc ++ md

/-- Free bytes that a row may use. -/
def Layout.freePerRow (l : Layout) : Nat := l.t.getD 0 0 / 32 + l.t.getD 0 0 / 8

/-- The moves of a TLOAD. -/
def Layout.moves (l : Layout) (origin : W64) (doff : W32) (n : Nat) : List JobMove :=
  byteMoves l.spad false ((List.range l.rows).flatMap (fun r => l.rowMoves origin doff (n + r * l.freePerRow) r))

/-- TLOAD. -/
def execTload (d a b : Reg6) (doff : W32) (s : State) : Host.Outcome State Fault Refusal :=
  runC s (.tload d a b doff) (fun s u =>
    let p := s.reg u a.toNat
    if p.toNat % 128 != 0 then .trap s { cause := .misaligned, addr := p }
    else match s.record u p 16 with
      | .error r => r
      | .ok (ws, s) =>
        let l := layoutOf ws
        match l.check (isRidge u) (s.unitScr u) doff with
        | some i => .trap (if i.cause == .accessViolation then s.logViolation u (ws.getD (i.detail.toNat / 8) 0) else s) i
        | none =>
          let r := s.settle u (fun _ => true)
          if !r.1 then .stall r.2 else
          let s := r.2
          let n := s.fresh
          match ({ s with fresh := n + l.rows * l.freePerRow }).submitJob u d.toNat (if l.spad then (s.com u).block else none) .tload
              (l.moves (s.reg u b.toNat) doff n) with
          | .stall t => .stall { t with fresh := n }
          | r => r)

/-! ## The steps of the engines (R240, R245, R250 to R252, R258) -/

def jobSrc (eng : Nat) : Nat := srcOfPos (enginePos eng) 9

/-- Is a job stopped by the halt of its partition, or switched out with it? One with a scratchpad destination runs to its end (R258). -/
def State.jobHalted (s : State) (j : Job) : Bool :=
  (s.stoppedOn j.func (j.eng / 4) && !j.moves.any JobMove.scratch) || s.jobSaved j

/-- The job that was accepted first starts while fewer than four run (R245). -/
def State.startable (s : State) (eng : Nat) : Option Nat :=
  let js := s.jobsOf eng
  if 4 ≤ (js.filter (fun e => e.2.running)).length then none
  else (firstOf ((js.filter (fun e => e.2.accepted && !e.2.running && !s.jobHalted e.2)).map (fun e => (e.2.order, e.1)))).map Prod.snd

def State.modJob (s : State) (k : Nat) (f : Job → Job) : State :=
  { s with jobs := s.jobs.map (fun e => if e.1 = k then (k, f e.2) else e) }

/-- COPY_JOB_START. -/
def execCopyJobStart (engine : Nat) (s : State) : Host.Outcome State Fault Refusal :=
  .next (match s.startable engine with
    | some k => s.modJob k (fun j => { j with running := true })
    | none => s)

/-- Where a job's byte lies: translated at its home in the submitter's context; a wave has no local window, and the submitter's protection unit checks no
word of a job (R33; log entry 114). -/
def State.jobPlace (s : State) (j : Job) (scratch : Bool) (kind : Nat) (a : W64) : XRes :=
  if scratch then .ok (scratchPlace (j.blk.getD 0) a.toNat) 2 32
  else if addrBad (isRidge j.owner) a then .error
  else xlat s .virt j.ctx j.gen j.pos kind a.toNat

/-- The cache entry that a job's byte uses (R426). -/
def State.useJobEntry (s : State) (j : Job) (scratch : Bool) (a : W64) : State :=
  if scratch then s else s.useEntry .virt j.ctx a.toNat

/-- What a move of a job meets; `bad`: an error response. -/
inductive MoveRes where
  | ok (bs : List (Option Byte)) (j : Job) (s : State)
  | blocked (kind : Nat) (a : W64) (r : XRes)
  | bad (a : W64) (s : State)

/-- `n` bytes that a job reads at their home, recalling a COHERENT copy; a page of the host or of a peer may answer with an error (R36, R458; log
entry 1). -/
def State.jobRead (s : State) (j : Job) (scratch : Bool) (a : W64) (n : Nat) : MoveRes :=
  match s.jobPlace j scratch 0 a with
  | .ok place cls grain =>
    let ch := if placeOut place && (s.homesOf place).isEmpty then s.choose 2 else (0, s)
    if ch.1 = 1 then .bad a ch.2
    else if s.badRead place n then .bad a (ch.2.badWord j.func none a place)
    else
      let s := (ch.2.useJobEntry j scratch a).correct place n j.func
      let s := if scratch then s else s.homeUse .virt j.ctx j.pos a.toNat place
      let r := s.readAt none j.ctx a.toNat place n cls grain
      .ok ((bytesLE n r.1).map some) j r.2
  | .error => .bad a s
  | r => .blocked 0 a r

/-- One byte of the word at an address: a job reads each source word once (R240). -/
def State.sourceByte (s : State) (j : Job) (m : JobMove) (a : W64) (n : Nat) : MoveRes :=
  let pick (j : Job) (bs : List Byte) (s : State) : MoveRes := .ok [some (BitVec.ofNat 8 ((bs.getD (a.toNat % 8) 0).toNat % 2 ^ n))] j s
  match j.seen.find (a.toNat / 8) with
  | some bs => pick j bs s
  | none => match s.jobRead j m.srcScratch (a &&& ~~~7) 8 with
    | .ok bs j s => let bs := bs.map (fun b => b.getD 0); pick { j with seen := j.seen.put (a.toNat / 8) bs } bs s
    | .blocked k _ r => .blocked k a r
    | .bad _ s => .bad a s

/-- Lines of a metadata cache (R257): 16 KiB in lines of 64 bytes, the most recent kept (log entry 85). -/
def metaLines : Nat := 256

/-- A byte of metadata: through the engine's cache where its page is READONLY (R257). -/
def State.metaByte (s : State) (j : Job) (m : JobMove) (a : W64) : MoveRes :=
  let line := a.toNat / 64 * 64
  let pick (bs : List Byte) (s : State) : MoveRes := .ok [some (bs.getD (a.toNat % 64) 0)] j s
  let keep (s : State) (x : MetaLine) : State := s.modCopyEng j.eng (fun e => { e with
    metadata := (x :: e.metadata.filter (fun y => !(y.ctx == x.ctx && y.va == x.va))).take metaLines })
  match (s.copyEng j.eng).metadata.find? (fun x => x.ctx == j.ctx && x.va == line) with
  | some x => pick x.data (keep s x)
  | none => match s.jobPlace j m.srcScratch 0 a with
    | .ok _ 1 _ =>
      (match s.jobRead j m.srcScratch (BitVec.ofNat 64 line) 64 with
        | .ok bs _ s => let bs := bs.map (fun b => b.getD 0); pick bs (keep s { ctx := j.ctx, va := line, data := bs })
        | .blocked k _ r => .blocked k a r
        | .bad _ _ => s.sourceByte j m a 8)
    | _ => s.sourceByte j m a 8

/-- One byte of a word to be moved. -/
def State.readByte (s : State) (j : Job) (m : JobMove) (x : MoveSrc) : MoveRes :=
  match x with
  | .keep => .ok [none] j s
  | .const b => .ok [some b] j s
  | .byte a => s.sourceByte j m a 8
  | .low a n => s.sourceByte j m a n
  | .metadata a => s.metaByte j m a

/-- The eight bytes of a word. -/
def State.readMove (s : State) (j : Job) (m : JobMove) : List MoveSrc → MoveRes
  | [] => .ok [] j s
  | x :: t =>
    match s.readByte j m x with
    | .ok b j s => (match s.readMove j m t with
      | .ok bs j s => .ok (b ++ bs) j s
      | r => r)
    | r => r

/-- The word from which a byte comes. -/
def MoveSrc.word : MoveSrc → Option Nat
  | .byte a | .low a _ | .metadata a => some (a.toNat / 8)
  | .keep | .const _ => none

/-- A word is written: of the source words that have been read, those stay that another word still needs. -/
def Job.wrote (j : Job) (i : Nat) : Job :=
  let moves := j.moves.zipIdx.map (fun e => if e.2 = i then { e.1 with written := true } else e.1)
  { j with
    waitWalk := none, moves := moves,
    seen := if j.seen.isEmpty then [] else
      j.seen.filter (fun e => moves.any (fun m => !m.written && m.bytes.any (fun b => b.word == some e.1))) }

/-- The words of a failed job are filled as they stand: now where their homes translate them, else as their pages are walked; the job ends when each
is full (R252). -/
def State.fillFailed (s : State) (k : Nat) : State :=
  match s.jobs.find k with
  | none => s
  | some j =>
    let r := j.moves.zipIdx.foldl (fun (r : State × Job) e =>
      if e.1.written then r
      else match r.1.jobPlace j e.1.scratch 1 e.1.dst with
        | .ok place _ _ => ((r.1.fillWord place).serveWord place, r.2.wrote e.2)
        | .error => (r.1, r.2.wrote e.2)
        | _ => r) (s, j)
    let s := { r.1 with jobs := r.1.jobs.put k r.2 }
    if r.2.moves.all JobMove.written then s.endJob k 2 else s

/-- A job ends with status ERROR, and one entry is logged (R252). -/
def State.failJob (s : State) (k : Nat) (a : W64) : State :=
  match s.jobs.find k with
  | none => s
  | some j =>
    if j.status != 0 then s
    else (({ s with jobs := s.jobs.put k { j with status := 2, running := true, waitTok := none, waitWalk := none, seen := [] } }).logError 0x09 (jobSrc j.eng)
      j.func 1 a 0).fillFailed k

/-- The supervisor has answered ERROR for a page: the words of a failed job that it does not map stay as they are, and the job ends once no other word is
left (R252, R429; log entry 104). -/
def State.giveUp (s : State) (k page : Nat) : State :=
  (s.modJob k (fun j => { j with
    waitTok := none, waitWalk := none
    moves := j.moves.map (fun m => match s.jobPlace j m.scratch 1 m.dst with
      | .ok .. => m
      | _ => if m.dst.toNat / 2 ^ 16 = page then { m with written := true } else m) })).fillFailed k

/-- Bytes of a word, those that a move writes. -/
def State.putSome (s : State) (a : Nat) : List (Option Byte) → State
  | [] => s
  | none :: t => s.putSome (a + 1) t
  | some b :: t => (s.putByte a b).putSome (a + 1) t

/-- A word's home has no translation: a walk, or a fault that the job waits for (R252). -/
def State.jobBlocked (s : State) (k : Nat) (j : Job) (kind : Nat) (a : W64) (r : XRes) : State :=
  match r with
  | .miss c => (s.startWalk c j.ctx a.toNat kind).modJob k (fun j => { j with waitWalk := some (c, a.toNat) })
  | .fault sub =>
    let c := if inPlateau a.toNat then 192 + windowPos a.toNat / 32 else s.sliceOf j.ctx a.toNat
    let r := s.openFault (cacheDie c) j.ctx a (BitVec.ofNat 4 (2 ^ kind)) sub (cacheSrc c) 1
    r.2.modJob k (fun j => { j with waitTok := r.1, waitWalk := some (c, a.toNat) })
  | _ => s

/-- A word that a job writes at its home (R240): another side may refuse it (R458). -/
def State.jobWrite (s : State) (k i : Nat) (j : Job) (m : JobMove) (bs : List (Option Byte)) (place cls grain : Nat) : State :=
  let ch := if placeOut place && s.domOf j.ctx m.dst.toNat == 3 then s.choose 2 else (0, s)
  if ch.1 = 1 then ({ ch.2 with jobs := ch.2.jobs.put k j }).failJob k m.dst
  else
    let s := ch.2.useJobEntry j m.scratch m.dst
    let s := if m.scratch then s else s.homeUse .virt j.ctx j.pos m.dst.toNat place
    let s := ((if bs.all Option.isSome then s.clearBad place 8 else s).putSome place bs).backInvalidate place grain
    let s := if !m.scratch && cls == 3 then s.l1Coherent none j.ctx m.dst.toNat place grain true else s
    (({ s with jobs := s.jobs.put k (j.wrote i) }).fillWord place).serveWord place

/-- A word of a job is moved: data and full bit in one step at the word's home (ENGINE_WRITE). A failed job fills the word alone. -/
def State.moveWord (s : State) (k i : Nat) : State :=
  match s.jobs.find k with
  | none => s
  | some j => match j.moves[i]? with
    | none => s
    | some m =>
      if m.written then s
      else if j.status != 0 then
        (match s.jobPlace j m.scratch 1 m.dst with
          | .ok .. | .error => s.fillFailed k
          | r => s.jobBlocked k j 1 m.dst r)
      else match s.readMove j m m.bytes with
        | .bad a s => s.failJob k a
        | .blocked kind a r => s.jobBlocked k j kind a r
        | .ok bs j s =>
          (match s.jobPlace j m.scratch 1 m.dst with
            | .ok place cls grain => s.jobWrite k i j m bs place cls grain
            | .error => s.failJob k m.dst
            | r => ({ s with jobs := s.jobs.put k j }).jobBlocked k j 1 m.dst r)

/-- May a walk that has not been answered be tried again: it is not open, and there is room to walk or an entry to find (R424)? -/
def State.walkReady (s : State) (cache c va : Nat) : Bool :=
  let d := cacheDie cache
  !s.walks.any (fun w => w.die == d && w.ctx == c && w.page == va / 2 ^ 16 && !w.stale)
    && ((s.tcFind cache c va).isSome || decide ((s.walks.filter (fun w => w.die == d)).length < 256))
    && decide ((s.faults.filter (fun f => f.die == d)).length < 1024)

/-- Is the 512-byte piece of word `i` begun and not finished (R245, R258)? -/
def Job.midPiece (j : Job) (i : Nat) : Bool :=
  let p := (j.moves.drop (i / 64 * 64)).take 64
  p.any JobMove.written && !p.all JobMove.written

/-- May a job move word `i`? A halted job finishes the pieces that it has begun (R258; log entry 103). -/
def State.jobReady (s : State) (j : Job) (i : Nat) : Bool :=
  j.running && j.waitTok.isNone && (!s.jobHalted j || (j.midPiece i && !s.jobSaved j))
    && (match j.waitWalk with | some (c, va) => s.walkReady c j.ctx va | none => true)

/-- ENGINE_WRITE. -/
def execEngineWrite (job word : Nat) (s : State) : Host.Outcome State Fault Refusal :=
  .next (match s.jobs.find job with
    | some j => if s.jobReady j word then s.moveWord job word else s
    | none => s)

/-- COPY_JOB_COMPLETION: every word is written; the job's marks and a scratchpad held for it are released, its waiters wake. -/
def execCopyJobCompletion (job : Nat) (s : State) : Host.Outcome State Fault Refusal :=
  .next (match s.jobs.find job with
    | some j => if j.running && j.status == 0 && j.moves.all JobMove.written then s.endJob job 1 else s
    | none => s)

/-- COPY_JOB_FAULT_RESUME: the reply has come, and the job goes on at the word it stopped at. -/
def execCopyJobFaultResume (job : Nat) (s : State) : Host.Outcome State Fault Refusal :=
  .next (match (s.jobs.find job).bind Job.waitTok with
    | some t => if s.faults.any (fun f => f.token == t) then s else s.modJob job (fun j => { j with waitTok := none })
    | none => s)

end Sys2Proof.Machine
end

