-- ==== Sys2Proof/Machine/Messages.lean ====
section
/-! DEFINITION. AMSG, SEND, RECV, mailboxes and the start of tasks (spec/07 R219, spec/09 R259 to R267). -/

namespace Sys2Proof.Machine

/-! ## Senders (R219, R263) -/

/-- The TID of a thread as a sender; 0 without a home core. -/
def Thread.sendTid (t : Thread) : W64 := if t.home.isSome then t.tid else 0

/-- The TID of the thread that a lane stands for, 0 if it stands for none. -/
def State.laneTid (s : State) (w l : Nat) : W64 :=
  match (s.wave w).laneThread l with
  | some t => (s.thread t).tid
  | none => 0

/-- The sender's TID: for a gathered wave that of the lowest lane in EXEC that has one. -/
def State.senderTid (s : State) (u : UnitId) : W64 :=
  match u with
  | .thread t => (s.thread t).sendTid
  | .wave w => (((Mask.lanes (s.wave w).exec).map (s.laneTid w)).find? (· != 0)).getD 0

/-- A message of SEND or TASK, its payload from word 2 on, so that word 5 of it stands at 0x38 (R259; log entry 86): an access to the bank of its inbox, whose status D receives. -/
def State.sendMsg (s : State) (u : UnitId) (d : Reg6) (pos kind type : Nat) (payload : List W64) (holding : Bool) : Access :=
  let ws := [msgHead kind payload.length type, s.senderTid u] ++ payload ++ List.replicate (6 - payload.length) 0
  s.memAccess u .virt (.send ws) 8 (.reg d) holding false [{ lane := 0, ea := BitVec.ofNat 64 (windowAddr pos 0x3E000) }]

/-! ## SEND (R263) -/

/-- SEND of `nw` payload words from register B on; it counts as a memory instruction outstanding (R221). -/
def State.sendPayload (s : State) (u : UnitId) (d a b : Reg6) (nw : Nat) : Res :=
  if nw = 7 then .trap s { cause := .badOperand }
  else
    let x := s.reg u a.toNat
    let pos := bitsOf x 19 8
    if 3071 < pos then .trap s { cause := .accessViolation }
    else
      let payload := (List.range nw).map (fun i => s.reg u (b.toNat + i))
      s.after u (fun _ => false) (fun s => .done (s.sendRel (s.sendMsg u d pos 0 (bitsOf x 7 0) payload false)))

/-- SEND: one payload word. -/
def execSend (d a b : Reg6) (s : State) : Host.Outcome State Fault Refusal :=
  runC s (.send d a b) (fun s u => s.sendPayload u d a b 1)
/-- SEND, lone. -/
def execSendLone (d a b : Reg6) (nw : BitVec 3) (s : State) : Host.Outcome State Fault Refusal :=
  runC s (.sendLone d a b nw) (fun s u => s.sendPayload u d a b nw.toNat)

/-! ## AMSG (R219) -/

/-- Check 1 of R205 on an AMSG address: it lies in a Plateau or local window. -/
def State.amsgCheck (s : State) (u : UnitId) (width : Nat) (a : W64) : Option Cause :=
  if s.badAddr u a 1 || !(inPlateau a.toNat || inLocal a.toNat) then some .accessViolation
  else if a.toNat % width != 0 then some .misaligned else none

/-- AMSG: one message for each lane, sent once every earlier access is performed; D receives each lane's status. -/
def State.activeMsg (s : State) (u : UnitId) (m : MemOp) (e : MemExt) : Res :=
  let f := memForm (memUniform (isRidge u) m) false m (some e)
  let wide := m.sz == 3
  s.holdAgain u id
    (let eas := (s.redoLanes u (s.memLanes u f)).map (fun l => (l, s.memEa u f l))
    let fails := eas.filterMap (fun x => (s.amsgCheck u (szBytes m.sz) x.2).map (fun c => (x.1, x.2, c)))
    match checkTrap u fails with
    | some i => .trap ((fails.filter (fun x => decide (2 ^ 55 ≤ x.2.1.toNat))).foldl (fun s x => s.logViolation u x.2.1) s) i
    | none => s.after u (fun _ => true) (fun s =>
      let tid (l : Nat) : W64 := match u with | .thread t => (s.thread t).sendTid | .wave w => if f.uniform then s.senderTid u else s.laneTid w l
      let lanes : List ALane := eas.map (fun x =>
        let v := s.memReg u f m.d.toNat wide x.1
        { lane := x.1, ea := x.2, data := if wide then v else (lo32 v).zeroExtend 64, data2 := tid x.1 })
      let dest : Dest := if isRidge u && !f.uniform then .vreg m.d.toNat false else .reg (m.d.truncate 6)
      s.sendHold u (s.memAccess u .virt (.amsg e.md.toNat) (szBytes m.sz) dest true false lanes) id))

/-- AMSG. -/
def execAmsg (m : MemOp) (e : MemExt) (s : State) : Host.Outcome State Fault Refusal :=
  runC s (.amsg m e) (fun s u => s.activeMsg u m e)

/-- MESSAGE_ARRIVAL: a message on its way (by the number of its access) reaches its inbox, and its status comes back. -/
def execMessageArrival (msg : Nat) (s : State) : Host.Outcome State Fault Refusal :=
  .next (match s.access msg with
    | some a =>
      (match a.op with
        | .send _ | .amsg _ => (s.settleLanes msg (a.lanes.map ALane.lane)).reap msg
        | _ => s)
    | none => s)

/-- OVERFLOW_MOVE: a message moves from the overflow region into the inbox (R262). -/
def execOverflowMove (pos : Nat) (s : State) : Host.Outcome State Fault Refusal :=
  .next (if s.posDead pos then s else s.drainOverflow pos)

/-- INBOX_OVERFLOW_WRITE: INBOXOV or INBOXSZ of a position; nothing while OVCNT is not 0 (R262). -/
def State.writeOverflow (s : State) (pos : Nat) (size : Bool) (val : W64) : State :=
  if !(s.position pos).overflow.isEmpty then s
  else s.modPosition pos (fun q => if size then { q with ovSlots := lo32 val } else { q with ovBase := val &&& 0x7FFFFFFFFFF000 })

/-- INBOX_OVERFLOW_WRITE. -/
def execInboxOverflowWrite (pos : Nat) (size : Bool) (val : W64) (s : State) : Host.Outcome State Fault Refusal :=
  .next (s.writeOverflow pos size val)

/-! ## RECV (R265) -/

/-- The oldest waiting message of a type. -/
def State.oldestOf (s : State) (p ty : Nat) : Option Msg :=
  (s.waitingMsgs p).find? (fun m => m.type == ty)

/-- RECV: a type whose entry has LIMIT 0, of a position of the unit's Vale. -/
def State.receive (s : State) (u : UnitId) (d : Nat) (sel ty : W64) : Res :=
  let r := s.settle u (fun a => (msgWords a.op { lane := 0, ea := 0 }).isSome)
  let p := s.unitVale u * 32 + bitsOf sel 4 0
  let t := bitsOf ty 7 0
  if !r.1 then .stall r.2
  else if !s.holdsVale (s.unitFunc u) (s.unitVale u) then
    .trap (r.2.logError 0x02 (s.unitSrc u) (s.unitFunc u) 1 0 0) { cause := .accessViolation, detail := s.pcOf u, mask := 1 }
  else
    let s := r.2
    match (if (s.vec p t).limit = 0 then s.oldestOf p t else none) with
    | some m => .done (((s.takeMsg p m).drainOverflow p).setRegs u d m.words)
    | none => .done (s.setReg u d 0)

/-- RECV. -/
def execRecv (d a b : Reg6) (s : State) : Host.Outcome State Fault Refusal :=
  runC s (.recv d a b) (fun s u => s.receive u d.toNat (s.reg u a.toNat) (s.reg u b.toNat))

/-! ## Mailboxes (R267) -/

/-- The mailbox that a name gives, if its Vale is present and the unit's partition holds it. -/
def State.mailName (s : State) (u : UnitId) (n : W64) (f : Nat → Nat → Res) : Res :=
  let v := bitsOf n 14 8
  if 95 < v || !s.holdsVale (s.unitFunc u) v then
    .trap (s.logError 0x02 (s.unitSrc u) (s.unitFunc u) 1 0 0) { cause := .accessViolation, detail := s.pcOf u, mask := 1 }
  else f v (bitsOf n 7 0)

/-- A word is written; the oldest reader that waits for it reads it now. -/
def State.mailPut (s : State) (v w : Nat) (x : W64) : State :=
  match (s.vale v).mailWait.find? (fun e => e.1 = w) with
  | some (_, r) =>
    let s := s.modVale v (fun y => { y with mailWait := y.mailWait.filter (fun e => !(e.1 == w && e.2 == r)) })
    (match s.ownWait r with
      | .mailbox _ _ d => (s.setReg r d.toNat x).setOwnWait r (.answered false)
      | _ => s)
  | none => s.modVale v (fun y => { y with mail := y.mail.put w { val := x, full := true } })

/-- MBW: D is 0 where the word was empty, 1 where nothing was written. The write is sent once every earlier load is performed. -/
def execMbw (d a b : Reg6) (s : State) : Host.Outcome State Fault Refusal :=
  runC s (.mbw d a b) (fun s u =>
    let r := s.settle u (fun a => a.op.isLoad)
    if !r.1 then .stall r.2
    else r.2.mailName u (r.2.reg u a.toNat) (fun v w =>
      if ((r.2.vale v).mail.getD w {}).full then .done (r.2.setReg u d.toNat 1)
      else .done ((r.2.mailPut v w (r.2.reg u b.toNat)).setReg u d.toNat 0)))

/-- MBR: takes a full word, or parks in the order of the readers' arrival. -/
def execMbr (d a : Reg6) (s : State) : Host.Outcome State Fault Refusal :=
  runC s (.mbr d a) (fun s u =>
    s.mailName u (s.reg u a.toNat) (fun v w =>
      let m := (s.vale v).mail.getD w {}
      if m.full then
        .done ((s.modVale v (fun y => { y with mail := y.mail.put w { m with full := false } })).setReg u d.toNat m.val)
      else
        .gone ((s.modVale v (fun y => { y with mailWait := y.mailWait ++ [(w, u)] })).park u (.mailbox v w d))))

/-! ## Tasks (R261) -/

/-- The registers of a task (R219, R261, R398). -/
def taskRegs (m : Msg) : Vector W64 16 :=
  let w (i : Nat) : W64 := m.words.getD i 0
  regsOf (fun i =>
    match m.kind with
    | 1 => if i = 1 then w 2 else if i = 2 then w 3 else if i = 3 then w 1 else 0
    | 2 => if i ≤ 4 then w i else 0
    | _ => if i ≤ 7 then w i else 0)

/-- A task's thread: it starts at HANDLER in its sender's context, with FPCTL 0, and its cap and priority are 3 (R153, R401). -/
def taskThread (m : Msg) (p : Nat) (handler : W64) : Thread :=
  { pc := handler, sctx := m.ctx, regs := taskRegs m, c := { ctx := m.ctx, prio := 3, cap := 3 },
    task := some { pos := p, type := m.type, walker := false } }

/-- Does what arrived with number `n` come before the oldest thread that waits to start in a slot of a class, and before the trap whose turn it is
(R408, R412)? -/
def State.firstCome (s : State) (p cls n : Nat) : Bool :=
  before n ((firstOf (s.inboxThreads p cls true)).map Prod.fst)
    && (!(isSummit p && cls == 0) || before n ((s.trapTurn (p / 32)).map (fun t => t.1.arr)))

/-- The message that starts a task in a slot, if one does: the slot is free on a live core that issues, no thread waits to return to one of its class, and nothing
else that starts there arrived before it (R115, R261, R408). -/
def State.taskFor (s : State) (p n : Nat) : Option Msg :=
  let cls := s.slotClass p n
  if n < slotsOf p && s.slotFree p n && !s.posDead p && !(s.position p).stuck && !(s.vale (p / 32)).offline
      && (s.inboxThreads p cls false).isEmpty && !s.stoppedOn (s.vale (p / 32)).func (p / 32)
  then (s.bestMsg p (s.startableMsgs p cls)).filter (fun m => s.firstCome p cls m.id)
  else none

/-! ## Walker tasks (R424) -/

/-- The walk for which a task may start in a slot: a class-2 slot of the Summit core that walks for the requesting cache, with WALKCFG's
type enabled for class 2 and below its limit. -/
def State.walkFor (s : State) (p n : Nat) : Option Walk :=
  let v := s.vec p (s.die (p / 768)).wtype.toNat
  if isSummit p && n < 4 && s.slotClass p n == 2 && s.slotFree p n && !s.posDead p && !(s.position p).stuck && !(s.vale (p / 32)).offline
      && (s.inboxThreads p 2 false).isEmpty && v.en && v.cls == 2 && decide (v.run < v.limit)
  then s.walks.find? (fun w => !w.started && w.die == p / 768 && s.walkVale (w.caches.headD 0) == p / 32)
  else none

/-- A walker task: s1 to s5 as R424 gives, SCTL.PHYS set (R411). -/
def State.walkerThread (s : State) (w : Walk) (p : Nat) : Thread :=
  let d := s.die w.die
  { pc := (s.vec p d.wtype.toNat).handler, sctx := w.ctx, phys := true, c := { ctx := w.ctx, prio := 3, cap := 3 },
    regs := regsOf (fun i =>
      if i = 1 then BitVec.ofNat 64 (w.ctx + w.gen.toNat * 2 ^ 32) else if i = 2 then BitVec.ofNat 64 (w.page * 2 ^ 16)
      else if i = 3 then BitVec.ofNat 64 w.req else if i = 4 then w.kinds.zeroExtend 64
      else if i = 5 then d.ctxtb + BitVec.ofNat 64 (64 * w.ctx) else 0),
    task := some { pos := p, type := d.wtype.toNat, walker := true } }

/-- A walker task starts in a slot. -/
def State.startWalker (s : State) (p n : Nat) (w : Walk) : State :=
  let ty := (s.die w.die).wtype.toNat
  let th := s.walkerThread w p
  let s := ({ s with walks := s.walks.map (fun x => if x == w then { x with started := true } else x) } : State).setRun p ty ((s.vec p ty).run + 1)
  let i := s.newId
  let id := i.2.newTid p
  ({ id.2 with threads := id.2.threads.put i.1 { th with tid := id.1 } } : State).placeThread i.1 p n 2

/-- A message starts a task in a slot. -/
def State.startTask (s : State) (p n : Nat) (m : Msg) : State :=
  let v := s.vec p m.type
  let s := ((s.takeMsg p m).drainOverflow p).setRun p m.type (v.run + 1)
  let i := s.newId
  let id := i.2.newTid p
  ({ id.2 with threads := id.2.threads.put i.1 { taskThread m p v.handler with tid := id.1 } } : State).placeThread i.1 p n (s.slotClass p n)

/-- TASK_START (R261, R424): a walk before a message (log entry 1). -/
def execTaskStart (pos slot : Nat) (s : State) : Host.Outcome State Fault Refusal :=
  .next (match s.walkFor pos slot with
    | some w => s.startWalker pos slot w
    | none => match s.taskFor pos slot with
      | some m => s.startTask pos slot m
      | none => s)

end Sys2Proof.Machine
end

