-- ==== Sys2Proof/Machine/Contour.lean ====
section
/-! DEFINITION. The Contour instructions, their fragment lanes, and INTERP (spec/12 R342 to R352; spec/04 R115). -/

namespace Sys2Proof.Machine

/-! ## Moving to an equipped position (R115) -/

/-- The equipped position to which a thread at `p` moves: the nearest of its octet, the other one, then those of the other octets. -/
def State.equippedFor (s : State) (p : Nat) : Option Nat :=
  let base := p / 32 * 32
  let j := p % 32 / 8
  let near := if p % 8 ≤ 5 then 3 else 7
  let rest := [1, 2, 3].flatMap (fun i => let k := (j + i) % 4; [base + 8 * k + 3, base + 8 * k + 7])
  ([base + 8 * j + near, base + 8 * j + (10 - near)] ++ rest).find? (fun q => !s.posDead q)

/-- Runs a Contour or Traverse instruction at an equipped position: a thread elsewhere moves there first, after its memory operations are
performed; a Summit thread never does. -/
def State.atEquipped (s : State) (u : UnitId) (f : State → Res) : Res :=
  match u with
  | .wave _ => .trap s { cause := .wrongEngine }
  | .thread t =>
    let p := (s.thread t).pos
    if s.isSup u then .trap s { cause := .badOperand }
    else if isEquipped p then f s
    else match s.equippedFor p with
      | none => .trap s { cause := .badOperand }
      | some q =>
        let r := s.settle u (fun _ => true)
        if !r.1 then .stall r.2 else .gone ((r.2.modThread t (fun x => { x with loc := .retry (q / 32) })).returnThread t q 0)

/-! ## Records (R331, R333, R343) -/

/-- A tile record with the target record that it names. -/
structure TileRec where
  t : TileRef
  mask : List Nat
  cbase : W64
  wt : Nat
  ht : Nat
  shader : W64
  deriving DecidableEq, Repr

/-- Words of a second record, read when the accesses that R227 orders before it have been performed. -/
def State.recordMore (s : State) (u : UnitId) (a : W64) (n : Nat) : Except Res (List W64 × State) :=
  let r := s.settle u (s.meetsRecord u a n)
  if !r.1 then .error (.stall r.2) else r.2.readWords u a n

/-- The address of target record `tgt`. -/
def State.targetAddr (s : State) (u : UnitId) (tgt : Nat) : W64 :=
  ((s.vale (s.unitVale u)).ctgtb &&& 0x7FFFFFFFFFE000) + BitVec.ofNat 64 (32 * tgt)

def tileRec (a b : List W64) : TileRec :=
  let w (i : Nat) : W64 := a.getD i 0
  let v (i : Nat) : W64 := b.getD i 0
  { t := { tgt := bitsOf (w 0) 39 32, tx := bitsOf (w 0) 15 0, ty := bitsOf (w 0) 31 16, vt := bitsOf (w 0) 40 40, z := lo32 (w 1) }
    mask := (List.range 128).filter (fun i => if i < 64 then (w 2).getLsbD i else (w 3).getLsbD (i - 64))
    cbase := v 0, wt := bitsOf (v 1) 15 0, ht := bitsOf (v 1) 31 16, shader := v 2 }

/-- A reserved bit, an empty target, or a tile outside it. -/
def recordBad (a b : List W64) (r : TileRec) : Bool :=
  bitsOf (a.getD 0 0) 63 41 != 0 || hi32 (a.getD 1 0) != 0 || hi32 (b.getD 1 0) != 0 || b.getD 3 0 != 0
    || r.wt == 0 || r.ht == 0 || decide (r.wt ≤ r.t.tx) || decide (r.ht ≤ r.t.ty)

/-- The tile record in register `b`, its target record, and the checks of R343 up to BAD_OPERAND. -/
def State.tileRecord (s : State) (u : UnitId) (b : Nat) (f : State → TileRec → Res) : Res :=
  let a := s.reg u b
  if a.toNat % 32 != 0 then .trap s { cause := .misaligned, addr := a }
  else match s.record u a 4 with
    | .error r => r
    | .ok (ws, s) =>
      match s.recordMore u (s.targetAddr u (bitsOf (ws.getD 0 0) 39 32)) 4 with
      | .error r => r
      | .ok (vs, s) =>
        let r := tileRec ws vs
        if recordBad ws vs r then .trap s { cause := .badOperand } else f s r

/-- The header of the shader that fragment lanes run (R507). -/
def State.shaderHeader (s : State) (u : UnitId) (use : Bool) (shader : W64) (f : State → Nat → Nat → Res) : Res :=
  if !use || shader == 0 then f s 16 0
  else match s.readNow u .fetch 8 (shader - 64) with
    | .stop r => r
    | .ok v s => match passHeader true (BitVec.ofNat 64 v) with
      | some h => f s h.1 h.2
      | none => .trap s { cause := .badOperand }

/-! ## Messages to the owners -/

/-- A message to the owners of some views, a lane for each view. -/
def State.viewAccess (s : State) (u : UnitId) (t : TileRef) (o : ContourOp) (views : List Nat) (holding : Bool) : Access :=
  s.memAccess u .virt (.contour t o) 8 .none holding false
    (views.map (fun v => { lane := v, ea := BitVec.ofNat 64 (windowAddr (s.tileOwner (s.unitFunc u) t v) 0) }))

def AccOp.isContour : AccOp → Bool
  | .contour .. => true
  | _ => false

/-- A holding message is answered: the instruction completes with the answers of all its lanes, or traps on error lanes. -/
def State.viewsAnswered (s : State) (u : UnitId) (a : Access) (fin : State → Access → State) : Res :=
  let s := (s.dropAccess a.id).setWait u .none
  let all := mergeRedo (s.com u).redo a
  if !a.failed then .done (fin s all) else .trap (s.modCom u (fun c => { c with redo := some all })) a.errTrap

/-- A holding Contour instruction: complete once every owner has answered; `first` sends it. -/
def State.viewsAgain (s : State) (u : UnitId) (fin : State → Access → State) (first : Res) : Res :=
  match s.heldAccess u with
  | some a => if !a.op.isContour then first else if !a.complete then .stall s else s.viewsAnswered u a fin
  | none => first

def State.viewsSend (s : State) (u : UnitId) (a : Access) (fin : State → Access → State) : Res :=
  s.after u (fun x => x.op.isLoad) (fun s =>
    let r := s.issue a
    match r.2.access r.1 with
    | some b => if b.complete && !b.failed then r.2.viewsAnswered u b fin else .stall (r.2.setWait u (.hold r.1))
    | none => .stall r.2)

/-- CTILE, CFILL and CCLOSE: D := 0 with an empty MASK; a resumed instruction sends its error lanes. -/
def State.viewsHold (s : State) (u : UnitId) (d : Nat) (r : TileRec) (o : ContourOp) (fin : State → Access → State) : Res :=
  let vs := s.redoLanes u r.mask
  if vs.isEmpty then .done (s.setReg u d 0) else s.viewsSend u (s.viewAccess u r.t o vs true) fin

/-! ## CVIEW (R344) -/

/-- The 20 words of each entry of an image. -/
def viewEntries (ws : List W64) (n : Nat) : List (List W32) :=
  (List.range n).map (fun i => (List.range 20).map (fun j =>
    let w := ws.getD (10 * i + j / 2) 0
    if j % 2 = 0 then lo32 w else hi32 w))

/-- CVIEW: every live unit of the partition takes the entries. -/
def State.loadViews (s : State) (u : UnitId) (a : W64) (countm1 vt : Nat) : Res :=
  s.viewsAgain u (fun s _ => s)
    (s.atEquipped u (fun s =>
      if a.toNat % 16 != 0 then .trap s { cause := .misaligned, addr := a }
      else match s.record u a (10 * (countm1 + 1)) with
        | .error r => r
        | .ok (ws, s) =>
          let units := (s.equippedList (s.unitFunc u)).filter (fun p => !s.posDead p)
          let x := s.memAccess u .virt (.contour ⟨0, 0, 0, vt, 0⟩ (.view (viewEntries ws (countm1 + 1)))) 8 .none true false
            ((s.redoLanes u units).map (fun p => { lane := p, ea := BitVec.ofNat 64 (windowAddr p 0) }))
          if x.lanes.isEmpty then .done s else s.viewsSend u x (fun s _ => s)))

/-- CVIEW. -/
def execCview (a b : Reg6) (s : State) : Host.Outcome State Fault Refusal :=
  runC s (.cview a b) (fun s u =>
    let x := s.reg u b.toNat
    s.loadViews u (s.reg u a.toNat) (bitsOf x 6 0) (bitsOf x 7 7))
/-- CVIEW, lone. -/
def execCviewLone (a : Reg6) (countm1 : BitVec 7) (vt : Bool) (s : State) : Host.Outcome State Fault Refusal :=
  runC s (.cviewLone a countm1 vt) (fun s u => s.loadViews u (s.reg u a.toNat) countm1.toNat (bit vt 0))

/-! ## CTILE, CFILL, CCLOSE (R345, R348, R349) -/

/-- D of CTILE: the slot of the lowest view, and bit 0 where a view is FULL. -/
def tileStatus (a : Access) : W64 :=
  let low := a.lanes.foldl (fun (r : Nat × W64) l => if l.lane < r.1 then (l.lane, l.data) else r) (128, 0)
  low.2 ||| (if a.lanes.any (fun l => l.data == 0) then 1 else 0)

/-- D of CFILL and CCLOSE: the answers together. -/
def fillStatus (a : Access) : W64 := a.lanes.foldl (fun r l => r ||| l.data) 0

/-- CTILE. -/
def execCtile (d b : Reg6) (s : State) : Host.Outcome State Fault Refusal :=
  runC s (.ctile d b) (fun s u =>
    let fin (s : State) (a : Access) : State := s.setReg u d.toNat (tileStatus a)
    s.viewsAgain u fin (s.atEquipped u (fun s => s.tileRecord u b.toNat (fun s r => s.viewsHold u d.toNat r .tileOpen fin))))

/-- CFILL with its options: bit 0 RULE, bit 1 FRAG, bit 2 CLR. -/
def State.fillViews (s : State) (u : UnitId) (d b : Nat) (opts : Nat) : Res :=
  let fin (s : State) (a : Access) : State := s.setReg u d (fillStatus a)
  let frag := opts / 2 % 2 == 1
  s.viewsAgain u fin (s.atEquipped u (fun s => s.tileRecord u b (fun s r =>
    s.shaderHeader u frag r.shader (fun s nv scr =>
      s.viewsHold u d r (.resolve (opts % 2 == 1) frag (opts / 4 % 2 == 1) r.shader nv scr) fin))))

/-- CFILL. -/
def execCfill (d a b : Reg6) (s : State) : Host.Outcome State Fault Refusal :=
  runC s (.cfill d a b) (fun s u => s.fillViews u d.toNat b.toNat (bitsOf (s.reg u a.toNat) 2 0))
/-- CFILL, lone. -/
def execCfillLone (d b : Reg6) (opts : BitVec 3) (s : State) : Host.Outcome State Fault Refusal :=
  runC s (.cfillLone d b opts) (fun s u => s.fillViews u d.toNat b.toNat opts.toNat)

/-- CCLOSE. -/
def execCclose (d b : Reg6) (s : State) : Host.Outcome State Fault Refusal :=
  runC s (.cclose d b) (fun s u =>
    let fin (s : State) (a : Access) : State := s.setReg u d.toNat (fillStatus a)
    s.viewsAgain u fin (s.atEquipped u (fun s => s.tileRecord u b.toNat (fun s r =>
      s.viewsHold u d.toNat r (.tileClose r.cbase r.wt r.ht) fin))))

/-! ## CSEG and CTRI (R346, R347, R352) -/

/-- The lowest view in MASK with a point whose projection fails at the issuing unit, and its lowest such point (log entry 119). -/
def State.rangeFails (s : State) (u : UnitId) (r : TileRec) (pts : List W64) : Option (Nat × Nat) :=
  r.mask.findSome? (fun v =>
    (failedPoint (s.viewEntry (s.unitPos u) r.t.vt v) r.t.z r.t.tx r.t.ty pts).map (fun i => (v, i)))

/-- A segment or triangle is sent, posted, to the owner of each view. The header of the fragments' entry is checked before the projections (log entry
119). -/
def State.sendSegment (s : State) (u : UnitId) (b : Nat) (pts : List W64) (frag : Bool) (o : TileRec → Nat → Nat → ContourOp) : Res :=
  s.atEquipped u (fun s => s.tileRecord u b (fun s r => s.shaderHeader u frag r.shader (fun s nv scr =>
    match s.rangeFails u r pts with
    | some (v, i) => .trap s { cause := .contourRange, detail := BitVec.ofNat 64 (v + i * 256) }
    | none => s.after u (fun x => x.op.isLoad) (fun s => .done (s.sendRel (s.viewAccess u r.t (o r nv scr) r.mask false))))))

/-- Registers `n` on as points. -/
def State.points (s : State) (u : UnitId) (n count : Nat) : List W64 := (List.range count).map (fun i => s.reg u (n + i))

/-- CSEG.LIN. -/
def execCsegLin (a b : Reg6) (s : State) : Host.Outcome State Fault Refusal :=
  runC s (.csegLin a b) (fun s u => s.sendSegment u b.toNat (s.points u a.toNat 2) false (fun _ _ _ => .segment (s.points u a.toNat 2) false))
/-- CSEG.QUAD. -/
def execCsegQuad (a b : Reg6) (s : State) : Host.Outcome State Fault Refusal :=
  runC s (.csegQuad a b) (fun s u => s.sendSegment u b.toNat (s.points u a.toNat 3) false (fun _ _ _ => .segment (s.points u a.toNat 3) false))
/-- CSEG.CUB. -/
def execCsegCub (a b : Reg6) (s : State) : Host.Outcome State Fault Refusal :=
  runC s (.csegCub a b) (fun s u => s.sendSegment u b.toNat (s.points u a.toNat 4) false (fun _ _ _ => .segment (s.points u a.toNat 4) false))
/-- CTRI. -/
def execCtri (a b : Reg6) (s : State) : Host.Outcome State Fault Refusal :=
  runC s (.ctri a b) (fun s u => s.sendSegment u b.toNat (s.points u a.toNat 3) false (fun _ _ _ => .segment (s.points u a.toNat 3) true))
/-- CTRI.FRAG. -/
def execCtriFrag (a b : Reg6) (s : State) : Host.Outcome State Fault Refusal :=
  runC s (.ctriFrag a b) (fun s u => s.sendSegment u b.toNat (s.points u a.toNat 3) true
    (fun r nv scr => .frags (s.points u a.toNat 3) (lo32 (s.reg u (a.toNat + 3))) r.shader nv scr))

/-! ## Fragment lanes enter bins (R350) -/

/-- The next fragment lane of a request enters its bin, if one can take it; with the last one the CFILL is answered. -/
def State.fragEnter (s : State) (q : Nat) : Option State :=
  match s.reqs.find q with
  | some (.frags v ctx target nv scr bodies holds) =>
    (match bodies with
      | [] => none
      | b :: rest =>
        let k : BinKey := { target := target, tmpl := 0, ctx := ctx, fpctl := 0, frag := true, nv := nv, scr := scr }
        let r := s.binEnter v k 0 b
        if !r.1 then none
        else if !rest.isEmpty then some { r.2 with reqs := r.2.reqs.put q (.frags v ctx target nv scr rest holds) }
        else
          let s := { r.2 with reqs := r.2.reqs.drop q }
          some (match holds with
            | some (id, l) => (s.setLaneSt id l .perf).answerLane id l
            | none => s))
  | _ => none

/-- A step of a Contour unit: the first lane of a message that its owner has not served and that may be, or a fragment lane. -/
def State.contourStep (s : State) (id : Nat) : State :=
  match s.access id with
  | some a =>
    if a.op.isContour then
      (match a.lanes.find? (fun l => l.st == .pend && s.mayPerform a l) with
        | some l => s.performAnswer id l.lane
        | none => s)
    else s
  | none => (s.fragEnter id).getD s

/-- CONTOUR_MESSAGE. -/
def execContourMessage (msg : Nat) (s : State) : Host.Outcome State Fault Refusal := .next (s.contourStep msg)
/-- CONTOUR_RESOLVE. -/
def execContourResolve (msg : Nat) (s : State) : Host.Outcome State Fault Refusal := .next (s.contourStep msg)
/-- TILE_OPEN. -/
def execTileOpen (req : Nat) (s : State) : Host.Outcome State Fault Refusal := .next (s.contourStep req)
/-- TILE_CLOSE. -/
def execTileClose (req : Nat) (s : State) : Host.Outcome State Fault Refusal := .next (s.contourStep req)
/-- VIEW_TABLE_UPDATE. -/
def execViewTableUpdate (req : Nat) (s : State) : Host.Outcome State Fault Refusal := .next (s.contourStep req)

/-! ## INTERP (R351) -/

/-- a0 + b1 (a1 − a0) + b2 (a2 − a0), exact, rounded once. -/
def interpolate (rm : Nat) (sat : Bool) (a0 a1 a2 b1 b2 : W32) : W32 × FFlags :=
  let v (x : W32) : FVal := fmtF32.value x.toNat
  let d1 := exactSum rm [v a1, (v a0).neg]
  let d2 := exactSum rm [v a2, (v a0).neg]
  let p1 := (v b1).mul d1.1
  let p2 := (v b2).mul d2.1
  let r := sumRound fmtF32 rm sat (d1.2 || d2.2 || p1.2 || p2.2) [v a0, p1.1, p2.1]
  (BitVec.ofNat 32 r.1, r.2)

/-- INTERP: three attributes from v- or k-registers, weights from two v-registers or from the halves of a k-register. -/
def execInterp (f : AForm) (s : State) : Host.Outcome State Fault Refusal :=
  runA s (.interp f) (fun s u =>
    let g := toLA 0x37 f
    match u with
    | .thread _ => .trap s { cause := .wrongEngine }
    | .wave i =>
      let w := s.wave i
      let attr (n l : Nat) : W32 := if g.ka then lo32 (w.kreg (g.a.toNat + n)) else (w.vreg (g.a.toNat + n)).at l
      let wt (n l : Nat) : W32 :=
        if g.kb then (if n = 0 then lo32 (w.kreg g.b.toNat) else hi32 (w.kreg g.b.toNat)) else (w.vreg (g.b.toNat + n)).at l
      s.laneOp u g { a := false, b := false } (fun _ _ _ _ l =>
        interpolate g.rm.toNat g.sat (attr 0 l) (attr 1 l) (attr 2 l) (wt 0 l) (wt 1 l)))

end Sys2Proof.Machine
end

