-- ==== Sys2Proof/Machine/RayMath.lean ====
section
/-! DEFINITION. Box trees, ray records, and the exact box and triangle tests (spec/13 R357 to R362). -/

namespace Sys2Proof.Machine

/-! ## The ray record (R360) -/

/-- STATE; `rest` are its reserved bits. -/
structure WalkSt where
  hfront : Bool
  cfront : Bool
  lcnt : Nat
  lidx : Nat
  pipe : Nat
  phase : Nat
  depth : Nat
  hitv : Bool
  sp : Nat
  rest : Nat := 0
  deriving DecidableEq, Repr

def walkStOf (w : W64) : WalkSt :=
  { hfront := w.getLsbD 30, cfront := w.getLsbD 29, lcnt := bitsOf w 28 24, lidx := bitsOf w 23 20, pipe := bitsOf w 19 16,
    phase := bitsOf w 15 13, depth := bitsOf w 12 8, hitv := w.getLsbD 7, sp := bitsOf w 6 0, rest := bitsOf w 63 31 }

def WalkSt.word (x : WalkSt) : W64 :=
  BitVec.ofNat 64 (x.rest * 2 ^ 31 + (if x.hfront then 2 ^ 30 else 0) + (if x.cfront then 2 ^ 29 else 0) + x.lcnt % 32 * 2 ^ 24
    + x.lidx % 16 * 2 ^ 20 + x.pipe % 16 * 2 ^ 16 + x.phase % 8 * 2 ^ 13 + x.depth % 32 * 2 ^ 8 + (if x.hitv then 2 ^ 7 else 0)
    + x.sp % 128)

/-- A ray record without its stack and payload. A hit is HT, HPRIM, HB1, HB2; a candidate CT, CPRIM, CB1, CB2, or TENTER, TEXIT and
the halves of VAL. -/
structure Ray where
  org : List W32
  tmin : W32
  dir : List W32
  tmax : W32
  root : W64
  flags : W64
  hit : List W32
  cand : List W32
  parent : W64
  st : WalkSt
  curleaf : W64
  pad : W64
  deriving DecidableEq, Repr

def rayOf (ws : List W64) : Ray :=
  let lo (i : Nat) : W32 := lo32 (ws.getD i 0)
  let hi (i : Nat) : W32 := hi32 (ws.getD i 0)
  { org := [lo 0, hi 0, lo 1], tmin := hi 1, dir := [lo 2, hi 2, lo 3], tmax := hi 3, root := ws.getD 4 0, flags := ws.getD 5 0
    hit := [lo 6, hi 6, lo 7, hi 7], cand := [lo 8, hi 8, lo 9, hi 9], parent := ws.getD 10 0, st := walkStOf (ws.getD 11 0)
    curleaf := ws.getD 12 0, pad := ws.getD 13 0 }

/-- The fields that the unit writes, from offset 0x30 on. -/
def Ray.unitWords (r : Ray) : List W64 :=
  let two (l : List W32) (i : Nat) : W64 := join64 (l.getD i 0) (l.getD (i + 1) 0)
  [two r.hit 0, two r.hit 2, two r.cand 0, two r.cand 2, r.parent, r.st.word, r.curleaf, r.pad]

def Ray.opq (r : Ray) : Bool := r.flags.getLsbD 0
def Ray.first (r : Ray) : Bool := r.flags.getLsbD 1

def f32Le (a b : W32) : Bool :=
  let x := fmtF32.value a.toNat
  let y := fmtF32.value b.toNat
  !x.isNan && !y.isNan && !fvLt false y x
def f32Lt (a b : W32) : Bool :=
  let x := fmtF32.value a.toNat
  let y := fmtF32.value b.toNat
  !x.isNan && !y.isNan && fvLt false x y

/-- TCUR. -/
def Ray.tcur (r : Ray) : W32 := if r.st.hitv then r.hit.getD 0 0 else r.tmax

/-- May a hit at `t` be accepted: TMIN ≤ t ≤ TMAX, and nearer than the held hit? -/
def Ray.inRange (r : Ray) (t : W32) : Bool := f32Le r.tmin t && f32Le t r.tmax && (!r.st.hitv || f32Lt t (r.hit.getD 0 0))

/-- Does a ray end at once with MISS (R368)? -/
def Ray.void (r : Ray) : Bool :=
  (finites (r.org ++ r.dir ++ [r.tmin, r.tmax])).isNone || r.dir.all (fun c => c &&& 0x7FFFFFFF == 0) || f32Lt r.tmax r.tmin

/-- Accept and End of R363. -/
def Ray.accept (r : Ray) (c : List W32) (front : Bool) : Ray := { r with hit := c, st := { r.st with hitv := true, hfront := front } }
def Ray.finish (r : Ray) : Ray := { r with st := { r.st with sp := 0, lcnt := 0, phase := 0 } }
/-- The status of an end without a fault of the tree. -/
def Ray.verdict (r : Ray) : Nat := if r.st.hitv then 1 else 0

/-! ## Nodes and the box test (R357, R358, R361) -/

def kindOf (p : W64) : Nat := bitsOf p 63 62

/-- A node's bytes as 16 words. -/
structure Node where
  ws : List W64
  deriving DecidableEq, Repr

def Node.byte (n : Node) (o : Nat) : Nat := (n.ws.getD (o / 8) 0).toNat / 2 ^ (8 * (o % 8)) % 256
def Node.child (n : Node) (i : Nat) : W64 := n.ws.getD (8 + i) 0
def Node.origin (n : Node) : List W32 := [lo32 (n.ws.getD 0 0), hi32 (n.ws.getD 0 0), lo32 (n.ws.getD 1 0)]

/-- Is a node bad? -/
def Node.bad (n : Node) : Bool :=
  [0x0C, 0x0D, 0x0E].any (fun o => n.byte o == 0xFF) || (finites n.origin).isNone
    || (List.range 8).any (fun i =>
      let p := n.child i
      kindOf p != 0 && (bitsOf p 61 55 != 0 || (kindOf p == 1 && bitsOf p 6 0 != 0)))

/-- One axis: the interval of t, or none for a miss; (none, none) stands for the whole line. -/
def axisSpan (lo hi org dir : Rat) : Option (Option (Rat × Rat)) :=
  if dir = 0 then (if lo ≤ org ∧ org ≤ hi then some none else none)
  else
    let a := (lo - org) / dir
    let b := (hi - org) / dir
    some (some (if dir < 0 then (b, a) else (a, b)))

/-- The entry and exit distances of a child's box, if it is hit. -/
def boxTest (n : Node) (i : Nat) (org dir : List Rat) (tmin tcur : Rat) : Option (Rat × Rat) :=
  let o := (finites n.origin).getD []
  let scale (a : Nat) : Rat := mkRat (2 ^ n.byte (0x0C + a) : Nat) (2 ^ 127)
  let l (a : Nat) : Nat := n.byte (0x10 + 6 * i + a)
  let h (a : Nat) : Nat := n.byte (0x13 + 6 * i + a)
  if [0, 1, 2].any (fun a => decide (h a < l a)) then none
  else
    let r := [0, 1, 2].foldl (fun (acc : Option (Rat × Rat)) a =>
      match acc with
      | none => none
      | some (te, tx) =>
        match axisSpan (o.getD a 0 + (l a : Rat) * scale a) (o.getD a 0 + (h a : Rat) * scale a) (org.getD a 0) (dir.getD a 0) with
        | none => none
        | some none => some (te, tx)
        | some (some (t0, t1)) => some (max te t0, min tx t1)) (some (tmin, tcur))
    match r with
    | some (te, tx) => if te ≤ tx then some (te, tx) else none
    | none => none

/-- A stack entry: child pointer, entry and exit distance. -/
def stackEntry (p : W64) (te tx : Rat) : W64 × W64 :=
  (p, join64 (BitVec.ofNat 32 (roundTo fmtF32 3 false (fvalOf te)).1) (BitVec.ofNat 32 (roundTo fmtF32 2 false (fvalOf tx)).1))

/-- Inserts a hit behind those whose entry distance is not greater. -/
def insertHit (x : Rat × Rat × W64) : List (Rat × Rat × W64) → List (Rat × Rat × W64)
  | [] => [x]
  | y :: t => if x.1 < y.1 then x :: y :: t else y :: insertHit x t

/-- The children that a ray hits, sorted by (te, i). A ray with a value that is not finite hits none (log entry 33). -/
def Ray.hits (r : Ray) (n : Node) : List (W64 × W64) :=
  match finites r.org, finites r.dir, finite r.tmin, finite r.tcur with
  | some org, some dir, some tmin, some tcur =>
    let hs := (List.range 8).filterMap (fun i =>
      if kindOf (n.child i) = 0 then none else (boxTest n i org dir tmin tcur).map (fun h => (h.1, h.2, n.child i)))
    (hs.foldl (fun l h => insertHit h l) []).map (fun h => stackEntry h.2.2 h.1 h.2.1)
  | _, _, _, _ => []

/-! ## The triangle test (R359, R362) -/

abbrev Vec3 := Rat × Rat × Rat
def vec (l : List Rat) (i : Nat) : Vec3 := (l.getD i 0, l.getD (i + 1) 0, l.getD (i + 2) 0)
def Vec3.sub (a b : Vec3) : Vec3 := (a.1 - b.1, a.2.1 - b.2.1, a.2.2 - b.2.2)
def Vec3.cross (a b : Vec3) : Vec3 := (a.2.1 * b.2.2 - a.2.2 * b.2.1, a.2.2 * b.1 - a.1 * b.2.2, a.1 * b.2.1 - a.2.1 * b.1)
def Vec3.dot (a b : Vec3) : Rat := a.1 * b.1 + a.2.1 * b.2.1 + a.2.2 * b.2.2

/-- What a triangle that passes yields. -/
structure TriHit where
  fields : List W32
  front : Bool
  opaqueTri : Bool
  deriving DecidableEq, Repr

/-- A triangle's six words against a ray: t, b1 and b2 by Cramer's rule over n = e1 × e2. -/
def Ray.triTest (r : Ray) (ws : List W64) : Option TriHit :=
  let c (i : Nat) : W32 := if i % 2 = 0 then lo32 (ws.getD (i / 2) 0) else hi32 (ws.getD (i / 2) 0)
  match finites ((List.range 9).map c), finites r.org, finites r.dir with
  | some v, some o, some d =>
    let v0 := vec v 0
    let e1 := Vec3.sub (vec v 3) v0
    let e2 := Vec3.sub (vec v 6) v0
    let n := Vec3.cross e1 e2
    let dir := vec d 0
    let s := Vec3.sub (vec o 0) v0
    let dn := Vec3.dot dir n
    if dn = 0 then none
    else
      let t := -(Vec3.dot s n) / dn
      let q := Vec3.cross s dir
      let b1 := -(Vec3.dot e2 q) / dn
      let b2 := Vec3.dot e1 q / dn
      let code (x : Rat) : W32 := BitVec.ofNat 32 (roundTo fmtF32 0 false (fvalOf x)).1
      let front := decide (dn < 0)
      if b1 < 0 ∨ b2 < 0 ∨ 1 < b1 + b2 then none
      else if !r.inRange (code t) then none
      else if (!front && r.flags.getLsbD 2) || (front && r.flags.getLsbD 3) then none
      else some { fields := [code t, c 9, code b1, code b2], front := front, opaqueTri := (c 10).getLsbD 0 }
  | _, _, _ => none

end Sys2Proof.Machine
end

