-- ==== Sys2Proof/Machine/Traverse.lean ====
section
/-! DEFINITION. TRACE, TNEXT, THIT, TIGN, TTERM on ray records, the lone TRACE of a wave, and REPACK (spec/13 R363 to R375). A walk takes
one step of the model for each of its own steps. -/

namespace Sys2Proof.Machine

/-! ## Reading and writing the record (R368, R374) -/

/-- The word of a list that the other side of a link is asked for first. -/
def State.asksWord (s : State) (u : UnitId) : List (W64 × W64) → Option W64 × State
  | [] => (none, s)
  | e :: t =>
    let c := s.unitCtx u
    match xlat s (s.spaceOf u) c (s.ctx c).gen (s.unitPos u) 1 e.1.toNat with
    | .ok place _ _ => let r := s.asksSide c e.1.toNat place true; if r.1 then (some e.1, r.2) else r.2.asksWord u t
    | _ => s.asksWord u t

/-- Writes words, each a plain store of the thread: one that check 1 of R205 refuses traps before any is written; then, once every one of their pages may
be written, all are. A word that may not be waits for its page or for another side's answer, and the instruction begins again (R33, R374). -/
def State.recordWrite (s : State) (u : UnitId) (l : List (W64 × W64)) (f : State → Res) : Res :=
  match l.find? (fun e => s.badAddr u e.1 1) with
  | some e => .trap (s.logViolation u e.1) { cause := .accessViolation, mask := 1, addr := e.1 }
  | none =>
    match l.find? (fun e => (s.writeNow u e.1 []).isNone) with
    | some e => .stall (s.probeWord u .touch 8 e.1)
    | none => match s.asksWord u l with
      | (some a, s) => .stall (s.probeWord u .touch 8 a)
      | (none, s) => f (l.foldl (fun s e => (s.writeNow u e.1 (bytesLE 8 e.2.toNat)).getD s) s)

/-- Is a byte of the first 0x480 bytes beyond what may be sent? -/
def recordFar (a : W64) : Bool := decide (2 ^ 55 ≤ a.toNat + 0x47F)

/-- The checks of step 1 on a record address, and on that of a parent, in the order in which R368 lists them (log entry 49). -/
def State.rayCheck (s : State) (u : UnitId) (a : W64) (parent : W64) (r : Res) : Res :=
  if a.toNat % 128 != 0 then .trap s { cause := .misaligned, addr := a }
  else if recordFar a || s.badAddr u a then s.violation u a
  else if recordFar parent then s.violation u parent
  else r

/-- The record, read after every earlier access of the thread is performed; what is wrong with the operands alone is found before (log entry 49). -/
def State.rayRead (s : State) (u : UnitId) (a parent : W64) (f : State → Ray → Res) (bad : Bool := false) : Res :=
  match s.recordStart u with
  | .error (s, i) => .trap s i
  | .ok s => s.rayCheck u a parent
      (let r := s.settle u (fun _ => true)
      if bad then .trap s { cause := .badOperand }
      else if !r.1 then .stall r.2
      else match r.2.readWords u a 14 with
        | .error r => r
        | .ok (ws, s) => f s (rayOf ws))

/-- The unit's fields that have changed, as stores. -/
def rayWrites (a : W64) (old new : Ray) : List (W64 × W64) :=
  ((old.unitWords.zip new.unitWords).zipIdx).filterMap (fun e =>
    if e.1.1 = e.1.2 then none else some (a + BitVec.ofNat 64 (0x30 + 8 * e.2), e.1.2))

/-- Stack entry `j` as two stores. -/
def entryWrites (a : W64) (j : Nat) (e : W64 × W64) : List (W64 × W64) :=
  let p := a + BitVec.ofNat 64 (0x80 + 16 * j)
  [(p, e.1), (p + 8, e.2)]

/-- D, D + 1 and D + 2 (R367). -/
def rayResults (r : Ray) (status : Nat) : List W64 :=
  let g (l : List W32) (i : Nat) : W32 := l.getD i 0
  let d (front : Bool) (hi : W32) : W64 := join64 (BitVec.ofNat 32 (status + (if front then 16 else 0))) hi
  let two (l : List W32) (i : Nat) : W64 := join64 (g l i) (g l (i + 1))
  match status with
  | 2 => [d r.st.cfront (g r.cand 1), (g r.cand 0).zeroExtend 64, two r.cand 2]
  | 3 => [d false 0, two r.cand 0, two r.cand 2]
  | 0 => [0, 0, 0]
  | _ => if r.st.hitv then [d r.st.hfront (g r.hit 1), (g r.hit 0).zeroExtend 64, two r.hit 2] else [d false 0, 0, 0]

/-! ## One step of a walk (R363) -/

/-- What a step does: the walk goes on, or returns a status; and the entries it pushes from stack place `base` on. -/
inductive WalkOut where
  | next (r : Ray)
  | ret (r : Ray) (status : Nat)

/-- The triangle LIDX of the current leaf. -/
def triStep (r : Ray) (ws : List W64) : WalkOut :=
  let r := { r with st := { r.st with lidx := (r.st.lidx + 1) % 16, lcnt := r.st.lcnt - 1 } }
  match r.triTest ws with
  | none => .next r
  | some h =>
    if r.opq || h.opaqueTri then
      let r := r.accept h.fields h.front
      if r.first then .ret r.finish r.finish.verdict else .next r
    else .ret { r with cand := h.fields, st := { r.st with cfront := h.front, phase := 2 } } 2

/-- A node below the stack's top, popped: the entries it pushes, or the end of the walk. -/
def nodeStep (r : Ray) (n : Node) : WalkOut × List (W64 × W64) :=
  let hs := r.hits n
  if n.bad then (.ret r.finish 5, [])
  else if 64 < r.st.sp + hs.length then (.ret r.finish 4, [])
  else (.next { r with st := { r.st with sp := r.st.sp + hs.length } }, hs.reverse)

/-- An entry that names no node, popped. -/
def leafStep (r : Ray) (p te : W64) : WalkOut :=
  match kindOf p with
  | 2 => .next { r with curleaf := BitVec.ofNat 64 (bitsOf p 54 4 * 16), st := { r.st with lidx := 0, lcnt := bitsOf p 3 0 + 1 } }
  | 3 =>
    let val : W64 := BitVec.ofNat 64 (bitsOf p 54 0)
    .ret { r with cand := [lo32 te, hi32 te, lo32 val, hi32 val], st := { r.st with phase := 3 } } 3
  | _ => .next r

/-- One step: its reads come first; then its outcome with the stores that it makes. The test of a triangle, or of a node that is not bad, counts (R472). -/
def State.walkStep (s : State) (u : UnitId) (a : W64) (r : Ray) : Except Res ((WalkOut × List (W64 × W64)) × State) :=
  if 0 < r.st.lcnt then
    match s.readWords u (r.curleaf + BitVec.ofNat 64 (48 * r.st.lidx)) 6 with
    | .error e => .error e
    | .ok (ws, s) => .ok ((triStep r ws, []), s.countUnit u 0x00A)
  else if r.st.sp = 0 then .ok ((.ret r.finish r.finish.verdict, []), s)
  else
    match s.readWords u (a + BitVec.ofNat 64 (0x80 + 16 * (r.st.sp - 1))) 2 with
    | .error e => .error e
    | .ok (es, s) =>
      let p := es.getD 0 0
      let te := es.getD 1 0
      let r1 : Ray := { r with st := { r.st with sp := r.st.sp - 1 } }
      if f32Lt r.tcur (lo32 te) then .ok ((.next r1, []), s)
      else if kindOf p = 1 then
        match s.readWords u (BitVec.ofNat 64 (bitsOf p 54 7 * 128)) 16 with
        | .error e => .error e
        | .ok (ws, s) =>
          let o := nodeStep r1 ⟨ws⟩
          .ok ((o.1, (o.2.zipIdx).flatMap (fun e => entryWrites a (r1.st.sp + e.2) e.1)), if Node.bad ⟨ws⟩ then s else s.countUnit u 0x00A)
      else .ok ((leafStep r1 p te, []), s)

/-- Goes on with a walk: a step with its stores; the instruction stays in place until the walk returns (R374, R375). -/
def State.walkOn (s : State) (u : UnitId) (d : Nat) (a : W64) (r : Ray) : Res :=
  match s.walkStep u a r with
  | .error e => e
  | .ok ((.next n, es), s) => s.recordWrite u (rayWrites a r n ++ es) (fun s => .stall s)
  | .ok ((.ret n status, es), s) => s.recordWrite u (rayWrites a r n ++ es) (fun s => .done (s.setRegs u d (rayResults n status)))

/-- The instruction is in its walk: it completes as TNEXT does from here on. -/
def State.walking (s : State) (u : UnitId) : State := s.modCom u (fun c => { c with walk := true })

/-- Ends a walk. -/
def State.rayEnd (s : State) (u : UnitId) (d : Nat) (a : W64) (r : Ray) : Res :=
  s.recordWrite u (rayWrites a r r.finish) (fun s => .done (s.setRegs u d (rayResults r.finish r.finish.verdict)))

/-- TNEXT, and a TRACE or TNEXT that goes on (R369, R374). -/
def State.nextHit (s : State) (u : UnitId) (d : Nat) (a : W64) : Res :=
  s.rayRead u a 0 (fun s r =>
    match r.st.phase with
    | 0 => s.rayEnd u d a r
    | 1 => (s.walking u).walkOn u d a r
    | 2 | 3 => s.recordWrite u (rayWrites a r { r with st := { r.st with phase := 1 } }) (fun s => .stall (s.walking u))
    | _ => .trap s { cause := .badOperand })

/-! ## TRACE (R364, R365, R368) -/

/-- The fields of a pipeline register. -/
def Vale.pipe (v : Vale) (n : Nat) : BitVec 25 := v.trpl.getD n 0
def pipeMaxd (x : BitVec 25) : Nat := bitsOf x 7 3
def pipePregs (x : BitVec 25) : Nat := bitsOf x 24 21

/-- A record as TRACE begins it: the U fields 0, PARENT, STATE, and the root on the stack. -/
def Ray.begin (r : Ray) (parent : W64) (pipe depth : Nat) : Ray :=
  { r with
    hit := [0, 0, 0, 0], cand := [0, 0, 0, 0], parent := parent, curleaf := 0, pad := 0
    st := { hfront := false, cfront := false, lcnt := 0, lidx := 0, pipe := pipe, phase := 1, depth := depth, hitv := false, sp := 1 } }

def Ray.rootEntry (r : Ray) : W64 × W64 :=
  (BitVec.ofNat 64 (2 ^ 62) ||| r.root,
    join64 (BitVec.ofNat 32 (roundTo fmtF32 3 false (fmtF32.value r.tmin.toNat)).1) r.tmax)

/-- Every word from 0x30 to 0x47F of a record that TRACE begins. -/
def beginWrites (a : W64) (r : Ray) : List (W64 × W64) :=
  (r.unitWords.zipIdx).map (fun e => (a + BitVec.ofNat 64 (0x30 + 8 * e.2), e.1))
    ++ (List.range 2).map (fun i => (a + BitVec.ofNat 64 (0x70 + 8 * i), (0 : W64)))
    ++ entryWrites a 0 r.rootEntry ++ (List.range 126).map (fun i => (a + BitVec.ofNat 64 (0x90 + 8 * i), (0 : W64)))

/-- TRACE from its start. -/
def State.traceStart (s : State) (u : UnitId) (d : Nat) (a op : W64) : Res :=
  let pipe := (s.vale (s.unitVale u)).pipe (bitsOf op 3 0)
  let parent : W64 := BitVec.ofNat 64 (bitsOf op 54 7 * 128)
  s.rayRead u a parent (bad := pipeMaxd pipe = 0 || bitsOf op 6 4 != 0 || bitsOf op 63 55 != 0) (fun s r =>
    if r.root &&& ~~~(0x7FFFFFFFFFFF80 : W64) != 0 || bitsOf r.flags 63 4 != 0 then .trap s { cause := .badOperand }
    else
      let go (s : State) (depth : Nat) : Res :=
        if pipeMaxd pipe < depth then .trap s { cause := .traceDepth }
        else
          let n := r.begin parent (bitsOf op 3 0) depth
          if n.void then s.recordWrite u (beginWrites a n) (fun s =>
            s.recordWrite u (rayWrites a n n.finish) (fun s => .done (s.setRegs u d (rayResults n.finish 0))))
          else s.recordWrite u (beginWrites a n) (fun s => .stall (s.walking u))
      if parent == 0 then go s 1
      else match s.readWords u (parent + 0x58) 1 with
        | .error e => e
        | .ok (ws, s) => go s ((walkStOf (ws.getD 0 0)).depth + 1))

/-- TRACE. -/
def execTrace (d a b : Reg6) (s : State) : Host.Outcome State Fault Refusal :=
  runC s (.trace d a b) (fun s u => s.atEquipped u (fun s =>
    if (s.com u).walk then s.nextHit u d.toNat (s.reg u a.toNat)
    else s.traceStart u d.toNat (s.reg u a.toNat) (s.reg u b.toNat)))

/-! ## The other record instructions (R369) -/

/-- TNEXT. -/
def execTnext (d a : Reg6) (s : State) : Host.Outcome State Fault Refusal :=
  runC s (.tnext d a) (fun s u => s.atEquipped u (fun s => s.nextHit u d.toNat (s.reg u a.toNat)))

/-- A record whose PHASE is valid. -/
def State.rayOp (s : State) (u : UnitId) (a : W64) (f : State → Ray → Res) : Res :=
  s.atEquipped u (fun s => s.rayRead u a 0 (fun s r => if 4 ≤ r.st.phase then .trap s { cause := .badOperand } else f s r))

/-- THIT: the record afterwards and D. -/
def Ray.take (r : Ray) (b : W64) : Ray × Bool :=
  let close (x : Ray) : Ray := if x.first then x.finish else x
  match r.st.phase with
  | 2 => let x := r.accept r.cand r.st.cfront; (close { x with st := { x.st with phase := 1 } }, true)
  | 3 => if r.inRange (lo32 b) then (close (r.accept [lo32 b, hi32 b, 0, 0] false), true) else (r, false)
  | _ => (r, false)

/-- THIT. -/
def execThit (d a b : Reg6) (s : State) : Host.Outcome State Fault Refusal :=
  runC s (.thit d a b) (fun s u =>
    let p := s.reg u a.toNat
    s.rayOp u p (fun s r =>
      let x := r.take (s.reg u b.toNat)
      s.recordWrite u (rayWrites p r x.1) (fun s => .done (s.setReg u d.toNat (if x.2 then 1 else 0)))))

/-- TIGN. -/
def execTign (a : Reg6) (s : State) : Host.Outcome State Fault Refusal :=
  runC s (.tign a) (fun s u =>
    let p := s.reg u a.toNat
    s.rayOp u p (fun s r =>
      let n := if 2 ≤ r.st.phase then { r with st := { r.st with phase := 1 } } else r
      s.recordWrite u (rayWrites p r n) (fun s => .done s)))

/-- TTERM. -/
def execTterm (d a : Reg6) (s : State) : Host.Outcome State Fault Refusal :=
  runC s (.tterm d a) (fun s u => s.rayOp u (s.reg u a.toNat) (fun s r => s.rayEnd u d.toNat (s.reg u a.toNat) r))

/-! ## Lanes to the Traverse units (R370) -/

/-- The target of a lone TRACE or REPACK, checked before any effect (R103, R409). -/
def State.entryTarget (s : State) (u : UnitId) (off : W32) (f : W64 → Res) : Res :=
  if s.isSup u then .trap s { cause := .badOperand }
  else
    let tgt := s.relTarget u (immOf off)
    if targetBad tgt then s.violation u tgt else f tgt

/-- A lane without a home core gets one: the core it goes to, with its next TID (R78). -/
def State.giveHome (s : State) (t p : Nat) : State :=
  if (s.thread t).tid == 0 then
    let r := s.newTid p
    r.2.modThread t (fun x => { x with tid := r.1 })
  else s

/-- The lanes leave, each for the equipped position of its group of eight. -/
def State.lanesToTrace (s : State) (w tmpl keep : Nat) (tgt : W64) : List (Nat × Nat) → State
  | [] => s
  | (l, p) :: rest =>
    let o := s.laneOut w l tmpl keep tgt
    ((o.2.giveHome o.1 p).sendThread o.1 p false).lanesToTrace w tmpl keep tgt rest

/-- TRACE, lone. -/
def execTraceRidge (tmpl pipe : BitVec 4) (off : W32) (s : State) : Host.Outcome State Fault Refusal :=
  runC s (.traceRidge tmpl pipe off) (fun s u =>
    match u with
    | .thread _ => .trap s { cause := .wrongEngine }
    | .wave i =>
      let x := (s.vale (s.unitVale u)).pipe pipe.toNat
      let ls := Mask.lanes (s.wave i).exec
      let dest := ls.map (fun l => (l, s.equippedFor (s.unitVale u * 32 + 4 * (l / 8) + 3)))
      if pipeMaxd x = 0 then .trap s { cause := .badOperand }
      else if ls.isEmpty then .done s
      else s.entryTarget u off (fun tgt =>
        match s.readHeader u false tgt with
        | .error r => r
        | .ok (_, s) =>
          let r := s.settle u (fun _ => true)
          if !r.1 || !(r.2.wave i).lead.isEmpty then .stall r.2
          else if dest.any (fun e => e.2.isNone) then .trap r.2 { cause := .badOperand }
          else match (r.2.wave i).leak with
            | some t => .trap r.2 t
            | none => ((r.2.lanesToTrace i tmpl.toNat (pipePregs x) tgt (dest.map (fun e => (e.1, e.2.getD 0)))).dropExec i).pathEnd i))

/-! ## REPACK (R371 to R373) -/

/-- RETPOS of a key word; none where it asks for none. -/
def keyRetpos (k : W32) : Option Nat := if k.getLsbD 31 then some (bitsOf k 20 16) else none

/-- The lanes enter their bins in ascending order. -/
def State.lanesToBins (s : State) (w v tmpl : Nat) (tgt : W64) (nv scr : Nat) (key : Nat → W32) : List Nat → State
  | [] => s
  | l :: rest =>
    let k : BinKey := { target := tgt, tmpl := tmpl, ctx := (s.wave w).c.ctx, fpctl := s.laneFpctl w l, frag := false, nv := nv, scr := scr }
    let o := s.laneOut w l tmpl 15 tgt
    let b := ((o.2.vale v).binFor k).getD 0
    let e := o.2.binEnter v k (bitsOf (key l) 15 0) (.thread o.1)
    (e.2.modThread o.1 (fun x => { x with loc := .bin v b, retpos := keyRetpos (key l) })).lanesToBins w v tmpl tgt nv scr key rest

/-- REPACK. -/
def execRepack (d : Reg6) (tmpl : BitVec 4) (off : W32) (s : State) : Host.Outcome State Fault Refusal :=
  runC s (.repack d tmpl off) (fun s u =>
    let key (l : Nat) : W32 := match u with | .thread t => lo32 ((s.thread t).reg d.toNat) | .wave i => s.lreg i l d.toNat
    let ls := match u with | .thread _ => [0] | .wave i => Mask.lanes (s.wave i).exec
    s.entryTarget u off (fun tgt =>
      if ls.isEmpty then .done s
      else if ls.any (fun l => keyRetpos (key l) == some 0) then .trap s { cause := .badOperand }
      else match s.readHeader u true tgt with
        | .error r => r
        | .ok (h, s) =>
          let v := s.unitVale u
          match u with
          | .thread t =>
            let k : BinKey := { target := tgt, tmpl := tmpl.toNat, ctx := (s.com u).ctx, fpctl := (s.com u).fpctl, frag := false,
                                nv := h.1, scr := h.2 }
            s.threadToBin t v k (bitsOf (key 0) 15 0) (keyRetpos (key 0))
          | .wave i =>
            let r := s.settle u (fun _ => true)
            if !r.1 || !(r.2.wave i).lead.isEmpty then .stall r.2
            else match (r.2.wave i).leak with
              | some t => .trap r.2 t
              | none =>
                if !r.2.binTurn v u then .stall (r.2.binWaits v u)
                else (((r.2.binServed v u).lanesToBins i v tmpl.toNat tgt h.1 h.2 key ls).dropExec i).pathEnd i))

end Sys2Proof.Machine
end

