-- ==== Sys2Proof/Machine/Sync.lean ====
section
/-! DEFINITION. Barriers, work ranges and stealing, tasks, SLEEP, WAKE and priority (spec/14 R390 to R401, spec/08 R238, R239). -/

namespace Sys2Proof.Machine

/-- The effect of FENCE, then what follows (R233). -/
def State.withFence (s : State) (u : UnitId) (f : State → Res) : Res :=
  let r := s.settle u (fun _ => true)
  if r.1 then f (r.2.l1Acquire u) else .stall r.2

/-! ## Barriers (R390 to R392) -/

/-- What stops a barrier instruction: a stack on a Ridge engine, a task (`blocks`: the instruction may wait), a thread of no block; a
late group performs only the fence. -/
def State.atBarrier (s : State) (u : UnitId) (blocks : Bool) (f : Nat → Res) : Res :=
  let stack : Bool := match u with | .wave w => !(s.wave w).stack.isEmpty | .thread _ => false
  let late : Bool := match u with | .wave w => (s.wave w).lateRun | .thread _ => false
  if stack then .trap s { cause := .badOperand }
  else if late then s.withFence u .done
  else if s.inTask u then .trap s { cause := if blocks then .blockingInTask else .badOperand }
  else match (s.com u).block with
    | some b => f b
    | none => .trap s { cause := .badOperand }

/-- Arrive (R391): the phase at which the member arrived, or none where the count does not fit. -/
def Bar.arrive (b : Bar) (members bsize : Nat) (cnt : W32) : Option (W32 × Bar) :=
  let n := if cnt = 0 then members else cnt.toNat
  if bsize < n || (decide (0 < b.arr) && n != b.exp) then none
  else
    let b := if b.arr = 0 then { b with exp := n, zero := cnt == 0 } else b
    some (b.ph, ({ b with arr := b.arr + 1 }).advance)

/-- A barrier of a block. -/
def State.bar (s : State) (blk n : Nat) : Bar := (s.block blk).bars.getD n {}

/-- The unit arrives after its earlier accesses: a release (R238). -/
def State.arriveAt (s : State) (u : UnitId) (blk n : Nat) (cnt : W32) (f : W32 → State → Res) : Res :=
  let r := s.settle u (fun _ => true)
  if !r.1 then .stall r.2
  else
    let k := r.2.block blk
    match (r.2.bar blk n).arrive k.members.length k.bsize cnt with
    | none => .trap r.2 { cause := .badOperand }
    | some (p, b) => f p (r.2.setBlock blk { k with bars := k.bars.put n b })

/-- BAR: a FENCE, the arrival, and the wait until its phase is over, which is an acquire (R238). -/
def State.barrier (s : State) (u : UnitId) (n : BitVec 4) (cnt : W32) : Res :=
  match (s.com u).wait with
  | .barrier blk m p =>
    if (s.bar blk m).ph != p then .done ((s.setWait u .none).l1Acquire u) else .stall s
  | _ =>
    s.atBarrier u true (fun blk => s.arriveAt u blk n.toNat cnt (fun p s =>
      let s := s.l1Acquire u
      if (s.bar blk n.toNat).ph != p then .done s else .stall (s.setWait u (.barrier blk n.toNat p))))

/-- BAR (R391). -/
def execBar (n : BitVec 4) (b : Reg6) (s : State) : Host.Outcome State Fault Refusal :=
  runC s (.bar n b) (fun s u => s.barrier u n (lo32 (s.reg u b.toNat)))
/-- BAR, lone. -/
def execBarLone (n : BitVec 4) (cnt : W32) (s : State) : Host.Outcome State Fault Refusal :=
  runC s (.barLone n cnt) (fun s u => s.barrier u n cnt)

/-- BARA: arrives, and does not wait. -/
def State.barrierArrive (s : State) (u : UnitId) (d : Reg6) (n : BitVec 4) (cnt : W32) : Res :=
  s.atBarrier u false (fun blk => s.arriveAt u blk n.toNat cnt (fun p s => .done (s.setReg u d.toNat (p.zeroExtend 64))))

/-- BARA (R391). -/
def execBara (d : Reg6) (n : BitVec 4) (b : Reg6) (s : State) : Host.Outcome State Fault Refusal :=
  runC s (.bara d n b) (fun s u => s.barrierArrive u d n (lo32 (s.reg u b.toNat)))
/-- BARA, lone. -/
def execBaraLone (d : Reg6) (n : BitVec 4) (cnt : W32) (s : State) : Host.Outcome State Fault Refusal :=
  runC s (.baraLone d n cnt) (fun s u => s.barrierArrive u d n cnt)

/-- Has the phase passed a token (R391)? -/
def Bar.passed (b : Bar) (tok : W32) : Bool := decide (1 ≤ (b.ph - tok).toNat) && decide ((b.ph - tok).toNat ≤ 2 ^ 31)

/-- BARW: waits until the phase has passed the token. -/
def State.barrierWait (s : State) (u : UnitId) (n : BitVec 4) (tok : W32) : Res :=
  s.atBarrier u true (fun blk =>
    if (s.bar blk n.toNat).passed tok then .done ((s.setWait u .none).l1Acquire u)
    else .stall (s.setWait u (.barrierTok blk n.toNat tok)))

/-- BARW (R391). -/
def execBarw (n : BitVec 4) (b : Reg6) (s : State) : Host.Outcome State Fault Refusal :=
  runC s (.barw n b) (fun s u => s.barrierWait u n (lo32 (s.reg u b.toNat)))

/-! ## Work ranges (R393 to R396) -/

def rangeWord (lo hi : W32) : W64 := join64 lo hi

/-- RANGE.SET. -/
def execRangeSet (a : Reg6) (s : State) : Host.Outcome State Fault Refusal :=
  runC s (.rangeSet a) (fun s u =>
    let x := s.reg u a.toNat
    .done (s.modCom u (fun c => { c with lo := lo32 x, hi := if hi32 x < lo32 x then lo32 x else hi32 x })))

/-- RANGE.GET. -/
def execRangeGet (d : Reg6) (s : State) : Host.Outcome State Fault Refusal :=
  runC s (.rangeGet d) (fun s u => .done (s.setReg u d.toNat (rangeWord (s.com u).lo (s.com u).hi)))

/-- RANGE.NEXT takes up to `cnt` indices, at least one where there is one. -/
def State.rangeTake (s : State) (u : UnitId) (d : Reg6) (cnt : W32) : State :=
  let c := s.com u
  let n : W32 := BitVec.ofNat 32 (min (max cnt.toNat 1) (c.hi - c.lo).toNat)
  (s.modCom u (fun c => { c with lo := c.lo + n })).setReg u d.toNat (rangeWord c.lo n)

/-- RANGE.NEXT. -/
def execRangeNext (d b : Reg6) (s : State) : Host.Outcome State Fault Refusal :=
  runC s (.rangeNext d b) (fun s u => .done (s.rangeTake u d (lo32 (s.reg u b.toNat))))
/-- RANGE.NEXT, lone. -/
def execRangeNextLone (d : Reg6) (cnt : W32) (s : State) : Host.Outcome State Fault Refusal :=
  runC s (.rangeNextLone d cnt) (fun s u => .done (s.rangeTake u d cnt))

/-- `n` counted from the place after `own`, wrapping at `size`. -/
def afterOwn (own n size : Nat) : Nat := (n + size - own % size - 1) % size

/-- Where a victim comes in a thief's order (R395): position and slot of a thread's home slot. -/
def threadOrder (own victim : Nat × Nat) : Nat :=
  let (p, k) := own
  let (q, n) := victim
  if q = p then afterOwn k n 8
  else if q / 8 = p / 8 then 2 ^ 40 + afterOwn p q 8 * 8 + n
  else if q / 32 = p / 32 then 2 ^ 41 + (afterOwn (p / 8) (q / 8) 4 * 8 + q % 8) * 8 + n
  else 2 ^ 42 + meshDistance (p / 32) (q / 32) * 2 ^ 20 + q * 8 + n

/-- Where a wave comes in a wave's order: engine and slot. -/
def waveOrder (own victim : Nat × Nat) : Nat :=
  let (e, k) := own
  let (f, n) := victim
  if f = e then afterOwn k n 32
  else if f / 4 = e / 4 then 2 ^ 41 + afterOwn e f 4 * 32 + n
  else 2 ^ 42 + meshDistance (e / 4) (f / 4) * 2 ^ 20 + f * 32 + n

def insertBy (x : Nat × UnitId) : List (Nat × UnitId) → List (Nat × UnitId)
  | [] => [x]
  | y :: t => if x.1 < y.1 then x :: y :: t else y :: insertBy x t
def sortBy : List (Nat × UnitId) → List (Nat × UnitId)
  | [] => []
  | x :: t => insertBy x (sortBy t)

/-- Is the wave in the Cirque store or on its way to or from it? -/
def State.swappedOut (s : State) (w : Wave) : Bool :=
  match w.c.block with
  | some b => (match (s.block b).swap with | .res | .prk => false | _ => true)
  | none => false

/-- The victims of a thief, in order: its grid, its kind, its die (R395). -/
def State.victims (s : State) (u : UnitId) : List UnitId :=
  match (s.com u).grid with
  | none => []
  | some g =>
    match u with
    | .thread i =>
      let t := s.thread i
      if t.task.isSome then [] else
      let own := t.home.getD (t.pos, t.slotn)
      (sortBy (s.threads.filterMap (fun e => match e.2.home with
        | some h => if e.1 != i && e.2.c.grid == some g && h.1 / 768 == own.1 / 768 then some (threadOrder own h, UnitId.thread e.1) else none
        | none => none))).map Prod.snd
    | .wave i =>
      let w := s.wave i
      (sortBy (s.waves.filterMap (fun e =>
        if e.1 != i && e.2.c.grid == some g && e.2.eng / 96 == w.eng / 96 && !s.swappedOut e.2
        then some (waveOrder (w.eng, w.slot) (e.2.eng, e.2.slot), UnitId.wave e.1) else none))).map Prod.snd

/-- Does a probe find its victim: not one that has ended, nor a wave that has been swapped out since the probe was sent (R395)? -/
def State.robbable (s : State) (v : UnitId) : Bool :=
  s.unitExists v && (match v with | .wave w => !s.swappedOut (s.wave w) | .thread _ => true)

/-- One steal at a victim, in one step (R394): the thief takes the upper half of what is left, the victim keeps the odd index. -/
def State.stealFrom (s : State) (thief v : UnitId) : Option State :=
  let c := s.com v
  let m := (c.hi - c.lo).toNat
  if !s.robbable v || m < 2 then none
  else
    let mid := c.lo + BitVec.ofNat 32 ((m + 1) / 2)
    some ((s.modCom v (fun c => { c with hi := mid })).modCom thief (fun t => { t with lo := mid, hi := c.hi }))

/-- The probes of a STEAL all at once. -/
def State.probeAll (s : State) (thief : UnitId) : List UnitId → Option State
  | [] => none
  | v :: t => match s.stealFrom thief v with
    | some s => some s
    | none => s.probeAll thief t

/-- STEAL; choice 1 sends its probes one by one (log entry 1). -/
def State.stealRange (s : State) (u : UnitId) (d : Reg6) (probes : Nat) : Res :=
  let c := s.com u
  if c.lo < c.hi then .done (s.setReg u d.toNat 2)
  else
    let vs := (s.victims u).take (if probes = 0 then 8 else probes)
    let ch := s.choose 2
    if ch.1 = 1 then
      let i := ch.2.newId
      .stall (({ i.2 with reqs := i.2.reqs.put i.1 (.steal u vs d) }).setWait u (.steal i.1))
    else match ch.2.probeAll u vs with
      | some t => .done (t.setReg u d.toNat 1)
      | none => .done (ch.2.setReg u d.toNat 0)

/-- STEAL. -/
def execSteal (d b : Reg6) (s : State) : Host.Outcome State Fault Refusal :=
  runC s (.steal d b) (fun s u => s.stealRange u d (bitsOf (s.reg u b.toNat) 7 0))
/-- STEAL, lone. -/
def execStealLone (d : Reg6) (probes : BitVec 8) (s : State) : Host.Outcome State Fault Refusal :=
  runC s (.stealLone d probes) (fun s u => s.stealRange u d probes.toNat)

/-- STEAL_REQUEST: a probe reaches its victim; the first grant, or the last refusal, answers the thief. -/
def execStealRequest (req : Nat) (s : State) : Host.Outcome State Fault Refusal :=
  .next (match s.reqs.find req with
    | some (.steal u vs d) =>
      let fin (s : State) (x : W64) : State := (({ s with reqs := s.reqs.drop req }).setReg u d.toNat x).setOwnWait u (.answered false)
      (match vs with
        | [] => fin s 0
        | v :: t => match s.stealFrom u v with
          | some s => fin s 1
          | none => if t.isEmpty then fin s 0 else { s with reqs := s.reqs.put req (.steal u t d) })
    | _ => s)

/-! ## Words at their homes -/

/-- A word is read at its home: its translation and its line there are in use, and a single-bit error is corrected (R23, R426, R466). -/
def State.usedWord (s : State) (u : UnitId) (a : W64) (place : Nat) : State :=
  ((s.useEntry (s.spaceOf u) (s.unitCtx u) a.toNat).correct place 8 (s.ctxFunc (s.unitCtx u))).homeUse (s.spaceOf u) (s.unitCtx u) (s.unitPos u) a.toNat place

/-- An access of 8 bytes that the home answers in one step with what the instruction does there, after the unit's earlier accesses that
R227 orders before it; the page is translated for a read. -/
def State.atWord (s : State) (u : UnitId) (a : W64) (n : Nat) (f : Nat → State → Res) : Res :=
  match s.recordStart u with
  | .error (s, i) => .trap s i
  | .ok s =>
    let r := s.settle u (s.meetsRecord u a 1)
    if !r.1 then .stall r.2
    else
      let s := r.2
      let c := s.unitCtx u
      match xlat s (s.spaceOf u) c (s.ctx c).gen (s.unitPos u) 0 a.toNat with
      | .ok place _ _ => if s.badRead place n then .stall (s.probeWord u (.load false) 8 a) else f place (s.usedWord u a place)
      | _ => .stall (s.probeWord u (.load false) 8 a)

/-- A unit joins the waiters on a word (R399, R400). -/
def State.addWaiter (s : State) (u : UnitId) (place : Nat) : State :=
  { s with waiters := s.waiters ++ [⟨wordOf place, u, none⟩] }
def State.dropWaiter (s : State) (u : UnitId) : State :=
  { s with waiters := s.waiters.filter (fun w => !(w.unit == u && w.lane.isNone)) }

/-! ## WAKE (R400) -/

/-- A released waiter: a SLEEP gives 0, an LWAIT reads its word again. -/
def State.release (s : State) (u : UnitId) : State :=
  let s := s.dropWaiter u
  match s.ownWait u with
  | .sleep d => (s.setReg u d.toNat 0).setOwnWait u (.answered true)
  | .lwait ea d next _ => s.setOwnWait u (.lwait ea d next true)
  | _ => s

/-- The dependence words of grids that lie on the `n` bytes from a place are read now (R381). -/
def State.pokeGrids (s : State) (place n : Nat) : State :=
  { s with grids := s.grids.map (fun e =>
      let at_ (a : W64) : Bool := match xlat s .virt e.2.ctx (s.ctx e.2.ctx).gen 0 0 a.toNat with
        | .ok q _ _ => decide (wordOf place ≤ wordOf q) && decide (q < place + n)
        | _ => false
      if e.2.ready.isNone && e.2.deps.any (fun d => at_ d.1) then (e.1, { e.2 with pollAt := s.time }) else e) }

/-- A WAKE at its home: the oldest `cnt` waiters, all for 0; the number released. -/
def State.wakeWord (s : State) (place cnt : Nat) : Nat × State :=
  let ws := (s.waiters.filter (fun w => w.key == wordOf place && w.lane.isNone)).map Waiter.unit
  let rs := if cnt = 0 then ws else ws.take cnt
  (rs.length, (rs.foldl State.release s).pokeGrids place 8)

/-- WAKE. -/
def State.wakeUnits (s : State) (u : UnitId) (d a : Reg6) (cnt : Nat) : Res :=
  let ea := s.reg u a.toNat
  s.memCheck u (s.spaceOf u) 8 [(0, ea)]
    (s.withFence u (fun s => s.atWord u ea 0 (fun place s =>
      let r := s.wakeWord place cnt
      .done (r.2.setReg u d.toNat (BitVec.ofNat 64 r.1)))))

/-- WAKE, its count in a register. -/
def execWake (d a b : Reg6) (s : State) : Host.Outcome State Fault Refusal :=
  runC s (.wake d a b) (fun s u => s.wakeUnits u d a (s.reg u b.toNat).toNat)
/-- WAKE, lone. -/
def execWakeLone (d a : Reg6) (cnt : W32) (s : State) : Host.Outcome State Fault Refusal :=
  runC s (.wakeLone d a cnt) (fun s u => s.wakeUnits u d a cnt.toNat)

/-! ## SLEEP (R399) -/

/-- The tick at which the limit of an instruction ends, counted from its issue (R388, R399, R405). -/
def State.limitAt (s : State) (u : UnitId) (limit : Option W32) : Option Nat :=
  limit.map (fun l => (s.com u).until_.getD (s.time + l.toNat))

/-- SLEEP: 1 where the word has changed, 2 where a limit of 0 would have to wait; else the unit parks as a waiter on the word. -/
def State.sleepOn (s : State) (u : UnitId) (d a b : Reg6) (limit : Option W32) : Res :=
  if s.inTask u then .trap s { cause := .blockingInTask }
  else
    let ea := s.reg u a.toNat
    let s := s.modCom u (fun c => { c with until_ := s.limitAt u limit })
    s.memCheck u (s.spaceOf u) 8 [(0, ea)]
      (s.atWord u ea 8 (fun place s =>
        if BitVec.ofNat 64 (s.rd place 8) != s.reg u b.toNat then .done ((s.setReg u d.toNat 1).l1Acquire u)
        else if limit == some 0 then .done ((s.setReg u d.toNat 2).l1Acquire u)
        else .gone ((s.addWaiter u place).park u (.sleep d))))

/-- SLEEP. -/
def execSleep (d a b : Reg6) (s : State) : Host.Outcome State Fault Refusal :=
  runC s (.sleep d a b) (fun s u => s.sleepOn u d a b none)
/-- SLEEP, lone. -/
def execSleepLone (d a b : Reg6) (limit : W32) (s : State) : Host.Outcome State Fault Refusal :=
  runC s (.sleepLone d a b limit) (fun s u => s.sleepOn u d a b (some limit))

/-- Has the limit of a unit's wait passed? -/
def State.limitPassed (s : State) (u : UnitId) : Bool := (s.com u).until_.any (fun t => decide (t ≤ s.time))

/-- Does the limit of a unit's wait end it now? It counts while the unit's partition runs (R388, R399, R405). -/
def State.limitEnds (s : State) (u : UnitId) : Bool := s.limitPassed u && !s.limitPaused u

/-- SLEEP_TIMEOUT: the waiter is withdrawn, and D is 2. -/
def execSleepTimeout (u : UnitId) (s : State) : Host.Outcome State Fault Refusal :=
  .next (match s.ownWait u with
    | .sleep d => if s.limitEnds u then ((s.dropWaiter u).setReg u d.toNat 2).setOwnWait u (.answered true) else s
    | _ => s)

/-! ## TASK and TEND (R398) -/

/-- Sends a holding access and goes on with `next` once it is over. -/
def State.sendThen (s : State) (u : UnitId) (a : Access) (next : State → Res) : Res :=
  let r := s.issue a
  match r.2.access r.1 with
  | some b => if b.complete && !b.failed then next (r.2.dropAccess r.1) else .stall (r.2.setWait u (.hold r.1))
  | none => next r.2

/-- An atomic add of 1 to a join word, or of −1 (`down`), which its second operand marks. -/
def State.joinAccess (s : State) (u : UnitId) (j : W64) (down : Bool) : Access :=
  s.memAccess u (s.spaceOf u) (.atom 0 false true) 8 .none true false
    [{ lane := 0, ea := j, data := if down then BitVec.allOnes 64 else 1, data2 := if down then 1 else 0 }]

def Access.first (a : Access) : ALane := a.lanes.head?.getD { lane := 0, ea := 0 }

/-- The last part of TASK: a message that was refused counts the task out again. -/
def State.taskDown (s : State) (u : UnitId) (status j : W64) : Res :=
  if status == 0 || j == 0 then .done s else s.sendThen u (s.joinAccess u j true) .done

/-- The message of a TASK, and what follows its status. -/
def State.taskSend (s : State) (u : UnitId) (m : Access) (j : W64) : Res :=
  let r := s.issue m
  match r.2.access r.1 with
  | none => .done r.2
  | some b =>
    if !b.complete || b.failed then .stall (r.2.setWait u (.hold r.1)) else (r.2.dropAccess r.1).taskDown u b.first.data j

/-- The message of a TASK at its first sending. -/
def State.taskMsg (s : State) (u : UnitId) (d a b : Reg6) : Access :=
  let x := s.reg u a.toNat
  let w (i : Nat) : W64 := s.reg u (b.toNat + i)
  s.sendMsg u d (bitsOf x 19 8) 2 (bitsOf x 7 0) [w 0, w 1, w 2] true

/-- TASK with no access under way: the count goes in before the message is sent. -/
def State.taskBegin (s : State) (u : UnitId) (d a b : Reg6) : Res :=
  let j := s.reg u (b.toNat + 2)
  if 3071 < bitsOf (s.reg u a.toNat) 19 8 then .trap s { cause := .accessViolation }
  else if j == 0 then s.after u (fun _ => false) (fun s => s.taskSend u (s.taskMsg u d a b) 0)
  else s.memCheck u (s.spaceOf u) 8 [(0, j)]
    (s.after u (fun x => x.op.isLoad) (fun s => s.sendThen u (s.joinAccess u j false) (fun s => s.taskSend u (s.taskMsg u d a b) j)))

/-- The join address that a TASK's message carries. -/
def msgJoin (ws : List W64) : W64 := ws.getD 4 0

/-- TASK goes on after the access that it waited for. -/
def State.taskNext (s : State) (u : UnitId) (d a b : Reg6) (h : Access) : Res :=
  match h.op with
  | .send ws => s.taskDown u h.first.data (msgJoin ws)
  | _ => if h.first.data2 == 1 then .done s else s.taskSend u (s.taskMsg u d a b) h.first.ea

/-- TASK repeats the access whose error a resume passes (R505). -/
def State.taskAgain (s : State) (u : UnitId) (d a b : Reg6) (h : Access) : Res :=
  match h.op with
  | .send ws => s.taskSend u { h with lanes := [{ h.first with st := .pend }] } (msgJoin ws)
  | _ => if h.first.data2 == 1 then s.sendThen u (s.joinAccess u h.first.ea true) .done else s.taskBegin u d a b

/-- An instruction of several holding accesses: waits for the one under way, or traps for its error, or goes on. -/
def State.phases (s : State) (u : UnitId) (begin_ : Res) (again next : State → Access → Res) : Res :=
  match s.heldAccess u with
  | some h =>
    if !h.complete then .stall s
    else
      let s := (s.dropAccess h.id).setWait u .none
      if h.failed then .trap (s.modCom u (fun c => { c with redo := some h })) h.errTrap else next s h
  | none => match (s.com u).redo with
    | some h => again (s.modCom u (fun c => { c with redo := none })) h
    | none => begin_

/-- TASK. -/
def execTask (d a b : Reg6) (s : State) : Host.Outcome State Fault Refusal :=
  runC s (.task d a b) (fun s u =>
    s.phases u (s.taskBegin u d a b) (fun s h => s.taskAgain u d a b h) (fun s h => s.taskNext u d a b h))

/-- TEND after its decrement: the WAKE, then EXIT with code 0. -/
def State.tendWake (s : State) (u : UnitId) (ea : W64) : Res :=
  s.atWord u ea 0 (fun place s => (s.wakeWord place 0).2.exitUnit u 0)

/-- TEND's decrement, a release. A wave whose EXIT would trap for its tiles traps before anything is done. -/
def State.tendBegin (s : State) (u : UnitId) (ea : W64) : Res :=
  let leak : Option TrapInfo := match u with | .wave i => (s.wave i).leak | .thread _ => none
  match leak with
  | some i => .trap s i
  | none =>
    if ea == 0 then s.exitUnit u 0
    else s.memCheck u (s.spaceOf u) 8 [(0, ea)]
      (s.after u (fun _ => true) (fun s => s.sendThen u (s.joinAccess u ea true) (fun s => s.tendWake u ea)))

/-- TEND. -/
def execTend (a : Reg6) (s : State) : Host.Outcome State Fault Refusal :=
  runC s (.tend a) (fun s u =>
    let ea := s.reg u a.toNat
    let isAtom (h : Access) : Bool := match h.op with | .atom .. => true | _ => false
    s.phases u (s.tendBegin u ea)
      (fun s h => if isAtom h then s.tendBegin u ea else s.tendWake u ea) (fun s _ => s.tendWake u ea))

/-! ## Priority (R401) -/

/-- PRIO: the old priority to D; the new one is at most the cap. -/
def State.setPrio (s : State) (u : UnitId) (d : Reg6) (level : BitVec 2) : State :=
  let old := (s.com u).prio
  (s.modCom u (fun c => { c with prio := if c.cap < level then c.cap else level })).setReg u d.toNat (old.zeroExtend 64)

/-- PRIO. -/
def execPrio (d a : Reg6) (s : State) : Host.Outcome State Fault Refusal :=
  runC s (.prio d a) (fun s u => .done (s.setPrio u d ((s.reg u a.toNat).truncate 2)))
/-- PRIO, lone. -/
def execPrioLone (d : Reg6) (level : BitVec 2) (s : State) : Host.Outcome State Fault Refusal :=
  runC s (.prioLone d level) (fun s u => .done (s.setPrio u d level))

end Sys2Proof.Machine
end

