-- ==== Sys2Proof/Machine/Grids.lean ====
section
/-! DEFINITION. Grids: launch records, LAUNCH and LWAIT, dependences, retirement, and what the device's own reads and writes do at their
homes (spec/14 R379 to R388). -/

namespace Sys2Proof.Machine

/-! ## Reads and writes of the device's own -/

/-- What an access of a controller meets: a place, an error response, or a wait for a walk or a reply. -/
inductive Ctl where
  | ok (s : State) (place cls grain : Nat)
  | err (s : State)
  | wait (s : State) (w : PageWait)

/-- A translated access of `n` bytes at its home: a bad word read is an error response, logged; a corrected one is logged; the host or a peer may
answer with an error (R458, R466, R467; log entry 1). -/
def State.controlAt (s : State) (c kind n : Nat) (a : W64) (place cls grain : Nat) : Ctl :=
  let s := s.useEntry .virt c a.toNat
  let reads := kind == 0 || kind == 3
  let out := placeOut place && (if kind == 0 then (s.homesOf place).isEmpty else kind == 3 || s.domOf c a.toNat == 3)
  let ch := if out then s.choose 2 else (0, s)
  if ch.1 = 1 then .err ch.2
  else if reads && s.badRead place n then .err (ch.2.badWord (s.ctxFunc c) none a place)
  else .ok ((if reads then ch.2.correct place n (s.ctxFunc c) else ch.2).homeUseBy none .virt c 0 a.toNat place) place cls grain

/-- A controller's access of `n` bytes in a context, of a kind of R422. -/
def State.control (s : State) (c : Nat) (gen : W32) (kind : Nat) (a : W64) (n : Nat := 8) : Ctl :=
  if addrBad true a then .err s
  else match xlat s .virt c gen 0 kind a.toNat with
    | .ok place cls grain => s.controlAt c kind n a place cls grain
    | .error => .err s
    | .miss cache => .wait (s.startWalk cache c a.toNat kind) { walk := some (cache, a.toNat) }
    | .fault sub =>
      let cache := if inPlateau a.toNat then 192 + windowPos a.toNat / 32 else s.sliceOf c a.toNat
      let r := s.openFault (cacheDie cache) c a (BitVec.ofNat 4 (2 ^ kind)) sub (cacheSrc cache) 1
      .wait r.2 (match r.1 with | some t => { tok := some t } | none => { walk := some (cache, a.toNat) })

/-- Is what it waited for over? -/
def State.pageReady (s : State) (c : Nat) (w : PageWait) : Bool :=
  w.tok.all (fun t => !s.faults.any (fun f => f.token == t)) && w.walk.all (fun p => s.walkReady p.1 c p.2)

/-- The unit that a die's launch controller logs under (R461). -/
def launchSrc (die : Nat) : Nat := srcNum die 31 0 15

/-! ## Launch records (R379) -/

/-- The fields of a launch record; `clean`: every reserved bit is 0. -/
structure LaunchRec where
  entry : W64
  args : W64
  cpl : W64
  deps : List (W64 × W64)
  nblk : Nat
  bsize : Nat
  ridge : Bool
  regs : Nat
  scr : Nat
  acc : Nat
  prio : BitVec 2
  order : Bool
  fpctl : BitVec 6
  vmask : BitVec 24
  clean : Bool

/-- The record in its sixteen words. -/
def launchRec (ws : List W64) : LaunchRec :=
  let w (i : Nat) : W64 := ws.getD i 0
  { entry := w 0, args := w 1, cpl := w 2, deps := [(w 3, w 4), (w 5, w 6)], nblk := bitsOf (w 7) 31 0, bsize := bitsOf (w 8) 6 0,
    ridge := (w 8).getLsbD 7, regs := bitsOf (w 8) 12 8, scr := bitsOf (w 8) 22 13, acc := bitsOf (w 8) 31 23,
    prio := (w 8).extractLsb' 32 2, order := (w 8).getLsbD 34, fpctl := (w 9).truncate 6, vmask := (w 10).truncate 24,
    clean := bitsOf (w 7) 63 32 == 0 && bitsOf (w 8) 63 35 == 0 && bitsOf (w 9) 63 6 == 0 && bitsOf (w 10) 63 24 == 0
      && (ws.drop 11).all (· == 0) }

/-- Are the sizes in range for the kind, and the block no larger than an engine? -/
def LaunchRec.sizesOk (r : LaunchRec) : Bool :=
  decide (1 ≤ r.nblk) && decide (r.nblk ≤ 0x7FFFFFFF) && decide (1 ≤ r.bsize) &&
  (if r.ridge then
    decide (r.bsize ≤ 16) && decide (1 ≤ r.regs) && decide (r.regs ≤ 16) && decide (r.scr ≤ 512) && decide (r.acc ≤ 384)
      && decide (r.bsize * 16 * r.regs ≤ 2048) && decide (scratchNeed (r.scr * 512) r.bsize ≤ 0x40000)
  else decide (r.bsize ≤ 64) && r.regs == 0 && r.acc == 0 && decide (r.scr ≤ 64))

/-- The Vales of a die under VMASK, of those that `has` names; 0 names them all. -/
def valesNamed (die : Nat) (vmask : BitVec 24) (has : Nat → Bool) : List Nat :=
  ((List.range 24).map (fun v => die * 24 + v)).filter (fun v => has v && (vmask == 0 || vmask.getLsbD (v % 24)))

/-- The Vales of a die that a function holds now, under VMASK. -/
def State.gridVales (s : State) (fn die : Nat) (vmask : BitVec 24) : List Nat := valesNamed die vmask (s.holdsVale fn)

/-- SBLK: the first unit of the range, and its units below bank offset 0x3E000 (R506). -/
def Vale.areaRange (v : Vale) : Nat × Nat :=
  let lo := bitsOf v.sblk 8 0
  (lo, min (bitsOf v.sblk 24 16) (0x1F0 - lo))

/-- The checks of R386 on a record, in order. The Vales left are those of the partition, with those on which another function runs at the moment
(R439); each can hold a spur block that its own range of block areas has room for (R506). -/
def State.launchCheck (s : State) (fn die : Nat) (r : LaunchRec) : Option Cause :=
  let as := r.deps.map Prod.fst
  let vales := valesNamed die r.vmask (s.ownVale fn)
  if r.entry.toNat % 64 != 0 || r.cpl.toNat % 64 != 0 || as.any (fun a => a.toNat % 8 != 0) then some .misaligned
  else if ([r.entry, r.cpl] ++ as).any (fun a => decide (2 ^ 55 ≤ a.toNat)) then some .accessViolation
  else if !r.clean || !r.sizesOk || vales.isEmpty || (!r.ridge && vales.all (fun v => decide ((s.valeOf fn v).areaRange.2 < r.scr)))
  then some .badOperand
  else none

/-! ## Grids -/

/-- Enters a grid: its key and the state. Its serial rises on its die, past 0xFFFFFFFF to 1 (R386). -/
def State.enterGrid (s : State) (die ctx : Nat) (r : LaunchRec) (prio : BitVec 2) (depth : Nat) (parent prev : Option Nat)
    (page : Option (Nat × Nat × W32)) (pool : Option Bool) : Nat × State :=
  let d := s.die die
  let i := s.newId
  let g : Grid :=
    { die := die, serial := d.serial, ctx := ctx, entry := r.entry, args := r.args, cpl := r.cpl,
      deps := r.deps.filter (fun e => e.1 != 0), nblk := r.nblk, bsize := r.bsize, ridge := r.ridge, regs := r.regs,
      scr := r.scr * 512, acc := r.acc, prio := prio, order := r.order, fpctl := r.fpctl, vmask := r.vmask, depth := depth,
      parent := parent, prev := prev, page := page, pool := pool, pollAt := s.time }
  (i.1, (i.2.setDie die { d with serial := if d.serial = 0xFFFFFFFF then 1 else d.serial + 1 }).setGrid i.1 g)

/-! ## LAUNCH (R386, R387) -/

/-- Depths of the LAUNCHes parked on a die's queue. -/
def State.parkedDepths (s : State) (die : Nat) : List (UnitId × Nat) :=
  (s.die die).launchq.map (fun u => (u, s.launchDepth u))

/-- The entry that a LAUNCH of depth `c` may take: shared if one is free, else one of its depth. -/
def Die.freeFor (d : Die) (c : Nat) : Option Bool :=
  if d.shared < 3456 then some true else if d.reserved.getD c 0 < 64 then some false else none

def State.takeEntry (s : State) (u : UnitId) (c : Nat) (shared : Bool) : State :=
  (s.modDie (s.unitDie u) (fun d => if shared then { d with shared := d.shared + 1 }
    else { d with reserved := d.reserved.put c (d.reserved.getD c 0 + 1) })).modCom u (fun k => { k with granted := some shared })

/-- A free entry goes to the parked LAUNCH of the greatest depth that can use it, to the first among equals; not to one whose partition is switched
out (R387, R405). -/
def State.bestLaunch (s : State) (die : Nat) : Option (UnitId × Nat × Bool) :=
  ((s.parkedDepths die).filter (fun e => !(s.com e.1).away)).foldl (fun best e =>
    match (s.die die).freeFor e.2 with
    | none => best
    | some sh => match best with
      | some b => if b.2.1 < e.2 then some (e.1, e.2, sh) else best
      | none => some (e.1, e.2, sh)) none

/-- The parked LAUNCH takes its entry. -/
def State.grantLaunch (s : State) (die : Nat) : State :=
  match s.bestLaunch die with
  | some (u, c, sh) => (s.takeEntry u c sh).modDie die (fun d => { d with launchq := d.launchq.filter (· != u) })
  | none => s

/-- LAUNCHQ_GRANT. -/
def execLaunchqGrant (die : Nat) (s : State) : Host.Outcome State Fault Refusal := .next (s.grantLaunch die)

/-- Every parked LAUNCH that an entry is free for takes one, `n` at most. -/
def State.grantLaunches (s : State) (die : Nat) : Nat → State
  | 0 => s
  | n + 1 => (s.grantLaunch die).grantLaunches die n

/-- A LAUNCH that holds its entry: the FENCE, the record, the checks, the grid. An address in the record that may not be sent is logged by the record's
own (log entry 115). -/
def State.launchGo (s : State) (u : UnitId) (d : Reg6) (p : W64) (c : Nat) : Res :=
  (s.setWait u (match (s.com u).wait with | .hold id => .hold id | _ => .none)).withFence u (fun s =>
    match s.record u p 16 with
    | .error (.trap t i) => .trap (t.returnLaunch u) i
    | .error r => r
    | .ok (ws, s) =>
      let r := launchRec ws
      let die := s.unitDie u
      match s.launchCheck (s.unitFunc u) die r with
      | some x => .trap ((if x == .accessViolation then s.logViolation u p else s).returnLaunch u) { cause := x }
      | none =>
        let k := s.com u
        let cap : BitVec 2 := match k.grid with | some g => (s.grid g).prio | none => 3
        let g := s.enterGrid die (s.unitCtx u) r (if cap < r.prio then cap else r.prio) c k.grid k.lastGrid none k.granted
        let s := g.2.modCom u (fun k => { k with granted := none, lastGrid := some g.1 })
        .done (s.setReg u d.toNat ((s.grid g.1).serial.zeroExtend 64)))

/-- LAUNCH. -/
def State.launchOp (s : State) (u : UnitId) (d : Reg6) (p : W64) : Res :=
  let formed : Bool := match u with | .wave i => (s.wave i).kind != .launched | .thread _ => false
  let c := s.launchDepth u
  if formed then .trap s { cause := .badOperand }
  else if 11 ≤ c then .trap s { cause := .launchDepth }
  else if p.toNat % 128 != 0 then .trap s { cause := .misaligned, addr := p }
  else if 2 ^ 55 ≤ p.toNat then .trap (s.logViolation u p) { cause := .accessViolation, addr := p }
  else if (s.com u).granted.isSome then s.launchGo u d p c
  else
    let die := s.unitDie u
    -- entries that have come free go to the parked LAUNCHes first
    let s := s.grantLaunches die (s.die die).launchq.length
    match (s.die die).freeFor c with
    | some sh => (s.takeEntry u c sh).launchGo u d p c
    | none => .gone ((s.modDie die (fun x => { x with launchq := x.launchq ++ [u] })).park u (.launchq c))

/-- LAUNCH (R386). -/
def execLaunch (d a : Reg6) (s : State) : Host.Outcome State Fault Refusal :=
  runC s (.launch d a) (fun s u => s.launchOp u d (s.reg u a.toNat))

/-! ## LWAIT (R388) -/

/-- LWAIT: the exit code once DONE is not 0, all ones once the limit has passed; else the unit parks as a waiter on the word. -/
def State.launchWait (s : State) (u : UnitId) (d : Reg6) (p : W64) (limit : Option W32) : Res :=
  if s.inTask u then .trap s { cause := .blockingInTask }
  else if p.toNat % 64 != 0 then .trap s { cause := .misaligned, addr := p }
  else
    let s := s.modCom u (fun c => { c with until_ := s.limitAt u limit })
    s.memCheck u (s.spaceOf u) 8 [(0, p)]
      (s.atWord u p 16 (fun place s =>
        let s := s.setWait u .none
        if s.rd place 8 != 0 then .done ((s.setReg u d.toNat (BitVec.ofNat 64 (s.rd (place + 8) 4))).l1Acquire u)
        else if s.limitPassed u then .done ((s.setReg u d.toNat (BitVec.allOnes 64)).l1Acquire u)
        else .gone ((s.addWaiter u place).park u (.lwait p d (s.time + 100000) false))))

/-- LWAIT. -/
def execLwait (d a : Reg6) (s : State) : Host.Outcome State Fault Refusal :=
  runC s (.lwait d a) (fun s u => s.launchWait u d (s.reg u a.toNat) none)
/-- LWAIT, lone. -/
def execLwaitLone (d a : Reg6) (limit : W32) (s : State) : Host.Outcome State Fault Refusal :=
  runC s (.lwaitLone d a limit) (fun s u => s.launchWait u d (s.reg u a.toNat) (some limit))

/-- LWAIT_RECHECK: the limit has passed, or 100,000 ticks have: the word is read again where it lies; where it cannot be, the instruction
executes again. -/
def State.recheck (s : State) (u : UnitId) : State :=
  match s.ownWait u with
  | .lwait ea d next false =>
    if (s.com u).away || !s.limitEnds u && decide (s.time < next) then s
    else
      let c := s.unitCtx u
      (match xlat s (s.spaceOf u) c (s.ctx c).gen (s.unitPos u) 0 ea.toNat with
        | .ok place _ _ =>
          let s := s.usedWord u ea place
          if s.badRead place 16 then (s.dropWaiter u).setOwnWait u (.lwait ea d next true)
          else if s.rd place 8 != 0 then
            ((s.dropWaiter u).setReg u d.toNat (BitVec.ofNat 64 (s.rd (place + 8) 4))).setOwnWait u (.answered true)
          else if s.limitEnds u then ((s.dropWaiter u).setReg u d.toNat (BitVec.allOnes 64)).setOwnWait u (.answered true)
          else s.setOwnWait u (.lwait ea d (s.time + 100000) false)
        | _ => (s.dropWaiter u).setOwnWait u (.lwait ea d next true))
  | _ => s

/-- LWAIT_RECHECK. -/
def execLwaitRecheck (u : UnitId) (s : State) : Host.Outcome State Fault Refusal := .next (s.recheck u)

/-! ## Dependences (R381) -/

/-- An error response to a dependence read: the grid retires without running a block. -/
def State.gridFails (s : State) (g : Nat) (a : W64) : State :=
  let x := s.grid g
  (s.logError 0x02 (launchSrc x.die) (s.ctxFunc x.ctx) 1 a 0).setGrid g
    { x with deps := [], ready := some s.time, admitted := x.nblk, restarts := [], code := 0xFFFFFFFF, pw := {} }

/-- Reads the unmet dependence words of a grid, in order; the words still unmet, and whether the reading stopped. -/
def State.readDeps (s : State) (g : Nat) : List (W64 × W64) → List (W64 × W64) → State
  | kept, [] => s.modGrid g (fun x => { x with deps := kept, pollAt := s.time + 100000, pw := {} })
  | kept, (a, t) :: rest =>
    let x := s.grid g
    match s.control x.ctx (s.ctx x.ctx).gen 0 a with
    | .ok s place _ _ => if t.toNat ≤ s.rd place 8 then s.readDeps g kept rest else s.readDeps g (kept ++ [(a, t)]) rest
    | .err s => s.gridFails g a
    -- the word that waits comes first, which an error response to it then names
    | .wait t' w => t'.modGrid g (fun x => { x with deps := (a, t) :: rest ++ kept, pw := w })

/-- Is the partition of a grid switched out of the grid's die, its controller state saved (R405, R439)? -/
def State.gridAway (s : State) (x : Grid) : Bool :=
  let fn := s.ctxFunc x.ctx
  let vs := (List.range 24).map (fun v => s.vale (x.die * 24 + v))
  vs.any (fun v => v.other == some fn) && !vs.any (fun v => v.func == fn)

/-- Is a grid's reading of its dependence words due? -/
def State.pollDue (s : State) (g : Nat) (x : Grid) : Bool :=
  x.ready.isNone && !s.gridAway x && !x.deps.isEmpty && decide (x.pollAt ≤ s.time) && s.pageReady x.ctx x.pw && (s.grids.find g).isSome

/-- DEPENDENCE_POLL. -/
def execDependencePoll (g : Nat) (s : State) : Host.Outcome State Fault Refusal :=
  let x := s.grid g
  .next (if !s.pollDue g x then s
    else if x.pw.failed then s.gridFails g ((x.deps.head?.map Prod.fst).getD 0)
    else s.readDeps g [] x.deps)

/-- Is a grid ready: its dependences are met, and with ORDER the previous grid of its queue has retired? -/
def State.becomesReady (s : State) (g : Nat) (x : Grid) : Bool :=
  x.ready.isNone && x.deps.isEmpty && (s.grids.find g).isSome && !s.gridAway x
    && !(x.order && x.prev.any (fun p => (s.grids.find p).isSome))

/-- GRID_READY. -/
def execGridReady (g : Nat) (s : State) : Host.Outcome State Fault Refusal :=
  .next (if s.becomesReady g (s.grid g) then s.modGrid g (fun x => { x with ready := some s.time }) else s)

/-! ## Retirement (R380) -/

/-- Is an access of an ended unit of the grid, or of a grid below it, still on its way to the host or a peer (R453)? -/
def State.owes (s : State) (g : Nat) : Bool := s.accesses.any (fun a => a.owed.contains g)

/-- Has the grid ended: every block has, every thread and wave of it with its accesses, every child grid? -/
def State.gridOver (s : State) (g : Nat) (x : Grid) : Bool :=
  (s.grids.find g).isSome && x.ready.isSome && x.admitted == x.nblk && x.restarts.isEmpty
    && !s.blocks.any (fun k => k.2.grid == some g && !k.2.members.isEmpty)
    && !s.threads.any (fun t => t.2.c.grid == some g) && !s.waves.any (fun w => w.2.c.grid == some g)
    && !s.grids.any (fun h => h.2.parent == some g) && !s.owes g

/-- The 56 bytes of a completion record after DONE. -/
def Grid.record (x : Grid) (time : Nat) : List Byte :=
  bytesLE 8 x.code.toNat ++ bytesLE 8 (x.tbegin.getD 0) ++ bytesLE 8 time ++ bytesLE 8 x.killed ++ List.replicate 24 0

/-- A MARK completes once every record accepted on the page before it has (R453): the records, and those that complete now. -/
def settleMarks (time : Nat) : Bool → List WorkRec → List WorkRec × List WorkRec
  | _, [] => ([], [])
  | all, r :: t =>
    let now := all && r.op == 1 && r.done.isNone
    let r := if now then { r with done := some (3, 0), fin := time } else r
    let x := settleMarks time (all && r.done.isSome) t
    (r :: x.1, if now then r :: x.2 else x.2)

/-- The MARKs of a page that complete join its completions. -/
def Page.marks (p : Page) (time : Nat) : Page :=
  let x := settleMarks time true p.opens
  { p with opens := x.1, completions := p.completions ++ x.2 }

/-- A work record of a page completes: it waits among the page's completions for its turn (R453). -/
def State.recordDone (s : State) (fn n : Nat) (hseq : W32) (status : Nat) (code : W32) : State :=
  s.modFunc fn (fun f =>
    let p := f.pages.getD n {}
    match p.opens.find? (fun r => r.hseq == hseq && r.done.isNone) with
    | some r =>
      let r' := { r with done := some (status, code), fin := s.time }
      let q := { p with opens := p.opens.map (fun (x : WorkRec) => if x.hseq == hseq then r' else x), completions := p.completions ++ [r'] }
      { f with pages := f.pages.put n (q.marks s.time) }
    | none => f)

/-- A grid is gone: its entry is free, its work record completes. -/
def State.dropGrid (s : State) (g : Nat) (status : Nat) : State :=
  let x := s.grid g
  let s := { s with grids := s.grids.drop g }
  let s := match x.pool with | some sh => s.freeEntry x.die x.depth sh | none => s
  match x.page with
  | some (fn, n, h) => s.recordDone fn n h status x.code
  | none => s

/-- The completion record is written: the fields after DONE as plain stores, then DONE as an STL, then the WAKE. An error response is
logged, and the grid retires. -/
def State.retireGrid (s : State) (g : Nat) : State :=
  let x := s.grid g
  let refused (s : State) : State := (s.logError 0x02 (launchSrc x.die) (s.ctxFunc x.ctx) 1 x.cpl 0).dropGrid g 0
  if x.cpl == 0 then s.dropGrid g 0
  else if x.pw.failed then refused s
  else match s.control x.ctx (s.ctx x.ctx).gen 1 x.cpl with
    | .ok s place cls grain =>
      let s := s.writeAt none x.ctx x.cpl.toNat place cls grain
        (bytesLE 8 (1 + x.serial.toNat * 2 ^ 32) ++ x.record s.time)
      ((s.wakeWord place 0).2.pokeGrids place 64).dropGrid g 0
    | .err s => refused s
    | .wait t w => t.modGrid g (fun x => { x with pw := w })

/-- May the grid retire now? -/
def State.retireDue (s : State) (g : Nat) (x : Grid) : Bool := s.gridOver g x && !s.gridAway x && s.pageReady x.ctx x.pw

/-- GRID_RETIRE. -/
def execGridRetire (g : Nat) (s : State) : Host.Outcome State Fault Refusal :=
  .next (if s.retireDue g (s.grid g) then s.retireGrid g else s)

end Sys2Proof.Machine
end

