-- ==== Sys2Proof/Machine/Blocks.lean ====
section
/-! DEFINITION. Blocks: admission, the states of a block, swap and re-admission, the waves that the gatherer forms, and the ends of
waits of parked units (spec/14 R383, R384, R403, R506; spec/15 R432 to R436; spec/04 R119 to R122; spec/12 R350). -/

namespace Sys2Proof.Machine

/-! ## Resources of an engine -/

/-- What a block takes of an engine: wave slots, wave-registers, scratchpad bytes, accumulator banks, B slots. -/
structure Need where
  slots : Nat
  regs : Nat
  scr : Nat
  banks : Nat
  bsl : Nat

def Need.le (a b : Need) : Bool :=
  decide (a.slots ≤ b.slots) && decide (a.regs ≤ b.regs) && decide (a.scr ≤ b.scr) && decide (a.banks ≤ b.banks) && decide (a.bsl ≤ b.bsl)

def Need.plus (a b : Need) : Need := ⟨a.slots + b.slots, a.regs + b.regs, a.scr + b.scr, a.banks + b.banks, a.bsl + b.bsl⟩

/-- All that an engine has (R21). -/
def Need.engine : Need := ⟨32, 2048, 0x40000, 384, 32⟩

/-- Does a need lack, beside what is free, something that `got` would add to? -/
def Need.lacks (n free got : Need) : Bool :=
  let short (a b c : Nat) : Bool := decide (b < a) && decide (0 < c)
  short n.slots free.slots got.slots || short n.regs free.regs got.regs || short n.scr free.scr got.scr || short n.banks free.banks got.banks
    || short n.bsl free.bsl got.bsl

/-- Waves that hold slots and registers of an engine. -/
def State.wavesOn (s : State) (e : Nat) : List Wave :=
  ((s.waves.filter (fun w => w.2.eng == e && !w.2.c.away
    && (match w.2.c.block with | some b => (s.block b).onEngine | none => true))).map Prod.snd)

/-- What is free on an engine (R21). A block without members holds only the scratchpad that a job still writes (R258). -/
def State.freeOn (s : State) (e : Nat) : Need :=
  let ws := s.wavesOn e
  let ks := (s.blocks.vals).filter (fun k => k.onEngine && k.eng == some e)
  let live := ks.filter (fun k => !k.members.isEmpty)
  { slots := Need.engine.slots - ws.length
    regs := Need.engine.regs - (ws.map Wave.nv).sum
    scr := Need.engine.scr - s.scratchHeld e
    banks := Need.engine.banks - (live.map (fun k => accBanks k.acc)).sum
    bsl := Need.engine.bsl - (live.map Block.nb).sum }

/-- What a new block of a grid, a block's image, and a gathered wave take. -/
def Grid.need (g : Grid) : Need :=
  ⟨g.bsize, g.bsize * 16 * g.regs, scratchNeed g.scr g.bsize, accBanks g.acc, bSlots g.acc⟩
def State.blockNeed (s : State) (k : Block) : Need :=
  let n := k.members.length
  ⟨n, (k.members.map (fun m => match m with | .wave w => (s.wave w).nv | .thread _ => 0)).sum, scratchNeed k.scr k.bsize, accBanks k.acc, k.nb⟩

/-- May an engine take blocks: online, staying online, its Vale online? -/
def State.engineOpen (s : State) (e : Nat) : Bool :=
  !(s.engine e).offline && !(s.engine e).leaving && !(s.vale (e / 4)).offline

/-- The engine of some Vales with the most free wave slots that can hold a need; the lowest number among equals. -/
def State.bestEngine (s : State) (n : Need) (vales : List Nat) : Option Nat :=
  let es := (vales.flatMap (fun v => (List.range 4).map (fun j => v * 4 + j))).filter (fun e => s.engineOpen e && n.le (s.freeOn e))
  es.foldl (fun best e => match best with
    | some b => if (s.freeOn b).slots < (s.freeOn e).slots || ((s.freeOn b).slots == (s.freeOn e).slots && decide (e < b)) then some e else best
    | none => some e) none

/-- The lowest free wave slots of an engine. -/
def State.freeWaveSlots (s : State) (e : Nat) : List Nat :=
  let used := (s.wavesOn e).map Wave.slot
  (List.range 32).filter (fun n => !used.contains n)

/-! ## Octets (R26, R403, R506) -/

/-- The live spur positions of an octet, by its number in the package. -/
def State.octetCores (s : State) (o : Nat) : List Nat :=
  ((List.range 8).map (fun i => o * 8 + i)).filter (fun p => !isSummit p && !s.posDead p)

/-- The free slots of an octet in the order in which a block takes them. -/
def State.octetSlots (s : State) (o : Nat) : List (Nat × Nat) :=
  (List.range 8).flatMap (fun n => ((s.octetCores o).filter (fun p => s.slotFree p n)).map (fun p => (p, n)))

/-- Is a unit of a position's bank free of block areas? -/
def State.unitFree (s : State) (p i : Nat) : Bool :=
  !s.blocks.any (fun k => !k.2.away && k.2.area.any (fun a => a.1 == p && decide (a.2.1 ≤ i) && decide (i < a.2.1 + a.2.2)))

/-- The lowest run of free units in a position's range. -/
def State.findRun (s : State) (p n : Nat) : Option Nat :=
  let r := (s.vale (p / 32)).areaRange
  ((List.range (r.2 + 1 - n)).map (fun i => r.1 + i)).find? (fun i => (List.range n).all (fun j => s.unitFree p (i + j)))

/-- The block area of an octet: bank and first unit; `some none` where none is asked for. -/
def State.octetArea (s : State) (o n : Nat) : Option (Option (Nat × Nat)) :=
  if n = 0 then some none
  else (s.octetCores o).findSome? (fun p => (s.findRun p n).map (fun i => some (p, i)))

/-- The octet with the most free slots that can hold a block; the lowest position among equals. -/
def State.bestOctet (s : State) (bsize units : Nat) (vales : List Nat) : Option Nat :=
  let os := (vales.flatMap (fun v => (List.range 4).map (fun j => v * 4 + j))).filter (fun o =>
    !(s.vale (o / 4)).offline && decide (bsize ≤ (s.octetSlots o).length) && (s.octetArea o units).isSome)
  os.foldl (fun best o => match best with
    | some b => if (s.octetSlots b).length < (s.octetSlots o).length || ((s.octetSlots b).length == (s.octetSlots o).length && decide (o < b))
      then some o else best
    | none => some o) none

/-! ## Candidates (R383) -/

/-- A block that may be admitted: the next one of a ready grid, or one swapped out whose waits are over. -/
inductive Cand where
  | fresh (g : Nat)
  | back (b : Nat)
  deriving DecidableEq, Repr

/-- A block's priority: its grid's, or that of a wave that the gatherer formed. -/
def State.blockPrio (s : State) (k : Block) : Nat :=
  match k.grid with
  | some g => (s.grid g).prio.toNat
  | none => (k.members.map (fun m => (s.com m).prio.toNat)).foldl max 0

def State.candPrio (s : State) : Cand → Nat
  | .fresh g => (s.grid g).prio.toNat
  | .back b => s.blockPrio (s.block b)

/-- The Vales that may take a candidate. A formed wave has no VMASK. -/
def State.candRange (s : State) : Cand → List Nat
  | .fresh g => let x := s.grid g; s.gridVales (s.ctxFunc x.ctx) x.die x.vmask
  | .back b =>
    let k := s.block b
    match k.grid with
    | some g => let x := s.grid g; s.gridVales (s.ctxFunc x.ctx) k.die x.vmask
    | none => s.gridVales (s.ctxFunc ((k.members.head?.map (fun m => (s.com m).ctx)).getD 0)) k.die 0

def State.candVales (s : State) (c : Cand) : List Nat := (s.candRange c).filter (fun v => !s.leavesVale (s.vale v).func v)

def State.candFunc (s : State) : Cand → Nat
  | .fresh g => s.ctxFunc (s.grid g).ctx
  | .back b => s.ctxFunc (((s.block b).members.head?.map (fun m => (s.com m).ctx)).getD 0)

/-- Preference: the highest priority, a swapped block before a new one, the older grid. -/
def State.candKey (s : State) : Cand → List Nat
  | .fresh g => [3 - s.candPrio (.fresh g), 1, (s.grid g).ready.getD 0, g]
  | .back b => [3 - s.candPrio (.back b), 0, (((s.block b).grid.map (fun g => (s.grid g).ready.getD 0)).getD 0), b]

def lexLt : List Nat → List Nat → Bool
  | [], [] => false
  | [], _ => true
  | _, [] => false
  | a :: s, b :: t => decide (a < b) || (a == b && lexLt s t)
def insertCand (s : State) (x : Cand) : List Cand → List Cand
  | [] => [x]
  | y :: t => if lexLt (s.candKey x) (s.candKey y) then x :: y :: t else y :: insertCand s x t

/-- The candidates of a die in the controller's order; a halted partition has none (R437). -/
def State.candidates (s : State) (die : Nat) : List Cand :=
  let fresh := s.grids.filterMap (fun e =>
    if e.2.die == die && e.2.ready.isSome && (decide (e.2.admitted < e.2.nblk) || !e.2.restarts.isEmpty) then some (Cand.fresh e.1) else none)
  let back := s.blocks.filterMap (fun e => if e.2.die == die && e.2.swap == .rdy && !e.2.away then some (Cand.back e.1) else none)
  ((fresh ++ back).filter (fun c => !(s.func (s.candFunc c)).halted)).foldl (fun l c => insertCand s c l) []

/-- Has a block been bypassed for 20,000 ticks? -/
def State.bypassLate (s : State) (since : Option Nat) : Bool := since.any (fun t => decide (t + 20000 ≤ s.time))

/-- Where a candidate fits: an engine or an octet. -/
def State.candPlace (s : State) (vales : List Nat) : Cand → Option Nat
  | .fresh g => let x := s.grid g; if x.ridge then s.bestEngine x.need vales else s.bestOctet x.bsize (x.scr / 512) vales
  | .back b => s.bestEngine (s.blockNeed (s.block b)) vales

def State.candBars (s : State) : Cand → Bool
  | .fresh g => (s.grid g).barring || s.bypassLate (s.grid g).bypassed
  | .back b => (s.block b).barring || s.bypassLate (s.block b).bypassed
/-- Since when a candidate has been passed over. -/
def State.candSince (s : State) : Cand → Nat
  | .fresh g => (s.grid g).bypassed.getD s.time
  | .back b => (s.block b).bypassed.getD s.time

/-- Does candidate `d`, passed over for too long, bar `c`: no higher priority, and not itself passed over for longer (R383; log entry 87)? -/
def State.candBarred (s : State) (d c : Cand) : Bool :=
  d != c && s.candBars d && decide (s.candPrio c ≤ s.candPrio d)
    && !(s.candBars c && s.candPrio c == s.candPrio d && lexLt (s.candSince c :: s.candKey c) (s.candSince d :: s.candKey d))

/-- The Vales that a candidate may take now: not those of a candidate that bars it. -/
def State.openVales (s : State) (all : List Cand) (c : Cand) : List Nat :=
  let closed := (all.filter (fun d => s.candBarred d c)).flatMap s.candVales
  (s.candVales c).filter (fun v => !closed.contains v)

/-- The first candidate that fits, where it goes, and those passed over. -/
def State.chooseCand (s : State) (all : List Cand) : List Cand → List Cand → Option (Cand × Nat × List Cand)
  | _, [] => none
  | passed, c :: t =>
    match s.candPlace (s.openVales all c) c with
    | some e => some (c, e, passed)
    | none => s.chooseCand all (passed ++ [c]) t

def State.nextCand (s : State) (die : Nat) : Option (Cand × Nat × List Cand) := s.chooseCand (s.candidates die) [] (s.candidates die)

/-- The blocks passed over note since when. -/
def State.notePassed (s : State) (cs : List Cand) : State :=
  cs.foldl (fun s c => match c with
    | .fresh g => s.modGrid g (fun x => { x with bypassed := some (x.bypassed.getD s.time) })
    | .back b => s.modBlock b (fun x => { x with bypassed := some (x.bypassed.getD s.time) })) s

/-- BYPASS_LIMIT: the blocks of a die that have been passed over for 20,000 ticks bar their Vales. -/
def State.barLate (s : State) (die : Nat) : State :=
  { s with
    grids := s.grids.map (fun e => if e.2.die == die && s.bypassLate e.2.bypassed then (e.1, { e.2 with barring := true }) else e)
    blocks := s.blocks.map (fun e => if e.2.die == die && s.bypassLate e.2.bypassed then (e.1, { e.2 with barring := true }) else e) }

/-- BYPASS_LIMIT. -/
def execBypassLimit (die : Nat) (s : State) : Host.Outcome State Fault Refusal := .next (s.barLate die)

/-! ## Starts (R384) -/

/-- The number of the grid's next block, with the PC at which it begins. -/
def Grid.nextBlock (g : Grid) : Nat × W64 :=
  match g.restarts with
  | r :: _ => r
  | [] => (g.admitted, g.entry)
def Grid.afterNext (g : Grid) : Grid :=
  match g.restarts with
  | _ :: t => { g with restarts := t, bypassed := none, barring := false }
  | [] => { g with admitted := g.admitted + 1, bypassed := none, barring := false }

/-- The shared part of a new unit of a grid. -/
def Grid.common (x : Grid) (g b i : Nat) : Common :=
  { ctx := x.ctx, fpctl := x.fpctl, prio := x.prio, cap := x.prio, grid := some g, block := some b, index := i }

/-- A wave of a launched block. -/
def launchedWave (x : Grid) (g b num : Nat) (pc : W64) (e slot i : Nat) : Wave :=
  { c := x.common g b i, kind := .launched, eng := e, slot := slot, nv := 16 * x.regs,
    k := (((Vector.replicate 64 0).setIfInBounds 1 x.args).setIfInBounds 2 (BitVec.ofNat 64 num)).setIfInBounds 3 (BitVec.ofNat 64 i),
    v := [(0, Lanes.gen (fun l => BitVec.ofNat 32 l))], apc := pc, exec := BitVec.allOnes 64, live := BitVec.allOnes 64, jeng := e }

/-- A wave starts on its engine: lent quarters that its block needs are taken back, and the start is an acquire (R196, R230, R237, R402). -/
def State.startWave (s : State) (w : Nat) : State :=
  let i := s.newId
  ((i.2.modWave w (fun x => { x with started := i.1 })).l1Reclaim (s.wave w).eng).l1Acquire (.wave w)

/-- Adds units to a block, one for each index. -/
def State.addWaves (s : State) (x : Grid) (g b num : Nat) (pc : W64) (e : Nat) : List (Nat × Nat) → State
  | [] => s
  | (i, slot) :: t =>
    let w := s.newId
    let s := (w.2.setWave w.1 (launchedWave x g b num pc e slot i)).modBlock b (fun k => { k with members := k.members ++ [.wave w.1] })
    (s.startWave w.1).addWaves x g b num pc e t

/-- A thread of a launched block, in its home slot; a borrowed slot issues at class 0. -/
def launchedThread (x : Grid) (g b num : Nat) (pc area : W64) (tid : W64) (p n i : Nat) : Thread :=
  { c := x.common g b i, tid := tid, home := some (p, n), loc := .slot p n, slotn := n, pc := pc,
    regs := regsOf (fun r => if r = 1 then x.args else if r = 2 then area else if r = 3 then BitVec.ofNat 64 num
      else if r = 4 then BitVec.ofNat 64 i else 0) }

def State.addThreads (s : State) (x : Grid) (g b num : Nat) (pc area : W64) : List (Nat × Nat × Nat) → State
  | [] => s
  | (i, p, n) :: t =>
    let u := s.newId
    let id := u.2.newTid p
    let th := { launchedThread x g b num pc area id.1 p n i with cls := if n < 6 then s.slotClass p n else 0 }
    ((id.2.setThread u.1 th).modBlock b (fun k => { k with members := k.members ++ [.thread u.1] })).addThreads x g b num pc area t

/-- A block without members. -/
def Grid.block (x : Grid) (g num : Nat) : Block :=
  { ridge := x.ridge, grid := some g, num := num, bsize := x.bsize, nv := 16 * x.regs, scr := if x.ridge then x.scr else 0, acc := x.acc,
    nb := bSlots x.acc, members := [], die := x.die }

/-- A new block of a grid starts on engine or octet `e`. -/
def State.admitNew (s : State) (g e : Nat) : State :=
  let x := s.grid g
  let nb := x.nextBlock
  let i := s.newId
  let s := i.2.setGrid g x.afterNext
  if x.ridge then
    let s := s.setBlock i.1 { x.block g nb.1 with eng := some e }
    s.addWaves x g i.1 nb.1 nb.2 e ((List.range x.bsize).zip (s.freeWaveSlots e))
  else
    let slots := (s.octetSlots e).take x.bsize
    let area := ((s.octetArea e (x.scr / 512)).getD none).map (fun a => (a.1, a.2, x.scr / 512))
    let addr : W64 := match area with | some a => BitVec.ofNat 64 (windowAddr a.1 (a.2.1 * 512)) | none => 0
    let s := s.setBlock i.1 { x.block g nb.1 with octet := some e, area := area }
    s.addThreads x g i.1 nb.1 nb.2 addr ((List.range x.bsize).zip slots)

/-- BLOCK_ADMISSION: the controller admits the next block where it is a new one. -/
def execBlockAdmission (die : Nat) (s : State) : Host.Outcome State Fault Refusal :=
  .next (match s.nextCand die with
    | some (.fresh g, e, passed) => (s.notePassed passed).admitNew g e
    | _ => s)

/-! ## Waves of the gatherer (R119, R121, R122, R350) -/

def entryLe (a b : BinEntry) : Bool := decide (a.key < b.key) || (a.key == b.key && decide (a.arrival ≤ b.arrival))
def insertEntry (x : BinEntry) : List BinEntry → List BinEntry
  | [] => [x]
  | y :: t => if entryLe x y then x :: y :: t else y :: insertEntry x t
/-- Lanes by (key, arrival). -/
def laneOrder (es : List BinEntry) : List BinEntry := es.foldl (fun l e => insertEntry e l) []

/-- The gather descriptor in k1. -/
def gatherWord (waited b cause count : Nat) : W64 :=
  BitVec.ofNat 64 (min waited 0xFFFFFFFF * 2 ^ 32 + b * 2 ^ 10 + cause * 2 ^ 8 + count)

/-- What a bin's wave takes (R122). -/
def Bin.need (b : Bin) : Need := ⟨1, b.nv, scratchNeed b.scr 1, 0, 0⟩

/-- The octet from which a bin's oldest thread came, in its Vale. -/
def State.binOctet (s : State) (b : Bin) : Option Nat :=
  (firstOf (b.entries.filterMap (fun x => match x.body with | .thread t => some (x.arrival, (s.thread t).pos % 32 / 8) | _ => none))).map Prod.snd

/-- The engine of the Vale that a bin's wave asks for: the most free wave slots, then the lowest number (R122). -/
def State.binBest (s : State) (v : Nat) (b : Bin) : Option Nat := s.bestEngine b.need [v]

/-- The engine that a bin's wave takes: the one it asks for, where no emitted bin of the octet beside that engine asks for it too and this one's threads
come from another (R20, R122; log entry 88). -/
def State.binEngine (s : State) (v : Nat) (b : Bin) : Option Nat :=
  match s.binBest v b with
  | none => none
  | some e =>
    if s.binOctet b != some (e % 4) && (s.vale v).bins.vals.any (fun x => x.closed.isSome && !s.stoppedOn (s.ctxFunc x.ctx) v
        && s.binOctet x == some (e % 4) && s.binBest v x == some e)
    then none else some e

/-- Register `r` of a lane of a formed wave. -/
def State.formedVal (s : State) (v : Nat) (b : Bin) (hiFirst : Bool) (e : BinEntry) (r : Nat) : W32 :=
  match e.body with
  | .thread t => gatherVal (s.vale v) b.tmpl b.nv hiFirst (s.thread t) r
  | .frag v0 v16 v1 v2 v3 v4 =>
    if r = 0 then v0 else if r = 16 then v16 else if r = 1 then v1 else if r = 2 then v2 else if r = 3 then v3 else if r = 4 then v4 else 0

/-- The wave of an emitted bin starts on engine `e`. -/
def State.formWave (s : State) (v bi : Nat) (b : Bin) (e : Nat) : State :=
  let ch := s.choose 2
  let s := ch.2
  let es := laneOrder b.entries
  let n := es.length
  let lanes : List (Nat × Nat) := (es.zipIdx).filterMap (fun x => match x.1.body with | .thread t => some (x.2, t) | _ => none)
  let prio : BitVec 2 := lanes.foldl (fun m x => if m < (s.thread x.2).c.prio then (s.thread x.2).c.prio else m) 0
  let all : Mask := Mask.ofLanes (List.range n)
  let regs := (List.range b.nv).filter (fun r => decide (r < 32) || b.tmpl != 0)
  let i := s.newId
  let k := i.2.newId
  let w : Wave :=
    { c := { ctx := b.ctx, fpctl := b.fpctl, prio := prio, cap := prio, block := some k.1 },
      kind := if b.frag then .fragment else .gathered, eng := e, slot := (s.freeWaveSlots e).headD 0, nv := b.nv,
      k := (Vector.replicate 64 0).setIfInBounds 1 (gatherWord (s.time - b.oldest) bi (b.closed.getD 0) n),
      v := regs.map (fun r => (r, Lanes.gen (fun l => match es[l]? with | some x => s.formedVal v b (ch.1 = 1) x r | none => 0))),
      apc := b.target, exec := all, live := all, lanes := lanes, jeng := e }
  let s := k.2.setBlock k.1
    { ridge := true, grid := none, num := 0, bsize := 1, nv := b.nv, scr := b.scr, acc := 0, nb := 0, members := [.wave i.1], eng := some e,
      die := e / 96 }
  let s := s.setWave i.1 w
  let s := lanes.foldl (fun s x => s.modThread x.2 (fun t => { t with loc := .lane i.1 x.1 })) s
  (s.modVale v (fun y => { y with bins := y.bins.drop bi })).startWave i.1

/-- WAVE_PLACEMENT: an emitted bin's wave takes its engine. -/
def execWavePlacement (vale bin : Nat) (s : State) : Host.Outcome State Fault Refusal :=
  .next (match (s.vale vale).bins.find bin with
    | some b =>
      if b.closed.isNone || s.stoppedOn (s.ctxFunc b.ctx) vale then s
      else (match s.binEngine vale b with
        | some e => s.formWave vale bin b e
        | none => s)
    | none => s)

/-- Has the oldest entry of an open bin waited GWAIT ticks? While its partition is halted the wait stands still (R119, R125). -/
def State.binLate (s : State) (v : Nat) (b : Bin) : Bool :=
  b.closed.isNone && !b.entries.isEmpty && !s.stoppedOn (s.ctxFunc b.ctx) v && decide (b.oldest + (s.vale v).gwait.toNat ≤ s.time)

/-- BIN_TIMEOUT: the bin is emitted, with CAUSE 1, or 3 for fragments (R119, R350). -/
def execBinTimeout (vale bin : Nat) (s : State) : Host.Outcome State Fault Refusal :=
  .next (match (s.vale vale).bins.find bin with
    | some b => if s.binLate vale b then
        s.modVale vale (fun x => { x with bins := x.bins.put bin { b with closed := some (if b.frag then 3 else 1) } }) else s
    | none => s)

/-! ## Parked units (R432, R433, R436) -/

/-- Is the unit parked, its wait not over? -/
def State.parkedNow (s : State) (u : UnitId) : Bool :=
  waitCode s u != 0 && (match (s.com u).wait with
    | .answered _ => false
    | .fault | .hold _ => s.faulted u
    | .job eng id _ => s.jobStatus eng id u == 0
    | .lwait _ _ _ woken => !woken
    | .launchq _ => (s.com u).granted.isNone
    | _ => true)

/-- A block's state follows the waits of its members: PRK to RES, SWP to RDY. -/
def State.blockWaits (s : State) (b : Nat) : State :=
  let k := s.block b
  if k.members.any s.parkedNow then s
  else match k.swap with
    | .prk => s.setBlock b { k with swap := .res, parkTime := none, eligible := false }
    | .swp => s.setBlock b { k with swap := .rdy }
    | _ => s

/-- Does a unit's park end now: a thread in the Cirque store returns, a unit in its place has lanes to replay, a block's last wait is over? -/
def State.parkEnds (s : State) (u : UnitId) : Bool :=
  s.unitExists u && !s.parkedNow u && !(s.com u).away &&
  (match u with
    | .thread t =>
      (match (s.thread t).loc with
        | .cirque _ => true
        | .slot .. => (s.accessesOf u).any (fun a => a.lanes.any (fun l => l.st == .held))
        | _ => false)
    | .wave w =>
      match (s.wave w).c.block with
      | some b =>
        let k := s.block b
        (match k.swap with
          | .prk | .swp => !k.members.any s.parkedNow
          | _ => false)
        || ((k.swap == .prk || k.swap == .res) && (s.accessesOf u).any (fun a => a.lanes.any (fun l => l.st == .held)))
      | none => (s.accessesOf u).any (fun a => a.lanes.any (fun l => l.st == .held)))

/-- The end of a unit's park. -/
def State.endPark (s : State) (u : UnitId) : State :=
  match u with
  | .thread t =>
    let x := s.thread t
    (match x.loc with
      | .cirque _ => s.returnThread t x.pos x.cls
      | _ => s.replay u)
  | .wave w =>
    match (s.wave w).c.block with
    | some b =>
      let s := s.blockWaits b
      (match (s.block b).swap with | .res | .prk => s.replay u | _ => s)
    | none => s.replay u

/-- PARK_WAIT_END. -/
def execParkWaitEnd (u : UnitId) (s : State) : Host.Outcome State Fault Refusal :=
  .next (if s.parkEnds u then s.endPark u else s)

/-! ## Swap (R434 to R436) -/

/-- Has a block's first parked member been parked for PARKLIM ticks? -/
def State.parkLate (s : State) (k : Block) : Bool :=
  k.ridge && k.swap == .prk && !k.eligible && k.parkTime.any (fun t => decide (t + (s.die k.die).parklim.toNat ≤ s.time))

/-- PARKLIM_EXPIRY. -/
def execParklimExpiry (blk : Nat) (s : State) : Host.Outcome State Fault Refusal :=
  .next (match s.blocks.find blk with
    | some k => if s.parkLate k then s.setBlock blk { k with eligible := true } else s
    | none => s)

/-- Bytes of a block's image in the stores, as the model counts them: registers, scratchpad, tiles and slots (R435; log entry 34). -/
def State.imageBytes (s : State) (k : Block) : Nat :=
  let w (m : UnitId) : Nat := match m with | .wave i => 1024 + 256 * (s.wave i).nv | .thread _ => 160
  (k.members.map w).sum + scratchNeed k.scr k.bsize + 2048 * accBanks k.acc + 4160 * k.nb

/-- What a die's stores hold: the images of blocks swapped out or saved with their partition, the contexts of parked and of saved threads, and
what else a world switch has saved (R24). DESIGN CHOICE: of that rest the model counts the bytes of the moved bank ranges that are not 0, and no room for
registers, view tables, bins and mailboxes (log entry 108). -/
def State.storeUsed (s : State) (die : Nat) : Nat :=
  let blocks := (s.blocks.vals).filter (fun x => x.die == die && x.ridge && (x.away || !(match x.swap with | .res | .prk => true | _ => false)))
  let threads := s.threads.vals.filter (fun t => match t.loc with | .cirque d => d == die | _ => t.c.away && t.pos / 768 == die)
  let saves := s.saves.filter (fun e => e.1 / 16 / 24 == die)
  (blocks.map s.imageBytes).sum + 160 * threads.length + (saves.map (fun e => e.2.cells.length)).sum

/-- Does the image fit into what the Cirque store (48 MiB) and the HBM swap region have left (R24, R434)? DESIGN CHOICE: an image in the swap region only
takes room there, and the bytes of the region stay as they are (log entry 108). -/
def State.storeHolds (s : State) (k : Block) : Bool :=
  decide (s.storeUsed k.die + s.imageBytes k ≤ (48 + bitsOf (s.die k.die).swapb 63 48) * 2 ^ 20)

/-- The candidates that fit nowhere now. -/
def State.waitingCands (s : State) (die : Nat) : List Cand :=
  (s.candidates die).filter (fun c => (s.candPlace (s.candVales c) c).isNone)

/-- A candidate's need, of a Ridge engine. -/
def State.candNeed (s : State) : Cand → Option Need
  | .fresh g => if (s.grid g).ridge then some (s.grid g).need else none
  | .back b => some (s.blockNeed (s.block b))

/-- Is the engine of the block leaving (third condition of R434)? -/
def State.engineLeaves (s : State) (k : Block) : Bool :=
  k.eng.any (fun e => (s.engine e).leaving || (s.engine e).offline || (s.vale (e / 4)).offline)

/-- Does a block that must leave a die wait for space in its stores? The space that comes free is its own (R434). -/
def State.leaverWaits (s : State) (die : Nat) : Bool :=
  s.blocks.vals.any (fun k => k.ridge && !k.away && k.die == die && (k.swap == .res || k.swap == .prk) && !k.members.isEmpty && s.engineLeaves k
    && !s.storeHolds k)

/-- Does a block that fits nowhere wait for an engine, whose Vale it may take and which could hold it, and is it one that `p` names? -/
def State.engineWanted (s : State) (e : Nat) (p : Cand → Need → Bool) : Bool :=
  (s.waitingCands (e / 96)).any (fun c => match s.candNeed c with
    | some n => (s.candVales c).contains (e / 4) && n.le Need.engine && p c n
    | none => false)

/-- Does the wave of an emitted bin wait for an engine of its Vale? -/
def State.binWants (s : State) (e : Nat) : Bool :=
  (s.vale (e / 4)).bins.vals.any (fun b =>
    b.closed.isSome && !s.stoppedOn (s.ctxFunc b.ctx) (e / 4) && b.need.le Need.engine && (s.binBest (e / 4) b).isNone)

/-- Does a condition of R434 hold for a resident block? Where several must leave before a waiting block fits, each is eligible (R387 to R389; log
entry 113). -/
def State.swapDue (s : State) (b : Nat) (k : Block) : Bool :=
  let here := k.ridge && !k.away && (k.swap == .res || k.swap == .prk) && !k.members.isEmpty
  let e := k.eng.getD 0
  let atOnce := k.members.any (fun m => s.parkedNow m && (match (s.com m).wait with | .lwait .. | .launchq _ => true | _ => false))
  let late := k.eligible && s.engineWanted e (fun c n => decide (s.blockPrio k ≤ s.candPrio c) && n.lacks (s.freeOn e) (s.blockNeed k))
  here && !s.spadJob b && s.storeHolds k
    && (s.engineLeaves k || (!s.leaverWaits k.die && (late || (atOnce && (s.engineWanted e (fun _ _ => true) || s.binWants e)))))

/-- The block to swap first: the lowest priority, then the longest parked; a leaving engine's blocks need not wait for their turn. -/
def State.swapFirst (s : State) (b : Nat) (k : Block) : Bool :=
  let key (k : Block) (b : Nat) : List Nat := [s.blockPrio k, k.parkTime.getD s.time, b]
  s.engineLeaves k || s.blocks.all (fun e => e.1 == b || e.2.die != k.die || !s.swapDue e.1 e.2 || !lexLt (key e.2 e.1) (key k b))

/-- BLOCK_SWAP_OUT: RES or PRK to OUT; every wave halts, its non-faulted lanes and issued steps complete. -/
def execBlockSwapOut (blk : Nat) (s : State) : Host.Outcome State Fault Refusal :=
  .next (match s.blocks.find blk with
    | some k => if s.swapDue blk k && s.swapFirst blk k then
        (match k.eng with
          | some e => s.countEvent (e / 4) (s.ctxFunc ((k.members.head?.map (fun m => (s.com m).ctx)).getD 0)) 0x007
          | none => s).setBlock blk { k with swap := .out }
      else s
    | none => s)

/-- Has a unit nothing under way but what its fault record holds? -/
def State.quiet (s : State) (u : UnitId) : Bool :=
  (s.accessesOf u).all (fun a => a.lanes.all (fun l => match l.st with
    | .pend | .walk | .perf | .recall | .forwarded | .waiting => false
    | _ => true))

/-- Are the image of a block and its steps complete? Steps of an engine that is offline stay pending (R309); one that waits for
a BLDQ whose words have faulted keeps the block in OUT (R299, R304; log entry 117). -/
def State.imageDone (s : State) (k : Block) : Bool :=
  k.members.all (fun m => s.quiet m && (match m with
    | .wave w => (s.wave w).steps.isEmpty || k.eng.any (fun e => (s.engine e).offline)
    | .thread _ => true))

/-- SWAP_IMAGE_COMPLETE: OUT to SWP or RDY, the engine's resources are free; IN to RES, each wave starts with an acquire. -/
def execSwapImageComplete (blk : Nat) (s : State) : Host.Outcome State Fault Refusal :=
  .next (match s.blocks.find blk with
    | some k =>
      (match k.swap with
        | .out =>
          let s := k.members.foldl (fun s m => s.settleAll (s.accessesOf m)) s
          if s.imageDone k then
            s.modBlock blk (fun k => { k with swap := if k.members.any s.parkedNow then .swp else .rdy, eng := none, bypassed := none })
          else s
        | .inn =>
          let s := s.modBlock blk (fun k => { k with
            swap := if k.members.any s.parkedNow then .prk else .res, parkTime := none, eligible := false })
          k.members.foldl (fun s m => match m with | .wave w => s.startWave w | .thread _ => s) s
        | _ => s)
    | none => s)

/-- The waves of a block take slots of an engine. -/
def State.moveWaves (s : State) (e : Nat) : List (UnitId × Nat) → State
  | [] => s
  | (.wave w, n) :: t => (s.modWave w (fun x => { x with eng := e, slot := n })).moveWaves e t
  | _ :: t => s.moveWaves e t

/-- RDY to IN on an engine of the block's die. -/
def State.readmit (s : State) (b e : Nat) : State :=
  let k := s.block b
  let slots := s.freeWaveSlots e
  (s.setBlock b { k with swap := .inn, eng := some e, bypassed := none, barring := false }).moveWaves e (k.members.zip slots)

/-- BLOCK_READMISSION: the controller's next block is this one. -/
def execBlockReadmission (blk : Nat) (s : State) : Host.Outcome State Fault Refusal :=
  .next (match s.nextCand (s.block blk).die with
    | some (.back b, e, passed) => if b = blk then (s.notePassed passed).readmit b e else s
    | _ => s)

end Sys2Proof.Machine
end

