-- ==== Sys2Proof/Machine/Health.lean ====
section
/-! DEFINITION. Dead positions and spares, Vales and engines that go offline, heartbeats, scrubbing and power (spec/01 R18, R19, R38, R41;
spec/08 R242, R243; spec/16 R466 to R470). -/

namespace Sys2Proof.Machine

/-- An error-log entry whose DETAIL the cause's rule does not give (log entry 2). -/
def State.logOpen (s : State) (cause src fn sev : Nat) (addr : W64) : State :=
  let f := s.free
  f.2.logError cause src fn sev addr f.1

/-! ## Dead positions (R468) -/

/-- The threads and tasks that run on a core end, counted in KILLED. -/
def State.killCore (s : State) (p : Nat) : State :=
  (s.threads.filterMap (fun e => match e.2.loc with
    | .slot q _ => if q = p ∧ e.2.c.away = false then some e.1 else none
    | _ => none)).foldl (fun s t => s.endThread t 0 true) s

/-- The Vale of a failed Summit core takes no work: its engines are left by their blocks, its cores stop, and the units that its frames
and bins hold end (R19, R434). -/
def State.valeFails (s : State) (v : Nat) : State :=
  let s := (List.range 4).foldl (fun s j => s.modEngine (v * 4 + j) (fun e => { e with leaving := true })) s
  let s := s.modVale v (fun x => { x.kill 0 with dead := BitVec.allOnes 32 })
  let s := (List.range 32).foldl (fun s p => s.killCore (v * 32 + p)) s
  let held := (s.vale v).frames.vals ++ (s.vale v).traps.map TrapMsg.unit
    ++ s.threads.filterMap (fun e => match e.2.loc with | .bin w _ => if w = v then some (UnitId.thread e.1) else none | _ => none)
  held.foldl (fun s u => if s.unitExists u then s.endUnit u 0 true else s) (s.modVale v (fun x => { x with bins := [] }))

/-- The dead positions with threads. -/
def State.deadCores (s : State) : List Nat :=
  (s.threads.filterMap (fun e => match e.2.loc with
    | .slot p _ => if s.posDead p && !e.2.c.away then some p else none
    | _ => none)).eraseDups

/-- The Vales whose Summit position has died and takes them with it (R19, R468). -/
def State.failingVales (s : State) : List Nat :=
  s.vales.filterMap (fun e => if e.2.dead.getLsbD 0 && e.2.dead != BitVec.allOnes 32 then some e.1 else none)

/-- A core stops in the f-cycle in which its position dies: its threads end, and with a Summit core its Vale fails, before anything else takes place
(R19, R467, R468); while the dies do not run nothing ends. -/
def State.endDead (s : State) : State :=
  if s.adentoth.st != 1 then s
  else
    let s := s.failingVales.foldl State.valeFails s
    s.deadCores.foldl State.killCore s

/-- A position dies: its DEAD bit, its threads; a Summit core takes its Vale with it. -/
def State.positionDies (s : State) (p : Nat) : State :=
  let s := s.modVale (p / 32) (Vale.kill · (p % 32))
  if isSummit p then s.valeFails (p / 32) else s.killCore p

/-- The heartbeats of a position that have become due: one for each HBPER ticks that count (R469); an HBPER of 0 acts as 1 (log entry 107). -/
def State.beatsDue (s : State) (p : Nat) : Nat :=
  if isSummit p || s.posDead p then 0 else (s.time - (s.position p).beatFrom) / max 1 (s.vale (p / 32)).hbper.toNat

/-- May the monitor declare a position dead: its heartbeat word has not changed over 4 HBPER ticks (R469), and no beat is due? A Summit core has
none. -/
def State.beatLate (s : State) (p : Nat) : Bool :=
  isSummit p || (decide ((s.position p).beatAt + 4 * (s.vale (p / 32)).hbper.toNat ≤ s.time) && s.beatsDue p == 0)

/-- POSITION_DEAD: the monitor declares a position dead (R469). On a position that is dead already the threads still there end. -/
def execPositionDead (pos : Nat) (s : State) : Host.Outcome State Fault Refusal :=
  .next (if s.posDead pos then (if isSummit pos && !(s.vale (pos / 32)).offline then s.valeFails (pos / 32) else s.killCore pos)
    else if s.beatLate pos then (s.positionDies pos).logOpen 0x11 (srcOfPos pos 0) (s.vale (pos / 32)).func 1 0
    else s)

/-- HEARTBEAT: the core's count rises and is stored in its Vale's Summit bank (R469). -/
def execHeartbeat (pos : Nat) (s : State) : Host.Outcome State Fault Refusal :=
  .next (
    let q := s.position pos
    let n := s.beatsDue pos
    if n = 0 then s
    else
      let beat : W64 := q.beat + BitVec.ofNat 64 n
      let s := s.setPosition pos { q with
        beat := beat, beatAt := s.time, beatFrom := q.beatFrom + n * max 1 (s.vale (pos / 32)).hbper.toNat }
      s.writeAt none 0 0 (bankPlace (pos / 32 * 32) (0x3BF00 + 8 * (pos % 32))) 2 32 (bytesLE 8 beat.toNat))

/-! ## Spares (R18, R470) -/

/-- A spare takes a dead position, whose threads have ended: the bank's words with bad parity become 0, the DEAD bit is cleared (R467, R470). -/
def State.mapSpare (s : State) (p : Nat) : State :=
  let s := s.killCore p
  let bad := s.bad.filter (fun b => placeBank b == some p)
  let s := bad.foldl (fun s b => (s.rawPutBytes b [0, 0, 0, 0])) { s with bad := s.bad.filter (fun b => placeBank b != some p) }
  let s := s.modVale (p / 32) (fun x => { x with dead := x.dead &&& ~~~(BitVec.ofNat 32 (2 ^ (p % 32))) })
  (s.setPosition p { s.position p with beatAt := s.time, beatFrom := s.time, stuck := false }).logOpen 0x12 (srcOfPos p 0) (s.vale (p / 32)).func 0 0

/-- CMAP as it reads (R470). -/
def Vale.cmapWord (v : Vale) : W64 :=
  BitVec.ofNat 64 ((if v.sbv then 2 ^ 43 else 0) + v.sbp.toNat * 2 ^ 38 + (if v.sav then 2 ^ 37 else 0) + v.sap.toNat * 2 ^ 32 + v.dead.toNat)

/-- A write of CMAP: each 1 of DEAD kills its position; a write that sets SAV or SBV with a live position, with position 0, or both with
one position, or that names for one spare the live position of the other, changes neither spare; a spare that is mapped stays so, and the position of
one that is not is a plain field. -/
def State.writeCmap (s : State) (v : Nat) (x : W64) : State :=
  let old := (s.vale v).dead
  let s := ((Mask.lanes ((lo32 x).zeroExtend 64)).filter (fun p => decide (p < 32) && !old.getLsbD p)).foldl
    (fun s p => s.positionDies (v * 32 + p)) s
  let y := s.vale v
  let a := x.getLsbD 37 && !y.sav
  let b := x.getLsbD 43 && !y.sbv
  let pa := bitsOf x 36 32
  let pb := bitsOf x 42 38
  let ok (p : Nat) : Bool := p != 0 && y.dead.getLsbD p
  let held (v w : Bool) (p q : Nat) : Bool := !v && w && p == q && !y.dead.getLsbD p
  if (a && !ok pa) || (b && !ok pb) || (a && b && pa == pb) || held y.sav y.sbv pa y.sbp.toNat || held y.sbv y.sav pb y.sap.toNat then s
  else
    let s := s.modVale v (fun z => { z with
      sav := z.sav || a, sap := if z.sav then z.sap else BitVec.ofNat 5 pa, sbv := z.sbv || b, sbp := if z.sbv then z.sbp else BitVec.ofNat 5 pb })
    let s := if a then s.mapSpare (v * 32 + pa) else s
    if b then s.mapSpare (v * 32 + pb) else s

/-- CMAP_WRITE. -/
def execCmapWrite (vale : Nat) (val : W64) (s : State) : Host.Outcome State Fault Refusal := .next (s.writeCmap vale val)

/-- The messages that wait at an absent position are discarded, with one log entry; the threads that wait to return there end. -/
def State.positionLost (s : State) (p : Nat) : State :=
  let q := s.position p
  let ms := s.waitingMsgs p
  let s := (ms.map Msg.type).foldl (fun s t => s.syncInbox p t) (s.setPosition p { q with inbox := [], overflow := [], absent := true })
  let s := if ms.isEmpty then s else s.logError 0x17 (srcOfPos p 0) (s.vale (p / 32)).func 1 0 (BitVec.ofNat 64 ms.length)
  (s.threads.filterMap (fun e => match e.2.loc with
    | .inbox r _ _ => if r = p ∧ e.2.c.away = false then some e.1 else none
    | _ => none)).foldl (fun s t => s.endThread t 0 true) s

/-- Does a thread wait to return to an absent position? -/
def State.returnsLost (s : State) (p : Nat) : Bool :=
  (s.position p).absent && s.threads.any (fun e => match e.2.loc with | .inbox r _ _ => r == p && !e.2.c.away | _ => false)

/-- POSITION_ABSENT: a position that dies with both spares in use (R470). -/
def execPositionAbsent (pos : Nat) (s : State) : Host.Outcome State Fault Refusal :=
  .next (
    let v := s.vale (pos / 32)
    if !isSummit pos && v.dead.getLsbD (pos % 32) && v.sav && v.sbv && (!(s.position pos).absent || s.returnsLost pos)
    then s.positionLost pos else s)

/-! ## Vales and engines (R19, R242, R243, R309) -/

/-- Has the last block left a Vale? -/
def State.valeEmpty (s : State) (v : Nat) : Bool :=
  !s.blocks.any (fun e => e.2.onEngine && e.2.eng.any (fun x => x / 4 == v) && !e.2.members.isEmpty)

/-- An engine that has gone offline is reported absent, and logged, once its last block has left (R309, R434). -/
def State.engineGone (e : Nat) (s : State) : State :=
  let g := s.engine e
  if g.offline && !g.absent && !s.blocks.any (fun k => k.2.onEngine && k.2.eng == some e && !k.2.members.isEmpty) then
    (s.setEngine e { g with absent := true }).logOpen 0x10 (engineSrc e) (s.vale (e / 4)).func 1 0
  else s

/-- VALE_OFFLINE: Adentoth takes the Vale of a failed Summit core offline; it is reported so once its last block has left. -/
def execValeOffline (vale : Nat) (s : State) : Host.Outcome State Fault Refusal :=
  .next (if (s.vale vale).offline then s
    else
      let s := if (s.vale vale).dead == BitVec.allOnes 32 then s else s.valeFails vale
      if s.valeEmpty vale then
        ((s.settleCounters vale).modVale vale (fun x => { x with offline := true })).logOpen 0x13 adentothSrc (s.vale vale).func 1 0
      else s)

/-- POWER_GATE: a cluster without waves writes back, drops its sectors and gates (R242). -/
def execPowerGate (eng : Nat) (s : State) : Host.Outcome State Fault Refusal :=
  .next (if (s.wavesOn eng).isEmpty then s.l1Filter eng (fun _ => false) else s)

/-- SNOOP: the directory recalls a COHERENT chunk from an L1 (R200, R243). -/
def execSnoop (eng ctx : Nat) (va : W64) (s : State) : Host.Outcome State Fault Refusal :=
  .next (s.l1Filter eng (fun x => !(x.cls == 3 && x.ctx == ctx && decide (x.va ≤ va.toNat) && decide (va.toNat < x.va + x.span))))

/-! ## Clocks and power (R38, R41) -/

/-- OPERATING_POINT_CHANGE: an operating point of R38; no architectural state changes. -/
def execOperatingPointChange (aMHz fMHz : Nat) (s : State) : Host.Outcome State Fault Refusal :=
  .next (if 400 ≤ aMHz ∧ aMHz ≤ 850 ∧ 800 ≤ fMHz ∧ fMHz ≤ 1700 ∧ aMHz ≤ fMHz ∧ aMHz % 25 = 0 ∧ fMHz % 25 = 0
    then { s with adentoth := { s.adentoth with aMHz := aMHz, fMHz := fMHz } } else s)

/-- POWER_LIMIT_EXCEEDED: the a-clock falls first, the f-clock only after the a-clock has reached 400 MHz (R41). -/
def execPowerLimitExceeded (s : State) : Host.Outcome State Fault Refusal :=
  .next (
    let a := s.adentoth
    if 400 < a.aMHz then { s with adentoth := { a with aMHz := a.aMHz - 25 } }
    else if 800 < a.fMHz then { s with adentoth := { a with fMHz := a.fMHz - 25 } }
    else s)

/-! ## Scrubbing (R466) -/

/-- The HBM stack that holds a place, if one does. -/
def stackOf (place : Nat) : Option Nat := if place < 12 * 2 ^ 36 then some (place / 2 ^ 36) else none

/-- HBM_SCRUB: the controller reads its whole stack; single-bit errors are corrected and logged, others logged. -/
def execHbmScrub (stack : Nat) (s : State) : Host.Outcome State Fault Refusal :=
  .next (
    let here (b : Nat) : Bool := stackOf b == some stack && (s.errorIn b).isEmpty
    let s1 := (s.soft.filter here).foldl (fun s b => s.logCorrectedAs 0x0A (hbmSrc b) b 0) { s with soft := s.soft.filter (fun b => !here b) }
    (s.bad.filter here).foldl (fun s b => s.logError 0x0B (hbmSrc b) 0 1 (BitVec.ofNat 64 b) 0) s1)

/-! ## Errors that arise (R464, R466, R467; log entry 83) -/

/-- An error arises in the word that holds a place of HBM or of a Plateau bank: one bit in HBM or in the copy of a home cache that has the line is
corrected on the next read, two are not; a bank's parity sees any (R466, R467). -/
def State.upset (s : State) (place : Nat) (double cache : Bool) : State :=
  let w := eccUnit place
  if (placeBank place).isSome then { s with bad := w :: s.bad.filter (· != w) }
  else if (stackOf place).isNone || (cache && (s.homesOf w).isEmpty) then s
  else
    let s := { s with cacheErr := if cache then w :: s.cacheErr.filter (· != w) else s.cacheErr }
    if double || s.soft.contains w || s.bad.contains w then { s with bad := w :: s.bad.filter (· != w), soft := s.soft.filter (· != w) }
    else { s with soft := w :: s.soft }

end Sys2Proof.Machine
end

