-- ==== Sys2Proof/Machine/CtlRegs.lean ====
section
/-! DEFINITION. The control and management registers of Vales, positions, dies and functions (spec/02 R60; spec/04 R118, R120, R134,
R136; spec/09 R262; spec/10 R308; spec/12 R329; spec/13 R364; spec/14 R382, R506; spec/15 R411; spec/16 R448, R457, R460, R465, R469 to
R471): what each reads as and what a write does (R7, R9). -/

namespace Sys2Proof.Machine

/-! ## Vale registers -/

/-- CORECFG: a class of 3 written leaves the slot's class unchanged (R411). -/
def State.writeClasses (s : State) (p : Nat) (x : W64) : State :=
  s.modPosition p (fun q => { q with cls := (List.range 8).foldl (fun c i =>
    let n := bitsOf x (2 * i + 1) (2 * i)
    if n = 3 then c else (c &&& ~~~((3 : W16) <<< (2 * i))) ||| (BitVec.ofNat 16 n <<< (2 * i))) q.cls })

/-- TRPL: a PBYTES above 256 or not a multiple of 8 is rejected and logged (R364). -/
def State.writePipe (s : State) (v i : Nat) (x : W64) (src : Nat) : State :=
  let pbytes := bitsOf x 20 12
  if 256 < pbytes || pbytes % 8 != 0 then s.logOpen 0x16 src (s.vale v).func 1 0
  else s.modVale v (fun y => { y with trpl := y.trpl.put i (x.truncate 25 &&& 0x1FFF0F8) })

/-- TRPL_WRITE. -/
def execTrplWrite (vale n : Nat) (val : W64) (s : State) : Host.Outcome State Fault Refusal :=
  .next (if n < 16 then s.writePipe vale n val (srcNum (vale / 24) (vale % 24) 0 0) else s)

/-- PMSEL: a write that would give two counters of a Vale one FUNC and VSLOT has no effect (R471); what the counter has counted stays in it. -/
def State.writeSelector (s : State) (v i : Nat) (x : W64) : State :=
  let y : BitVec 24 := x.truncate 24 &&& 0xFF0FFF
  if (List.range 16).any (fun j => j != i && selFunc ((s.vale v).sel j) == selFunc y && selSlot ((s.vale v).sel j) == selSlot y) then s
  else (s.counterSettle v i).modVale v (fun z => { z with pmsel := z.pmsel.put i y })

/-- PMSEL_WRITE. -/
def execPmselWrite (vale n : Nat) (val : W64) (s : State) : Host.Outcome State Fault Refusal :=
  .next (if n < 16 then s.writeSelector vale n val else s)

/-- COUNTER_OVERFLOW: a counter of an event whose number is left open passes its end (R474); the others wrap as they count. -/
def execCounterOverflow (vale n : Nat) (s : State) : Host.Outcome State Fault Refusal :=
  .next (
    let x := s.vale vale
    let fn := selFunc (x.sel n)
    if n < 16 && x.counts n fn (openEvent fn) then (s.setVale vale { x with pmc := x.pmc.put n 0 }).counterWraps vale n else s)

/-- CTGTB and CTSLOT hold one value in every Vale of a partition: a write reaches each Vale of the same function, and on a Vale that is switched to
another function what stands saved for this one (R329; log entry 89). -/
def State.writeTargets (s : State) (v : Nat) (g : Vale → Vale) : State :=
  let fn := (s.vale v).func
  (List.range Config.vales).foldl (fun s w =>
    if (s.vale w).func == fn then s.modVale w g
    else if (s.vale w).other == some fn then
      let x := s.savedVale w fn
      { s with saves := s.saves.put (w * 16 + fn) { x with vale := g x.vale } }
    else s) s

/-- A write of register `n` of a Vale, by a unit with source number `src`. Read-only and reserved fields stay as they are. -/
def State.writeValeReg (s : State) (v n : Nat) (x : W64) (src : Nat) : State :=
  let i := n % 16
  if n = 0x110 then s.modVale v (fun y => { y with gwait := if lo32 x = 0 then 1 else lo32 x })
  else if n = 0x111 then s.modVale v (fun y => { y with spinLimit := x.truncate 16 })
  else if n = 0x201 then s.modVale v (fun y => { y with tvec := vecAddr x })
  else if n = 0x202 then s.modVale v (fun y => { y with svec := vecAddr x })
  else if n = 0x220 then s.writeCmap v x
  else if n = 0x221 then s.modVale v (fun y => { y with hbper := lo32 x })
  else if n / 16 = 0x23 then s.modVale v (fun y => { y with pmc := y.pmc.put i (x.truncate 48) })
  else if n / 16 = 0x24 then s.writeSelector v i x
  else if n = 0x250 then s.modVale v (fun y => { y with pmov := y.pmov &&& ~~~(x.truncate 16) })
  else if n = 0x280 then s.modVale v (fun y => { y with dbga0 := x &&& 0x7FFFFFFFFFFFFE })
  else if n = 0x281 then s.modVale v (fun y => { y with dbga1 := x &&& 0x7FFFFFFFFFFFFE })
  else if n = 0x282 then s.modVale v (fun y => { y with dbgss := x })
  else if n = 0x283 then s.modVale v (fun y => { y with dbgsw := x.truncate 10 &&& 0x37F })
  else if n = 0x2A0 then s.writeTargets v (fun y => { y with ctgtb := x &&& 0x7FFFFFFFFFE000 })
  else if n = 0x2A1 then s.writeTargets v (fun y => { y with ctTop := x.extractLsb' 12 6, ctNslot := x.truncate 5 })
  else if n / 16 = 0x2B then s.writePipe v i x src
  else if n = 0x2C0 then s.modVale v (fun y => { y with sblk := x.truncate 25 &&& 0x1FF01FF })
  else if 0x310 ≤ n ∧ n < 0x400 ∧ i ≠ 0 then s.modVale v (fun y => { y with templ := y.templ.put (n - 0x300) (x.truncate 16) })
  else if 0x400 ≤ n ∧ n < 0x480 ∧ n % 4 ≤ 1 then s.writeOverflow (v * 32 + (n - 0x400) / 4) (n % 4 == 1) x
  else if 0x600 ≤ n ∧ n < 0x620 then s.writeClasses (v * 32 + (n - 0x600)) x
  else s

/-- Register `n` of a Vale as it reads; a number that names none, such as the reserved 0x300 + 16t of R118, reads 0 (log entry 121). -/
def State.readValeReg (s : State) (v n : Nat) : W64 × State :=
  let x := s.vale v
  let i := n % 16
  let at_ (y : W64) : W64 × State := (y, s)
  if n = 0x110 then at_ (x.gwait.zeroExtend 64)
  else if n = 0x111 then at_ (x.spinLimit.zeroExtend 64)
  else if n = 0x201 then at_ x.tvec
  else if n = 0x202 then at_ x.svec
  else if n = 0x220 then at_ x.cmapWord
  else if n = 0x221 then at_ (x.hbper.zeroExtend 64)
  else if n / 16 = 0x23 then s.counterRead v i
  else if n / 16 = 0x24 then at_ ((x.sel i).zeroExtend 64)
  else if n = 0x250 then at_ (x.pmov.zeroExtend 64)
  else if n = 0x280 then at_ x.dbga0
  else if n = 0x281 then at_ x.dbga1
  else if n = 0x282 then at_ x.dbgss
  else if n = 0x283 then at_ (x.dbgsw.zeroExtend 64)
  else if 0x290 ≤ n ∧ n < 0x294 then at_ (s.engine (v * 4 + (n - 0x290))).mcol
  else if n = 0x2A0 then at_ x.ctgtb
  else if n = 0x2A1 then at_ (BitVec.ofNat 64 (x.ctTop.toNat * 2 ^ 12 + x.ctNslot.toNat))
  else if n / 16 = 0x2B then at_ ((x.trpl.getD i 0).zeroExtend 64)
  else if n = 0x2C0 then at_ (x.sblk.zeroExtend 64)
  else if 0x300 ≤ n ∧ n < 0x400 ∧ i ≠ 0 then at_ ((x.tmpl ((n - 0x300) / 16) i).zeroExtend 64)
  else if 0x400 ≤ n ∧ n < 0x480 then
    let q := s.position (v * 32 + (n - 0x400) / 4)
    at_ (match n % 4 with
      | 0 => q.ovBase
      | 1 => q.ovSlots.zeroExtend 64
      | 2 => BitVec.ofNat 64 (q.overflow.length * 2 ^ 32 + q.inbox.length)
      | _ => 0)
  else if 0x600 ≤ n ∧ n < 0x620 then at_ ((s.position (v * 32 + (n - 0x600))).cls.zeroExtend 64)
  else at_ 0

/-! ## Die registers (R382, R411) -/

/-- Are the two functions of a WSCTL the two partitions time-sliced on every Vale that it names, at most 8 (R439)? -/
def State.switchOk (s : State) (d : Nat) (x : W64) : Bool :=
  let vs := ((List.range 24).filter (fun v => x.getLsbD v)).map (fun v => s.vale (d * 24 + v))
  let i := bitsOf x 31 28
  let o := bitsOf x 27 24
  decide (vs.length ≤ 8) && vs.all (fun v => (v.func == o && v.other == some i) || (v.func == i && v.other == some o))

/-- A write of WSCTL: nothing while BUSY; a switch that may not be is logged; else it begins. -/
def State.writeSwitch (s : State) (d : Nat) (x : W64) (src : Nat) : State :=
  if (s.die d).wsOp.isSome then s
  else if s.switchOk d x then s.modDie d (fun y => { y with wsOp := some (x &&& 0xFFFFFFFF) })
  else s.logOpen 0x16 src (bitsOf x 27 24) 1 0

/-- A write of CTXCTL: nothing while BUSY; OP 1 LOAD and 2 TEARDOWN begin, the others do nothing. -/
def State.writeCtxctl (s : State) (d : Nat) (x : W64) : State :=
  let op := bitsOf x 9 8
  if (s.die d).ctxOp.isSome || !(op == 1 || op == 2) then s
  else s.modDie d (fun y => { y with ctxOp := some (op, bitsOf x 7 0) })

/-- A write of register `n` of a die. -/
def State.writeDieReg (s : State) (d n : Nat) (x : W64) (src : Nat) : State :=
  if n = 0x210 then s.modDie d (fun y => { y with parklim := lo32 x })
  else if n = 0x211 then s.modDie d (fun y => { y with ctxtb := x &&& 0xFFFFFFFFC000 })
  else if n = 0x212 then s.modDie d (fun y => { y with swapb := x &&& 0xFFFFFFFFFFFF0000 })
  else if n = 0x213 then s.modDie d (fun y => { y with wtype := x.truncate 8 })
  else if n = 0x214 then s.modDie d (fun y => { y with tdwait := lo32 x })
  else if n = 0x215 then s.writeCtxctl d x
  else if n = 0x216 then s.writeSwitch d x src
  else if 0x500 ≤ n ∧ n < 0x540 then s.modDie d (fun y => { y with lqcfg := y.lqcfg.put (n - 0x500) (x.truncate 16 &&& 0xF007) })
  else s

/-- Register `n` of a die as it reads. -/
def State.readDieReg (s : State) (d n : Nat) : W64 :=
  let x := s.die d
  if n = 0x210 then x.parklim.zeroExtend 64
  else if n = 0x211 then x.ctxtb
  else if n = 0x212 then x.swapb
  else if n = 0x213 then x.wtype.zeroExtend 64
  else if n = 0x214 then x.tdwait.zeroExtend 64
  else if n = 0x215 then BitVec.ofNat 64 (bit x.ctxOp.isSome 63 + bit x.ctxErr 62)
  else if n = 0x216 then BitVec.ofNat 64 (bit x.wsOp.isSome 63)
  else if 0x500 ≤ n ∧ n < 0x540 then (x.lqcfg.getD (n - 0x500) 0).zeroExtend 64
  else 0

/-- Numbers of the registers that are one for a die. -/
def dieReg (n : Nat) : Bool := (decide (0x210 ≤ n) && decide (n ≤ 0x216)) || (decide (0x500 ≤ n) && decide (n < 0x540))

/-! ## BAR 2 and the submission pages (R447, R448, R457, R460, R465, R477)

The spec gives these registers and not their numbers: 0 ELBASE, 1 ELHEAD, 2 ELTAIL, 3 ELLOST, 4 HCTX, 5 HFWAIT in ticks, 6 the power limit
in watts, 0x10 + p PEERMAP[p], 0x20 + port PCTX, 0x1000 + n the binding of page n (bit 63 bound, bits 15:14 die, 13:8 queue, 7:0
context), 0x100000 + i word i of BAR 4's window, 0xA00000 + 4v + n VPMC n of Vale v, and, of the physical function, 7 ADMSTAT and 0xB00000 + 4i + j word j
of entry i of the package log, which its mailbox reads; a page's registers are numbered by their offset. -/

/-- Bytes at an offset of a list, which zeros fill up to there. -/
def patchAt (l : List Byte) (off : Nat) (bs : List Byte) : List Byte :=
  patch (l ++ List.replicate (off - l.length) 0) off bs

/-- A write to BAR 2 or BAR 4 of a function. PEERMAP, PCTX, the power limit and the window are the physical function's; a power
limit above 2,400 W is stored as 2,400 (log entry 116). -/
def State.writeBar (s : State) (fn n : Nat) (x : W64) : State :=
  if n = 0 then s.modFunc fn (fun f => { f with elbase := x &&& 0xFFFFFFFFFFFFF000, ellog2 := bitsOf x 3 0 })
  else if n = 2 then s.modFunc fn (fun f => { f with eltail := lo32 x })
  else if n = 4 then s.modFunc fn (fun f => { f with hctx := bitsOf x 7 0 })
  else if n = 5 then s.modFunc fn (fun f => { f with hfwait := (lo32 x).toNat })
  else if 0x1000 ≤ n ∧ n < 0x1400 then
    s.modFunc fn (fun f =>
      let p := f.pages.getD (n - 0x1000) {}
      let b := if x.getLsbD 63 then some (bitsOf x 15 14, bitsOf x 13 8, bitsOf x 7 0) else none
      { f with pages := f.pages.put (n - 0x1000) { p with bound := b } })
  else if fn ≠ 0 then s
  else if n = 6 then { s with adentoth := { s.adentoth with powerLimit := min (lo32 x).toNat 2400 } }
  else if 0x10 ≤ n ∧ n < 0x20 then { s with peermap := s.peermap.put (n - 0x10) (lo32 x &&& 0x83FF0007) }
  else if 0x20 ≤ n ∧ n < 0x28 then { s with pctx := s.pctx.put (n - 0x20) (bitsOf x 7 0) }
  else if 0x100000 ≤ n ∧ n < 0x900000 then
    { s with adentoth := { s.adentoth with window := patchAt s.adentoth.window (8 * (n - 0x100000)) (bytesLE 8 x.toNat) } }
  else s

def State.page (s : State) (fn n : Nat) : Page := (s.func fn).pages.getD n {}
def State.modPage (s : State) (fn n : Nat) (g : Page → Page) : State :=
  s.modFunc fn (fun f => { f with pages := f.pages.put n (g (f.pages.getD n {})) })

/-- CRBASE: nothing while a record is open or with a CRLOG2 outside 4 to 12 (R448). -/
def State.writeRing (s : State) (fn n : Nat) (x : W64) : State :=
  let l := bitsOf x 3 0
  if !(s.page fn n).opens.isEmpty || l < 4 || 12 < l then s
  else s.modPage fn n (fun p => { p with crbase := x &&& 0xFFFFFFFFFFFFF000, crlog2 := l })

/-- The die of a port: 0 and 1 for the host's, 2 + p for UALink port p (R14). -/
def portDie : Nat → Nat
  | 0 => 0
  | 1 => 3
  | p + 2 => p / 2 % 4

/-- The source number of a port: position 2 + its own number among the host's or the UALink ports (R461). -/
def portSrc (port : Nat) : Nat := srcNum (portDie port) 30 (if port < 2 then 2 + port else port) 14

/-- An entry for what a host port has refused; choice 1 is host port 1 (log entry 1). -/
def State.logPort (s : State) (cause fn : Nat) : State :=
  let c := s.choose 2
  c.2.logOpen cause (portSrc c.1) fn 1 0

/-- A posted write to the submission window is dropped and logged (R450). -/
def State.postedSubmit (s : State) (fn : Nat) : State := s.logPort 0x16 fn

/-- OLDEST_OPEN (R448). -/
def Page.oldest (p : Page) : W32 := match p.opens with | r :: _ => r.hseq | [] => p.submitSeq + 1

/-- OPENMAP (R448). -/
def Page.openMap (p : Page) : W64 := p.opens.foldl (fun m r => m ||| ((1 : W64) <<< (r.hseq - p.oldest).toNat)) 0

/-- A register of a submission page as the host reads it: SUBMIT and the reserved offsets read as 0 (R9, R448). -/
def Page.readReg (p : Page) (num : Nat) : W64 :=
  if num = 0x80 then p.submitSeq.zeroExtend 64
  else if num = 0x88 then p.doneSeq.zeroExtend 64
  else if num = 0x90 then BitVec.ofNat 64 (p.opens.length * 2 ^ 32 + p.oldest.toNat)
  else if num = 0x98 then p.openMap
  else if num = 0xA0 then p.crbase + BitVec.ofNat 64 p.crlog2
  else if num = 0xA8 then p.crhead.zeroExtend 64
  else if num = 0xB0 then p.uiaddr
  else if 0x800 ≤ num ∧ num < 0x1000 then (p.history.getD ((num - 0x800) / 32) []).getD (num / 8 % 4) 0
  else 0

/-- A counter of a function's view as the host reads it: the physical one while the function is switched in, else the value that was saved (R473,
R475); one that has never been switched out stands in the physical one. -/
def State.viewHost (s : State) (v fn n : Nat) : W64 × State :=
  let x := (s.savedVale v fn).vale
  match (if (s.vale v).func == fn then none else x.viewOf fn n) with
  | some i => ((x.count i).zeroExtend 64, s)
  | none => s.viewRead v fn n

/-- ADMSTAT (R477). -/
def Adentoth.status (a : Adentoth) : W64 := BitVec.ofNat 64 (a.st % 16 + a.reason % 256 * 2 ^ 8 + a.src % 65536 * 2 ^ 16)

/-- A register of a function's BAR 2 or BAR 4 as it reads. What belongs to the physical function reads as 0 for the others. -/
def State.readBar (s : State) (fn n : Nat) : W64 × State :=
  let f := s.func fn
  let at_ (y : W64) : W64 × State := (y, s)
  if n = 0 then at_ (f.elbase + BitVec.ofNat 64 f.ellog2)
  else if n = 1 then at_ (f.elhead.zeroExtend 64)
  else if n = 2 then at_ (f.eltail.zeroExtend 64)
  else if n = 3 then at_ (f.ellost.zeroExtend 64)
  else if n = 4 then at_ (BitVec.ofNat 64 f.hctx)
  else if n = 5 then at_ (BitVec.ofNat 64 f.hfwait)
  else if 0x1000 ≤ n ∧ n < 0x1400 then
    at_ (match (s.page fn (n - 0x1000)).bound with
      | some (d, q, c) => BitVec.ofNat 64 (2 ^ 63 + d * 2 ^ 14 + q * 2 ^ 8 + c)
      | none => 0)
  else if 0xA00000 ≤ n ∧ n < 0xA00000 + 4 * Config.vales then s.viewHost ((n - 0xA00000) / 4) fn (n % 4)
  else if fn ≠ 0 then at_ 0
  else if n = 6 then at_ (BitVec.ofNat 64 s.adentoth.powerLimit)
  else if n = 7 then at_ s.adentoth.status
  else if 0x10 ≤ n ∧ n < 0x20 then at_ ((s.peermap.getD (n - 0x10) 0).zeroExtend 64)
  else if 0x20 ≤ n ∧ n < 0x28 then at_ (BitVec.ofNat 64 (s.pctx.getD (n - 0x20) 0))
  else if 0x100000 ≤ n ∧ n < 0x900000 then at_ (BitVec.ofNat 64 (ofBytesLE ((s.adentoth.window.drop (8 * (n - 0x100000))).take 8)))
  else if 0xB00000 ≤ n ∧ n < 0xB40000 then
    at_ (match s.adentoth.log[(n - 0xB00000) / 4]? with
      | some e => BitVec.ofNat 64 (ofBytesLE ((e.bytes.drop (8 * (n % 4))).take 8))
      | none => 0)
  else at_ 0

/-- A write to a register of a submission page. -/
def State.writePage (s : State) (fn n num : Nat) (x : W64) : State :=
  if num < 0x80 then s.postedSubmit fn
  else if num = 0xA0 then s.writeRing fn n x
  else if num = 0xA8 then s.modPage fn n (fun p => { p with crhead := lo32 x })
  else if num = 0xB0 then s.modPage fn n (fun p => { p with uiaddr := x &&& 0xFFFFFFFFFFFFFFFC })
  else s

/-! ## REGISTER_WRITE -/

/-- REGISTER_WRITE: a write that reaches a register from outside a unit, or as a unit's CWR does. MCOL is read-only. -/
def State.writeRegister (s : State) (space : RegSpace) (num : Nat) (val : W64) : State :=
  match space with
  | .vale v => if v < Config.vales then s.writeValeReg v num val (srcNum (v / 24) (v % 24) 0 0) else s
  | .position p =>
    if p < Config.vales * 32 then
      (if num = 0x200 then s.writeClasses p val else if num = 0x400 then s.writeOverflow p false val
        else if num = 0x401 then s.writeOverflow p true val else s)
    else s
  | .die d => if d < 4 then s.writeDieReg d num val (srcNum d 31 0 15) else s
  | .engine _ => s
  | .bar2 fn => if fn < 16 then s.writeBar fn num val else s
  | .page fn n => if fn < 16 ∧ n < 1024 then s.writePage fn n num val else s

/-- The register of a space, reserved numbers 0 (R7, R9). -/
def State.registerOf (s : State) (space : RegSpace) (num : Nat) : W64 × State :=
  match space with
  | .vale v => if v < Config.vales then s.readValeReg v num else (0, s)
  | .position p =>
    if p < Config.vales * 32 then
      (if num = 0x200 then s.readValeReg (p / 32) (0x600 + p % 32)
        else if 0x400 ≤ num ∧ num ≤ 0x402 then s.readValeReg (p / 32) (num + 4 * (p % 32)) else (0, s))
    else (0, s)
  | .die d => (if d < 4 then s.readDieReg d num else 0, s)
  | .engine e => (if num = 0x290 then (s.engine e).mcol else 0, s)
  | .bar2 fn => if fn < 16 then s.readBar fn num else (0, s)
  | .page fn n => (if fn < 16 ∧ n < 1024 then (s.page fn n).readReg num else 0, s)

/-- Does a halted package still answer a read: ADMSTAT and the physical function's mailbox, through which the host reads the package log (R478)? -/
def haltedReads (space : RegSpace) (num : Nat) : Bool :=
  match space with
  | .bar2 0 => num == 7 || (decide (0xB00000 ≤ num) && decide (num < 0xB40000))
  | _ => false

/-- The function through whose BAR a read comes. -/
def spaceFn : RegSpace → Nat
  | .bar2 fn => fn
  | .page fn _ => fn
  | _ => 0

/-- A register as a read from outside a unit gives it; none, and Completer Abort, from a halted package (R478). -/
def State.readRegister (s : State) (space : RegSpace) (num : Nat) : Option W64 × State :=
  if s.adentoth.st = 3 ∧ haltedReads space num = false then (none, { s with answers := s.answers ++ [{ dest := spaceFn space, status := 2 }] })
  else let r := s.registerOf space num; (some r.1, r.2)

/-- REGISTER_WRITE. -/
def execRegisterWrite (space : RegSpace) (num : Nat) (val : W64) (s : State) : Host.Outcome State Fault Refusal :=
  .next (s.writeRegister space num val)
/-- CRBASE_WRITE. -/
def execCrbaseWrite (fn page : Nat) (val : W64) (s : State) : Host.Outcome State Fault Refusal := .next (s.writeRing fn page val)
/-- CRHEAD_WRITE. -/
def execCrheadWrite (fn page : Nat) (val : W32) (s : State) : Host.Outcome State Fault Refusal :=
  .next (s.modPage fn page (fun p => { p with crhead := val }))
/-- ELTAIL_WRITE (R465). -/
def execEltailWrite (fn : Nat) (val : W32) (s : State) : Host.Outcome State Fault Refusal :=
  .next (s.modFunc fn (fun f => { f with eltail := val }))

end Sys2Proof.Machine
end

