-- ==== Sys2Proof/Machine/Fetch.lean ====
section
/-! DEFINITION. Fetching and decoding the bundle at a unit's PC (R42, R43, R49, R50, R103, R137), and whether a unit may go on. -/

namespace Sys2Proof.Machine

/-- Is the wait of a unit over, so that its instruction executes again or its next bundle issues? -/
def State.waitOver (s : State) (u : UnitId) : Bool :=
  match (s.com u).wait with
  | .none | .answered _ => true
  | .fault => !s.faulted u
  | .hold id => match s.access id with | some a => a.complete | none => true
  | .job eng id _ => s.jobStatus eng id u != 0
  | .barrier blk n phase =>
    ((s.block blk).bars.getD n {}).ph != phase
  | .barrierTok blk n tok =>
    decide (1 ≤ (((s.block blk).bars.getD n {}).ph - tok).toNat ∧ (((s.block blk).bars.getD n {}).ph - tok).toNat ≤ 2 ^ 31)
  | .lwait _ _ _ woken => woken
  | .gstop _ => true
  | .launchq _ => (s.com u).granted.isSome
  | .copyQueue eng => !s.stoppedOn (s.ctxFunc (s.unitCtx u)) (eng / 4) && decide ((s.jobs.vals.filter (fun j => j.eng == eng && j.status == 0)).length < 64)
  | _ => false

/-- Is the unit where it can issue: a thread in a slot of a live core, a wave of a block on an engine, which has run the steps kept from an engine
that went offline (R309)? -/
def State.placed (s : State) (u : UnitId) : Bool :=
  match u with
  | .thread t =>
    (match (s.thread t).loc with | .slot p _ => !s.posDead p | _ => false)
  | .wave w =>
    (match (s.wave w).c.block with
      | some b => (match (s.block b).swap with | .res | .prk => true | _ => false)
      | none => true)
      && !(s.engine (s.wave w).eng).offline && !(s.engine (s.wave w).eng).leaving && !(s.wave w).steps.any MatStep.kept

/-- Is the unit where it may halt: between bundles, or at an instruction that has not begun; in a repeat body at an iteration boundary
(R109, R437); a fence that waits on a core completes first (R233)? -/
def State.atBoundary (s : State) (u : UnitId) : Bool :=
  (match u with | .thread t => !(s.thread t).slotBit | .wave _ => true)
    && !((s.com u).rpt.act && (s.com u).rpt.pos != 0) && (match (s.com u).after with | none => true | some (.bin ..) => true | _ => false)
    && !(match u, (s.com u).bundle.map Bundle.ci with
        | .thread _, some .fence => true
        | .thread _, some .fenceSt => true
        | _, _ => false)

/-- Does a halt of its partition concern the unit: a user thread or wave, or a supervisor thread that is neither the issuer of the GSTOP nor a
walker task (R437)? -/
def State.haltNames (s : State) (u : UnitId) : Bool :=
  let f := s.func (s.partOf u)
  let walker : Bool := match u with | .thread t => (s.thread t).task.any TaskInfo.walker | .wave _ => false
  !walker && ((f.halted && f.issuer != some u) || s.leavesVale (s.partOf u) (s.unitVale u))

/-- Does the halt of its partition hold the unit: at a boundary, and once the halt is complete wherever it waits? A unit saved by a world switch
does not run. -/
def State.unitHalted (s : State) (u : UnitId) : Bool :=
  (s.com u).away || (s.haltNames u && (s.atBoundary u || (s.func (s.partOf u)).quiet))

/-- May a slot of the unit issue (R75, R403)? -/
def State.runnable (s : State) (u : UnitId) : Bool :=
  s.ready u && s.placed u && !s.unitHalted u && (s.com u).stopped.isEmpty && s.waitOver u

/-- The checks of R49 depend on where the unit runs. -/
def State.decodeCtx (s : State) (u : UnitId) : DecodeCtx :=
  match u with
  | .thread t => { ridge := false, sup := (s.thread t).sup, nv := 0 }
  | .wave w => { ridge := true, sup := false, nv := (s.wave w).nv }

def failCause : DecodeFail → Cause
  | .undefOpcode => .undefOpcode
  | .wrongEngine => .wrongEngine
  | .privileged => .privileged
  | .reservedField => .reservedField
  | .badOperand => .badOperand
  | .badBundle => .badBundle

/-- A trap before the bundle at the PC: on a wave, once the compute stream has completed the A-slots before it or is blocked (R50, R66,
R138). What is due after the bundle whose A-slot a thread fetches again stays due (R67). -/
def State.trapHere (s : State) (u : UnitId) (i : TrapInfo) : State :=
  if (s.com u).after.isSome then (s.modCom u (fun c => { c with bundle := none })).takeTrap u i
  else (s.modCom u (fun c => { c with after := some (.trapHere i), bundle := none })).runAfter u

/-- Does a debug register name the bundle at the PC (R136, R137)? -/
def State.addressMatch (s : State) (u : UnitId) : Bool :=
  let v := s.vale (s.unitVale u)
  let hit (r : W64) : Bool :=
    r.getLsbD (if isRidge u then 2 else 1) && bitsOf r 54 3 == bitsOf (s.pcOf u) 54 3 && decide ((s.pcOf u).toNat < 2 ^ 55)
  !(s.com u).exempt && !s.isSup u && (hit v.dbga0 || hit v.dbga1)

/-- The first bundle of a grid's units gives its TBEGIN (R380). -/
def State.gridBegins (s : State) (u : UnitId) : State :=
  match (s.com u).grid with
  | some g => if (s.grid g).tbegin.isNone && (s.grids.find g).isSome then s.modGrid g (fun x => { x with tbegin := some s.time }) else s
  | none => s

/-- A bundle has been read: it is decoded, and latched or trapped (R49, R50). -/
def State.decodeHere (s : State) (u : UnitId) (w0 w1 : W32) : State :=
  match checkBundle (s.decodeCtx u) w0 w1 with
  | .ok b => (s.gridBegins u).modCom u (fun c => { c with bundle := some b, words := (w0, w1), issued := false })
  | .error (f, n) => s.trapHere u { cause := failCause f, slot := n == 1 }

/-- Fetches the bundle at the PC of a unit (R42): a target that no request may name traps, a page without a valid translation parks the
unit, an error response traps at the PC (R74, R103). -/
def State.fetch (s : State) (u : UnitId) : State :=
  match s.recordStart u with
  | .error (s, _) => s.trapHere u { cause := .accessViolation }
  | .ok s =>
    let pc := s.pcOf u
    if s.addressMatch u then s.trapHere u { cause := .breakpoint }
    else if pc &&& 7 != 0 then s.trapHere u { cause := .misaligned }
    else if s.badAddr u pc 2 then (s.logViolation u pc).trapHere u { cause := .accessViolation }
    else
      let c := s.opCtx u .fetch
      match xlat s (s.opSpace u .fetch) c (s.ctx c).gen (s.unitPos u) 2 pc.toNat with
      | .ok place _ _ =>
        if s.badRead place 8 then s.probeWord u .fetch 8 pc
        else
          let t := (s.useEntry (s.opSpace u .fetch) c pc.toNat).correct place 8 (s.ctxFunc c)
          ((t.homeUse (s.opSpace u .fetch) c (s.unitPos u) pc.toNat place).decodeHere u
            (BitVec.ofNat 32 (s.rd place 4)) (BitVec.ofNat 32 (s.rd (place + 4) 4)))
      | _ => s.probeWord u .fetch 8 pc

/-- The fetch of a unit that is ready and has no bundle latched (BUNDLE_FETCH of spec/95). -/
def execBundleFetch (u : UnitId) (s : State) : Host.Outcome State Fault Refusal :=
  .next (if s.runnable u && (s.com u).bundle.isNone && (s.com u).after.isNone then s.fetch u else s)

end Sys2Proof.Machine
end

