-- ==== Sys2Proof/Machine/System.lean ====
section
/-! DEFINITION. The system class (spec/02 R60; spec/15 R408 to R443): TRAP, SVC, SRET, ERET, control registers, TLBW, TLBI, GSTOP, PMR, TSR
and WFI, and the ends of waits that they give. -/

namespace Sys2Proof.Machine

/-! ## TRAP, SVC, SRET and ERET (R414 to R418) -/

/-- TRAP: its whole bundle, then the trap. -/
def State.trapAfter (s : State) (u : UnitId) (code : W32) : Res :=
  .done (s.modCom u (fun c => { c with after := some (.trap { cause := .trapInstruction, detail := code.zeroExtend 64 }) }))

/-- TRAP. -/
def execTrap (s : State) : Host.Outcome State Fault Refusal := runC s .trap (fun s u => s.trapAfter u 0)
/-- TRAP, lone. -/
def execTrapLone (code : W32) (s : State) : Host.Outcome State Fault Refusal := runC s (.trapLone code) (fun s u => s.trapAfter u code)

/-- SVC: its whole bundle, then the call. A supervisor thread is refused before a repeat body is looked at (log entry 49). -/
def State.callService (s : State) (u : UnitId) (num : W32) : Res :=
  let empty : Bool := match u with | .wave w => (s.wave w).exec == (0 : Mask) | .thread _ => false
  if s.isSup u then .trap s { cause := .badOperand }
  else s.bodyTrap u (
    if empty then .done s
    else if vecAddr (s.vale (s.unitVale u)).svec == 0 then .trap s { cause := .badOperand }
    else .done (s.modCom u (fun c => { c with after := some (.svc num) })))

/-- SVC. -/
def execSvc (s : State) : Host.Outcome State Fault Refusal := runC s .svc (fun s u => s.callService u 0)
/-- SVC, lone. -/
def execSvcLone (num : W32) (s : State) : Host.Outcome State Fault Refusal := runC s (.svcLone num) (fun s u => s.callService u num)

/-- SRET: its whole bundle, then the return. -/
def execSret (s : State) : Host.Outcome State Fault Refusal :=
  runC s .sret (fun s u =>
    let called : Bool := match u with | .thread t => (s.thread t).svc.isSome | .wave _ => false
    if called then .done (s.modCom u (fun c => { c with after := some .sret })) else .trap s { cause := .badOperand })

/-- ERET on the frame at `a`, once the handler's earlier accesses are performed; the handler then ends as by EXIT with code 0. -/
def State.trapReturn (s : State) (u : UnitId) (a : W64) (mode : Nat) (target : W64) : Res :=
  s.after u (fun _ => true) (fun s =>
    match s.frameAt (s.unitVale u) a with
    | none => .trap s { cause := .badOperand }
    | some (f, x) =>
      if mode = 1 ∧ target.toNat % 8 ≠ 0 then .trap s { cause := .misaligned }
      else .done ((s.returnTrap (s.unitVale u) f x mode target).modCom u (fun c => { c with after := some (.exit 0) })))

/-- ERET. -/
def execEret (lone : Bool) (a : Reg6) (s : State) : Host.Outcome State Fault Refusal :=
  runC s (.eret lone a) (fun s u => s.trapReturn u (s.reg u a.toNat) 0 0)
/-- ERET.REDIRECT. -/
def execEretRedirect (a b : Reg6) (s : State) : Host.Outcome State Fault Refusal :=
  runC s (.eretRedirect a b) (fun s u => s.trapReturn u (s.reg u a.toNat) 1 (s.reg u b.toNat))
/-- ERET.KILL. -/
def execEretKill (a : Reg6) (s : State) : Host.Outcome State Fault Refusal :=
  runC s (.eretKill a) (fun s u => s.trapReturn u (s.reg u a.toNat) 2 0)

/-! ## CRD and CWR (R53, R60) -/

/-- Is the unit of the physical function's partition, or a walker task (R411)? -/
def State.physical (s : State) (u : UnitId) : Bool :=
  s.partOf u == 0 || (match u with | .thread t => (s.thread t).task.any TaskInfo.walker | .wave _ => false)

/-- Registers that only the physical function may reach: `write` (R382, R411, R471). -/
def pfOnly (write : Bool) (n : Nat) : Bool :=
  (decide (0x500 ≤ n) && decide (n < 0x540)) || (write && (dieReg n || (decide (0x230 ≤ n) && decide (n ≤ 0x250))))

/-- May a unit that is not of the physical function reach such a register: a walker task some, LQCFG only supervisor code of its partition (R382,
R411)? -/
def State.pfHolds (s : State) (u : UnitId) (n : Nat) : Bool :=
  if 0x500 ≤ n ∧ n < 0x540 then s.partOf u == 0 else s.physical u

/-- Does a CRD or CWR of a wave wait for A-slots before it: for FPST and FPCTL, until all have completed, an MMA's step with them (R155, R299);
for the matrix registers, until the MMA-class instructions, which sample and advance them, have issued (R279)? -/
def State.crWaits (s : State) (u : UnitId) (n : Nat) : Bool :=
  match u with
  | .wave w => ((n == 1 || n == 2) && !((s.wave w).lead.isEmpty && (s.wave w).steps.isEmpty))
    || (decide (0x10 ≤ n) && decide (n ≤ 0x14) && (s.wave w).mmaAhead)
  | .thread _ => false

/-- A control register as a unit reads it. -/
def State.readControl (s : State) (u : UnitId) (n : Nat) : W64 × State :=
  let c := s.com u
  let v := s.unitVale u
  let own : Option W64 := match u with
    | .thread t =>
      let x := s.thread t
      if n = 0x203 then some (BitVec.ofNat 64 (x.sctx % 256 * 2 ^ 8 + bit x.phys 0)) else if n = 0x204 then some x.sinfo else none
    | .wave w =>
      let x := s.wave w
      if n = 0x10 then some (x.mfa.zeroExtend 64) else if n = 0x11 then some (x.mfb.zeroExtend 64)
      else if n = 0x12 then some (x.msa.zeroExtend 64) else if n = 0x13 then some (x.msb.zeroExtend 64)
      else if n = 0x14 then some (x.mring.zeroExtend 64) else none
  match own with
  | some x => (x, s)
  | none =>
    if n = 0 then (s.sstat u, s)
    else if n = 1 then (c.fpctl.zeroExtend 64, s)
    else if n = 2 then (c.fpst.zeroExtend 64, s)
    else if n = 3 then (c.rpt.word, s)
    else if 0x120 ≤ n ∧ n ≤ 0x123 then s.viewRead v (s.unitFunc u) (n - 0x120)
    else if n = 0x200 then s.readValeReg v (0x600 + s.unitPos u % 32)
    else if dieReg n then (s.readDieReg (s.unitDie u) n, s)
    else s.readValeReg v n

/-- A unit's write of its own registers: SSTAT's DZ and OV and FPST clear where 1 is written (R79, R152). -/
def State.writeOwn (s : State) (u : UnitId) (n : Nat) (x : W64) : State :=
  match u with
  | .wave w => if n < 0x10 then s.modCom u (fun c =>
        if n = 0 then { c with dz := c.dz && !x.getLsbD 0, ov := c.ov && !x.getLsbD 1 }
        else if n = 1 then { c with fpctl := x.truncate 6 }
        else if n = 2 then { c with fpst := c.fpst &&& ~~~(x.truncate 6) } else c)
    else s.modWave w (fun y =>
      if n = 0x10 then { y with mfa := x.truncate 4 } else if n = 0x11 then { y with mfb := x.truncate 4 }
      else if n = 0x12 then { y with msa := x.truncate 20 } else if n = 0x13 then { y with msb := x.truncate 20 &&& 0xC00FF }
      else if n = 0x14 then { y with mring := x.truncate 21 &&& 0x1F1F1F } else y)
  | .thread t => if n = 0x203 then s.modThread t (fun y => { y with sctx := bitsOf x 15 8, phys := x.getLsbD 0 })
    else s.modCom u (fun c =>
        if n = 0 then { c with dz := c.dz && !x.getLsbD 0, ov := c.ov && !x.getLsbD 1 }
        else if n = 1 then { c with fpctl := x.truncate 6 }
        else if n = 2 then { c with fpst := c.fpst &&& ~~~(x.truncate 6) } else c)

/-- A control register as a unit writes it. -/
def State.writeControl (s : State) (u : UnitId) (n : Nat) (x : W64) : State :=
  if n < 0x100 || n == 0x203 then s.writeOwn u n x
  else if n = 0x200 then s.writeClasses (s.unitPos u) x
  else if dieReg n then s.writeDieReg (s.unitDie u) n x (s.unitSrc u)
  else s.writeValeReg (s.unitVale u) n x (s.unitSrc u)

/-- CRD. -/
def execCrd (d : Reg6) (num : BitVec 12) (s : State) : Host.Outcome State Fault Refusal :=
  runC s (.crd d num) (fun s u =>
    let n := num.toNat
    if pfOnly false n && !s.pfHolds u n then .trap s { cause := .privileged }
    else if s.crWaits u n then .stall s
    else
      let r := s.readControl u n
      .done (r.2.setReg u d.toNat r.1))

/-- CWR. -/
def execCwr (a : Reg6) (num : BitVec 12) (s : State) : Host.Outcome State Fault Refusal :=
  runC s (.cwr a num) (fun s u =>
    let n := num.toNat
    if pfOnly true n && !s.pfHolds u n then .trap s { cause := .privileged }
    else if s.crWaits u n then .stall s
    else
      let t := s.writeControl u n (s.reg u a.toNat)
      -- a write of CMAP may end the core that issues it
      if t.unitExists u then .done t else .gone t)

/-! ## Faults and their reply (R428, R429) -/

/-- Does a lane wait in a cache for the walk of a page? -/
def State.laneOnWalk (s : State) (w : Walk) (a : Access) (l : ALane) : Bool :=
  let va := (laneVa a.op l).toNat
  l.st == .walk && a.ctx == w.ctx && va / 2 ^ 16 == w.page
    && cacheDie (if inPlateau va then 192 + windowPos va / 32 else s.sliceOf a.ctx va) == w.die

/-- Does a wait of a job, or of the device's own, name the walk's page? -/
def onWalk (w : Walk) (c : Nat) (p : Option (Nat × Nat)) : Bool :=
  c == w.ctx && p.any (fun (e : Nat × Nat) => cacheDie e.1 == w.die && e.2 / 2 ^ 16 == w.page)

def State.pageCtx (s : State) (fn n : Nat) : Nat := match (s.page fn n).bound with | some b => b.2.2 | none => 0

/-- Every wait of the device's own: of grids, of work records and of host and peer accesses. -/
def State.mapWaits (s : State) (f : Nat → PageWait → PageWait) : State :=
  { s with
    grids := s.grids.map (fun e => (e.1, { e.2 with pw := f e.2.ctx e.2.pw }))
    remotes := s.remotes.map (fun r => { r with pw := f (match r.peer with | some p => s.pctx.getD p 0 | none => (s.func r.func).hctx) r.pw })
    funcs := s.funcs.map (fun e => (e.1, { e.2 with pages := e.2.pages.map (fun p =>
      (p.1, { p.2 with opens := p.2.opens.map (fun r => { r with pw := f ((p.2.bound.map (fun b => b.2.2)).getD 0) r.pw })
                       completions := p.2.completions })) })) }

/-- The addresses of the waits of the device's own that stand on a walk. -/
def State.ownWaits (s : State) (w : Walk) : List W64 :=
  let va (c : Nat) (p : PageWait) : List W64 := if onWalk w c p.walk then p.walk.toList.map (fun e => BitVec.ofNat 64 e.2) else []
  s.grids.flatMap (fun e => va e.2.ctx e.2.pw)
    ++ s.remotes.flatMap (fun r => va (match r.peer with | some p => s.pctx.getD p 0 | none => (s.func r.func).hctx) r.pw)
    ++ s.funcs.flatMap (fun e => e.2.pages.flatMap (fun p => p.2.opens.flatMap (fun r => va ((p.2.bound.map (fun b => b.2.2)).getD 0) r.pw)))

/-- Does a PF wait for a walk? -/
def State.fillsOnWalk (s : State) (w : Walk) (p : Prefetch) : Bool :=
  onWalk w p.ctx (some (if inPlateau p.va then 192 + windowPos p.va / 32 else s.sliceOf p.ctx p.va, p.va))

/-- A message whose overflow region faults is refused with FULL, and its interface logs it (R262). -/
def State.refuseMessage (s : State) (a : Access) (ln : ALane) : State :=
  (s.modLane a.id ln.lane (fun x => { x with data := 1, st := .perf, fwd := none })).overflowFailed
    (if inLocal ln.ea.toNat then a.pos else windowPos ln.ea.toNat) a.ctx

/-- A walk that ends with V = 0: the page's fault entry is opened or joined, and every access waiting on the walk stands on it (R426); but for a
message, which is refused, and a PF, which is dropped without a fault (R220, R262). -/
def State.failWalk (s : State) (w : Walk) : State :=
  let stands : List (Access × ALane) := s.accesses.flatMap (fun a => (a.lanes.filter (s.laneOnWalk w a)).map (fun l => (a, l)))
  let msgs := stands.filter (fun e => (msgWords e.1.op e.2).isSome)
  let lanes := stands.filter (fun e => (msgWords e.1.op e.2).isNone)
  let jobs := s.jobs.vals.filterMap (fun j => if onWalk w j.ctx j.waitWalk then j.waitWalk.map (fun e => BitVec.ofNat 64 e.2) else none)
  let vas := lanes.map (fun e => laneVa e.1.op e.2) ++ jobs ++ s.ownWaits w
  let drops := s.prefetches.any (s.fillsOnWalk w)
  let s := msgs.foldl (fun s e => s.refuseMessage e.1 e.2) { s with prefetches := s.prefetches.filter (fun p => !s.fillsOnWalk w p) }
  if vas.isEmpty && (drops || !msgs.isEmpty) then s
  else
    let va := vas.foldl (fun m x => if x < m then x else m) ((vas.head?).getD (BitVec.ofNat 64 (w.page * 2 ^ 16)))
    let units := (lanes.map (fun e => e.1.unit)).eraseDups
    let r := s.openFault w.die w.ctx va w.kinds false (cacheSrc (w.caches.headD 0)) (units.length + jobs.length)
    match r.1 with
    | none => r.2
    | some t =>
      let s1 := { r.2 with
        accesses := r.2.accesses.map (fun (a : Access) =>
          { a with lanes := a.lanes.map (fun l => if s.laneOnWalk w a l then { l with st := LaneSt.table t } else l) })
        jobs := r.2.jobs.map (fun (e : Nat × Job) => if onWalk w e.2.ctx e.2.waitWalk then (e.1, { e.2 with waitTok := some t }) else e) }
      let s2 := s1.mapWaits (fun c p => if onWalk w c p.walk then { p with walk := none, tok := some t } else p)
      -- HFWAIT counts from the fault (R457)
      { s2 with remotes := s2.remotes.map (fun (r : Remote) =>
          if s1.remotes.any (fun q => q.id == r.id && q.pw.tok != r.pw.tok) then { r with until_ := some (s2.time + (s2.func r.func).hfwait) } else r) }

/-- PMR with verdict REPLAY: every lane on the entry is ready to replay (R429). -/
def State.replayToken (s : State) (t : Nat) : State :=
  { s with accesses := s.accesses.map (fun (a : Access) =>
      { a with lanes := a.lanes.map (fun l => if l.st == .table t then { l with st := LaneSt.held } else l) }) }

/-- PMR with verdict ERROR: every lane on the entry is an error lane, with its log entry; jobs end with status ERROR at the address for which
they wait. -/
def State.errorToken (s : State) (t : Nat) : State :=
  let hit : List (Access × ALane) := s.accesses.flatMap (fun a => (a.lanes.filter (fun l => l.st == .table t)).map (fun l => (a, l)))
  let s1 := hit.foldl (fun s e => s.laneError e.1 e.2) s
  let ids := (hit.map (fun e => e.1.id)).eraseDups
  let s1 := ids.foldl State.reap s1
  let jobs := s1.jobs.filterMap (fun e => if e.2.waitTok == some t then some e.1 else none)
  let va (s : State) (k : Nat) : W64 := ((s.jobs.find k).bind (fun j => j.waitWalk.map (fun e => BitVec.ofNat 64 e.2))).getD 0
  let s1 := jobs.foldl (fun (r : State) k => (r.failJob k (va r k)).giveUp k ((va r k).toNat / 2 ^ 16)) s1
  s1.mapWaits (fun _ p => if p.tok == some t then { p with failed := true } else p)

/-- PMR. -/
def State.answerToken (s : State) (t : Nat) (error : Bool) : W64 × State :=
  match s.faults.find? (fun f => f.token == t) with
  | none => (1, s)
  | some f =>
    let s := if error then s.errorToken t else s.replayToken t
    (0, { s with faults := s.faults.filter (fun g => !(g.die == f.die && g.idx == f.idx)) })

/-- PMR (R429). -/
def execPmr (d a b : Reg6) (s : State) : Host.Outcome State Fault Refusal :=
  runC s (.pmr d a b) (fun s u =>
    let r := s.answerToken (bitsOf (s.reg u a.toNat) 15 0) ((s.reg u b.toNat).getLsbD 0)
    .done (r.2.setReg u d.toNat r.1))

/-- How many groups and jobs wait on an entry now. -/
def State.waitingOn (s : State) (t : Nat) : Nat :=
  (((s.accesses.filter (fun a => a.lanes.any (fun l => l.st == .table t))).map Access.unit).eraseDups).length
    + (s.jobs.filter (fun e => e.2.waitTok == some t)).length

/-- Is the message of a fault entry, by die · 1,024 + index, due to be sent again? -/
def State.faultDue (s : State) (entry : Nat) : Option FaultTab :=
  s.faults.find? (fun f => f.die * 1024 + f.idx == entry && !f.sent && decide (f.nextTry ≤ s.time))

/-- FAULT_MESSAGE_RETRY (R428). -/
def execFaultMessageRetry (entry : Nat) (s : State) : Host.Outcome State Fault Refusal :=
  .next (match s.faultDue entry with
    | some f => s.sendFault f (s.waitingOn f.token)
    | none => s)

/-! ## TLBW and TLBI (R425 to R427) -/

/-- Do the bits 61:48 of a leaf keep to R420? -/
def leafBits (e : W64) : Bool :=
  let cls := bitsOf e 61 60
  let grain := bitsOf e 59 58
  (if cls = 3 then decide (grain ≤ 2) else grain == 0) && decide (bitsOf e 57 56 ≤ 2)

/-- The operands of a TLBW that trap. -/
def tlbwBad (a e : W64) (size : BitVec 2) : Bool :=
  let n := sizeLog size.toNat
  a.getLsbD 55 || !leafBits e || (!e.getLsbD 62 && e.getLsbD 63) || (size != 0 && bitsOf e 15 0 != 0xFFFF)
    || bitsOf a 54 0 % 2 ^ n != 0 || bitsOf e 47 16 * 2 ^ 16 % 2 ^ n != 0

/-- The live walk that a TLBW answers: its number, its context and page, at the context's GEN. -/
def State.walkAnswered (s : State) (die : Nat) (a : W64) (req : Nat) (n : Nat) : Option Walk :=
  s.walks.find? (fun w => w.die == die && w.req == req && w.ctx == bitsOf a 63 56 && w.page * 2 ^ 16 / 2 ^ n == bitsOf a 54 0 / 2 ^ n
    && !w.stale && w.gen == (s.ctx w.ctx).gen)

/-- TLBW with its operands checked: 1 for a stale walk, whose entry is free; else the walk ends with an install or a fault. -/
def State.endWalk (s : State) (die : Nat) (a e : W64) (req size : Nat) : W64 × State :=
  let n := sizeLog size
  match s.walkAnswered die a req n with
  | none =>
    (1, { s with walks := s.walks.filter (fun w => !(w.die == die && w.req == req && (w.stale || w.gen != (s.ctx w.ctx).gen))) })
  | some w =>
    let s := { s with walks := s.walks.filter (fun x => !(x.die == w.die && x.req == w.req)) }
    if !e.getLsbD 63 then (0, s.failWalk w)
    else
      let va := bitsOf a 54 0
      let keep (t : TcEntry) : Bool := !(t.ctx == w.ctx && t.va / 2 ^ t.size == va / 2 ^ t.size && t.cache.any w.caches.contains)
      let installed := w.caches.map (fun c =>
        ({ cache := some c, ctx := w.ctx, gen := w.gen, va := va, size := n, entry := e } : TcEntry)) ++ s.tcs.filter keep
      (0, { s with tcs := w.caches.foldl (fun l c => keepRecent c 4096 l) installed })

/-- TLBW (R426). -/
def execTlbw (d a b : Reg6) (req : W16) (size : BitVec 2) (s : State) : Host.Outcome State Fault Refusal :=
  runC s (.tlbw d a b req size) (fun s u =>
    let x := s.reg u a.toNat
    let e := s.reg u b.toNat
    if tlbwBad x e size then .trap s { cause := .badOperand }
    else
      let r := s.endWalk (s.unitDie u) x e req.toNat size.toNat
      .done (r.2.setReg u d.toNat r.1))

/-- May the issuer name a function: its own, or any for the physical function and walker tasks (R425)? -/
def State.mayName (s : State) (u : UnitId) (fn : Nat) : Bool := s.partOf u == fn || s.physical u

/-- Entries and walks that a TLBI names are gone, and the lines of the metadata caches; a walk that has started goes on, stale (R427). -/
def State.dropEntries (s : State) (tc : TcEntry → Bool) (wk : Walk → Bool) (ml : MetaLine → Bool) : State :=
  { s with
    tcs := s.tcs.filter (fun e => !tc e)
    walks := (s.walks.filter (fun w => !wk w || w.started)).map (fun w => if wk w then { w with stale := true } else w)
    copies := s.copies.map (fun e => (e.1, { e.2 with metadata := e.2.metadata.filter (fun l => !ml l) })) }

/-- Has every access of the contexts that a TLBI names, which its home has translated, been performed (R427)? -/
def State.translatedOver (s : State) (on : Nat → Bool) : Bool :=
  !s.accesses.any (fun a => on a.ctx && a.lanes.any (fun l => l.st == .forwarded))

/-- The region table of a context, read from its physical address (R423). -/
def State.readRegions (s : State) (rtab : Nat) : List (W64 × W64) :=
  (List.range 64).map (fun e => (BitVec.ofNat 64 (s.rd (rtab + 16 * e) 8), BitVec.ofNat 64 (s.rd (rtab + 16 * e + 8) 8)))

/-- A region entry with V = 1. -/
def regionOf1 (e : W64 × W64) : Region :=
  { base := bitsOf e.1 54 16, last := bitsOf e.2 54 16, dom := bitsOf e.1 14 13,
    hdie := if e.1.getLsbD 12 then some (bitsOf e.1 11 10) else none, die := bitsOf e.1 11 10, vale := bitsOf e.1 9 3 }

def regionsOf (es : List (W64 × W64)) : List Region := (es.filter (fun e => e.1.getLsbD 15)).map regionOf1

/-- The device reloads a context's region table. -/
def State.reloadRegions (s : State) (c : Nat) : State :=
  if (s.ctx c).loaded then s.modCtx c (fun x => { x with regions := regionsOf (s.readRegions x.rtab.toNat) }) else s

/-- TLBI: the removals are done at once; D is 0 once the accesses that they name are performed; a function that is not the issuer's takes
BAD_OPERAND. -/
def State.invalidate (s : State) (u : UnitId) (d : Reg6) (fn : Nat) (tc : TcEntry → Bool) (wk : Walk → Bool) (ml : MetaLine → Bool) (on : Nat → Bool)
    (ctxs : List Nat) : Res :=
  if !s.mayName u fn then .trap s { cause := .badOperand }
  else
    let s := if (s.com u).walk then s else ctxs.foldl State.reloadRegions (s.dropEntries tc wk ml)
    if s.translatedOver on then .done (s.setReg u d.toNat 0) else .stall (s.modCom u (fun c => { c with walk := true }))

/-- TLBI.PAGE. -/
def execTlbiPage (d a : Reg6) (s : State) : Host.Outcome State Fault Refusal :=
  runC s (.tlbiPage d a) (fun s u =>
    let x := s.reg u a.toNat
    let c := bitsOf x 63 56
    let page := bitsOf x 54 16
    s.invalidate u d (s.ctxFunc c) (fun e => e.ctx == c && e.va / 2 ^ e.size == page * 2 ^ 16 / 2 ^ e.size)
      (fun w => w.ctx == c && w.page == page) (fun l => l.ctx == c && l.va / 2 ^ 16 == page) (· == c) [])

/-- TLBI.CTX. -/
def execTlbiCtx (d a : Reg6) (s : State) : Host.Outcome State Fault Refusal :=
  runC s (.tlbiCtx d a) (fun s u =>
    let c := bitsOf (s.reg u a.toNat) 63 56
    s.invalidate u d (s.ctxFunc c) (fun e => e.ctx == c) (fun w => w.ctx == c) (fun l => l.ctx == c) (· == c) [c])

/-- TLBI.FUNC. -/
def execTlbiFunc (d a : Reg6) (s : State) : Host.Outcome State Fault Refusal :=
  runC s (.tlbiFunc d a) (fun s u =>
    let fn := bitsOf (s.reg u a.toNat) 3 0
    let on (c : Nat) : Bool := s.ctxFunc c == fn
    s.invalidate u d fn (fun e => on e.ctx) (fun w => on w.ctx) (fun l => on l.ctx) on (s.ctxs.keys.filter on))

/-! ## GSTOP (R437) -/

def AccOp.isSync : AccOp → Bool
  | .sync .. => true
  | _ => false

/-- The LDSYNC lanes of a unit that wait for a fill are withdrawn; the LDSYNC is sent again for them after the halt (R215). -/
def State.withdraw (s : State) (u : UnitId) : State :=
  { s with
    accesses := s.accesses.map (fun (a : Access) => if a.unit == u && a.op.isSync then
      { a with lanes := a.lanes.map (fun l => if l.st == .waiting then { l with st := LaneSt.pend } else l) } else a)
    waiters := s.waiters.filter (fun w => !(w.unit == u && w.lane.isSome)) }

/-- Has a halting unit nothing under way but faults and withdrawn lanes? -/
def State.atRest (s : State) (u : UnitId) : Bool :=
  (s.accessesOf u).all (fun a => a.lanes.all (fun l => match l.st with
    | .done | .err | .held | .table _ => true
    | .pend => a.op.isSync
    | _ => false))
  && (match u with | .wave w => (s.wave w).steps.isEmpty || (s.engine (s.wave w).eng).offline | .thread _ => true)

/-- The units of a partition that its halt stops, on the Vales that `on` names. -/
def State.haltUnits (s : State) (fn : Nat) (on : Nat → Bool) (issuer : Option UnitId) : List UnitId :=
  s.units.filter (fun u => s.partOf u == fn && on (s.unitVale u) && issuer != some u && !(s.com u).away
    && !(match u with | .thread t => (s.thread t).task.any TaskInfo.walker | .wave _ => false))

/-- Is a wave's compute stream blocked on a queue, and its access stream cannot go on before it: blocked too, or with what is due after its last
bundle? Such a wave halts before the slot, in a repeat body too (R193). -/
def State.queueBlocked (s : State) (u : UnitId) : Bool :=
  match u with
  | .thread _ => false
  | .wave w => s.deadlocked w || ((s.wave w).computeBlocked && (s.wave w).c.after.isSome)

/-- Is a unit halted, or where it issues nothing? -/
def State.unitStopped (s : State) (u : UnitId) : Bool :=
  (s.unitHalted u || !s.placed u || !(s.com u).stopped.isEmpty || !s.waitOver u || s.queueBlocked u) && s.atRest u

/-- Has a Contour unit of the Vales that `on` names begun a step for a unit of the partition, wherever the unit stands, and not completed it (R354)? A
lane that waits for the reply to a fault is no step under way. -/
def State.contourBusy (s : State) (fn : Nat) (on : Nat → Bool) : Bool :=
  s.accesses.any (fun a => (match a.op with | .contour .. => s.ctxFunc a.ctx == fn | _ => false)
    && a.lanes.any (fun l => on (windowPos l.ea.toNat / 32)
      && (l.st == .walk || l.st == .forwarded || l.st == .waiting || (l.st == .pend && l.data2 != 0))))

/-- Is every step of the halt of a partition done on the Vales that `on` names: its units, jobs, range requests, fragments and messages, the
steps of its Contour units, and the loads and ends of block images (R354, R436, R437)? -/
def State.haltDone (s : State) (fn : Nat) (on : Nat → Bool) (issuer : Option UnitId) : Bool :=
  (s.haltUnits fn on issuer).all s.unitStopped
    && s.jobs.vals.all (fun j => !(j.func == fn && on (j.eng / 4)) || j.status != 0
        || (if j.moves.any JobMove.scratch then false else (List.range j.moves.length).all (fun i => !j.midPiece i)))
    && s.reqs.all (fun r => match r.2 with
        | .steal t _ _ => !(s.partOf t == fn && on (s.unitVale t))
        | .frags v c _ _ _ _ _ => !(s.ctxFunc c == fn && on v))
    && !s.contourBusy fn on
    && s.blocks.vals.all (fun k => !(k.swap == .inn || k.swap == .out)
        || !(k.members.any (fun m => s.partOf m == fn) && on ((k.eng.getD 0) / 4)))

/-- The pieces of a halt that the device takes itself: withdrawals. -/
def State.haltStep (s : State) (fn : Nat) (on : Nat → Bool) (issuer : Option UnitId) : State :=
  (s.haltUnits fn on issuer).foldl State.withdraw s

/-- A SLEEP or LWAIT that waits executes again after a halt, with the limit that remains (R405). -/
def State.waitAgain (s : State) (u : UnitId) : State :=
  match s.ownWait u with
  | .sleep _ => (s.dropWaiter u).setOwnWait u .none
  | .lwait ea d next _ => (s.dropWaiter u).setOwnWait u (.lwait ea d next true)
  | _ => s

/-- A unit goes on after a save: a wave's resume is a start on its engine (R237, R402). -/
def State.goOn (s : State) (u : UnitId) : State :=
  let s := s.waitAgain u
  match u with
  | .wave w => let i := s.newId; (i.2.modWave w (fun x => { x with started := i.1 })).l1Acquire u
  | .thread _ => s

/-- GSTOP with MODE STOP. -/
def State.haltPartition (s : State) (u : UnitId) (d : Reg6) (fn : Nat) : Res :=
  let all : Nat → Bool := fun _ => true
  if !s.mayName u fn then .trap s { cause := .badOperand }
  else
    let mine := (s.com u).wait == Wait.gstop fn
    if (s.func fn).halted && !mine then .done (s.setReg u d.toNat 1)
    else
      let s := if mine then s else s.modFunc fn (fun f => { f with halted := true, issuer := some u })
      let s := s.haltStep fn all (some u)
      if s.haltDone fn all (some u) then .done (((s.modFunc fn (fun f => { f with quiet := true })).setWait u .none).setReg u d.toNat 0) else .stall (s.setWait u (.gstop fn))

/-- GSTOP. -/
def execGstop (lone : Bool) (d a : Reg6) (s : State) : Host.Outcome State Fault Refusal :=
  runC s (.gstop lone d a) (fun s u => s.haltPartition u d (bitsOf (s.reg u a.toNat) 3 0))

/-- GSTOP with MODE GO. -/
def State.releasePartition (s : State) (u : UnitId) (d : Reg6) (fn : Nat) : Res :=
  if !s.mayName u fn then .trap s { cause := .badOperand }
  else if !(s.func fn).halted then .done (s.setReg u d.toNat 1)
  else
    let f := s.func fn
    let s := (s.haltUnits fn (fun _ => true) f.issuer).foldl State.goOn s
    .done ((s.setFunc fn { f with halted := false, issuer := none, quiet := false }).setReg u d.toNat 0)

/-- GSTOP.GO. -/
def execGstopGo (d a : Reg6) (s : State) : Host.Outcome State Fault Refusal :=
  runC s (.gstopGo d a) (fun s u => s.releasePartition u d (bitsOf (s.reg u a.toNat) 3 0))

/-! ## TSR and WFI (R442, R443) -/

/-- TSR: the one time of the package, whatever the die or the unit (R39; log entry 91). -/
def execTsr (d : Reg6) (s : State) : Host.Outcome State Fault Refusal :=
  runC s (.tsr d) (fun s u => .done (s.setReg u d.toNat (BitVec.ofNat 64 s.time)))

/-- An event that counts for the slot's next WFI. -/
def State.eventOf (s : State) (u : UnitId) : Bool := match u with | .thread t => (s.thread t).event | .wave _ => false
def State.clearEvent (s : State) (u : UnitId) : State :=
  match u with | .thread t => s.modThread t (fun x => { x with event := false }) | .wave _ => s

/-- WFI: 1 for an event, 2 for the limit; else the slot is not ready. -/
def State.waitEvent (s : State) (u : UnitId) (d : Reg6) (limit : Option W32) : Res :=
  if s.eventOf u then .done ((s.clearEvent u).setReg u d.toNat 1)
  else if limit == some 0 then .done (s.setReg u d.toNat 2)
  else .gone (s.setWait u (.wfi d (limit.map (fun l => s.time + l.toNat))))

/-- WFI. -/
def execWfi (d : Reg6) (s : State) : Host.Outcome State Fault Refusal := runC s (.wfi d) (fun s u => s.waitEvent u d none)
/-- WFI, lone. -/
def execWfiLone (d : Reg6) (limit : W32) (s : State) : Host.Outcome State Fault Refusal :=
  runC s (.wfiLone d limit) (fun s u => s.waitEvent u d (some limit))

/-- What ends a WFI now: 1 an event, 2 the limit. -/
def State.wfiEnd (s : State) (t : Nat) : Option (Reg6 × W64) :=
  match (s.thread t).c.wait with
  | .wfi d lim =>
    if (s.thread t).event then some (d, 1) else if lim.any (fun x => decide (x ≤ s.time)) then some (d, 2) else none
  | _ => none

/-- WFI_WAKE. -/
def execWfiWake (u : Nat) (s : State) : Host.Outcome State Fault Refusal :=
  .next (match s.wfiEnd u with
    | some (d, x) => ((s.clearEvent (.thread u)).setReg (.thread u) d.toNat x).setWait (.thread u) (.answered false)
    | none => s)

end Sys2Proof.Machine
end

