-- ==== Sys2Proof/Machine/Events.lean ====
section
/-! DEFINITION. Steps of the device that end the waits of units and bring accesses to their homes (R65, R115, R123, R129, R130, R213, R225,
R412, R424, R458). -/

namespace Sys2Proof.Machine

/-! ## Accesses under way (R206, R213, R225, R424, R458) -/

/-- The lane of an access in flight. -/
def State.laneOf (s : State) (acc lane : Nat) : Option (Access × ALane) := (s.access acc).bind (fun a => (a.lane lane).map (fun l => (a, l)))

/-- How a lane stands; `done` for none. -/
def State.laneAt (s : State) (acc lane : Nat) : LaneSt := match s.laneOf acc lane with | some (_, l) => l.st | none => .done

/-- MEMORY_ANSWER: the answer of a performed lane arrives. -/
def execMemoryAnswer (acc lane : Nat) (s : State) : Host.Outcome State Fault Refusal :=
  .next (if s.laneAt acc lane == .perf then s.answerLane acc lane else s)

/-- May a lane on its way reach its home now: no earlier access to the same home stands before it (R207, R227), and no halt has withdrawn
it (R215)? -/
def State.lanePending (s : State) (acc lane : Nat) : Bool :=
  match s.laneOf acc lane with
  | some (a, l) => l.st == .pend && s.mayPerform a l && !(a.op.isSync && ((s.com a.unit).away || s.haltNames a.unit))
  | none => false

/-- POINT_OF_PERFORMANCE: an access reaches its home and is performed there; its answer is on its way (R225). -/
def execPointOfPerformance (acc lane : Nat) (s : State) : Host.Outcome State Fault Refusal :=
  .next (if s.lanePending acc lane then s.performLane acc lane else s)

/-- Is the walk for which a lane waits over, so that its cache translates again (R424, R426)? -/
def State.laneWalked (s : State) (acc lane : Nat) : Bool :=
  match s.laneOf acc lane with
  | some (a, l) =>
    let va := (laneVa a.op l).toNat
    l.st == .walk && s.walkReady (if inPlateau va then 192 + windowPos va / 32 else s.sliceOf a.ctx va) a.ctx va
  | none => false

/-- TRANSLATION_MISS: the cache of an access that misses translates it again, or starts or joins the walk of its page (R424). -/
def execTranslationMiss (acc lane : Nat) (s : State) : Host.Outcome State Fault Refusal :=
  .next (if s.laneAt acc lane == .walk then s.performLane acc lane else s)

/-- The source number of the unit that issued an access, which may have ended. -/
def Access.src (a : Access) : Nat :=
  match a.unit with | .thread _ => srcOfPos a.pos 0 | .wave _ => srcNum (a.pos / 768) (a.pos / 32 % 24) 0 (4 + a.pos % 32 / 8)

/-- An answer from the other side for a unit that has ended is dropped, and logged where its context has been torn down since (R440, R441). -/
def State.lateAnswer (s : State) (a : Access) (ln : ALane) : State :=
  let s := if a.gen != (s.ctx a.ctx).gen then s.logOpen 0x03 a.src (s.ctxFunc a.ctx) 1 0 else s
  let s := match a.op.isStore, ln.fwd with | true, some (place, _, _) => s.homeAcked place | _, _ => s
  let s := s.modAccess a.id (fun b => { b with lanes := b.lanes.filter (fun x => x.lane != ln.lane) })
  { s with accesses := s.accesses.filter (fun b => !b.lanes.isEmpty) }

/-- FORWARDED_COMPLETION: the host or a peer answers an access that its home forwarded; choice 1 is an error answer (R458; log entry 1). An access that
waited for caches of the host goes on (R243). -/
def execForwardedCompletion (acc lane : Nat) (s : State) : Host.Outcome State Fault Refusal :=
  .next (match s.laneOf acc lane with
    | some (a, l) =>
      if l.st == .recall then s.performAnswer acc lane
      else if l.st != .forwarded then s
      else if !s.unitExists a.unit then s.lateAnswer a l
      else
        let c := s.choose 2
        ((c.2.forwardOver (c.1 == 1) acc lane).answerLane acc lane).reap acc
    | none => s)

/-- LDSYNC_RETRY: a waiting lane is sent again; neither the program nor the order of the waiting lanes sees it (R213). -/
def execLdsyncRetry (acc lane : Nat) (s : State) : Host.Outcome State Fault Refusal :=
  .next (match s.waiters.find? (fun w => w.lane == some (acc, lane)), s.laneOf acc lane with
    | some w, some (a, l) =>
      if l.st == .waiting && !s.wordEmpty w.key && !s.marked a.ctx l.ea.toNat w.key then s.serveWord w.key else s
    | _, _ => s)

/-! ## Waves (R65, R129, R130) -/

/-- Has the limit of a wave's WAITR ended, with lanes still away, while the count runs: not swapped out, halted or stopped for debug,
though another trap may hold the wave (R130)? -/
def State.waitrOver (s : State) (w : Nat) : Option Reg6 :=
  let x := s.wave w
  match x.c.ownWait, x.stack with
  | .waitr d limit, top :: _ =>
    if top.since.any (fun t => limitOver (s.acount - t) limit) && x.mayTimeout && s.placed (.wave w) && !s.unitHalted (.wave w) && x.c.stopped.isEmpty
    then some d else none
  | _, _ => none

/-- A wave goes on after a wait at a join, by the choice of R129; where nothing can run it waits on. The start of a group that is back is an acquire
(R230, R237). -/
def State.selectPath (s : State) (w : Nat) : State :=
  let r := (s.wave w).select 0
  if r.2 then (s.setWave w { r.1 with c := r.1.c.setOwnWait .none }).l1Acquire (.wave w) else s

/-- WAITR_TIMEOUT (R130). -/
def execWaitrTimeout (w : Nat) (s : State) : Host.Outcome State Fault Refusal :=
  .next (match s.waitrOver w with
    | some d =>
      let x := (s.wave w).timeout d.toNat
      let x := { x with c := x.c.setOwnWait .none }
      if x.exec == 0 then (s.setWave w { x with c := x.c.setOwnWait .joinv }).selectPath w else s.setWave w x
    | none => s)

/-- Is there a path that a wave waiting at a join can run now: a returned group, the lanes at a join that misses none, or a late group? -/
def Wave.canGoOn (x : Wave) : Bool :=
  (firstBack x.stack.length x.groups).isSome
  || (match x.stack with
      | top :: rest => x.missing top (rest.length + 1) == 0 || top.outer &&& x.live == 0
      | [] => x.live == 0 && (firstLate x.lateGroups).isSome)

/-- Does the return of a lane let a wave go on? -/
def State.groupReturned (s : State) (w lane : Nat) : Bool :=
  let x := s.wave w
  (match x.c.wait with | .joinv | .waitr .. => true | _ => false) && !x.absent.getLsbD lane && x.canGoOn

/-- SERVICE_GROUP_RETURN: lanes are back from a service call, and the wave chooses its next path (R129, R131). -/
def execServiceGroupReturn (w lane : Nat) (s : State) : Host.Outcome State Fault Refusal :=
  .next (if s.groupReturned w lane then s.selectPath w else s)

/-- Have both streams of a wave been blocked for 4,096 a-cycles (R65)? -/
def State.deadlockOver (s : State) (w : Nat) : Bool :=
  let c := (s.wave w).c
  c.deadlock.any (fun t => limitOver (s.acount - t) 4096) && s.deadlocked w && c.wait == .none && s.placed (.wave w) && !s.unitHalted (.wave w)
    && c.stopped.isEmpty

/-- QUEUE_DEADLOCK (R65). -/
def execQueueDeadlock (w : Nat) (s : State) : Host.Outcome State Fault Refusal :=
  .next (if s.deadlockOver w then
      (s.modCom (.wave w) (fun c => { c with deadlock := none, bundle := none })).takeTrap (.wave w) { cause := .queueDeadlock }
    else s)

/-! ## Threads that wait for a slot, and traps that wait for a frame (R115, R123, R412) -/

/-- Comes number `n` before what else waits to start in a slot of a class: the next trap of the Vale on a Summit core, and the message that would start
a task (R261, R408)? -/
def State.entersNext (s : State) (p cls n : Nat) : Bool :=
  (if isSummit p && cls == 0 then before n ((s.trapTurn (p / 32)).map (fun m => m.1.arr)) else true)
    && before n ((s.bestMsg p (s.startableMsgs p cls)).map Msg.id)

/-- The thread of a core's inbox that takes a slot next: one that returns there, into its home slot or one of its class, before one that starts
there, each in arrival order (R115, R408). -/
def State.slotWaiter (s : State) (p : Nat) : Option (Nat × Nat × Nat) :=
  let ready (entering : Bool) : List (Nat × Nat) := s.threads.filterMap (fun (e : Nat × Thread) => match e.2.loc with
    | .inbox q c a =>
      if q = p ∧ e.2.c.away = false ∧ e.2.entering = entering ∧ (s.takeSlot e.1 p c).isSome ∧ (entering = false ∨ s.entersNext p c a)
      then some (a, e.1) else none
    | _ => none)
  let cls (u : Nat) : Nat := match (s.thread u).loc with | .inbox _ c _ => c | _ => 0
  match firstOf (ready false) with
  | some (a, u) => some (a, u, cls u)
  | none => (firstOf (ready true)).map (fun e => (e.1, e.2, cls e.2))

/-- INBOX_SLOT_GRANT (R115). -/
def execInboxSlotGrant (pos : Nat) (s : State) : Host.Outcome State Fault Refusal :=
  .next (match s.slotWaiter pos with
    | some (_, u, c) => (s.takeSlot u pos c).getD s
    | none => s)

/-- THREAD_RETURN: a thread on its way back reaches its core (R123, R373). -/
def execThreadReturn (u : Nat) (s : State) : Host.Outcome State Fault Refusal :=
  .next (match (s.thread u).loc with
    | .retry _ => if (s.thread u).c.away then s else s.returnThread u ((s.thread u).c.parkedAt.getD 0) (s.thread u).cls
    | _ => s)

/-- TRAP_DELIVERY: the oldest trap of a Vale takes a frame and a handler slot (R412, R413). -/
def execTrapDelivery (vale : Nat) (s : State) : Host.Outcome State Fault Refusal := .next ((s.deliverTrap vale).getD s)

end Sys2Proof.Machine
end

