-- ==== Sys2Proof/Machine/Contexts.lean ====
section
/-! DEFINITION. Contexts and partitions: loading and teardown of a context (R419, R423, R440, R441, R455), idempotent blocks and the world
switch (R438, R439, R475). -/

namespace Sys2Proof.Machine

/-! ## Loading a context (R419, R423) -/

/-- The physical address of a context's descriptor, by a die's CTXTB. -/
def State.descAddr (s : State) (d c : Nat) : Nat := (s.die d).ctxtb.toNat + 64 * c

def State.ownDie (s : State) (fn d : Nat) : Bool := (List.range 24).any (fun v => s.ownVale fn (d * 24 + v))

/-- Is a region entry well formed: reserved bits 0, and the VALE or DIE that it uses among the function's (R423)? -/
def State.regionOk (s : State) (fn : Nat) (e : W64 × W64) : Bool :=
  let r := regionOf1 e
  !e.1.getLsbD 15 ||
    (e.1 &&& 0xFF80000000000007 == 0 && e.2 &&& 0xFF8000000000FFFF == 0
      && (r.dom != 0 || s.ownVale fn r.vale) && (!(r.dom == 1 || r.hdie.isSome) || s.ownDie fn r.die))

/-- Is a descriptor accepted, with its region table? -/
def State.descOk (s : State) (ws : List W64) (es : List (W64 × W64)) : Bool :=
  let w (i : Nat) : W64 := ws.getD i 0
  let fn := bitsOf (w 2) 3 0
  let pos := bitsOf (w 2) 27 16
  (w 0).getLsbD 63 && w 0 &&& 0x7FFF00000000FFFF == 0 && w 1 &&& 0xFFFF0000000003FF == 0 && w 2 &&& 0xF00000F0 == 0
    && w 3 &&& 0x00FF00000000000F == 0 && (ws.drop 4).all (· == 0)
    && pos % 32 == 0 && s.ownVale fn (pos / 32) && es.all (s.regionOk fn)

/-- The context that a descriptor gives. -/
def ctxOf (ws : List W64) (es : List (W64 × W64)) : Ctx :=
  let w (i : Nat) : W64 := ws.getD i 0
  { loaded := true, root := w 0 &&& 0xFFFFFFFF0000, rtab := w 1 &&& 0xFFFFFFFFFC00, func := bitsOf (w 2) 3 0,
    ftype := (w 2).extractLsb' 8 8, svcpos := bitsOf (w 2) 27 16, gen := hi32 (w 2), idemt := w 3 &&& 0xFFFFFFFFFFF0,
    idemn := bitsOf (w 3) 63 56, regions := regionsOf es }

/-- LOAD by a die: a descriptor that is not accepted, or cannot be read, sets ERR and changes nothing else. -/
def State.loadCtx (s : State) (d c : Nat) : State :=
  let a := s.descAddr d c
  let ws := (List.range 8).map (fun i => BitVec.ofNat 64 (s.rd (a + 8 * i) 8))
  let rtab := (ws.getD 1 0 &&& 0xFFFFFFFFFC00).toNat
  let es := s.readRegions rtab
  let ok := s.descOk ws es && !s.badRead a 64 && !s.badRead rtab 1024
  let s := ((s.readErrors a 8).readErrors rtab 128).modDie d (fun x => { x with ctxOp := none, ctxErr := !ok })
  if ok then s.setCtx c (ctxOf ws es) else s

/-- The die whose CTXCTL is BUSY with an operation on a context. -/
def State.ctlDie (s : State) (op c : Nat) : Option Nat := (List.range 4).find? (fun d => (s.die d).ctxOp == some (op, c))

/-- CTXCTL_LOAD. A context that is being torn down is loaded afterwards. -/
def execCtxctlLoad (ctx : Nat) (s : State) : Host.Outcome State Fault Refusal :=
  .next (match s.ctlDie 1 ctx with
    | some d => if (s.ctx ctx).teardown.isSome then s else s.loadCtx d ctx
    | none => s)

/-! ## Teardown (R440, R441, R455) -/

/-- The units of a context that its teardown ends: not the threads that supervisor code runs for it. -/
def State.ctxUnits (s : State) (c : Nat) : List UnitId :=
  s.units.filter (fun u => (s.com u).ctx == c && (match u with
    | .thread t => !(s.thread t).sup || (s.thread t).svc.any (fun o => match o.unit with | .thread _ => true | .wave _ => false)
    | .wave _ => true))

/-- A grid ends with its context: its completion record is written where its page is translated (R380), and its work record is KILLED. -/
def State.killGrid (s : State) (g : Nat) : State :=
  let x := s.grid g
  let s := if x.cpl == 0 then s else match s.control x.ctx (s.ctx x.ctx).gen 1 x.cpl with
    | .ok s place cls grain =>
      ((s.writeAt none x.ctx x.cpl.toNat place cls grain (bytesLE 8 (1 + x.serial.toNat * 2 ^ 32) ++ x.record s.time)).wakeWord place 0).2
    | .err s => s
    | .wait _ _ => s
  s.dropGrid g 2

/-- The pages of every function that are bound to a context. -/
def State.ctxPages (s : State) (c : Nat) : List (Nat × Nat) :=
  s.funcs.flatMap (fun f => f.2.pages.filterMap (fun p => if p.2.bound.any (fun b => b.2.2 == c) then some (f.1, p.1) else none))

/-- Every open record of the context's pages completes KILLED, in order, with the CODE of its grid. -/
def State.killRecords (s : State) (c : Nat) : State :=
  (s.ctxPages c).foldl (fun s n => s.modPage n.1 n.2 (fun p =>
    let code (r : WorkRec) : W32 := match s.grids.find? (fun g => g.2.page == some (n.1, n.2, r.hseq)) with | some g => g.2.code | none => 0
    let kill (r : WorkRec) : WorkRec := if r.done.isNone then { r with done := some (2, code r), fin := s.time } else r
    { p with opens := p.opens.map kill, completions := p.completions ++ (p.opens.filter (fun r => r.done.isNone)).map kill })) s

/-- A write of the context that its home has not performed gets an error response, which is logged (R441). -/
def State.refuseWrites (s : State) (us : List UnitId) : State :=
  (s.accesses.filter (fun a => us.contains a.unit && (a.op.kind == 1 || a.op.kind == 3))).foldl (fun s a =>
    (a.lanes.filter (fun l => l.st == .pend || l.st == .walk)).foldl (fun s l => s.logOpen 0x04 a.src (s.ctxFunc a.ctx) 1 l.ea) s) s

/-- Step 1: units, blocks and grids end; GEN rises, in the descriptor too; the drain begins. -/
def State.beginTeardown (s : State) (d c : Nat) : State :=
  let s := s.refuseWrites (s.ctxUnits c)
  let s := (s.ctxUnits c).foldl (fun s u => if s.unitExists u then s.endUnit u 0 true else s) s
  let gs := s.grids.filterMap (fun g => if g.2.ctx == c then some g.1 else none)
  let s := { s with blocks := s.blocks.filter (fun k => !(k.2.grid.any gs.contains) || s.spadJob k.1) }
  let s := gs.foldl State.killGrid (s.killRecords c)
  let s := { s with
    vales := s.vales.map (fun (e : Nat × Vale) => (e.1, { e.2 with bins := e.2.bins.filter (fun b => b.2.ctx != c) }))
    reqs := s.reqs.filter (fun r => match r.2 with | .frags _ k _ _ _ _ _ => k != c | _ => true) }
  let gen := (s.ctx c).gen + 1
  (s.modCtx c (fun x => { x with gen := gen, teardown := some s.time })).putBytes (s.descAddr d c + 0x14) (bytesLE 4 gen.toNat)

/-- Is what step 2 waits for over: jobs, forwarded accesses, host and peer accesses, and work records of the context? -/
def State.drained (s : State) (c : Nat) : Bool :=
  !s.jobs.any (fun j => j.2.ctx == c && j.2.status == 0)
    && !s.accesses.any (fun a => a.ctx == c && a.lanes.any (fun l => l.st == .forwarded))
    && !s.remotes.any (fun r => (match r.peer with | some p => s.pctx.getD p 0 | none => (s.func r.func).hctx) == c)
    && (s.ctxPages c).all (fun n => (s.page n.1 n.2).opens.isEmpty)

/-- Step 3, and the entry that records how step 2 ended: `late` 0 drained, 1 timed out. What still waits on a fault of the context ends in an
error. -/
def State.endTeardown (s : State) (d c late : Nat) : State :=
  let s := ((s.faults.filter (fun f => f.ctx == c)).map FaultTab.token).foldl State.errorToken s
  let s := { s.dropEntries (fun e => e.ctx == c) (fun w => w.ctx == c) (fun l => l.ctx == c) with
    faults := s.faults.filter (fun f => f.ctx != c), prefetches := s.prefetches.filter (fun p => p.ctx != c) }
  let s := s.modCtx c (fun x => { x with loaded := false, teardown := none })
  (s.modDie d (fun x => { x with ctxOp := none, ctxErr := false })).logError 0x05 (launchSrc d) (s.ctxFunc c) (if late = 0 then 0 else 1) 0
    (BitVec.ofNat 64 late)

/-- CTXCTL_TEARDOWN: the first step, or the last once the context has drained. -/
def execCtxctlTeardown (ctx : Nat) (s : State) : Host.Outcome State Fault Refusal :=
  .next (match s.ctlDie 2 ctx with
    | none => s
    | some d => match (s.ctx ctx).teardown with
      | none => s.beginTeardown d ctx
      | some _ => if s.drained ctx then s.endTeardown d ctx 0 else s)

/-- Has the drain of a teardown lasted TDWAIT? -/
def State.drainLate (s : State) (c : Nat) : Option Nat :=
  match s.ctlDie 2 c, (s.ctx c).teardown with
  | some d, some t => if t + (s.die d).tdwait.toNat ≤ s.time && !s.drained c then some d else none
  | _, _ => none

/-- TDWAIT_TIMEOUT: jobs still running stop with status ERROR, and the last step follows. -/
def execTdwaitTimeout (ctx : Nat) (s : State) : Host.Outcome State Fault Refusal :=
  .next (match s.drainLate ctx with
    | some d =>
      let js := s.jobs.filterMap (fun j => if j.2.ctx == ctx && j.2.status == 0 then some j.1 else none)
      (js.foldl (fun s j => s.failJob j 0) s).endTeardown d ctx 1
    | none => s)

/-- LATE_TRAFFIC: a completion with an old GEN is dropped, a write gets an error response; both are logged. -/
def execLateTraffic (write : Bool) (fn src : Nat) (addr : W64) (s : State) : Host.Outcome State Fault Refusal :=
  .next (s.logOpen (if write then 0x04 else 0x03) src fn 1 (if write then addr else 0))

/-! ## Idempotent blocks (R438) -/

/-- The table of a context, empty where it is not sorted without overlap. -/
def State.idemTable (s : State) (c : Nat) : List (Nat × Nat) :=
  let x := s.ctx c
  let es := (List.range x.idemn).map (fun i => (s.rd (x.idemt.toNat + 16 * i) 8, s.rd (x.idemt.toNat + 16 * i + 8) 8))
  let ok := es.all (fun e => decide (e.1 < e.2)) && (es.zip (es.drop 1)).all (fun p => decide (p.1.2 ≤ p.2.1))
  if ok then es else []

/-- Every recorded PC of a wave. -/
def Wave.recordedPcs (x : Wave) : List Nat :=
  [x.apc.toNat, x.cpc.toNat] ++ x.stack.flatMap (fun e => [e.ppc.toNat] ++ if e.jpc == 0 then [] else [e.jpc.toNat])
    ++ (x.groups ++ x.lateGroups).map (fun g => g.pc.toNat)

/-- Every recorded PC of a unit: of a thread that a lane stands for those of its wave, and of one in a bin the bin's target. -/
def State.recordedPcs (s : State) (u : UnitId) : List Nat :=
  match u with
  | .thread t => (match (s.thread t).loc with
    | .lane w _ => (s.wave w).recordedPcs
    | .bin v b => (((s.vale v).bins.find b).map (fun x => x.target.toNat)).toList
    | _ => [(s.thread t).pc.toNat])
  | .wave w => (s.wave w).recordedPcs

/-- Has a unit a fault record, a trap frame or absent lanes? -/
def State.selfHeld (s : State) (u : UnitId) : Bool :=
  s.nfr u != 0 || (s.com u).wait == .trap || (match u with
    | .thread t => (match (s.thread t).loc with | .frame .. | .trapWait _ => true | _ => false)
    | .wave w => (s.wave w).absent != 0)

/-- The same of a member, with the wave in whose lane it is. -/
def State.unitHeld (s : State) (u : UnitId) : Bool :=
  s.selfHeld u || (match u with
    | .thread t => (match (s.thread t).loc with | .lane w _ => s.selfHeld (.wave w) | _ => false)
    | .wave _ => false)

/-- A member leaves the lane or the bin that it is in; the wave goes on with its other lanes, or ends (R126, R129, R438). -/
def State.leaveLane (s : State) (t : Nat) : State :=
  match (s.thread t).loc with
  | .lane w l =>
    let x := (s.wave w).removeLanes (Mask.ofLanes [l])
    let x := { x with lanes := x.lanes.filter (fun e => e.1 != l) }
    if x.exec != 0 then s.setWave w x
    else if x.over then s.setWave w { x with c := { x.c with wait := .none, after := some .endWave } }
    else
      let r := x.select 0
      s.setWave w { r.1 with c := { r.1.c with wait := if r.2 then .none else .joinv } }
  | .bin v b => s.modVale v (fun x => match x.bins.find b with
    | some y =>
      let es := y.entries.filter (fun e => match e.body with | .thread u => u != t | _ => true)
      { x with bins := if es.isEmpty then x.bins.drop b else x.bins.put b { y with entries := es } }
    | none => x)
  | _ => s

/-- The START at which a block begins again after a world switch, if it is discarded: a block of a grid, which it can enter again; the block of a
gathered wave is saved. -/
def State.idempotent (s : State) (b : Nat) (k : Block) : Option Nat :=
  let c := match k.members.head? with | some u => (s.com u).ctx | none => 0
  if k.grid.isNone || k.members.isEmpty || k.members.any s.unitHeld || s.jobs.any (fun j => j.2.status == 0 && (j.2.blk == some b || k.members.contains j.2.owner))
  then none
  else ((s.idemTable c).find? (fun e => (k.members.flatMap s.recordedPcs).all (fun p => decide (e.1 ≤ p) && decide (p < e.2)))).map Prod.fst

/-- A block is discarded: its members are gone, uncounted, from the lanes and bins that they are in too, and it goes back to its grid. -/
def State.discardBlock (s : State) (b : Nat) (k : Block) (start : Nat) : State :=
  let s := k.members.foldl (fun s u =>
    let s := (s.returnLaunch u).forget u
    match u with
    | .thread t => let s := s.leaveLane t; { s with threads := s.threads.drop t }
    | .wave w =>
      let ls := (s.wave w).lanes.map Prod.snd
      { s with waves := s.waves.drop w, threads := s.threads.filter (fun e => !ls.contains e.1) }) s
  let s := { s with blocks := s.blocks.drop b }
  match k.grid with
  | some g => s.modGrid g (fun x => { x with restarts := x.restarts ++ [(k.num, BitVec.ofNat 64 start)] })
  | none => s

/-! ## World switch (R439, R475) -/

/-- The Vales of a switch that its OUTF still holds. -/
def State.switchVales (s : State) (d : Nat) (x : W64) : List Nat :=
  ((List.range 24).filter (fun v => x.getLsbD v && (s.vale (d * 24 + v)).func == bitsOf x 27 24)).map (d * 24 + ·)

/-- Does a block stand on a Vale, by its engine, its octet or its block area? -/
def Block.onVale (k : Block) (v : Nat) : Bool :=
  k.eng.any (fun e => e / 4 == v) || k.octet.any (fun o => o / 4 == v) || k.area.any (fun a => a.1 / 32 == v)

/-- Is a bank place among those that a switch of Vale `v` moves: the inbox and vector table of each bank, and the frames? -/
def movedPlace (v a : Nat) : Bool :=
  match placeBank a with
  | some p => p / 32 == v && (decide (0x3E000 ≤ a % 2 ^ 18) || (p % 32 == 0 && decide (0x3C000 ≤ a % 2 ^ 18)))
  | none => false

/-- The counters of a function on a Vale. -/
def Vale.ownCounters (x : Vale) (fn : Nat) : List Nat := (List.range 16).filter (fun i => x.sel i != 0 && selFunc (x.sel i) == fn)

/-- What is saved of a Vale. -/
def State.saveVale (s : State) (v fn : Nat) : ValeSave :=
  let x := s.vale v
  let cs := x.ownCounters fn
  { vale := { x with pmc := cs.map (fun i => (i, x.count i)), pmsel := cs.map (fun i => (i, x.sel i)) },
    positions := s.positions.filter (fun p => p.1 / 32 == v), views := s.views.filter (fun e => e.1 / 2 ^ 13 == v),
    cells := s.mem.filter (fun c => movedPlace v c.1), empty := s.empty.filter (movedPlace v), time := s.time }

/-- The counters of the function switched out leave; those of the other take free physical counters, each its own where that is free. -/
def Vale.switchCounters (x : Vale) (fn : Nat) (old : Vale) : Vale :=
  let cs := x.ownCounters fn
  let x := { x with
    pmc := x.pmc.filter (fun e => !cs.contains e.1), pmsel := x.pmsel.filter (fun e => !cs.contains e.1)
    pmov := cs.foldl (fun m i => m &&& ~~~(BitVec.ofNat 16 (2 ^ i))) x.pmov }
  old.pmsel.foldl (fun x e =>
    match ([e.1] ++ List.range 16).find? (fun i => x.sel i == 0) with
    | some i =>
      { x with pmsel := x.pmsel.put i e.2, pmc := x.pmc.put i (old.count e.1)
               pmov := if old.pmov.getLsbD e.1 then x.pmov ||| BitVec.ofNat 16 (2 ^ i) else x.pmov }
    | none => x) x

/-- A Vale's registers and queues after the switch, `away` ticks after they were saved. -/
def Vale.restore (x : Vale) (outf inf : Nat) (old : Vale) (away : Nat) : Vale :=
  { x.switchCounters outf old with
    bins := old.bins.map (fun (e : Nat × Bin) => (e.1, { e.2 with oldest := e.2.oldest + away })), binWait := old.binWait, mail := old.mail
    mailWait := old.mailWait, ctgtb := old.ctgtb, ctTop := old.ctTop, ctNslot := old.ctNslot, sblk := old.sblk, trpl := old.trpl
    templ := old.templ, frames := old.frames, traps := old.traps, func := inf, other := some outf }

/-- A list of memory cells laid over a memory. -/
def overlay : List Host.Cell → List Host.Cell → List Host.Cell
  | [], m => m
  | (a, b) :: t, m => memPut (overlay t m) a b

/-- Marks units and blocks as saved, or as back. -/
def State.setAway (s : State) (away : Bool) (us : List UnitId) (bs : List Nat) : State :=
  let s := us.foldl (fun s u => s.modCom u (fun c => { c with away := away })) s
  bs.foldl (fun s b => s.modBlock b (fun k => { k with away := away })) s

/-- The blocks of a function that are swapped out on a die. -/
def State.swappedBlocks (s : State) (fn d : Nat) : List (Nat × Block) :=
  s.blocks.filter (fun k => k.2.ridge && k.2.die == d && (k.2.swap == .swp || k.2.swap == .rdy) && k.2.members.any (fun u => s.partOf u == fn))

/-- The blocks that are swapped out on a die leave with the last Vale that their function has there, and come back with the first: a SLEEP or LWAIT
then executes again with the limit that remains (R405, R436, R439). -/
def State.switchSwapped (s : State) (d outf inf : Nat) : State :=
  let has (fn : Nat) : Bool := (List.range 24).any (fun i => (s.vale (d * 24 + i)).func == fn)
  let members (l : List (Nat × Block)) : List UnitId := l.flatMap (fun k => k.2.members)
  let leave := if has outf then [] else (s.swappedBlocks outf d).filter (fun k => !k.2.away)
  let back := (s.swappedBlocks inf d).filter (fun k => k.2.away)
  let s := (s.setAway true (members leave) (leave.map Prod.fst)).setAway false (members back) (back.map Prod.fst)
  (members back).foldl State.waitAgain s

/-- One Vale changes from one function to another. -/
def State.switchVale (s : State) (v outf inf : Nat) : State :=
  let here (k : Nat × Block) : Bool := k.2.onVale v && (match k.2.swap with | .swp | .rdy => false | _ => true)
  let inBlock (s : State) (u : UnitId) : Bool := match (s.com u).block with | some b => here (b, s.block b) | none => true
  -- the units and blocks of the function that comes back are those saved here before
  let backU := s.units.filter (fun u => (s.com u).away && s.unitVale u == v && (s.outBlock u).isNone)
  let backB := (s.blocks.filter (fun k => k.2.away && here k)).map Prod.fst
  let s := (s.blocks.filter (fun k => here k && !k.2.away)).foldl
    (fun s k => match s.idempotent k.1 k.2 with | some p => s.discardBlock k.1 k.2 p | none => s) s
  let outU := (s.haltUnits outf (· == v) none).filter (inBlock s)
  let outB := (s.blocks.filter (fun k => here k && !k.2.away)).map Prod.fst
  let s := s.settleCounters v
  let sv := s.saveVale v outf
  let new := s.savedVale v inf
  let s := (s.setAway true outU outB).setAway false backU backB
  let s := { s with
    vales := s.vales.put v ((s.vale v).restore outf inf new.vale (s.time - new.time))
    positions := s.positions.map (fun p => if p.1 / 32 == v then
      let q := new.positions.getD p.1 {}
      (p.1, { p.2 with inbox := q.inbox, overflow := q.overflow, ovBase := q.ovBase, ovSlots := q.ovSlots, discards := q.discards }) else p)
    views := s.views.filter (fun e => e.1 / 2 ^ 13 != v) ++ new.views
    mem := overlay new.cells (s.mem.filter (fun c => !movedPlace v c.1))
    empty := new.empty.foldl (fun l a => sortedAdd a l) (s.empty.filter (fun a => !movedPlace v a))
    saves := (s.saves.drop (v * 16 + inf)).put (v * 16 + outf) sv }
  let s := (List.range 4).foldl (fun s j => s.modEngine (v * 4 + j) (fun e => { e with l1 := [] })) s
  backU.foldl State.goOn s

/-- The switch of a die that is under way: the halt goes on, and once it is done the Vales change (R439). -/
def State.switchStep (s : State) (d : Nat) (x : W64) : State :=
  let fn := bitsOf x 27 24
  let vs := s.switchVales d x
  let on (v : Nat) : Bool := vs.contains v
  let s := s.haltStep fn on none
  if !s.haltDone fn on none then s
  else
    ((vs.foldl (fun s v => s.switchVale v fn (bitsOf x 31 28)) s).switchSwapped d fn (bitsOf x 31 28)).modDie d (fun y => { y with wsOp := none })

/-- WORLD_SWITCH: a write of WSCTL, or the progress of the switch that keeps it BUSY. -/
def execWorldSwitch (die : Nat) (val : W64) (s : State) : Host.Outcome State Fault Refusal :=
  .next (match (s.die die).wsOp with
    | some x => s.switchStep die x
    | none => if die < 4 then s.writeSwitch die val (srcNum die 31 0 15) else s)

end Sys2Proof.Machine
end

