-- ==== Sys2Proof/Machine/HostLink.lean ====
section
/-! DEFINITION. The host and the peers: submission pages, work records and completions (spec/16 R447 to R455), accesses over CXL and UALink
(R457, R460), and the log entries that come from outside (R459, R465). -/

namespace Sys2Proof.Machine

/-- The device answers. -/
def State.answer (s : State) (dest status : Nat) (data : List Byte) : State :=
  { s with answers := s.answers ++ [{ dest := dest, status := status, data := data }] }

/-! ## Submission (R450) -/

/-- Is the queue of a page enabled, and the function's (R382, R447)? -/
def State.queueOn (s : State) (fn d q : Nat) : Bool :=
  let x := (s.die d).lqcfg.getD q 0
  x.getLsbD 2 && bitsOf x 15 12 == fn

/-- Is a record's form right: HSEQ, OP, reserved bits, and LREC of a LAUNCH? -/
def recordOk (p : Page) (ws : List W64) : Bool :=
  let w (i : Nat) : W64 := ws.getD i 0
  lo32 (w 0) == p.submitSeq + 1 && decide (bitsOf (w 0) 39 32 ≤ 1) && bitsOf (w 0) 63 40 == 0 && (ws.drop 3).all (· == 0)
    && (bitsOf (w 0) 39 32 != 0 || bitsOf (w 1) 6 0 == 0)

/-- SUBMIT: the checks in order, and the answer. Choice 1: the queue's staging is full (log entry 1). -/
def execSubmit (fn page offset : Nat) (words : List W64) (s : State) : Host.Outcome State Fault Refusal :=
  .next (
    let p := s.page fn page
    let abort : State := (s.logPort 0x16 fn).answer fn 2 []
    match p.bound with
    | none => s.answer fn 1 []
    | some (d, q, _) =>
      if !s.queueOn fn d q then s.answer fn 1 []
      else if words.length ≠ 16 ∨ offset ≠ 0 then abort
      else if !recordOk p words then abort
      else
        let h := lo32 (words.getD 0 0)
        let c := s.choose 2
        if 64 ≤ (h - p.oldest).toNat ∨ c.1 = 1 then c.2.answer fn 3 []
        else
          let i := c.2.newId
          let r : WorkRec := { hseq := h, op := bitsOf (words.getD 0 0) 39 32, lrec := words.getD 1 0, user := words.getD 2 0, arr := i.1 }
          (i.2.modPage fn page (fun p => Page.marks { p with submitSeq := h, opens := p.opens ++ [r] } s.time)).answer fn 0 [])

/-- SUBMIT_POSTED_WRITE. -/
def execSubmitPostedWrite (fn page : Nat) (s : State) : Host.Outcome State Fault Refusal :=
  .next (if page < 1024 then s.postedSubmit fn else s)

/-! ## Reading a LAUNCH record (R451) -/

/-- Every accepted LAUNCH that the controller has not read, with its page. -/
def State.unread (s : State) : List ((Nat × Nat) × WorkRec) :=
  s.funcs.flatMap (fun f => f.2.pages.flatMap (fun p =>
    (p.2.opens.filter (fun r => r.op == 0 && !r.started && r.done.isNone)).map (fun r => ((f.1, p.1), r))))

/-- The launch queue of a page. -/
def State.pageQueue (s : State) (n : Nat × Nat) : Option (Nat × Nat) := (s.page n.1 n.2).bound.map (fun b => (b.1, b.2.1))

/-- Is a host write from before a record's acceptance still held at its home (R225, R451)? -/
def State.writesBefore (s : State) (arr : Nat) : Bool :=
  s.remotes.any (fun r => r.peer.isNone && decide (r.id < arr) && (match r.op with | .read _ => false | _ => true))

/-- The record of a page that the controller reads next, if it may: the page's first unread LAUNCH, the first of its queue, once every host write
before its acceptance is performed. -/
def State.nextRecord (s : State) (fn n : Nat) : Option WorkRec :=
  match (s.unread.filter (fun e => e.1 == (fn, n))).head? with
  | some (_, r) =>
    if s.unread.any (fun e => s.pageQueue e.1 == s.pageQueue (fn, n) && decide (e.2.arr < r.arr)) || !s.pageReady (s.pageCtx fn n) r.pw
      || s.writesBefore r.arr then none else some r
  | none => none

def State.modRecord (s : State) (fn n : Nat) (h : W32) (g : WorkRec → WorkRec) : State :=
  s.modPage fn n (fun p => { p with opens := p.opens.map (fun r => if r.hseq == h then g r else r) })

/-- What the reading of a launch record gives. -/
inductive RecordRes where
  | ok (ws : List W64) (s : State)
  | err (s : State)
  | wait (s : State) (w : PageWait)

/-- The sixteen words of a launch record, as the controller reads them: word by word, until one gives an error or must wait. -/
def State.readRecord (s : State) (c : Nat) (a : W64) : Nat → RecordRes
  | 0 => .ok [] s
  | n + 1 =>
    match s.control c (s.ctx c).gen 0 (a + BitVec.ofNat 64 (8 * (15 - n))) with
    | .ok s place _ _ => (match s.readRecord c a n with
        | .ok l t => .ok (BitVec.ofNat 64 (s.rd place 8) :: l) t
        | r => r)
    | .err s => .err s
    | .wait t w => .wait t w

/-- The controller reads and checks a record: its grid enters at depth 0 with priority min(PRIO, PMAX), or the record is REJECTED. -/
def State.readLaunch (s : State) (fn n : Nat) (r : WorkRec) : State :=
  match (s.page fn n).bound with
  | none => s
  | some (d, q, c) =>
    let reject (s : State) (x : Cause) : State := s.recordDone fn n r.hseq 1 (BitVec.ofNat 32 x.code)
    let unreadable (s : State) : State := reject (s.logError 0x02 (launchSrc d) fn 1 r.lrec 0) .accessViolation
    if r.pw.failed then unreadable s
    else match s.readRecord c r.lrec 16 with
      | .wait t w => t.modRecord fn n r.hseq (fun x => { x with pw := w })
      | .err s => unreadable s
      | .ok ws s =>
        let l := launchRec ws
        match s.launchCheck fn d l with
        | some x => reject s x
        | none =>
          let pmax : BitVec 2 := ((s.die d).lqcfg.getD q 0).truncate 2
          let g := s.enterGrid d c l (if pmax < l.prio then pmax else l.prio) 0 none ((s.die d).queueLast.find q) (some (fn, n, r.hseq)) none
          (g.2.modDie d (fun x => { x with queueLast := x.queueLast.put q g.1 })).modRecord fn n r.hseq (fun x => { x with started := true, grid := some g.1 })

/-- WORK_RECORD_LAUNCH. -/
def execWorkRecordLaunch (fn page : Nat) (s : State) : Host.Outcome State Fault Refusal :=
  .next (match s.nextRecord fn page with
    | some r => s.readLaunch fn page r
    | none => s)

/-! ## Completions (R452, R453) -/

/-- A completion record in its four words. -/
def completionWords (dseq : W32) (r : WorkRec) : List W64 :=
  let st := r.done.getD (0, 0)
  [BitVec.ofNat 64 (dseq.toNat + r.hseq.toNat * 2 ^ 32), BitVec.ofNat 64 (st.1 + st.2.toNat * 2 ^ 32), BitVec.ofNat 64 r.fin, r.user]

/-- The completion of a page that is written next: the first in the order in which they occurred, once the ring has room and the accesses of its grid
have been acknowledged. -/
def State.nextCompletion (s : State) (fn n : Nat) : Option WorkRec :=
  let p := s.page fn n
  match p.completions with
  | r :: _ => if (p.crlog2 ≠ 0 ∧ 2 ^ p.crlog2 < (p.doneSeq + 1 - p.crhead).toNat) ∨ r.grid.any s.owes then none else some r
  | [] => none

/-- The completion's steps: the ring, DONE_SEQ, HISTORY and OPENMAP, the user interrupt. -/
def State.writeCompletion (s : State) (fn n : Nat) (r : WorkRec) : State :=
  let p := s.page fn n
  let d := p.doneSeq + 1
  let ws := completionWords d r
  let s := if p.crlog2 = 0 then s
    else s.rawPutBytes (hostPlace (p.crbase.toNat + 32 * (d.toNat % 2 ^ p.crlog2))) (ws.flatMap (fun w => bytesLE 8 w.toNat))
  let s := s.modPage fn n (fun p => { p with
    doneSeq := d, history := p.history.put (d.toNat % 64) ws, completions := p.completions.drop 1
    opens := p.opens.filter (fun x => x.hseq != r.hseq) })
  if p.uiaddr == 0 then s else s.rawPutBytes (hostPlace p.uiaddr.toNat) (bytesLE 4 d.toNat)

/-- COMPLETION_WRITE. -/
def execCompletionWrite (fn page : Nat) (s : State) : Host.Outcome State Fault Refusal :=
  .next (match s.nextCompletion fn page with
    | some r => s.writeCompletion fn page r
    | none => s)

/-- FUNCTION_LEVEL_RESET: every page of the function has its reset values, and its grids complete no record (R455). -/
def execFunctionLevelReset (fn : Nat) (s : State) : Host.Outcome State Fault Refusal :=
  .next ({ s with
      grids := s.grids.map (fun (g : Nat × Grid) => (g.1, if g.2.page.any (fun (p : Nat × Nat × W32) => p.1 == fn) then { g.2 with page := none } else g.2)) }
    |>.modFunc fn (fun f => { f with pages := [] }))

/-! ## Host and peer accesses (R457, R460) -/

/-- The bytes that an access names, and its kind of R422. -/
def remoteLen : RemoteOp → Nat × Nat
  | .read n => (n, 0)
  | .write d => (d.length, 1)
  | .atomic _ _ n _ _ => (n, 3)

/-- What an access of the host or a peer meets at its home. -/
inductive RemRes where
  | ok (s : State) (places : List Nat) (cls grain : Nat)
  | err (s : State)
  | wait (s : State) (w : PageWait)

/-- Where the answer of an access goes, and its context. -/
def Remote.dest (r : Remote) : Nat := match r.peer with | some p => 16 + p | none => r.func
def State.remoteCtx (s : State) (r : Remote) : Nat :=
  match r.peer with | some p => s.pctx.getD p 0 | none => (s.func r.func).hctx

/-- Only pages in SYSTEM regions accept a peer. -/
def State.remoteAllowed (s : State) (r : Remote) (a : W64) : Bool := r.peer.isNone || s.domOf (s.remoteCtx r) a.toNat == 3

/-- Every byte of an access is translated, from byte `i` on; a peer reaches none outside the SYSTEM regions (R460). -/
def State.remotePlaces (s : State) (r : Remote) : Nat → Nat → RemRes
  | 0, _ => .ok s [] 2 32
  | n + 1, i =>
    let c := s.remoteCtx r
    let a := r.va + BitVec.ofNat 64 i
    if !s.remoteAllowed r a then .err s
    else match s.control c (s.ctx c).gen (remoteLen r.op).2 a 1 with
    | .ok s place cls grain => (match s.remotePlaces r n (i + 1) with
        | .ok s ps _ _ => .ok s (place :: ps) cls grain
        | x => x)
    | .err s => .err s
    | .wait t w => .wait t w

/-- The data of a read. -/
def State.remoteData (s : State) (places : List Nat) : List Byte := places.map s.byteAt

/-- The chunk of a COHERENT page that a host read has brought into caches of the host, if it keeps it: choice 1 (R243, R457; log entry 1). -/
def State.hostKeeps (s : State) (cls grain place : Nat) : State :=
  if cls != 3 || s.hostHeld.contains (place / grain * grain) then s
  else
    let c := s.choose 2
    if c.1 = 1 then { c.2 with hostHeld := place / grain * grain :: c.2.hostHeld } else c.2

/-- The access is performed at its home: the answer's data and the state (R200, R217). -/
def State.remotePerform (s : State) (c : Nat) (op : RemoteOp) (va : W64) (places : List Nat) (cls grain : Nat) : List Byte × State :=
  let a := va.toNat
  let p0 := places.headD 0
  match op with
  | .read _ =>
    (s.remoteData places, if cls == 3 then s.l1Coherent none c a p0 grain false else s)
  | .write d =>
    let s := { s with soft := s.soft.filter (fun b => !(List.range 8).all (fun i => places.contains (b + i))) }
    let s := (places.zip d).foldl (fun s e => ((s.clearBad e.1 1).putByte e.1 e.2).backInvalidate e.1 grain) s
    ([], if cls == 3 then s.l1Coherent none c a p0 grain true else s)
  | .atomic o sgn n x y =>
    let old := s.rd p0 n
    (bytesLE n old, s.writeAt none c a p0 cls grain (bytesLE n (atomNew o.toNat sgn (8 * n) old (x.toNat % 2 ^ (8 * n)) (y.toNat % 2 ^ (8 * n)))))

/-- An access that fails: a host read answers all ones, a host write is dropped, and both are logged; a peer gets an error completion. -/
def State.remoteFails (s : State) (r : Remote) : State :=
  match r.peer with
  | none =>
    let data : List Byte := match r.op with | .write _ => [] | op => List.replicate (remoteLen op).1 0xFF
    (s.logOpen 0x15 (portSrc 0) r.func 1 r.va).answer r.dest 5 data
  | some p =>
    let x := s.free
    (x.2.logOpen (x.1.toNat % 256) (portSrc (2 + p)) (x.2.ctxFunc (x.2.remoteCtx r)) 1 r.va).answer r.dest 4 []

/-- An access reaches its home: performed, failed, or held there; HFWAIT counts from a fault of a host access (R457). -/
def State.remoteTry (s : State) (r : Remote) : State :=
  let c := s.remoteCtx r
  match s.remotePlaces r (remoteLen r.op).1 0 with
  | .ok s ps cls grain =>
    let x := s.remotePerform c r.op r.va ps cls grain
    let t := match r.op, r.peer with
      | .read _, none => x.2.hostKeeps cls grain (ps.headD 0)
      | _, _ => x.2
    t.answer r.dest 0 x.1
  | .err s => s.remoteFails r
  | .wait t w =>
    let at_ := if w.tok.isSome then some (t.time + (t.func r.func).hfwait) else none
    { t with remotes := t.remotes ++ [{ r with pw := w, until_ := at_ }] }

/-- A new access of the host or a peer. -/
def State.remoteNew (s : State) (fn : Nat) (peer : Option Nat) (op : RemoteOp) (va : W64) : State :=
  let i := s.newId
  i.2.remoteTry { id := i.1, func := fn, op := op, va := va, until_ := none, peer := peer, pw := {} }

/-- HOST_CXL_ACCESS. -/
def execHostCxlAccess (fn : Nat) (op : RemoteOp) (va : W64) (s : State) : Host.Outcome State Fault Refusal :=
  .next (s.remoteNew fn none op va)
/-- PEER_REQUEST. -/
def execPeerRequest (port : Nat) (op : RemoteOp) (va : W64) (s : State) : Host.Outcome State Fault Refusal :=
  .next (if port < 8 then s.remoteNew 0 (some port) op va else s)

def State.dropRemote (s : State) (id : Nat) : State := { s with remotes := s.remotes.filter (fun r => r.id != id) }

/-- A held access whose wait is over goes on: an ERROR reply fails it, else it is translated again. -/
def State.remoteAgain (s : State) (r : Remote) : State :=
  let s := s.dropRemote r.id
  if r.pw.failed then s.remoteFails r else s.remoteTry r

/-- Is the limit HFWAIT of a host access held by a fault over (R457)? -/
def State.remoteLate (s : State) (req : Nat) : Option Remote :=
  s.remotes.find? (fun r => r.id == req && r.peer.isNone && r.pw.tok.isSome && !r.pw.failed && r.until_.any (fun t => decide (t ≤ s.time)))

/-- HFWAIT_EXPIRY. -/
def execHfwaitExpiry (req : Nat) (s : State) : Host.Outcome State Fault Refusal :=
  .next (match s.remoteLate req with
    | some r => (s.dropRemote req).remoteFails r
    | none => s)

/-! ## Entries of the log from outside the units (R459, R465) -/

/-- LINK_LANE_REPAIR: logged, and nothing else (R459). -/
def execLinkLaneRepair (die port : Nat) (s : State) : Host.Outcome State Fault Refusal :=
  .next (s.logOpen 0x14 (srcNum die 30 port 13) 0 0 0)
/-- ERROR_LOG_ENTRY. -/
def execErrorLogEntry (cause src fn sev : Nat) (addr detail : W64) (s : State) : Host.Outcome State Fault Refusal :=
  .next (s.logError (cause % 256) (src % 65536) (fn % 16) (sev % 3) addr detail)

end Sys2Proof.Machine
end

