-- ==== Sys2Proof/Machine/Adentoth.lean ====
section
/-! DEFINITION. Adentoth: boot and recovery, fatal errors, attestation (spec/16 R476 to R479), and the resets of R8. -/

namespace Sys2Proof.Machine

/-! ## Verification of a firmware image (R476) -/

/-- `n` bytes of an image from an offset on, and the number that they hold. -/
def field (img : List Byte) (off n : Nat) : List Byte := (img.drop off).take n
def fieldNum (img : List Byte) (off n : Nat) : Nat := ofBytesLE (field img off n)

def imageBody (img : List Byte) : List Byte := field img 0x200 (fieldNum img 0x10 4)

/-- The REASON for which an image is refused, the first that applies: 1 key, 2 signature, 3 digest, 4 SVN; `none` inside: another
ground, whose number the spec does not give. -/
def imageFails (a : Adentoth) (img : List Byte) : Option (Option Nat) :=
  if fieldNum img 0 8 ≠ 0x4B5252424D444D45 ∨ fieldNum img 0xC 4 ≠ 0x200 ∨ 60 * 2 ^ 20 < fieldNum img 0x10 4
      ∨ img.length < 0x200 + fieldNum img 0x10 4 then some none
  else if Config.sha512 (field img 0x58 132) ≠ a.keyHash then some (some 1)
  else if !Config.ecdsaVerify (field img 0x58 132) (field img 0xDC 132) (field img 0 0xDC) then some (some 2)
  else if Config.sha512 (imageBody img) ≠ field img 0x18 64 then some (some 3)
  else if fieldNum img 8 4 < a.minSvn then some (some 4)
  else if 2 ≤ fieldNum img 0x14 4 then some none
  else none

/-! ## Cold reset and recovery (R476, R477) -/

/-- What a cold reset keeps: the memory of the host and of the peers, and Adentoth's record: its flash, key hash, minimum SVN, retired columns
and dead positions; the timestamp counts from 0 (R39). A position that a spare had taken comes back dead, without its spare, and a Vale whose Summit
core is recorded dead comes back offline (R470; log entry 68). The order of things goes on. -/
def State.coldState (s : State) : State :=
  let z := State.reset
  { z with
    vales := s.vales.filterMap (fun e =>
      let off := e.2.record.getLsbD 0
      if e.2.record == 0 then none
      else some (e.1, ({ dead := if off then BitVec.allOnes 32 else e.2.record, record := e.2.record, offline := off } : Vale)))
    engines := s.engines.filterMap (fun e => if e.2.mcol == 0 then none else some (e.1, ({ mcol := e.2.mcol } : Engine)))
    mem := s.mem.filter (fun c => placeOut c.1), agenda := s.agenda, choices := s.choices, fresh := s.fresh
    adentoth := { z.adentoth with
      st := 0, hostLinks := s.adentoth.hostLinks, flash := s.adentoth.flash, keyHash := s.adentoth.keyHash, minSvn := s.adentoth.minSvn, log := s.adentoth.log } }

/-- A host port's link goes up or down. -/
def Adentoth.setLink (a : Adentoth) (p : Nat) (up : Bool) : Adentoth :=
  let b : BitVec 2 := BitVec.ofNat 2 (2 ^ p)
  { a with hostLinks := if up then a.hostLinks ||| b else a.hostLinks &&& ~~~b }

/-- An accepted image runs: Adentoth reports RUN, and FLAGS.RAISE raises the minimum SVN. -/
def State.bootImage (s : State) (img : List Byte) : State :=
  let a := s.adentoth
  let svn := fieldNum img 8 4
  { s with adentoth := { a with
    st := 1, reason := 0, src := 0, svn := svn, digest := Config.sha512 (imageBody img), window := []
    minSvn := if fieldNum img 0x14 4 % 2 = 1 then max a.minSvn svn else a.minSvn } }

/-- A refused image: RECOVERY, with its reason. -/
def State.recover (s : State) (why : Option Nat) : State :=
  match why with
  | some r => { s with adentoth := { s.adentoth with st := 2, reason := r, src := 0 } }
  | none =>
    let f := s.free
    { f.2 with adentoth := { f.2.adentoth with st := 2, reason := f.1.toNat % 256, src := 0 } }

/-- COLD_RESET. -/
def execColdReset (s : State) : Host.Outcome State Fault Refusal :=
  .next (
    let t := s.coldState
    match imageFails t.adentoth t.adentoth.flash with
    | none => t.bootImage t.adentoth.flash
    | some why => t.recover why)

/-- ADMGO: in RECOVERY, the image in the window is verified; once accepted it is written to the flash and runs. -/
def execAdmgo (s : State) : Host.Outcome State Fault Refusal :=
  .next (
    if s.adentoth.st ≠ 2 then s
    else
      let img := s.adentoth.window
      match imageFails s.adentoth img with
      | none => { s with adentoth := { s.adentoth with flash := img.take (0x200 + fieldNum img 0x10 4) } }.bootImage img
      | some why => s.recover why)

/-- WARM_RESET: a field with a warm-reset value takes it; the spec gives none, so none changes (R8). -/
def execWarmReset (s : State) : Host.Outcome State Fault Refusal := .next s

/-! ## Fatal errors (R459, R478) -/

/-- A fatal error stands in the package log, and the package halts. -/
def State.fatal (s : State) (reason src : Nat) : State :=
  if s.adentoth.st = 3 then s
  else
    let f := s.free
    let g := f.2.free
    let e : LogEntry := ⟨s.time, src, f.1.toNat % 256, 0, 2, 0, g.1⟩
    let old := s.adentoth.log
    { g.2 with adentoth := { s.adentoth with log := (if 65536 ≤ old.length then old.drop 1 else old) ++ [e] } }.haltPackage reason src

/-- LINK_RETRAIN_FAILURE. -/
def execLinkRetrainFailure (die port : Nat) (s : State) : Host.Outcome State Fault Refusal := .next (s.fatal 0x10 (srcNum die 30 port 13))
/-- FATAL_HALT: REASON 0x10 a link, 0x11 an error of SEV 2, 0x12 supply or temperature. -/
def execFatalHalt (reason src : Nat) (s : State) : Host.Outcome State Fault Refusal :=
  .next (if reason = 0x10 ∨ reason = 0x11 ∨ reason = 0x12 then s.fatal reason (src % 65536) else s)

/-! ## Attestation (R479) -/

/-- A field of fixed size. -/
def fit (n : Nat) (l : List Byte) : List Byte := (l ++ List.replicate n 0).take n

/-- What the partition configuration of a function is made of: its Vales with the function that shares each in time, the parts of their banks that the
configuration gives it, with its slots and block areas there, the engines reported absent (R309), its queues, and the pages bound to them (R329, R447, R479, R506; log entry 7). It is the same
whether the function is switched in on a Vale or not. -/
def State.partitionDesc (s : State) (fn : Nat) : List Nat :=
  [fn] ++ ((List.range Config.vales).filter (s.ownVale fn)).flatMap
    (fun v =>
      let x := s.vale v
      let y := if x.func == fn then x else (s.savedVale v fn).vale
      let part := x.parts.getD fn (0, 0)
      [v, if x.func == fn then (match x.other with | some o => o + 1 | none => 0) else x.func + 1, part.1, part.2, y.ctTop.toNat, y.ctNslot.toNat,
        y.sblk.toNat] ++ ((List.range 4).filter (fun j => (s.engine (v * 4 + j)).absent)).map (2000 + v * 4 + ·))
  ++ (List.range 4).flatMap (fun d => ((List.range 64).filter (s.queueOn fn d)).map (fun q => 1000 + d * 64 + q))
  ++ (s.func fn).pages.flatMap (fun e => match e.2.bound with | some (d, q, c) => [e.1, d, q, c] | none => [])

/-- The report up to its signature. -/
def State.reportHead (s : State) (fn : Nat) (nonce : List Byte) : List Byte :=
  let a := s.adentoth
  [0x45, 0x42, 0x34, 0x2D, 0x37, 0x36, 0x38, 0] ++ bytesLE 2 0x0B01 ++ bytesLE 2 fn ++ bytesLE 4 a.svn ++ fit 64 a.digest
    ++ fit 64 (Config.sha512 (Config.partitionImage (s.partitionDesc fn))) ++ fit 64 nonce ++ bytesLE 8 s.time ++ List.replicate 128 0

/-- ATTESTATION_REQUEST. -/
def execAttestationRequest (fn : Nat) (nonce : List Byte) (s : State) : Host.Outcome State Fault Refusal :=
  .next (
    let h := s.reportHead fn nonce
    s.modFunc fn (fun f => { f with report := h ++ fit 132 (Config.identitySign h) ++ List.replicate 36 0 }))

end Sys2Proof.Machine
end

