-- ==== Sys2Proof/Machine/Lane.lean ====
section
/-! DEFINITION. Lane arithmetic (spec/06 R173 to R192): integer, floating-point, special functions, dot products, exchange between
lanes, masks and Philox. A paired form is its lone form with the fields that the A-map gives it (R47, R54). -/

namespace Sys2Proof.Machine

/-! ## Integer (R173, R174) -/

/-- Elements are signed for even TYPE codes (R173). -/
def tySigned (t : BitVec 4) : Bool := t.toNat % 2 == 0
def elemInt (sgn : Bool) (w i : Nat) (x : W32) : Int := if sgn then signExtInt (elemOf w i x) w else (elemOf w i x : Int)

/-- An exact integer result in `w` bits: saturated with SI under SAT, else modulo 2^w. -/
def narrowInt (sgn sat : Bool) (w : Nat) (x : Int) : Nat × FFlags :=
  if sat then
    let r := saturate x (intMin sgn w) (intMax sgn w)
    (wrapInt r.1 w, if r.2 then fSI else 0)
  else (wrapInt x w, 0)

def intLane (f : LA) (op : Int → Int → Int → Int) (a b c : W32) : W32 × FFlags :=
  let w := tyWidth f.ty
  let g := tySigned f.ty
  packed w (fun i => narrowInt g f.sat w (op (elemInt g w i a) (elemInt g w i b) (elemInt g w i c)))

/-- An integer lane instruction. -/
def State.laneInt (s : State) (u : UnitId) (f : LA) (c : Bool) (op : Int → Int → Int → Int) : Res :=
  s.laneOp u f { c := c } (fun a b c _ l => intLane f op (a l) (b l) (c l))

/-- VADD (R173). -/
def execVadd (f : AForm) (s : State) : Host.Outcome State Fault Refusal :=
  runA s (.vadd f) (fun s u => s.laneInt u (toLA 0x01 f) false (fun a b _ => a + b))
/-- VSUB (R173). -/
def execVsub (f : AForm) (s : State) : Host.Outcome State Fault Refusal :=
  runA s (.vsub f) (fun s u => s.laneInt u (toLA 0x02 f) false (fun a b _ => a - b))
/-- VMUL (R173). -/
def execVmul (f : AForm) (s : State) : Host.Outcome State Fault Refusal :=
  runA s (.vmul f) (fun s u => s.laneInt u (toLA 0x03 f) false (fun a b _ => a * b))
/-- VMULH: bits 63:32 of the product (R173). -/
def execVmulh (f : AForm) (s : State) : Host.Outcome State Fault Refusal :=
  runA s (.vmulh f) (fun s u => s.laneInt u (toLA 0x04 f) false (fun a b _ => a * b / 2 ^ 32))
/-- VMAD (R173). -/
def execVmad (f : AForm) (s : State) : Host.Outcome State Fault Refusal :=
  runA s (.vmad f) (fun s u => s.laneInt u (toLA 0x05 f) true (fun a b c => a * b + c))
/-- VMIN (R173). -/
def execVmin (f : AForm) (s : State) : Host.Outcome State Fault Refusal :=
  runA s (.vmin f) (fun s u => s.laneInt u (toLA 0x06 f) false (fun a b _ => min a b))
/-- VMAX (R173). -/
def execVmax (f : AForm) (s : State) : Host.Outcome State Fault Refusal :=
  runA s (.vmax f) (fun s u => s.laneInt u (toLA 0x07 f) false (fun a b _ => max a b))
/-- VAND (R173). -/
def execVand (f : AForm) (s : State) : Host.Outcome State Fault Refusal :=
  runA s (.vand f) (fun s u => s.laneMap u (toLA 0x08 f) {} (fun a b _ => a &&& b))
/-- VOR (R173). -/
def execVor (f : AForm) (s : State) : Host.Outcome State Fault Refusal :=
  runA s (.vor f) (fun s u => s.laneMap u (toLA 0x09 f) {} (fun a b _ => a ||| b))
/-- VXOR (R173). -/
def execVxor (f : AForm) (s : State) : Host.Outcome State Fault Refusal :=
  runA s (.vxor f) (fun s u => s.laneMap u (toLA 0x0A f) {} (fun a b _ => a ^^^ b))
/-- VSHL: the count is bits 4:0 of b (R174). -/
def execVshl (f : AForm) (s : State) : Host.Outcome State Fault Refusal :=
  runA s (.vshl f) (fun s u => s.laneMap u (toLA 0x0B f) {} (fun a b _ => a <<< (b.toNat % 32)))
/-- VSHR (R174). -/
def execVshr (f : AForm) (s : State) : Host.Outcome State Fault Refusal :=
  runA s (.vshr f) (fun s u => s.laneMap u (toLA 0x0C f) {} (fun a b _ => a >>> (b.toNat % 32)))
/-- VSRA (R174). -/
def execVsra (f : AForm) (s : State) : Host.Outcome State Fault Refusal :=
  runA s (.vsra f) (fun s u => s.laneMap u (toLA 0x0D f) {} (fun a b _ => a.sshiftRight (b.toNat % 32)))

/-- 0 bits above the highest 1 bit of `w` bits; `w` for 0. -/
def leadingZeros (w x : Nat) : Nat := ((bitsLE w x).reverse.takeWhile (· == false)).length

/-- VPOPC (R174). -/
def execVpopc (f : AForm) (s : State) : Host.Outcome State Fault Refusal :=
  runA s (.vpopc f) (fun s u => s.laneMap u (toLA 0x0E f) { b := false } (fun a _ _ => BitVec.ofNat 32 (popCount 32 a.toNat)))
/-- VCLZ (R174). -/
def execVclz (f : AForm) (s : State) : Host.Outcome State Fault Refusal :=
  runA s (.vclz f) (fun s u => s.laneMap u (toLA 0x0E f) { b := false } (fun a _ _ => BitVec.ofNat 32 (leadingZeros 32 a.toNat)))
/-- VBREV (R174). -/
def execVbrev (f : AForm) (s : State) : Host.Outcome State Fault Refusal :=
  runA s (.vbrev f) (fun s u => s.laneMap u (toLA 0x0E f) { b := false } (fun a _ _ => a.reverse))

/-! ## Moves, selection and comparison (R175, R176) -/

/-- VMOV (R175). -/
def execVmov (f : AForm) (s : State) : Host.Outcome State Fault Refusal :=
  runA s (.vmov f) (fun s u => s.laneMap u (toLA 0x11 f) { a := false } (fun _ b _ => b))

/-- Writes the lanes of ACTIVE of consecutive v-registers. -/
def Wave.setRun (w : Wave) (n : Nat) (act : Mask) : List (Nat → W32) → Wave
  | [] => w
  | r :: t => (w.setLanes n act r).setRun (n + 1) act t

/-- VMOVK: a k-register's two halves to a pair of v-registers (R175). -/
def execVmovk (f : AForm) (s : State) : Host.Outcome State Fault Refusal :=
  runA s (.vmovk f) (fun s u =>
    let g := toLA 0x12 f
    let x := s.reg u g.b.toNat
    let act := s.active u g.msel
    match u with
    | .wave i => .done (s.modWave i (fun w => w.setRun g.d.toNat act [fun _ => lo32 x, fun _ => hi32 x]))
    | .thread _ => .done s)

/-- VSEL (R176). -/
def execVsel (f : LA) (s : State) : Host.Outcome State Fault Refusal :=
  runA s (.vsel f) (fun s u =>
    let m : Mask := match u with | .wave i => (s.wave i).mask (f.c.toNat % 8) | .thread _ => 0
    s.laneOp u f {} (fun a b _ _ l => (if m.getLsbD l then a l else b l, 0)))

/-- A comparison's mask: 0 outside ACTIVE; a trap comes before the write (R154, R172, R176, R179). -/
def State.laneMask (s : State) (u : UnitId) (f : LA) (g : (Nat → W32) → (Nat → W32) → Nat → Bool × FFlags) : Res :=
  match s.laneSources u f {} with
  | none => .stall s
  | some (a, b, _, t) =>
    let act := s.active u f.msel
    let ls := laneList u act
    let r := g a b
    let fl := flagsOver ls (fun l => (r l).2)
    match s.fpTrap u fl (enabledLanes (s.com u).fpctl ls (fun l => (r l).2)) with
    | some i => .trap s i
    | none =>
      match u with
      | .wave i => .done ((t.modWave i (fun w => w.setMask (f.d.toNat % 8) (Mask.ofLanes (ls.filter (fun l => (r l).1))))).orFpst u fl)
      | .thread _ => .done t

def laneCond (c : Nat) (a b : W32) : Bool :=
  match c with | 0 => a == b | 1 => a != b | 2 => a.slt b | 3 => !a.slt b | 4 => a.ult b | _ => !a.ult b

/-- VCMP (R176). -/
def execVcmp (f : LA) (s : State) : Host.Outcome State Fault Refusal :=
  runA s (.vcmp f) (fun s u => s.laneMask u f (fun a b l => (laneCond (f.md.toNat % 8) (a l) (b l), 0)))

/-! ## Floating point (R177 to R183) -/

/-- An operation on the codes of TYPE's elements. -/
def fpLane (f : LA) (g : Nat → Nat → Nat → Nat × FFlags) (a b c : W32) : W32 × FFlags :=
  let w := tyWidth f.ty
  packed w (fun i => g (elemOf w i a) (elemOf w i b) (elemOf w i c))
def State.laneFp (s : State) (u : UnitId) (f : LA) (n : LaneSrcs) (g : Nat → Nat → Nat → Nat × FFlags) : Res :=
  s.laneOp u f n (fun a b c _ l => fpLane f g (a l) (b l) (c l))

/-- FADD (R177). -/
def execFadd (f : AForm) (s : State) : Host.Outcome State Fault Refusal :=
  runA s (.fadd f) (fun s u => let g := toLA 0x13 f; s.laneFp u g {} (fun a b _ => fpAdd (fmtOf g.ty) g.rm.toNat g.sat a b))
/-- FSUB (R177). -/
def execFsub (f : AForm) (s : State) : Host.Outcome State Fault Refusal :=
  runA s (.fsub f) (fun s u => let g := toLA 0x14 f; s.laneFp u g {} (fun a b _ => fpSub (fmtOf g.ty) g.rm.toNat g.sat a b))
/-- FMUL (R177). -/
def execFmul (f : AForm) (s : State) : Host.Outcome State Fault Refusal :=
  runA s (.fmul f) (fun s u => let g := toLA 0x15 f; s.laneFp u g {} (fun a b _ => fpMul (fmtOf g.ty) g.rm.toNat g.sat a b))
/-- FFMA (R177). -/
def execFfma (f : LA) (s : State) : Host.Outcome State Fault Refusal :=
  runA s (.ffma f) (fun s u => s.laneFp u f { c := true } (fun a b c => fpFma (fmtOf f.ty) f.rm.toNat f.sat a b c))
/-- FMIN (R178). -/
def execFmin (f : AForm) (s : State) : Host.Outcome State Fault Refusal :=
  runA s (.fmin f) (fun s u => let g := toLA 0x17 f; s.laneFp u g {} (fun a b _ => fpMinMax (fmtOf g.ty) false a b))
/-- FMAX (R178). -/
def execFmax (f : AForm) (s : State) : Host.Outcome State Fault Refusal :=
  runA s (.fmax f) (fun s u => let g := toLA 0x18 f; s.laneFp u g {} (fun a b _ => fpMinMax (fmtOf g.ty) true a b))
/-- FCMP: MOD 2:0 the comparison, MOD 3 the element of a pair (R179). -/
def execFcmp (f : LA) (s : State) : Host.Outcome State Fault Refusal :=
  runA s (.fcmp f) (fun s u =>
    let w := tyWidth f.ty
    let h : Nat := if f.md.getLsbD 3 then 1 else 0
    s.laneMask u f (fun a b l => fpCmp (fmtOf f.ty) (f.md.toNat % 8) (elemOf w h (a l)) (elemOf w h (b l))))
/-- FCLASS: one bit for each element, at its bits 9:0 (R180). -/
def execFclass (f : AForm) (s : State) : Host.Outcome State Fault Refusal :=
  runA s (.fclass f) (fun s u => let g := toLA 0x1A f; s.laneFp u g { b := false } (fun a _ _ => (2 ^ fpClass (fmtOf g.ty) a, 0)))

def State.laneSpecial (s : State) (u : UnitId) (f : AForm) (fn : Nat) : Res :=
  let g := toLA 0x1B f
  s.laneFp u g { b := false } (fun a _ _ => fpSpecial fn g.ty.toNat g.rm.toNat g.sat a)

/-- FRCP (R181). -/
def execFrcp (f : AForm) (s : State) : Host.Outcome State Fault Refusal := runA s (.frcp f) (fun s u => s.laneSpecial u f 0)
/-- FRSQ. -/
def execFrsq (f : AForm) (s : State) : Host.Outcome State Fault Refusal := runA s (.frsq f) (fun s u => s.laneSpecial u f 1)
/-- FSQRT. -/
def execFsqrt (f : AForm) (s : State) : Host.Outcome State Fault Refusal := runA s (.fsqrt f) (fun s u => s.laneSpecial u f 2)
/-- FEXP2. -/
def execFexp2 (f : AForm) (s : State) : Host.Outcome State Fault Refusal := runA s (.fexp2 f) (fun s u => s.laneSpecial u f 3)
/-- FLOG2. -/
def execFlog2 (f : AForm) (s : State) : Host.Outcome State Fault Refusal := runA s (.flog2 f) (fun s u => s.laneSpecial u f 4)
/-- FSIN. -/
def execFsin (f : AForm) (s : State) : Host.Outcome State Fault Refusal := runA s (.fsin f) (fun s u => s.laneSpecial u f 5)
/-- FCOS. -/
def execFcos (f : AForm) (s : State) : Host.Outcome State Fault Refusal := runA s (.fcos f) (fun s u => s.laneSpecial u f 6)
/-- FTANH. -/
def execFtanh (f : AForm) (s : State) : Host.Outcome State Fault Refusal := runA s (.ftanh f) (fun s u => s.laneSpecial u f 7)

/-! ## Dot products (R185) -/

/-- DOT2: an exact sum of two products and C, rounded to .F32. -/
def dot2Lane (f : LA) (a b c : W32) : W32 × FFlags :=
  let m := fmtOf f.ty
  let p0 := (m.value (elemOf 16 0 a)).mul (m.value (elemOf 16 0 b))
  let p1 := (m.value (elemOf 16 1 a)).mul (m.value (elemOf 16 1 b))
  let r := sumRound fmtF32 f.rm.toNat f.sat (p0.2 || p1.2) [p0.1, p1.1, fmtF32.value c.toNat]
  (BitVec.ofNat 32 r.1, r.2)

/-- DOT4 and DOT8: an exact integer sum of products and C, in 32 bits. -/
def dotInt (f : LA) (w : Nat) (a b c : W32) : W32 × FFlags :=
  let g := tySigned f.ty
  let x := (List.range (32 / w)).foldl (fun acc i => acc + elemInt g w i a * elemInt g w i b) (elemInt g 32 0 c)
  let r := narrowInt g f.sat 32 x
  (BitVec.ofNat 32 r.1, r.2)

/-- DOT2 (R185). -/
def execDot2 (f : AForm) (s : State) : Host.Outcome State Fault Refusal :=
  runA s (.dot2 f) (fun s u => let g := toLA 0x1C f; s.laneOp u g { c := true } (fun a b c _ l => dot2Lane g (a l) (b l) (c l)))
/-- DOT4 (R185). -/
def execDot4 (f : AForm) (s : State) : Host.Outcome State Fault Refusal :=
  runA s (.dot4 f) (fun s u => let g := toLA 0x1D f; s.laneOp u g { c := true } (fun a b c _ l => dotInt g 8 (a l) (b l) (c l)))
/-- DOT8 (R185). -/
def execDot8 (f : AForm) (s : State) : Host.Outcome State Fault Refusal :=
  runA s (.dot8 f) (fun s u => let g := toLA 0x1E f; s.laneOp u g { c := true } (fun a b c _ l => dotInt g 4 (a l) (b l) (c l)))

/-! ## Exchange between lanes (R186 to R189) -/

/-- SHFL (R187). -/
def execShfl (f : AForm) (s : State) : Host.Outcome State Fault Refusal :=
  runA s (.shfl f) (fun s u => s.laneOp u (toLA 0x1F f) {} (fun a b _ _ l => (a ((b l).toNat % 64), 0)))
/-- SHFLX (R187). -/
def execShflx (f : AForm) (s : State) : Host.Outcome State Fault Refusal :=
  runA s (.shflx f) (fun s u => s.laneOp u (toLA 0x20 f) {} (fun a b _ _ l => (a (Nat.xor l ((b l).toNat % 64)), 0)))

/-- A uniform result: a k-register, written even when ACTIVE is empty, or every lane of ACTIVE (R171, R187 to R189). -/
def State.uniformDst (s t : State) (u : UnitId) (f : LA) (act : Mask) (k : W64) (r : W32) (fl : FFlags) (bad : Mask) : Res :=
  if f.kd && decide (f.d.toNat < 0x40) then
    match s.fpTrap u fl bad with
    | some i => .trap s i
    | none => .done ((t.setReg u f.d.toNat k).orFpst u fl)
  else s.laneEnd t u f act (fun _ => r) fl bad

/-- BCST (R187). -/
def execBcst (f : AForm) (s : State) : Host.Outcome State Fault Refusal :=
  runA s (.bcst f) (fun s u =>
    let g := toLA 0x21 f
    match s.laneSrc u g.ka g.a with
    | none => .stall s
    | some (a, t) =>
      let act := s.active u g.msel
      let src : Nat :=
        if g.md.getLsbD 0 then ((Mask.lanes act).head?).getD 0
        else if g.kb then (s.reg u g.b.toNat).toNat % 64 else g.b.toNat % 64
      s.uniformDst t u g act ((a src).zeroExtend 64) (a src) 0 0)

/-- One step of SCAN and REDU (R188). -/
def scanOp (f : LA) (op : Nat) (x y : W32) : W32 × FFlags :=
  let g := tySigned f.ty
  let lt (p q : W32) : Bool := if g then p.slt q else p.ult q
  match op with
  | 0 => (x + y, 0)
  | 1 => (if lt y x then y else x, 0)
  | 2 => (if lt x y then y else x, 0)
  | 3 => (x &&& y, 0)
  | 4 => (x ||| y, 0)
  | 5 => (x ^^^ y, 0)
  | _ => let r := fpAdd fmtF32 f.rm.toNat false x.toNat y.toNat; (BitVec.ofNat 32 r.1, r.2)
def scanIdentity (f : LA) (op : Nat) : W32 :=
  let g := tySigned f.ty
  match op with
  | 1 => BitVec.ofInt 32 (intMax g 32)
  | 2 => BitVec.ofInt 32 (intMin g 32)
  | 3 => BitVec.allOnes 32
  | _ => 0

/-- The prefix after each listed lane: lane, value before it (none before the first), value after it, flags of its step. -/
def scanList (f : LA) (op : Nat) (a : Nat → W32) : Option W32 → List Nat → List (Nat × Option W32 × W32 × FFlags)
  | _, [] => []
  | none, l :: t => (l, none, a l, 0) :: scanList f op a (some (a l)) t
  | some acc, l :: t => let r := scanOp f op acc (a l); (l, some acc, r.1, r.2) :: scanList f op a (some r.1) t

/-- SCAN (R188). -/
def execScan (f : AForm) (s : State) : Host.Outcome State Fault Refusal :=
  runA s (.scan f) (fun s u =>
    let g := toLA 0x22 f
    let op := g.md.toNat % 8
    s.laneOp u g { b := false } (fun a _ _ act =>
      let res := scanList g op a none (Mask.lanes act)
      fun l => match res.find? (fun e => e.1 == l) with
        | some (_, before, after, fl) => (if g.md.getLsbD 3 then before.getD (scanIdentity g op) else after, fl)
        | none => (0, 0)))
/-- REDU (R188). -/
def execRedu (f : AForm) (s : State) : Host.Outcome State Fault Refusal :=
  runA s (.redu f) (fun s u =>
    let g := toLA 0x23 f
    let op := g.md.toNat % 8
    match s.laneSrc u g.ka g.a with
    | none => .stall s
    | some (a, t) =>
      let act := s.active u g.msel
      let res := scanList g op a none (Mask.lanes act)
      let r : W32 := match res.getLast? with | some (_, _, v, _) => v | none => scanIdentity g op
      let fl := flagsOver (List.range res.length) (fun i => ((res[i]?).map (fun e => e.2.2.2)).getD 0)
      let bad := Mask.ofLanes ((res.filter (fun e => e.2.2.2 &&& (s.com u).fpctl != 0)).map (fun e => e.1))
      s.uniformDst t u g act (r.zeroExtend 64) r fl bad)

/-- VOTE (R189). -/
def execVote (f : AForm) (s : State) : Host.Outcome State Fault Refusal :=
  runA s (.vote f) (fun s u =>
    let g := toLA 0x24 f
    match s.laneSrc u g.ka g.a with
    | none => .stall s
    | some (a, t) =>
      let act := s.active u g.msel
      let ls := laneList u act
      let one (b : Bool) : Nat := if b then 1 else 0
      match g.b.toNat % 4 with
      | 0 => let r := one (ls.any (fun l => a l != 0)); s.uniformDst t u g act (BitVec.ofNat 64 r) (BitVec.ofNat 32 r) 0 0
      | 1 => let r := one (ls.all (fun l => a l != 0)); s.uniformDst t u g act (BitVec.ofNat 64 r) (BitVec.ofNat 32 r) 0 0
      | _ => s.uniformDst t u g act (Mask.ofLanes (ls.filter (fun l => a l != 0))) 0 0 0)

/-! ## Lane masks (R190) -/

/-- A mask instruction on masks A and B of the form, to mask D; EXEC and MSEL do not matter. -/
def State.maskOp (s : State) (u : UnitId) (f : AForm) (op : Mask → Mask → Mask) : Res :=
  let g := toLA 0x25 f
  match u with
  | .wave i => .done (s.modWave i (fun w => w.setMask (g.d.toNat % 8) (op (w.mask (g.a.toNat % 8)) (w.mask (g.b.toNat % 8)))))
  | .thread _ => .done s
/-- A mask instruction with a k-register result. -/
def State.maskCount (s : State) (u : UnitId) (f : AForm) (op : Mask → Nat) : Res :=
  let g := toLA 0x25 f
  match u with
  | .wave i => .done (s.modWave i (fun w => w.setK g.d.toNat (BitVec.ofNat 64 (op (w.mask (g.a.toNat % 8))))))
  | .thread _ => .done s

/-- MAND. -/
def execMand (f : AForm) (s : State) : Host.Outcome State Fault Refusal := runA s (.mand f) (fun s u => s.maskOp u f (· &&& ·))
/-- MOR. -/
def execMor (f : AForm) (s : State) : Host.Outcome State Fault Refusal := runA s (.mor f) (fun s u => s.maskOp u f (· ||| ·))
/-- MXOR. -/
def execMxor (f : AForm) (s : State) : Host.Outcome State Fault Refusal := runA s (.mxor f) (fun s u => s.maskOp u f (· ^^^ ·))
/-- MNOT. -/
def execMnot (f : AForm) (s : State) : Host.Outcome State Fault Refusal := runA s (.mnot f) (fun s u => s.maskOp u f (fun a _ => ~~~a))
/-- MPOPC. -/
def execMpopc (f : AForm) (s : State) : Host.Outcome State Fault Refusal :=
  runA s (.mpopc f) (fun s u => s.maskCount u f (fun m => (Mask.lanes m).length))
/-- MFIND. -/
def execMfind (f : AForm) (s : State) : Host.Outcome State Fault Refusal :=
  runA s (.mfind f) (fun s u => s.maskCount u f (fun m => ((Mask.lanes m).head?).getD 64))

/-! ## Philox (R191) -/

/-- One round on the counter under the keys. -/
def philoxRound (c : W32 × W32 × W32 × W32) (k0 k1 : W32) : W32 × W32 × W32 × W32 :=
  let p0 := BitVec.ofNat 64 (0xD2511F53 * c.1.toNat)
  let p1 := BitVec.ofNat 64 (0xCD9E8D57 * c.2.2.1.toNat)
  (hi32 p1 ^^^ c.2.1 ^^^ k0, lo32 p1, hi32 p0 ^^^ c.2.2.2 ^^^ k1, lo32 p0)
def philoxRounds : Nat → W32 × W32 × W32 × W32 → W32 → W32 → W32 × W32 × W32 × W32
  | 0, c, _, _ => c
  | n + 1, c, k0, k1 => philoxRounds n (philoxRound c k0 k1) (k0 + 0x9E3779B9) (k1 + 0xBB67AE85)
def philox (ctr key : W64) : W32 × W32 × W32 × W32 := philoxRounds 10 (lo32 ctr, hi32 ctr, 0, 0) (lo32 key) (hi32 key)

/-- A 64-bit operand of PHLX in each lane: a v-pair, a k-register, or two entries of an lq queue. -/
def State.pairSrc (s : State) (i : Nat) (kind : Bool) (code : BitVec 8) : Option ((Nat → W64) × State) :=
  let w := s.wave i
  let n := code.toNat
  if kind then
    if n < 0x40 then let x := w.kreg n; some (fun _ => x, s)
    else match w.popLq (n - 0x40) with
      | none => none
      | some (lo, w1) => match w1.popLq (n - 0x40) with
        | none => none
        | some (hi, w2) => some (fun l => join64 (lo.at l) (hi.at l), s.setWave i w2)
  else let lo := w.vreg n; let hi := w.vreg (n + 1); some (fun l => join64 (lo.at l) (hi.at l), s)

/-- PHLX (R191). -/
def execPhlx (f : AForm) (s : State) : Host.Outcome State Fault Refusal :=
  runA s (.phlx f) (fun s u =>
    let g := toLA 0x26 f
    match u with
    | .thread _ =>
      let r := philox (s.reg u g.a.toNat) (s.reg u g.b.toNat)
      .done ((s.setReg u g.d.toNat (join64 r.1 r.2.1)).setReg u (g.d.toNat + 1) (join64 r.2.2.1 r.2.2.2))
    | .wave i =>
      match s.pairSrc i g.ka g.a with
      | none => .stall s
      | some (a, t) => match t.pairSrc i g.kb g.b with
        | none => .stall s
        | some (b, t) =>
          let r (l : Nat) := philox (a l) (b l)
          .done (t.modWave i (fun w => w.setRun g.d.toNat (s.active u g.msel)
            [fun l => (r l).1, fun l => (r l).2.1, fun l => (r l).2.2.1, fun l => (r l).2.2.2])))

end Sys2Proof.Machine
end

