-- ==== Sys2Proof/Machine/Convert.lean ====
section
/-! DEFINITION. The conversion instructions (spec/05 R157 to R164): CVT, the MX block scales of CVTSC, PACK and UNPACK. -/

namespace Sys2Proof.Machine

/-! ## CVT (R160, R161) -/

/-- Value of a source element: UNORM, float or integer. -/
def cvtSource (ty : BitVec 4) (sun : Bool) (c : Nat) : FVal :=
  let w := tyWidth ty
  if sun then .fin false c (2 ^ w - 1)
  else if tyFloat ty then (fmtOf ty).value c
  else
    let x : Int := if tySigned ty then signExtInt c w else (c : Int)
    .fin (decide (x < 0)) x.natAbs 1

/-- Is an integer equal to an exact value? -/
def intIs (y : Int) (x : FVal) : Bool := decide (y * (x.den : Int) = x.signedNum)

/-- The code in DT, and the flags. -/
def cvtCode (ty dt : BitVec 4) (dun sun sat : Bool) (rm c : Nat) : Nat × FFlags :=
  let x := cvtSource ty sun c
  let w := tyWidth dt
  let g := tySigned dt
  if tyFloat dt then roundTo (fmtOf dt) rm sat x
  else if dun then
    match x with
    | .nan _ => (0, fNV)
    | .inf neg => (if neg then 0 else 2 ^ w - 1, 0)
    | .fin neg n d =>
      if neg || n == 0 then (0, 0)
      else if d ≤ n then (2 ^ w - 1, 0)
      else
        let y := roundInt rm false (n * (2 ^ w - 1)) d
        (y.toNat, if n * (2 ^ w - 1) % d == 0 then 0 else fNX)
  else if tyFloat ty || sun then
    match x with
    | .nan _ => (0, fNV)
    | .inf neg => (wrapInt (if neg then intMin g w else intMax g w) w, if sat then fSI else fNV)
    | .fin neg n d =>
      let y := roundInt rm neg n d
      let r := saturate y (intMin g w) (intMax g w)
      (wrapInt r.1 w, if r.2 then (if sat then fSI else fNV) else if intIs y x then 0 else fNX)
  else
    let r := narrowInt g sat w x.signedNum
    (r.1, r.2)

/-- CVT: element SEL of the source, the code in bits w − 1 : 0 (R161). -/
def cvtLane (f : LA) (a : W32) : W32 × FFlags :=
  let dt : BitVec 4 := f.md.extractLsb' 0 4
  let r := cvtCode f.ty dt (f.b.getLsbD 0) (f.b.getLsbD 1) f.sat f.rm.toNat (elemOf (tyWidth f.ty) (f.md.extractLsb' 4 3).toNat a)
  (BitVec.ofNat 32 r.1, r.2)

/-- CVT (R161). -/
def execCvt (f : LA) (s : State) : Host.Outcome State Fault Refusal :=
  runA s (.cvt f) (fun s u => s.laneOp u f { b := false } (fun a _ _ _ l => cvtLane f (a l)))

/-! ## CVTSC (R157, R158, R163) -/

/-- The wide element of a lane: 16-bit types stand in bits 15:0. -/
def wideValue (f : LA) (a : W32) : FVal :=
  let t : BitVec 4 := f.md.extractLsb' 0 4
  (fmtOf t).value (elemOf (tyWidth t) 0 a)

/-- emax of a narrow format (R158). -/
def mxEmax (t : BitVec 4) : Int :=
  match t.toNat with | 3 => 8 | 4 => 15 | 5 => 4 | _ => 2

def isNanInf : FVal → Bool
  | .fin .. => false
  | _ => true

/-- The greater magnitude. -/
def maxMag (a b : Nat × Nat) : Nat × Nat := if a.1 * b.2 < b.1 * a.2 then b else a

/-- X of a block from its active elements (R158). -/
def mxScale (t : BitVec 4) (xs : List FVal) : Nat :=
  if xs.any isNanInf then 0xFF
  else
    let m := (xs.map (fun x => match x with | .fin _ n d => (n, d) | _ => (0, 1))).foldl maxMag (0, 1)
    if m.1 = 0 then 0x7F else (max 0 (min 254 (log2Frac m.1 m.2 - mxEmax t + 127))).toNat

/-- An exact value times 2^k. -/
def FVal.scale (x : FVal) (k : Int) : FVal :=
  match x with
  | .fin s n d => if 0 ≤ k then .fin s (n * 2 ^ k.toNat) d else .fin s n (d * 2 ^ (-k).toNat)
  | y => y

/-- The encoded lane: scale and code; elements past MaxFinite saturate with NX and without OF. -/
def mxEncode (f : LA) (x : Nat) (a : FVal) : W32 × FFlags :=
  if x = 0xFF then (0xFF00, if isNanInf a then fNV else 0)
  else
    let r := roundTo (fmtOf f.ty) f.rm.toNat true (a.scale (127 - (x : Int)))
    (BitVec.ofNat 32 (x * 256 + r.1), r.2 &&& ~~~fOF)

/-- The decoded lane. -/
def mxDecode (f : LA) (a : W32) : W32 × FFlags :=
  let t : BitVec 4 := f.md.extractLsb' 0 4
  let x := bitsOf a 15 8
  if x = 0xFF then (BitVec.ofNat 32 (fmtOf t).nanOf, 0)
  else
    let r := roundTo (fmtOf t) f.rm.toNat f.sat (((fmtOf f.ty).value (a.toNat % 2 ^ tyWidth f.ty)).scale ((x : Int) - 127))
    (BitVec.ofNat 32 r.1, r.2)

/-- CVTSC (R163). -/
def execCvtsc (f : LA) (s : State) : Host.Outcome State Fault Refusal :=
  runA s (.cvtsc f) (fun s u => s.laneOp u f { b := false } (fun a _ _ act =>
    let block (j : Nat) : Nat := mxScale f.ty (((Mask.lanes act).filter (fun l => l / 32 == j)).map (fun l => wideValue f (a l)))
    let x0 := block 0
    let x1 := block 1
    fun l => if f.md.getLsbD 4 then mxDecode f (a l) else mxEncode f (if l < 32 then x0 else x1) (wideValue f (a l))))

/-! ## PACK and UNPACK (R164) -/

/-- The stream's bits from a function that gives its 64 elements of `w` bits. -/
def streamBits (w : Nat) (e : Nat → Nat) : Nat := (List.range 64).foldl (fun acc l => acc + e l % 2 ^ w * 2 ^ (w * l)) 0

/-- PACK (R164). -/
def execPack (f : LA) (s : State) : Host.Outcome State Fault Refusal :=
  runA s (.pack f) (fun s u =>
    let w := tyWidth f.ty
    let off := (f.md.extractLsb' 0 4).toNat
    match s.laneSrc u f.ka f.a with
    | none => .stall s
    | some (a, t) =>
      match u with
      | .thread _ =>
        let m : W32 := BitVec.ofNat 32 ((2 ^ w - 1) * 2 ^ (w * off))
        let d := lo32 (s.reg u f.d.toNat)
        .done (t.setReg u f.d.toNat (((d &&& ~~~m) ||| (BitVec.ofNat 32 ((a 0).toNat * 2 ^ (w * off)) &&& m)).zeroExtend 64))
      | .wave _ =>
        let act := s.active u f.msel
        let st := streamBits w (fun l => if act.getLsbD l then (a l).toNat else 0)
        let n := 2 * w
        let win := Mask.ofLanes ((Mask.lanes act).filter (fun l => decide (off * n ≤ l) && decide (l < off * n + n)))
        s.laneEnd t u f win (fun l => BitVec.ofNat 32 (st / 2 ^ (32 * (l - off * n)))) 0 0)

/-- UNPACK (R164). -/
def execUnpack (f : LA) (s : State) : Host.Outcome State Fault Refusal :=
  runA s (.unpack f) (fun s u =>
    let w := tyWidth f.ty
    let off := (f.md.extractLsb' 0 4).toNat
    match s.laneSrc u f.ka f.a with
    | none => .stall s
    | some (a, t) =>
      match u with
      | .thread _ => .done (t.setReg u f.d.toNat (BitVec.ofNat 64 ((a 0).toNat / 2 ^ (w * off) % 2 ^ w)))
      | .wave _ =>
        let n := 2 * w
        let st := (List.range n).foldl (fun acc k => acc + (a (off * n + k)).toNat * 2 ^ (32 * k)) 0
        s.laneEnd t u f (s.active u f.msel) (fun l => BitVec.ofNat 32 (st / 2 ^ (w * l) % 2 ^ w)) 0 0)

end Sys2Proof.Machine
end

