-- ==== Sys2Proof/Machine/Matrix.lean ====
section
/-! DEFINITION. Matrix instructions: stream registers, tiles, B slots, MMA steps, readout (spec/10 R270 to R310). -/

namespace Sys2Proof.Machine

/-! ## Format codes and control registers (R274 to R279) -/

/-- FMT codes accepted at use (R275). -/
def fmtAccepted (t : BitVec 4) : Bool := tyIn t [1, 2, 3, 4, 5, 6, 7, 12, 13, 14, 15]

/-- MRING's fields (R278). -/
def Wave.nm1 (w : Wave) : Nat := bitsOf w.mring 4 0
def Wave.bp (w : Wave) : Nat := bitsOf w.mring 12 8
def Wave.lp (w : Wave) : Nat := bitsOf w.mring 20 16
def Wave.setRing (w : Wave) (lp bp : Nat) : Wave := { w with mring := BitVec.ofNat 21 (lp % 32 * 2 ^ 16 + bp % 32 * 2 ^ 8 + w.nm1) }

/-- MSA with another LANE position (R276). -/
def Wave.setScalePos (w : Wave) (p : Nat) : Wave :=
  { w with msa := BitVec.ofNat 20 (bitsOf w.msa 19 18 * 2 ^ 18 + p % 4 * 2 ^ 16 + p / 4 % 256 * 2 ^ 8 + bitsOf w.msa 7 0) }

/-! ## Stream registers (R280 to R282) -/

/-- YSET. -/
def execYset (y : BitVec 3) (a : Reg6) (pitch step : W16) (s : State) : Host.Outcome State Fault Refusal :=
  runC s (.yset y a pitch step) (fun s u =>
    match u with
    | .wave i =>
      let x := s.reg u a.toNat
      let z : Stream := { step := step, pitch := pitch, cur := 0, wrap := x.extractLsb' 18 18, base := x.extractLsb' 0 18 }
      .done (s.modWave i (fun w => { w with y := w.y.setIfInBounds y.toNat z }))
    | .thread _ => .done s)

/-- A stream register from its 16 bytes. -/
def Stream.ofWord (x : BitVec 128) : Stream :=
  { step := x.extractLsb' 80 16, pitch := x.extractLsb' 64 16, cur := x.extractLsb' 36 18, wrap := x.extractLsb' 18 18, base := x.extractLsb' 0 18 }
def Stream.modulus (y : Stream) : Nat := if y.wrap == 0 then 2 ^ 18 else y.wrap.toNat
/-- CUR after a use. -/
def Stream.next (y : Stream) : Stream :=
  { y with cur := BitVec.ofInt 18 (((y.cur.toNat : Int) + y.step.toInt) % (y.modulus : Int)) }
def Stream.row (y : Stream) (i : Nat) : Nat := y.base.toNat + y.cur.toNat + i * y.pitch.toNat
def Stream.image (y : Stream) : Nat := y.base.toNat + y.cur.toNat

/-- The checks of R282 on pieces of the scratchpad: number, offset, length; `al` is the alignment. -/
def spadCheck (scr al : Nat) (ps : List (Nat × Nat × Nat)) : Option TrapInfo :=
  let fails := ps.filterMap (fun p =>
    if scr < p.2.1 + p.2.2 then some (p.1, p.2.1, Cause.accessViolation)
    else if p.2.1 % al != 0 then some (p.1, p.2.1, Cause.misaligned) else none)
  match fails with
  | [] => none
  | (_, a, c) :: _ => some { cause := c, mask := Mask.ofLanes (fails.map (fun f => f.1)), addr := BitVec.ofNat 64 a }

/-! ## Tiles (R283 to R289) -/

/-- An issued step still uses the tile (R299). -/
def Wave.tileBusy (w : Wave) (t : Nat) : Bool := w.steps.any (fun x => x.tile == t)

def tileBanks (wide : Bool) : Nat := if wide then 24 else 12
def tileCols (wide : Bool) : Nat := if wide then 64 else 32

/-- Banks of a block's reservation, rounded up, that no tile of its waves holds (R272, R284). -/
def State.freeBanks (s : State) (b : Nat) : Nat :=
  let used := (s.waves.filter (fun e => e.2.c.block == some b)).foldl
    (fun n e => e.2.t.foldl (fun n t => n + tileBanks t.2.wide) n) 0
  accBanks (s.block b).acc - used

/-- Allocation: 2 BUSY, 0 NOSPACE, 1 (R284). -/
def State.allocTile (s : State) (i t : Nat) (int wide : Bool) : Nat × State :=
  let w := s.wave i
  if (w.t.find t).isSome then (2, s)
  else match w.c.block with
    | none => (0, s)
    | some b =>
      if s.freeBanks b < tileBanks wide then (0, s)
      else (1, s.setWave i { w with t := w.t.put t { int := int, wide := wide, elems := [], flags := 0 } })

/-- ACCA (R284). -/
def execAcca (d : Reg6) (t : BitVec 4) (mode w : Bool) (s : State) : Host.Outcome State Fault Refusal :=
  runC s (.acca d t mode w) (fun s u =>
    match u with
    | .wave i => let r := s.allocTile i t.toNat mode w; .done (r.2.setReg u d.toNat (BitVec.ofNat 64 r.1))
    | .thread _ => .done s)

/-- ACCF, once the steps that use the tile and the stores of its images have completed (R285). -/
def execAccf (t : BitVec 4) (s : State) : Host.Outcome State Fault Refusal :=
  runC s (.accf t) (fun s u =>
    match u with
    | .wave i =>
      if (s.wave i).tileBusy t.toNat then .stall s
      else
        let r := s.settle u (fun a => a.image == some t.toNat)
        if r.1 then .done (r.2.modWave i (fun w => { w with t := w.t.drop t.toNat })) else .stall r.2
    | .thread _ => .done s)

/-- A tile that the instruction names; NONE takes BAD_OPERAND, and an issued step is waited for. -/
def State.withTile (s : State) (i t : Nat) (f : Tile → Res) : Res :=
  if (s.wave i).tileBusy t then .stall s
  else match (s.wave i).t.find t with
    | none => .trap s { cause := .badOperand }
    | some x => f x

/-- ACCZ (R285). -/
def execAccz (t : BitVec 4) (s : State) : Host.Outcome State Fault Refusal :=
  runC s (.accz t) (fun s u =>
    match u with
    | .wave i => s.withTile i t.toNat (fun x =>
        .done (s.modWave i (fun w => { w with t := w.t.put t.toNat { x with elems := [], flags := 0 } })))
    | .thread _ => .done s)

/-- The header byte of a tile image (R286). -/
def Tile.header (t : Tile) : Nat :=
  bit t.int 0 + bit t.wide 1 + bit (t.flags.getLsbD 0) 2 + bit (t.flags.getLsbD 1) 3 + bit (t.flags.getLsbD 2) 4 + bit (t.flags.getLsbD 4) 5

/-- Element (i, j) of a tile. -/
def Tile.elem (t : Tile) (i j : Nat) : BitVec 96 := t.elems.getD (64 * i + j) 0
/-- Element number `n` of the image. -/
def Tile.nth (t : Tile) (n : Nat) : BitVec 96 := t.elem (n / tileCols t.wide) (n % tileCols t.wide)

/-- Words of an image: 8 of the header, 1.5 for each element. -/
def imageWords (wide : Bool) : Nat := 8 + 96 * tileCols wide

/-- Word `i` of a tile image. -/
def Tile.word (t : Tile) (i : Nat) : W64 :=
  if i = 0 then BitVec.ofNat 64 t.header
  else if i < 8 then 0
  else
    let bit := 64 * (i - 8)
    let e := bit / 96
    BitVec.ofNat 64 (((t.nth e).toNat + (t.nth (e + 1)).toNat * 2 ^ 96) / 2 ^ (bit % 96))

/-- The checks of R287 on the words of an image: the range, and the alignment of its address. -/
def State.imageCheck (s : State) (u : UnitId) (sp : Space) (a : W64) (n : Nat) (r : Res) (k : Nat := 0) : Res :=
  s.memCheck (k := k) u sp 8 ((List.range n).map (fun i => (i, a + BitVec.ofNat 64 (8 * i))))
    (if a.toNat % 64 != 0 then .trap s { cause := .misaligned, mask := 1, addr := a } else r)

/-- As R205 orders them: a base that cannot be sent, then its alignment, then the rest of the range. MASK names the words 0 to 63 that fail, and word 0
for the alignment (log entry 118). -/
def State.imageOk (s : State) (u : UnitId) (sp : Space) (a : W64) (n : Nat) (r : Res) (k : Nat := 0) : Res :=
  if (s.laneCheck u sp 1 a k).isNone && a.toNat % 64 != 0 then .trap s { cause := .misaligned, mask := 1, addr := a }
  else s.imageCheck (k := k) u sp a n r

/-- ACCSV: plain stores of the image, in ascending order (R287). -/
def State.saveTile (s : State) (u : UnitId) (t : Nat) (a : W64) (spad : Bool) : Res :=
  match u with
  | .thread _ => .done s
  | .wave i => s.withTile i t (fun x =>
      let sp := s.kindSpace u spad
      let n := imageWords x.wide
      s.imageOk (k := 1) u sp a n
        (if spad && s.streamHeld u then .stall s
        else s.after u (fun a => a.op.isLoad) (fun s =>
          let lanes : List ALane := (List.range n).map (fun i => { lane := i, ea := a + BitVec.ofNat 64 (8 * i), data := x.word i })
          .done (s.sendRel { s.memAccess u sp .store 8 .none false false lanes with image := some t }))))

/-- ACCSV. -/
def execAccsv (t : BitVec 4) (b : Reg6) (s : State) : Host.Outcome State Fault Refusal :=
  runC s (.accsv t b) (fun s u => s.saveTile u t.toNat (s.reg u b.toNat) false)
/-- ACCSV, lone. -/
def execAccsvLone (t : BitVec 4) (b : Reg6) (spad : Bool) (s : State) : Host.Outcome State Fault Refusal :=
  runC s (.accsvLone t b spad) (fun s u => s.saveTile u t.toNat (s.reg u b.toNat) spad)

/-- The header of an image: its words read in order. -/
def State.readHead (s : State) (u : UnitId) (sp : Space) (a : W64) : Except Res (List W64 × State) :=
  match sp with
  | .scratch b => .ok ((List.range 8).map (fun i => BitVec.ofNat 64 (s.rd (scratchPlace b (a.toNat + 8 * i)) 8)), s)
  | _ => s.record u a 8

/-- A tile from its header byte. -/
def tileOfHead (h : W64) : Tile :=
  { int := h.getLsbD 0, wide := h.getLsbD 1, elems := [],
    flags := BitVec.ofNat 6 (bit (h.getLsbD 2) 0 + bit (h.getLsbD 3) 1 + bit (h.getLsbD 4) 2 + bit (h.getLsbD 5) 4) }

/-- ACCLD: header, checks, allocation, then the element words as plain loads, within the limit on memory instructions (R221, R288). -/
def State.loadTile (s : State) (u : UnitId) (d t : Nat) (a : W64) (spad : Bool) : Res :=
  match u with
  | .thread _ => .done s
  | .wave i =>
    if ((s.wave i).t.find t).isSome then .done (s.setReg u d 2)
    else
      let sp := s.kindSpace u spad
      s.memCheck u sp 8 ((List.range 8).map (fun i => (i, a + BitVec.ofNat 64 (8 * i)))) (s.after u (fun _ => false) (fun s =>
        let w := s.settle u (fun x => isScratch x.space)
        if spad && !w.1 then .stall w.2
        else match (if spad then w.2 else s).readHead u sp a with
        | .error r => r
        | .ok (ws, s) =>
          let h := ws.getD 0 0
          if h >>> (6 : Nat) != 0 || (ws.drop 1).any (· != 0) then .trap s { cause := .badOperand }
          else
            let x := tileOfHead h
            let n := imageWords x.wide
            s.imageOk u sp a n
              (let r := s.allocTile i t x.int x.wide
              if r.1 != 1 then .done (r.2.setReg u d (BitVec.ofNat 64 r.1))
              else
                let s := (r.2.modWave i (fun w => { w with t := w.t.put t x })).setReg u d 1
                let lanes : List ALane := (List.range (n - 8)).map (fun i => { lane := 8 + i, ea := a + BitVec.ofNat 64 (8 * (8 + i)) })
                .done (s.sendRel (s.memAccess u sp (.load false) 8 (.tile t) false false lanes)))))

/-- ACCLD. -/
def execAccld (d : Reg6) (t : BitVec 4) (b : Reg6) (s : State) : Host.Outcome State Fault Refusal :=
  runC s (.accld d t b) (fun s u => s.loadTile u d.toNat t.toNat (s.reg u b.toNat) false)
/-- ACCLD, lone. -/
def execAccldLone (d : Reg6) (t : BitVec 4) (b : Reg6) (spad : Bool) (s : State) : Host.Outcome State Fault Refusal :=
  runC s (.accldLone d t b spad) (fun s u => s.loadTile u d.toNat t.toNat (s.reg u b.toNat) spad)

/-! ## BLDQ (R290, R291) -/

/-- NB of a wave's block. -/
def State.slotsOf (s : State) (i : Nat) : Nat := match (s.wave i).c.block with | some b => (s.block b).nb | none => 0

/-- The slots that an MMA-class instruction reads with ring pointer `bp` (R296). -/
def Wave.mmaSlots (w : Wave) (k : MmaKind) (f : LA) (bp : Nat) : List Nat :=
  let fix := f.md.getLsbD 5
  let s0 := if fix then bitsOf f.md 4 0 else bp
  if k == .mmas then [s0, if fix then s0 + 1 else (s0 + 1) % (w.nm1 + 1)] else [s0]
/-- Steps by which it moves the ring pointer on. -/
def ringUses (k : MmaKind) (f : LA) : Nat := if f.md.getLsbD 5 then 0 else if k == .mmas then 2 else 1

/-- The slots that the MMA-class instructions ahead will read. -/
def Wave.slotsAhead (w : Wave) (bp : Nat) : List LeadSlot → List Nat
  | [] => []
  | l :: t => match mmaOf l.ai with
    | some (k, f, _) => w.mmaSlots k f bp ++ w.slotsAhead ((bp + ringUses k f) % (w.nm1 + 1)) t
    | none => w.slotsAhead bp t

/-- Must a BLDQ to a slot wait for an earlier MMA-class instruction that reads it? -/
def Wave.slotBusy (w : Wave) (n : Nat) : Bool :=
  w.steps.any (fun x => x.slots.contains n) || (w.slotsAhead w.bp w.lead).contains n

/-- BLDQ of a quarter. -/
def State.loadSlot (s : State) (i : Nat) (ring gen : Bool) (quad slot : Nat) (ynum : Nat) (a : W64) : Res :=
  let u : UnitId := .wave i
  let w := s.wave i
  let y := w.stream ynum
  let nb := s.slotsOf i
  let n := if ring then w.lp else slot
  let sc : Bool := bitsOf w.msb 19 18 == 2
  let data := 8 * tyWidth w.mfb
  let words := data + (if sc then 2 else 0)
  if !fmtAccepted w.mfb || decide (nb ≤ n) || (ring && decide (nb ≤ w.nm1)) then .trap s { cause := .badOperand }
  else
    let addr : W64 := if ring then BitVec.ofNat 64 y.image else a
    let sp := if gen then s.spaceOf u else s.spadSpace u
    let go : Res :=
      if w.slotBusy n then .stall s
      else s.after u (fun _ => false) (fun s =>
        let lanes : List ALane := (List.range words).map (fun k => { lane := k, ea := addr + BitVec.ofNat 64 (8 * k) })
        let s := s.sendRel (s.memAccess u sp (.load false) 8 (.slot ((s.com u).block.getD 0) n quad data) false false lanes)
        .done (if ring then s.modWave i (fun w =>
            let w := { w with y := w.y.setIfInBounds ynum y.next }
            if quad = 3 then w.setRing ((w.lp + 1) % (w.nm1 + 1)) w.bp else w)
          else s))
    if (s.laneCheck u sp 1 addr).isNone && addr.toNat % 16 != 0 then .trap s { cause := .misaligned, mask := 1, addr := addr }
    else s.memCheck u sp 8 ((List.range words).map (fun k => (k, addr + BitVec.ofNat 64 (8 * k)))) go

/-- BLDQ. -/
def execBldq (ring : Bool) (quad : BitVec 2) (slot : BitVec 5) (b : Reg6) (x : BitVec 8) (e : Option MemExt) (s : State) :
    Host.Outcome State Fault Refusal :=
  runC s (.bldq ring quad slot b x e) (fun s u =>
    match u with
    | .thread _ => .done s
    | .wave i =>
      let m : MemOp := { d := 0, b := b, x := x, sz := 3, dk := true }
      let f := memForm true false m e
      s.loadSlot i ring (match e with | some y => y.md.getLsbD 0 | none => false) quad.toNat slot.toNat (b.toNat % 8)
        (if ring then 0 else s.memEa u f 0))

/-! ## Issue of MMA, MMAS and MMAX (R292, R293, R297, R299) -/

/-- The 32 codes of a row from its stream of bits. -/
def rowCodes (w : Nat) (bits : Nat) : List Nat := (List.range 32).map (fun k => bits / 2 ^ (w * k) % 2 ^ w)

/-- The A row of a lane in registers from `a` on. -/
def Wave.regRow (x : Wave) (a l : Nat) : List Nat :=
  let w := tyWidth x.mfa
  rowCodes w ((List.range w).foldl (fun acc r => acc + ((x.vreg (a + r)).at l).toNat * 2 ^ (32 * r)) 0)

/-- idx0 and idx1 of the 16 groups from a metadata word. -/
def metaIdx (m : Nat) : List Nat := (List.range 32).map (fun k => m / 2 ^ (2 * k) % 4)

/-- A list by lane, empty outside the mask. -/
def byLane (act : Mask) (f : Nat → List Nat) : List (List Nat) := (List.range 64).map (fun l => if act.getLsbD l then f l else [])

/-- The scale of row `l` for use `j` (R276). -/
def Wave.rowScale (w : Wave) (j l : Nat) : Nat :=
  match bitsOf w.msa 19 18 with
  | 0 => 0x7F
  | 1 => bitsOf w.msa 7 0
  | _ =>
    let p := (w.scalePos + j) % 1024
    (((w.vreg (p / 4)).at l).toNat / 2 ^ (8 * (p % 4))) % 256

/-- The first condition of R293 that holds, as its number. -/
def State.mmaCheck (s : State) (i : Nat) (k : MmaKind) (f : LA) (paired : Bool) : Option Nat :=
  let w := s.wave i
  let t0 := f.d.toNat - 0x60
  let tiles := if k == .mmax then [t0, t0 + 1] else [t0]
  let ints (t : BitVec 4) : Bool := !tyFloat t
  let srcA := bitsOf w.msa 19 18
  let srcB := bitsOf w.msb 19 18
  let nb := s.slotsOf i
  let conds : List Bool :=
    [tiles.any (fun t => (w.t.find t).isNone),
     !fmtAccepted w.mfa || !fmtAccepted w.mfb,
     ints w.mfa != ints w.mfb,
     tiles.any (fun t => match w.t.find t with | some x => x.int != ints w.mfa | none => false),
     srcA == 3 || srcB == 3,
     (srcA != 0 && ints w.mfa) || (srcB != 0 && ints w.mfb),
     (List.range (w.scaleUses k)).any (fun j => decide (w.nv ≤ (w.scalePos + j) % 1024 / 4)),
     ((w.mmaRegs k f paired 0).take ((w.mmaRegs k f paired 0).length - w.scaleUses k)).any (fun r => decide (w.nv ≤ r))
       || (k == .mmas && !f.kc && metaReg (tyWidth w.mfa) f paired % 2 == 1),
     (w.mmaSlots k f w.bp).any (fun n => decide (nb ≤ n)) || (!f.md.getLsbD 5 && decide (nb ≤ w.nm1))]
  (conds.findIdx? id).map (· + 1)

/-- A word of the scratchpad as bits. -/
def State.spadBits (s : State) (i off n : Nat) : Nat := s.rd (scratchPlace (((s.wave i).c.block).getD 0) off) n

/-- Issue of an MMA-class instruction: its operands are sampled, pointers advance, its steps wait for the matrix unit. DESIGN CHOICE: where rows of
several uses fail R282, cause and address are those of the first use in order, the A rows of one after the other and then the metadata, and MASK joins the
lanes of all (log entry 111). -/
def State.issueMma (s : State) (i : Nat) (k : MmaKind) (f : LA) (paired : Bool) : Res :=
  let u : UnitId := .wave i
  let w := s.wave i
  if 4 ≤ (w.steps.filter (fun x => !x.half)).length then .stall s
  else match s.mmaCheck i k f paired with
  | some n => .trap s { cause := .badOperand, detail := BitVec.ofNat 64 n }
  | none =>
    let act := s.active u f.msel
    let ls := Mask.lanes act
    let wid := tyWidth w.mfa
    -- stream uses: A rows (two for MMAX), then the metadata
    let ya := f.b.toNat - 0x50
    let y0 := w.stream ya
    let y1 := y0.next
    let uses := if !f.kb then [] else if k == .mmax then [y0, y1] else [y0]
    let yEnd := if !f.kb then y0 else if k == .mmax then y1.next else y1
    let ym := f.c.toNat - 0x50
    let ymeta := if f.kb && ym == ya then yEnd else w.stream ym
    let rows := uses.flatMap (fun y => ls.map (fun l => (l, y.row l, 4 * wid)))
    let metas := if k == .mmas && f.kc then ls.map (fun l => (l, ymeta.row l, 8)) else []
    match spadCheck (s.unitScr u) 8 (rows ++ metas) with
    | some t => .trap s t
    | none =>
      let r := s.settle u (fun a => (rows ++ metas != []) && isScratch a.space)
      if !r.1 then .stall r.2
      else
        let o := r.2.newId
        let s := o.2
        let step (j : Nat) (t : Nat) : MatStep :=
          { tile := t, fmtA := w.mfa, fmtB := w.mfb, active := act
            rows := byLane act (fun l => match uses[j]? with
              | some y => rowCodes wid (s.spadBits i (y.row l) (4 * wid))
              | none => w.regRow (f.a.toNat + j * wid) l)
            metadata := if k == .mmas then byLane act (fun l =>
                metaIdx (if f.kc then s.spadBits i (ymeta.row l) 8
                  else (join64 ((w.vreg (metaReg wid f paired)).at l) ((w.vreg (metaReg wid f paired + 1)).at l)).toNat))
              else []
            sa := byLane act (fun l => if k == .mmas then [w.rowScale 0 l, w.rowScale 1 l] else [w.rowScale j l])
            slots := w.mmaSlots k f w.bp, srcB := w.msb.extractLsb' 18 2, xvalB := w.msb.extractLsb' 0 8
            half := k == .mmax && j == 0, order := o.1 }
        let t0 := f.d.toNat - 0x60
        let new := if k == .mmax then [step 0 t0, step 1 (t0 + 1)] else [step 0 t0]
        .done (s.modWave i (fun x =>
          let x := { x with steps := x.steps ++ new }
          let x := if f.kb then { x with y := x.y.setIfInBounds ya yEnd } else x
          let x := if k == .mmas && f.kc then { x with y := x.y.setIfInBounds ym ymeta.next } else x
          let x := if w.scaleUses k = 0 then x else x.setScalePos (w.scalePos + w.scaleUses k)
          if ringUses k f = 0 then x else x.setRing x.lp ((w.bp + ringUses k f) % (w.nm1 + 1))))

def State.mmaUnit (s : State) (u : UnitId) (k : MmaKind) (f : LA) (paired : Bool) : Res :=
  match u with | .wave i => s.issueMma i k f paired | .thread _ => .done s

/-- MMA (R293). -/
def execMma (d a b : BitVec 8) (kb : Bool) (s : State) : Host.Outcome State Fault Refusal :=
  runA s (.mma d a b kb) (fun s u => s.mmaUnit u .mma (toLA 0x2B (.p d a b kb false)) true)
/-- MMAS (R296). -/
def execMmas (d a b : BitVec 8) (kb : Bool) (s : State) : Host.Outcome State Fault Refusal :=
  runA s (.mmas d a b kb) (fun s u => s.mmaUnit u .mmas (toLA 0x2C (.p d a b kb false)) true)
/-- MMAX (R297). -/
def execMmax (d a b : BitVec 8) (kb : Bool) (s : State) : Host.Outcome State Fault Refusal :=
  runA s (.mmax d a b kb) (fun s u => s.mmaUnit u .mmax (toLA 0x2D (.p d a b kb false)) true)
/-- The lone forms. -/
def execMmaLone (k : MmaKind) (f : LA) (s : State) : Host.Outcome State Fault Refusal :=
  runA s (.mmaLone k f) (fun s u => s.mmaUnit u k f false)

/-! ## The step (R294 to R298) -/

/-- Element (k, c) of a quarter image (R274). -/
def imageElem (img : BitVec 8192) (w k c : Nat) : Nat := img.toNat / 2 ^ (w * (16 * k + c)) % 2 ^ w

def intOf (t : BitVec 4) (c : Nat) : Int := if tySigned t then signExtInt c (tyWidth t) else (c : Int)

/-- B code of logical row `kk` and column `j`, from the step's slots. -/
def Block.bCode (b : Block) (st : MatStep) (kk j : Nat) : Nat :=
  imageElem (b.bslots.getD (4 * st.slots.getD (kk / 32) 0 + j / 16) 0) (tyWidth st.fmtB) (kk % 32) (j % 16)

/-- The scale of column `j` for slot use `h` (R277). -/
def Block.bScale (b : Block) (st : MatStep) (h j : Nat) : Nat :=
  match st.srcB.toNat with
  | 0 => 0x7F
  | 1 => st.xvalB.toNat
  | _ => ((b.bscale.getD (4 * st.slots.getD h 0 + j / 16) 0x7F7F7F7F7F7F7F7F7F7F7F7F7F7F7F7F).toNat / 2 ^ (8 * (j % 16))) % 256

/-- The logical row of stored element `k`: itself, or through the metadata under MMAS (R296). -/
def MatStep.logical (st : MatStep) (l k : Nat) : Nat :=
  match st.metadata with
  | [] => k
  | m => 4 * (k / 2) + (m.getD l []).getD k 0

/-- The new element of a float-mode step, and its flags (R294). DESIGN CHOICE: an element of T that is a NaN, a signalling one that an ACCLD has loaded too,
raises no flag (log entry 110). -/
def floatElem (st : MatStep) (b : Block) (l j : Nat) (old : BitVec 96) : BitVec 96 × FFlags :=
  let row := st.rows.getD l []
  let sas := st.sa.getD l []
  let term (k : Nat) : FVal × Bool :=
    let kk := st.logical l k
    let sa := if st.metadata.isEmpty then sas.getD 0 0x7F else sas.getD (k / 16) 0x7F
    let sb := b.bScale st (kk / 32) j
    let x := (fmtOf st.fmtA).value (row.getD k 0)
    let y := (fmtOf st.fmtB).value (b.bCode st kk j)
    let p := x.mul y
    (p.1.scale ((sa : Int) + sb - 254), p.2 || x.isNan || y.isNan || sa == 0xFF || sb == 0xFF)
  let terms := (List.range 32).map term
  if terms.any (fun t => t.2) then (BitVec.ofNat 96 fmtA96.nanOf, fNV)
  else
    let s := exactSum 0 (terms.map (fun t => t.1))
    match s.1 with
    | .nan _ => (BitVec.ofNat 96 fmtA96.nanOf, fNV)
    | v =>
      let t := fmtA96.value old.toNat
      if t.isNan then (BitVec.ofNat 96 fmtA96.nanOf, 0)
      else match exactSum 0 [t, if v.isZero then .fin false 0 1 else v] with
        | (.nan _, _) => (BitVec.ofNat 96 fmtA96.nanOf, fNV)
        | (x, _) => if x.isZero then (0, 0) else let r := roundTo fmtA96 0 false x; (BitVec.ofNat 96 r.1, r.2)

/-- The new element of an integer-mode step (R295). -/
def intElem (st : MatStep) (b : Block) (l j : Nat) (old : BitVec 96) : BitVec 96 :=
  let row := st.rows.getD l []
  old + BitVec.ofInt 96 (((List.range 32).map (fun k => intOf st.fmtA (row.getD k 0) * intOf st.fmtB (b.bCode st (st.logical l k) j))).sum)

/-- The tile after a step. -/
def Tile.step (t : Tile) (st : MatStep) (b : Block) : Tile :=
  (Mask.lanes st.active).foldl (fun t l =>
    (List.range (tileCols t.wide)).foldl (fun t j =>
      let old := t.elem l j
      let r : BitVec 96 × FFlags := if t.int then (intElem st b l j old, 0) else floatElem st b l j old
      { t with elems := t.elems.put (64 * l + j) r.1, flags := t.flags ||| r.2 }) t) t

/-! ## The matrix unit's step, column checks (R299, R307 to R309) -/

/-- MCOL after column `c` of quadrant `q` is retired (R308). -/
def retireColumn (m : W64) (q c : Nat) : W64 :=
  let used := bitsOf m (14 * q + 13) (14 * q + 12)
  let off := 14 * q + 6 * used
  let clean := m &&& ~~~(((0x3F : W64) <<< off) ||| ((3 : W64) <<< (14 * q + 12)))
  clean ||| (BitVec.ofNat 64 c <<< off) ||| (BitVec.ofNat 64 (used + 1) <<< (14 * q + 12))

/-- A residue mismatch in column `c` of quadrant `q`: retired where a spare is left, else the engine goes offline, and its waves keep their issued
steps (R309); false then. The log names the engine by its source number. DESIGN CHOICE: DETAIL holds the column in bits 5:0 and the quadrant in bits 7:6
(R307; log entry 109). -/
def State.columnMismatch (s : State) (e q c : Nat) : Bool × State :=
  let m := (s.engine e).mcol
  if bitsOf m (14 * q + 13) (14 * q + 12) < 2 then
    (true, (s.modEngine e (fun g => { g with mcol := retireColumn m q c })).logError 0x0F (engineSrc e) (s.vale (e / 4)).func 0 0
      (BitVec.ofNat 64 (q * 64 + c)))
  else
    let s := s.modEngine e (fun g => { g with offline := true })
    (false, { s with waves := s.waves.map (fun x => (x.1, if x.2.eng == e then
      { x.2 with steps := x.2.steps.map (fun t => { t with kept := true }) } else x.2)) })

/-- The residue checks of a step and of its replays, each as the order of things has it, until one passes or the engine goes offline (R307; log
entry 1). The spares end after eight mismatches. -/
def State.checkColumns (s : State) (e : Nat) : Nat → Bool × State
  | 0 => (true, s)
  | n + 1 =>
    let ch := s.choose 257
    if ch.1 = 0 then (true, ch.2)
    else
      let r := ch.2.columnMismatch e ((ch.1 - 1) / 64) ((ch.1 - 1) % 64)
      if r.1 then r.2.checkColumns e n else r

/-- Is the wave on its engine, so that the matrix unit takes its steps? -/
def State.stepsHere (s : State) (w : Wave) : Bool :=
  !w.c.away && (match w.c.block with | some b => (match (s.block b).swap with | .res | .prk | .out => true | _ => false) | none => true)

/-- Has another wave of the engine a step that issued before (R270)? -/
def State.stepBehind (s : State) (e n : Nat) : Bool :=
  s.waves.any (fun x => x.2.eng == e && s.stepsHere x.2 && x.2.steps.any (fun t => decide (t.order < n)))

/-- May the wave's oldest issued step run: its engine is present, no step there issued before it, and its BLDQs to the slots have arrived
(R270, R299, R309)? -/
def State.stepReady (s : State) (i : Nat) : Bool :=
  let w := s.wave i
  match w.steps with
  | [] => false
  | st :: _ =>
    !(s.engine w.eng).offline && s.stepsHere w && !s.stepBehind w.eng st.order
      && s.answered (.wave i) (fun a => match a.dest with | .slot _ n _ _ => st.slots.contains n | _ => false)

/-- The matrix unit runs a wave's oldest issued step and writes its tile; where a column's check fails, the step is replayed from its sampled
operands (R307). -/
def State.runStep (s : State) (i : Nat) : State :=
  let w := s.wave i
  match w.steps with
  | [] => s
  | st :: rest =>
    let chk := s.checkColumns w.eng 9
    if !chk.1 then chk.2
    else
      let b := chk.2.block (w.c.block.getD 0)
      (chk.2.countUnit (.wave i) 0x008).modWave i (fun w => { w with
        steps := rest
        t := match w.t.find st.tile with | some t => w.t.put st.tile (t.step st b) | none => w.t }) |>.noteWrites (.wave i) ⟨[.t st.tile], st.active, 0⟩

/-- MATRIX_STEP. -/
def execMatrixStep (w : Nat) (s : State) : Host.Outcome State Fault Refusal :=
  .next (let s := (s.settle (.wave w) (fun a => match a.dest with | .slot .. => true | _ => false)).2
    if s.stepReady w then s.runStep w else s)

/-! ## ACCRD and ACCWR (R300 to R302) -/

/-- The value of an element: its A96 reading, or a 96-bit integer. -/
def Tile.value (t : Tile) (x : BitVec 96) : FVal :=
  if t.int then .fin (decide (x.toInt < 0)) x.toInt.natAbs 1 else fmtA96.value x.toNat

/-- The conversion of a readout (R161, R301). -/
def readoutCode (t : Tile) (dt : BitVec 4) (rm : Nat) (sat : Bool) (x : BitVec 96) : Nat × FFlags :=
  let w := tyWidth dt
  let g := tySigned dt
  if tyFloat dt then roundTo (fmtOf dt) rm sat (t.value x)
  else if t.int then narrowInt g sat w x.toInt
  else match t.value x with
    | .nan _ => (0, fNV)
    | .inf neg => (wrapInt (if neg then intMin g w else intMax g w) w, if sat then fSI else fNV)
    | .fin neg n d =>
      let y := roundInt rm neg n d
      let r := saturate y (intMin g w) (intMax g w)
      (wrapInt r.1 w, if r.2 then (if sat then fSI else fNV) else if intIs y (.fin neg n d) then 0 else fNX)

/-- ACCRD of a column quarter (R301); MASK of its FP_EXCEPTION by log entry 80. -/
def State.readTile (s : State) (i : Nat) (f : LA) : Res :=
  let u : UnitId := .wave i
  let t := f.a.toNat - 0x60
  let cq := bitsOf f.b 1 0
  s.withTile i t (fun x =>
    if tileCols x.wide ≤ 16 * cq then .trap s { cause := .badOperand }
    else
      let act := s.active u f.msel
      let ls := Mask.lanes act
      let w := tyWidth f.ty
      let codes (l : Nat) : List (Nat × FFlags) := (List.range 16).map (fun c => readoutCode x f.ty f.rm.toNat f.sat (x.elem l (16 * cq + c)))
      let lf (l : Nat) : FFlags := (codes l).foldl (fun a r => a ||| r.2) 0
      let fl := x.flags ||| flagsOver ls lf
      -- an enabled flag of the tile names every active lane
      match s.fpTrap u fl (if x.flags &&& (s.com u).fpctl == 0 then enabledLanes (s.com u).fpctl ls lf else act) with
      | some i => .trap s i
      | none =>
        let bits (l : Nat) : Nat := ((codes l).zipIdx.map (fun e => e.1.1 % 2 ^ w * 2 ^ (w * e.2))).sum
        let s := (List.range (w / 2)).foldl (fun s r =>
          s.modWave i (fun y => y.setLanes (f.d.toNat + r) act (fun l => BitVec.ofNat 32 (bits l / 2 ^ (32 * r))))) s
        let s := if f.md.getLsbD 0 then
            s.modWave i (fun y => { y with t := y.t.put t { x with elems := x.elems.filter (fun e =>
              !(act.getLsbD (e.1 / 64) && decide (e.1 % 64 / 16 = cq))) } })
          else s
        .done (s.orFpst u fl))

/-- ACCRD (R300, R301). -/
def execAccrd (f : AForm) (s : State) : Host.Outcome State Fault Refusal :=
  runA s (.accrd f) (fun s u => match u with | .wave i => s.readTile i (toLA 0x2E f) | .thread _ => .done s)

/-- The element that ACCWR writes (R302). -/
def writeElem (int : Bool) (ty : BitVec 4) (c : Nat) : BitVec 96 :=
  if int then BitVec.ofInt 96 (intOf ty c)
  else if tyFloat ty then
    (match (fmtOf ty).value c with
      | .nan _ => BitVec.ofNat 96 fmtA96.nanOf
      | v => BitVec.ofNat 96 (roundTo fmtA96 0 false v).1)
  else
    let x := intOf ty c
    BitVec.ofNat 96 (roundTo fmtA96 0 false (.fin (decide (x < 0)) x.natAbs 1)).1

/-- ACCWR of a column quarter (R302). -/
def State.writeTile (s : State) (i : Nat) (f : LA) : Res :=
  let u : UnitId := .wave i
  let t := f.d.toNat - 0x60
  let cq := bitsOf f.b 1 0
  s.withTile i t (fun x =>
    if tileCols x.wide ≤ 16 * cq || (x.int && tyFloat f.ty) then .trap s { cause := .badOperand }
    else
      let w := tyWidth f.ty
      let y := s.wave i
      let bits (l : Nat) : Nat := (List.range (w / 2)).foldl (fun a r => a + ((y.vreg (f.a.toNat + r)).at l).toNat * 2 ^ (32 * r)) 0
      let x := (Mask.lanes (s.active u f.msel)).foldl (fun x l => (List.range 16).foldl (fun (x : Tile) c =>
        { x with elems := x.elems.put (64 * l + 16 * cq + c) (writeElem x.int f.ty (bits l / 2 ^ (w * c) % 2 ^ w)) }) x) x
      .done (s.modWave i (fun y => { y with t := y.t.put t x })))

/-- ACCWR (R300, R302). -/
def execAccwr (f : AForm) (s : State) : Host.Outcome State Fault Refusal :=
  runA s (.accwr f) (fun s u => match u with | .wave i => s.writeTile i (toLA 0x2F f) | .thread _ => .done s)

end Sys2Proof.Machine
end

