-- ==== Sys2Proof/Machine/Scalar.lean ====
section
/-! DEFINITION. The scalar integer and address instructions (spec/03 R84 to R98). -/

namespace Sys2Proof.Machine

/-! ## The operations, at either width -/

def opAdd : WordOp := fun _ a b => a + b
def opSub : WordOp := fun _ a b => a - b
def opAnd : WordOp := fun _ a b => a &&& b
def opOr : WordOp := fun _ a b => a ||| b
def opXor : WordOp := fun _ a b => a ^^^ b
def opAndn : WordOp := fun _ a b => a &&& ~~~b
/-- The count is b modulo n (R89). -/
def opShl : WordOp := fun n a b => a <<< (b.toNat % n)
def opShr : WordOp := fun n a b => a >>> (b.toNat % n)
def opSra : WordOp := fun n a b => a.sshiftRight (b.toNat % n)
def opRot : WordOp := fun n a b => let c := b.toNat % n; (a <<< c) ||| (a >>> ((n - c) % n))
/-- R90. -/
def opShladd (k : Nat) : WordOp := fun _ a b => (a <<< k) + b
/-- R91. -/
def opMin : WordOp := fun _ a b => if a.slt b then a else b
def opMax : WordOp := fun _ a b => if b.slt a then a else b
def opMinn : WordOp := fun _ a b => if a.ult b then a else b
def opMaxn : WordOp := fun _ a b => if b.ult a then a else b
def opSlt : WordOp := fun n a b => if a.slt b then 1#n else 0#n
def opSltn : WordOp := fun n a b => if a.ult b then 1#n else 0#n
def opSeq : WordOp := fun n a b => if a = b then 1#n else 0#n
/-- R93. -/
def opMul : WordOp := fun _ a b => a * b
def opMulh : WordOp := fun n a b => BitVec.ofInt n (a.toInt * b.toInt / (2 ^ n : Nat))
def opMulhn : WordOp := fun n a b => BitVec.ofNat n (a.toNat * b.toNat / 2 ^ n)
/-- R94. The quotient and the remainder truncate toward zero. -/
def opDiv : WordOp := fun n a b =>
  if b = 0#n then (if 0 ≤ a.toInt then BitVec.ofInt n (intMax true n) else BitVec.ofInt n (intMin true n))
  else if a.toInt = intMin true n ∧ b.toInt = -1 then BitVec.ofInt n (intMax true n)
  else BitVec.ofInt n (Int.tdiv a.toInt b.toInt)
def opRem : WordOp := fun n a b =>
  if b = 0#n then a
  else if a.toInt = intMin true n ∧ b.toInt = -1 then 0#n
  else BitVec.ofInt n (a.toInt - Int.tdiv a.toInt b.toInt * b.toInt)
def opDivn : WordOp := fun n a b => if b = 0#n then BitVec.allOnes n else BitVec.ofNat n (a.toNat / b.toNat)
def opRemn : WordOp := fun n a b => if b = 0#n then a else BitVec.ofNat n (a.toNat % b.toNat)
/-- R96, on one operand. -/
def opClz : WordOp := fun n a _ => BitVec.ofNat n (((bitsLE n a.toNat).reverse.takeWhile (· == false)).length)
def opCtz : WordOp := fun n a _ => BitVec.ofNat n (((bitsLE n a.toNat).takeWhile (· == false)).length)
def opPopc : WordOp := fun n a _ => BitVec.ofNat n (popCount n a.toNat)
def opBrev : WordOp := fun _ a _ => a.reverse
def opBswp : WordOp := fun n a _ => BitVec.ofNat n (ofBytesLE (bytesLE (n / 8) a.toNat).reverse)

/-- Does the form of width n set DZ: is its divisor 0 (R94)? -/
def divZero (w : Bool) (b : W64) : Bool := if w then lo32 b == 0 else b == 0
/-- Does a DIV overflow (R94)? -/
def divOver (w : Bool) (a b : W64) : Bool :=
  if w then lo32 a == BitVec.ofInt 32 (intMin true 32) && lo32 b == BitVec.allOnes 32
  else a == BitVec.ofInt 64 (intMin true 64) && b == BitVec.allOnes 64

/-- A divide or remainder: the result and the flags of SSTAT; `signedDiv` for DIV, which alone overflows. -/
def State.divide (s : State) (u : UnitId) (d a : Reg6) (w : Bool) (b : W64) (f : WordOp) (signedDiv : Bool) : State :=
  (s.alu u d a w b f).orSstat u (divZero w b) (signedDiv && divOver w (s.reg u a.toNat) b)

/-- SEL (R92). -/
def State.select (s : State) (u : UnitId) (d a : Reg6) (b : W64) : State :=
  s.setReg u d.toNat (if s.reg u d.toNat ≠ 0 then s.reg u a.toNat else b)

/-- The operation of each minor on registers or an immediate. -/
def State.aluOp (s : State) (u : UnitId) (op : AluOp) (d a : Reg6) (w : Bool) (b : W64) : State :=
  match op with
  | .add => s.alu u d a w b opAdd | .sub => s.alu u d a w b opSub | .and => s.alu u d a w b opAnd | .or => s.alu u d a w b opOr
  | .xor => s.alu u d a w b opXor | .andn => s.alu u d a w b opAndn | .shl => s.alu u d a w b opShl
  | .shr => s.alu u d a w b opShr | .sra => s.alu u d a w b opSra | .rot => s.alu u d a w b opRot
  | .shladd1 => s.alu u d a w b (opShladd 1) | .shladd2 => s.alu u d a w b (opShladd 2)
  | .shladd3 => s.alu u d a w b (opShladd 3) | .shladd4 => s.alu u d a w b (opShladd 4)
  | .min => s.alu u d a w b opMin | .max => s.alu u d a w b opMax | .minn => s.alu u d a w b opMinn
  | .maxn => s.alu u d a w b opMaxn | .slt => s.alu u d a w b opSlt | .sltn => s.alu u d a w b opSltn
  | .seq => s.alu u d a w b opSeq | .sel => s.select u d a b
  | .mul => s.alu u d a w b opMul | .mulh => s.alu u d a w b opMulh | .mulhn => s.alu u d a w b opMulhn
  | .div => s.divide u d a w b opDiv true | .divn => s.divide u d a w b opDivn false
  | .rem => s.divide u d a w b opRem false | .remn => s.divide u d a w b opRemn false

/-! ## The meanings -/

/-- R87. -/
def execAdd (d a b : Reg6) (w : Bool) (s : State) : Host.Outcome State Fault Refusal :=
  runC s (.add d a b w) (fun s u => .done (s.alu u d a w (s.reg u b.toNat) opAdd))

/-- R87. -/
def execSub (d a b : Reg6) (w : Bool) (s : State) : Host.Outcome State Fault Refusal :=
  runC s (.sub d a b w) (fun s u => .done (s.alu u d a w (s.reg u b.toNat) opSub))

/-- R88. -/
def execAnd (d a b : Reg6) (w : Bool) (s : State) : Host.Outcome State Fault Refusal :=
  runC s (.and d a b w) (fun s u => .done (s.alu u d a w (s.reg u b.toNat) opAnd))

/-- R88. -/
def execOr (d a b : Reg6) (w : Bool) (s : State) : Host.Outcome State Fault Refusal :=
  runC s (.or d a b w) (fun s u => .done (s.alu u d a w (s.reg u b.toNat) opOr))

/-- R88. -/
def execXor (d a b : Reg6) (w : Bool) (s : State) : Host.Outcome State Fault Refusal :=
  runC s (.xor d a b w) (fun s u => .done (s.alu u d a w (s.reg u b.toNat) opXor))

/-- R88. -/
def execAndn (d a b : Reg6) (w : Bool) (s : State) : Host.Outcome State Fault Refusal :=
  runC s (.andn d a b w) (fun s u => .done (s.alu u d a w (s.reg u b.toNat) opAndn))

/-- R89. -/
def execShl (d a b : Reg6) (w : Bool) (s : State) : Host.Outcome State Fault Refusal :=
  runC s (.shl d a b w) (fun s u => .done (s.alu u d a w (s.reg u b.toNat) opShl))

/-- R89. -/
def execShr (d a b : Reg6) (w : Bool) (s : State) : Host.Outcome State Fault Refusal :=
  runC s (.shr d a b w) (fun s u => .done (s.alu u d a w (s.reg u b.toNat) opShr))

/-- R89. -/
def execSra (d a b : Reg6) (w : Bool) (s : State) : Host.Outcome State Fault Refusal :=
  runC s (.sra d a b w) (fun s u => .done (s.alu u d a w (s.reg u b.toNat) opSra))

/-- R89. -/
def execRot (d a b : Reg6) (w : Bool) (s : State) : Host.Outcome State Fault Refusal :=
  runC s (.rot d a b w) (fun s u => .done (s.alu u d a w (s.reg u b.toNat) opRot))

/-- R90. -/
def execShladd1 (d a b : Reg6) (w : Bool) (s : State) : Host.Outcome State Fault Refusal :=
  runC s (.shladd1 d a b w) (fun s u => .done (s.alu u d a w (s.reg u b.toNat) (opShladd 1)))

/-- R90. -/
def execShladd2 (d a b : Reg6) (w : Bool) (s : State) : Host.Outcome State Fault Refusal :=
  runC s (.shladd2 d a b w) (fun s u => .done (s.alu u d a w (s.reg u b.toNat) (opShladd 2)))

/-- R90. -/
def execShladd3 (d a b : Reg6) (w : Bool) (s : State) : Host.Outcome State Fault Refusal :=
  runC s (.shladd3 d a b w) (fun s u => .done (s.alu u d a w (s.reg u b.toNat) (opShladd 3)))

/-- R90. -/
def execShladd4 (d a b : Reg6) (w : Bool) (s : State) : Host.Outcome State Fault Refusal :=
  runC s (.shladd4 d a b w) (fun s u => .done (s.alu u d a w (s.reg u b.toNat) (opShladd 4)))

/-- R91. -/
def execMin (d a b : Reg6) (w : Bool) (s : State) : Host.Outcome State Fault Refusal :=
  runC s (.min d a b w) (fun s u => .done (s.alu u d a w (s.reg u b.toNat) opMin))

/-- R91. -/
def execMax (d a b : Reg6) (w : Bool) (s : State) : Host.Outcome State Fault Refusal :=
  runC s (.max d a b w) (fun s u => .done (s.alu u d a w (s.reg u b.toNat) opMax))

/-- R91. -/
def execMinn (d a b : Reg6) (w : Bool) (s : State) : Host.Outcome State Fault Refusal :=
  runC s (.minn d a b w) (fun s u => .done (s.alu u d a w (s.reg u b.toNat) opMinn))

/-- R91. -/
def execMaxn (d a b : Reg6) (w : Bool) (s : State) : Host.Outcome State Fault Refusal :=
  runC s (.maxn d a b w) (fun s u => .done (s.alu u d a w (s.reg u b.toNat) opMaxn))

/-- R91. -/
def execSlt (d a b : Reg6) (w : Bool) (s : State) : Host.Outcome State Fault Refusal :=
  runC s (.slt d a b w) (fun s u => .done (s.alu u d a w (s.reg u b.toNat) opSlt))

/-- R91. -/
def execSltn (d a b : Reg6) (w : Bool) (s : State) : Host.Outcome State Fault Refusal :=
  runC s (.sltn d a b w) (fun s u => .done (s.alu u d a w (s.reg u b.toNat) opSltn))

/-- R91. -/
def execSeq (d a b : Reg6) (w : Bool) (s : State) : Host.Outcome State Fault Refusal :=
  runC s (.seq d a b w) (fun s u => .done (s.alu u d a w (s.reg u b.toNat) opSeq))

/-- R93. -/
def execMul (d a b : Reg6) (w : Bool) (s : State) : Host.Outcome State Fault Refusal :=
  runC s (.mul d a b w) (fun s u => .done (s.alu u d a w (s.reg u b.toNat) opMul))

/-- R93. -/
def execMulh (d a b : Reg6) (w : Bool) (s : State) : Host.Outcome State Fault Refusal :=
  runC s (.mulh d a b w) (fun s u => .done (s.alu u d a w (s.reg u b.toNat) opMulh))

/-- R93. -/
def execMulhn (d a b : Reg6) (w : Bool) (s : State) : Host.Outcome State Fault Refusal :=
  runC s (.mulhn d a b w) (fun s u => .done (s.alu u d a w (s.reg u b.toNat) opMulhn))

/-- R94. -/
def execDiv (d a b : Reg6) (w : Bool) (s : State) : Host.Outcome State Fault Refusal :=
  runC s (.div d a b w) (fun s u => .done (s.divide u d a w (s.reg u b.toNat) opDiv true))

/-- R94. -/
def execDivn (d a b : Reg6) (w : Bool) (s : State) : Host.Outcome State Fault Refusal :=
  runC s (.divn d a b w) (fun s u => .done (s.divide u d a w (s.reg u b.toNat) opDivn false))

/-- R94. -/
def execRem (d a b : Reg6) (w : Bool) (s : State) : Host.Outcome State Fault Refusal :=
  runC s (.rem d a b w) (fun s u => .done (s.divide u d a w (s.reg u b.toNat) opRem false))

/-- R94. -/
def execRemn (d a b : Reg6) (w : Bool) (s : State) : Host.Outcome State Fault Refusal :=
  runC s (.remn d a b w) (fun s u => .done (s.divide u d a w (s.reg u b.toNat) opRemn false))

/-- R92. -/
def execSel (d a b : Reg6) (s : State) : Host.Outcome State Fault Refusal :=
  runC s (.sel d a b) (fun s u => .done (s.select u d a (s.reg u b.toNat)))

/-- R96. -/
def execClz (d a : Reg6) (w : Bool) (s : State) : Host.Outcome State Fault Refusal :=
  runC s (.clz d a w) (fun s u => .done (s.alu u d a w 0 opClz))

/-- R96. -/
def execCtz (d a : Reg6) (w : Bool) (s : State) : Host.Outcome State Fault Refusal :=
  runC s (.ctz d a w) (fun s u => .done (s.alu u d a w 0 opCtz))

/-- R96. -/
def execPopc (d a : Reg6) (w : Bool) (s : State) : Host.Outcome State Fault Refusal :=
  runC s (.popc d a w) (fun s u => .done (s.alu u d a w 0 opPopc))

/-- R96. -/
def execBrev (d a : Reg6) (w : Bool) (s : State) : Host.Outcome State Fault Refusal :=
  runC s (.brev d a w) (fun s u => .done (s.alu u d a w 0 opBrev))

/-- R96. -/
def execBswp (d a : Reg6) (w : Bool) (s : State) : Host.Outcome State Fault Refusal :=
  runC s (.bswp d a w) (fun s u => .done (s.alu u d a w 0 opBswp))

/-- The lone forms of CMAJ 0x01 and 0x02: the extension word stands for B (R86). -/
def execAluImmediateLone (op : AluOp) (d a : Reg6) (w : Bool) (imm : W32) (s : State) : Host.Outcome State Fault Refusal :=
  runC s (.aluImmediateLone op d a w imm) (fun s u => .done (s.aluOp u op d a w (immOf imm)))

/-- R87. -/
def execAddi (d a : Reg6) (imm : BitVec 13) (s : State) : Host.Outcome State Fault Refusal :=
  runC s (.addi d a imm) (fun s u => .done (s.setReg u d.toNat (s.reg u a.toNat + imm.signExtend 64)))
/-- R87. -/
def execAddiLone (d a : Reg6) (imm : W32) (s : State) : Host.Outcome State Fault Refusal :=
  runC s (.addiLone d a imm) (fun s u => .done (s.setReg u d.toNat (s.reg u a.toNat + immOf imm)))

/-- R97. -/
def execLi (d : Reg6) (imm : BitVec 19) (s : State) : Host.Outcome State Fault Refusal :=
  runC s (.li d imm) (fun s u => .done (s.setReg u d.toNat (imm.signExtend 64)))
/-- R97. -/
def execLiLone (d : Reg6) (imm : W32) (s : State) : Host.Outcome State Fault Refusal :=
  runC s (.liLone d imm) (fun s u => .done (s.setReg u d.toNat (immOf imm)))
/-- R97. -/
def execLih (d : Reg6) (imm : BitVec 19) (s : State) : Host.Outcome State Fault Refusal :=
  runC s (.lih d imm) (fun s u => .done (s.setReg u d.toNat (join64 (lo32 (s.reg u d.toNat)) (imm.signExtend 32))))
/-- R97. -/
def execLihLone (d : Reg6) (imm : W32) (s : State) : Host.Outcome State Fault Refusal :=
  runC s (.lihLone d imm) (fun s u => .done (s.setReg u d.toNat (join64 (lo32 (s.reg u d.toNat)) imm)))

/-- The width of a field that starts at POS: cut at bit 63 (R98). -/
def fieldWidth (lenm1 pos : BitVec 6) : Nat := min (pos.toNat + lenm1.toNat + 1) 64 - pos.toNat

/-- The field that BEXT takes. -/
def bextVal (a : W64) (sx : Bool) (lenm1 pos : BitVec 6) : W64 :=
  let w := fieldWidth lenm1 pos
  let x := a.toNat / 2 ^ pos.toNat % 2 ^ w
  if sx then BitVec.ofInt 64 (signExtInt x w) else BitVec.ofNat 64 x
/-- R98. -/
def execBext (d a : Reg6) (sx : Bool) (lenm1 pos : BitVec 6) (s : State) : Host.Outcome State Fault Refusal :=
  runC s (.bext d a sx lenm1 pos) (fun s u => .done (s.setReg u d.toNat (bextVal (s.reg u a.toNat) sx lenm1 pos)))

/-- The word that BINS leaves in D. -/
def binsVal (d a : W64) (lenm1 pos : BitVec 6) : W64 :=
  let m : W64 := BitVec.ofNat 64 (2 ^ fieldWidth lenm1 pos - 1) <<< pos.toNat
  (d &&& ~~~m) ||| ((a <<< pos.toNat) &&& m)
/-- R98. -/
def execBins (d a : Reg6) (lenm1 pos : BitVec 6) (s : State) : Host.Outcome State Fault Refusal :=
  runC s (.bins d a lenm1 pos) (fun s u => .done (s.setReg u d.toNat (binsVal (s.reg u d.toNat) (s.reg u a.toNat) lenm1 pos)))

end Sys2Proof.Machine
end

