-- ==== Sys2Proof/Machine/Select.lean ====
section
/-! DEFINITION. Sorting, selection and set instructions (spec/11 R311 to R324); HIST is with the memory instructions. -/

namespace Sys2Proof.Machine

/-- The key of an element of `w` bits (R313). -/
def keyOf (ty : BitVec 4) (nhi desc : Bool) (w x : Nat) : Nat :=
  let k : Nat :=
    if tyFloat ty then
      match (fmtOf ty).value x with
      | .nan _ => if nhi then 2 ^ w - 1 else 0
      | v =>
        let x := if v.isZero then 0 else x
        if 2 ^ (w - 1) ≤ x then 2 ^ w - 1 - x else x + 2 ^ (w - 1)
    else if tySigned ty then Nat.xor x (2 ^ (w - 1)) else x
  if desc then 2 ^ w - 1 - k else k

/-- KEYX (R313). -/
def execKeyx (f : AForm) (s : State) : Host.Outcome State Fault Refusal :=
  runA s (.keyx f) (fun s u =>
    let g := toLA 0x30 f
    let w := tyWidth g.ty
    s.laneOp u g { b := false } (fun a _ _ _ l =>
      packed w (fun i => (keyOf g.ty (g.md.getLsbD 0) (g.md.getLsbD 1) w (elemOf w i (a l)), 0))))

/-- The digit of a key (R314). -/
def digitOf (pfx : Bool) (a b c : W32) : W32 :=
  let pos := bitsOf b 4 0
  let len := min (max (bitsOf b 12 8) 1) 16
  let top := min (pos + len) 32 - 1
  if pfx && decide (top < 31) && bitsOf a 31 (top + 1) != bitsOf c 31 (top + 1) then BitVec.ofNat 32 (2 ^ len)
  else BitVec.ofNat 32 (bitsOf a top pos)

/-- DIGIT (R314). -/
def execDigit (f : AForm) (s : State) : Host.Outcome State Fault Refusal :=
  runA s (.digit f) (fun s u =>
    let g := toLA 0x31 f
    s.laneMap u g { c := g.md.getLsbD 0 } (fun a b c => digitOf (g.md.getLsbD 0) a b c))

/-- MATCH (R319). -/
def execMatchEq (f : AForm) (s : State) : Host.Outcome State Fault Refusal :=
  runA s (.matchEq f) (fun s u =>
    let g := toLA 0x32 f
    match u with
    | .thread _ => .done s
    | .wave i =>
      match s.laneSrc u g.ka g.a with
      | none => .stall s
      | some (a, t) =>
        let act := s.active u g.msel
        let ls := Mask.lanes act
        let same (l : Nat) : Mask := Mask.ofLanes (ls.filter (fun j => a j == a l))
        if g.md.getLsbD 0 then
          .done (t.modWave i (fun w => w.setMask (g.d.toNat % 8)
            (Mask.ofLanes (ls.filter (fun l => !ls.any (fun j => decide (j < l) && a j == a l))))))
        else .done (t.modWave i (fun w => w.setRun g.d.toNat act [fun l => lo32 (same l), fun l => hi32 (same l)])))

/-- RANK (R320). -/
def execRank (f : AForm) (s : State) : Host.Outcome State Fault Refusal :=
  runA s (.rank f) (fun s u =>
    let g := toLA 0x33 f
    s.laneOp u g { b := false } (fun a _ _ act l =>
      (BitVec.ofNat 32 ((Mask.lanes act).filter (fun j => (g.md.getLsbD 0 || decide (j < l)) && a j == a l)).length, 0)))

/-- All 64 lanes of D, and a count to k[C] under KC (R321). -/
def State.listDst (s : State) (i : Nat) (f : LA) (r : Nat → W32) (count : W64) : State :=
  s.modWave i (fun w =>
    let w := w.setV f.d.toNat (Lanes.gen r)
    if f.kc then w.setK f.c.toNat count else w)

/-- The lanes that CMPX and EXPD select: ACTIVE and the mask of B (R322). -/
def State.moveLanes (s : State) (u : UnitId) (i : Nat) (f : LA) : List Nat :=
  Mask.lanes (s.active u f.msel &&& (s.wave i).mask (f.b.toNat % 8))

/-- CMPX (R322). -/
def execCmpx (f : AForm) (s : State) : Host.Outcome State Fault Refusal :=
  runA s (.cmpx f) (fun s u =>
    let g := toLA 0x34 f
    match u with
    | .thread _ => .done s
    | .wave i =>
      match s.laneSrc u g.ka g.a with
      | none => .stall s
      | some (a, t) =>
        let sel := s.moveLanes u i g
        let old := (s.wave i).vreg g.d.toNat
        let other (p : Nat) : W32 := if g.md.getLsbD 0 then old.at p else 0
        .done (t.listDst i g (fun p => match sel[p]? with | some l => a l | none => other p) (BitVec.ofNat 64 sel.length)))

/-- EXPD (R322). -/
def execExpd (f : AForm) (s : State) : Host.Outcome State Fault Refusal :=
  runA s (.expd f) (fun s u =>
    let g := toLA 0x34 f
    match u with
    | .thread _ => .done s
    | .wave i =>
      match s.laneSrc u g.ka g.a with
      | none => .stall s
      | some (a, t) =>
        let sel := s.moveLanes u i g
        let old := (s.wave i).vreg g.d.toNat
        let other (p : Nat) : W32 := if g.md.getLsbD 0 then old.at p else 0
        .done (t.listDst i g (fun p => if sel.contains p then a (sel.idxOf p) else other p) (BitVec.ofNat 64 sel.length)))

/-- The source lanes of the merge, `n` of them from the pointers `i` and `j` (R323). -/
def mergeFrom (le : Nat → Nat → Bool) (h : Nat) : Nat → Nat → Nat → List Nat
  | 0, _, _ => []
  | n + 1, i, j =>
    if j = 64 || (decide (i < h) && le i j) then i :: mergeFrom le h n (i + 1) j else j :: mergeFrom le h n i (j + 1)

/-- BMRG (R323). -/
def execBmrg (f : AForm) (s : State) : Host.Outcome State Fault Refusal :=
  runA s (.bmrg f) (fun s u =>
    let g := toLA 0x35 f
    match u with
    | .thread _ => .done s
    | .wave i =>
      match s.laneSrc u g.ka g.a with
      | none => .stall s
      | some (a, t) =>
        let h := if g.kb then min ((s.reg u g.b.toNat).toNat % 128) 64 else g.b.toNat
        let le (p q : Nat) : Bool := if tySigned g.ty then (a p).sle (a q) else (a p).ule (a q)
        let src := mergeFrom le h 64 0 h
        .done (t.listDst i g (fun p => let l := src.getD p 0; if g.md.getLsbD 0 then BitVec.ofNat 32 l else a l) 0))

/-- The matches of two lists: pairs of positions; `n` steps suffice for both lists together (R324). -/
def intersect (lt : W32 → W32 → Bool) (p q : Nat → W32) (np nq : Nat) : Nat → Nat → Nat → List (Nat × Nat)
  | 0, _, _ => []
  | n + 1, i, j =>
    if np ≤ i ∨ nq ≤ j then []
    else if lt (p i) (q j) then intersect lt p q np nq n (i + 1) j
    else if lt (q j) (p i) then intersect lt p q np nq n i (j + 1)
    else (i, j) :: intersect lt p q np nq n (i + 1) (j + 1)

/-- ISECT (R324). -/
def execIsect (f : AForm) (s : State) : Host.Outcome State Fault Refusal :=
  runA s (.isect f) (fun s u =>
    let g := toLA 0x36 f
    match u with
    | .thread _ => .done s
    | .wave i =>
      match s.laneSources u g {} with
      | none => .stall s
      | some (p, q, _, t) =>
        let k := s.reg u g.c.toNat
        let np := if g.kc then min (bitsOf k 6 0) 64 else 64
        let nq := if g.kc then min (bitsOf k 14 8) 64 else 64
        let lt (x y : W32) : Bool := if tySigned g.ty then x.slt y else x.ult y
        let ms := intersect lt p q np nq 129 0 0
        let bound : W32 := if lt (q (nq - 1)) (p (np - 1)) then q (nq - 1) else p (np - 1)
        let adv (x : Nat → W32) (n : Nat) : Nat :=
          if np = 0 ∨ nq = 0 then n else ((List.range n).filter (fun i => !lt bound (x i))).length
        .done (t.listDst i g
          (fun l => match ms[l]? with | some (a, b) => BitVec.ofNat 32 (b * 256 + a) | none => 0xFFFFFFFF)
          (BitVec.ofNat 64 (ms.length * 2 ^ 16 + adv q nq * 2 ^ 8 + adv p np))))

end Sys2Proof.Machine
end

