-- ==== Sys2Proof/Machine/Dispatch.lean ====
section
/-! DEFINITION. The meaning of every instruction and of every step of the device: one arm per constructor of `Instr`. -/

namespace Sys2Proof.Machine

/-- One instruction or one step of the device. -/
def exec (i : Instr) (s : State) : Host.Outcome State Fault Refusal :=
  match i with
  -- spec/04: no-operations (R101, R54)
  | .nopC lone => Sys2Proof.Machine.execNopC lone s
  | .nopA => Sys2Proof.Machine.execNopA s
  -- spec/03: scalar
  | .add d a b w => Sys2Proof.Machine.execAdd d a b w s
  | .sub d a b w => Sys2Proof.Machine.execSub d a b w s
  | .and d a b w => Sys2Proof.Machine.execAnd d a b w s
  | .or d a b w => Sys2Proof.Machine.execOr d a b w s
  | .xor d a b w => Sys2Proof.Machine.execXor d a b w s
  | .andn d a b w => Sys2Proof.Machine.execAndn d a b w s
  | .shl d a b w => Sys2Proof.Machine.execShl d a b w s
  | .shr d a b w => Sys2Proof.Machine.execShr d a b w s
  | .sra d a b w => Sys2Proof.Machine.execSra d a b w s
  | .rot d a b w => Sys2Proof.Machine.execRot d a b w s
  | .shladd1 d a b w => Sys2Proof.Machine.execShladd1 d a b w s
  | .shladd2 d a b w => Sys2Proof.Machine.execShladd2 d a b w s
  | .shladd3 d a b w => Sys2Proof.Machine.execShladd3 d a b w s
  | .shladd4 d a b w => Sys2Proof.Machine.execShladd4 d a b w s
  | .min d a b w => Sys2Proof.Machine.execMin d a b w s
  | .max d a b w => Sys2Proof.Machine.execMax d a b w s
  | .minn d a b w => Sys2Proof.Machine.execMinn d a b w s
  | .maxn d a b w => Sys2Proof.Machine.execMaxn d a b w s
  | .slt d a b w => Sys2Proof.Machine.execSlt d a b w s
  | .sltn d a b w => Sys2Proof.Machine.execSltn d a b w s
  | .seq d a b w => Sys2Proof.Machine.execSeq d a b w s
  | .sel d a b => Sys2Proof.Machine.execSel d a b s
  | .clz d a w => Sys2Proof.Machine.execClz d a w s
  | .ctz d a w => Sys2Proof.Machine.execCtz d a w s
  | .popc d a w => Sys2Proof.Machine.execPopc d a w s
  | .brev d a w => Sys2Proof.Machine.execBrev d a w s
  | .bswp d a w => Sys2Proof.Machine.execBswp d a w s
  | .aluImmediateLone op d a w imm => Sys2Proof.Machine.execAluImmediateLone op d a w imm s
  | .mul d a b w => Sys2Proof.Machine.execMul d a b w s
  | .mulh d a b w => Sys2Proof.Machine.execMulh d a b w s
  | .mulhn d a b w => Sys2Proof.Machine.execMulhn d a b w s
  | .div d a b w => Sys2Proof.Machine.execDiv d a b w s
  | .divn d a b w => Sys2Proof.Machine.execDivn d a b w s
  | .rem d a b w => Sys2Proof.Machine.execRem d a b w s
  | .remn d a b w => Sys2Proof.Machine.execRemn d a b w s
  | .addi d a imm => Sys2Proof.Machine.execAddi d a imm s
  | .addiLone d a imm => Sys2Proof.Machine.execAddiLone d a imm s
  | .li d imm => Sys2Proof.Machine.execLi d imm s
  | .liLone d imm => Sys2Proof.Machine.execLiLone d imm s
  | .lih d imm => Sys2Proof.Machine.execLih d imm s
  | .lihLone d imm => Sys2Proof.Machine.execLihLone d imm s
  | .bext d a sx lenm1 pos => Sys2Proof.Machine.execBext d a sx lenm1 pos s
  | .bins d a lenm1 pos => Sys2Proof.Machine.execBins d a lenm1 pos s
  -- spec/04: control
  | .b off => Sys2Proof.Machine.execB off s
  | .call off => Sys2Proof.Machine.execCall off s
  | .bc c a b off => Sys2Proof.Machine.execBc c a b off s
  | .bcLone c a b off => Sys2Proof.Machine.execBcLone c a b off s
  | .jmp d a => Sys2Proof.Machine.execJmp d a s
  | .ret a => Sys2Proof.Machine.execRet a s
  | .rptx => Sys2Proof.Machine.execRptx s
  | .rpt a lenm1 => Sys2Proof.Machine.execRpt a lenm1 s
  | .rptLone lenm1 cnt => Sys2Proof.Machine.execRptLone lenm1 cnt s
  | .exit => Sys2Proof.Machine.execExit s
  | .exitLone code => Sys2Proof.Machine.execExitLone code s
  | .yield a => Sys2Proof.Machine.execYield a s
  | .yieldLone a off => Sys2Proof.Machine.execYieldLone a off s
  | .bkpt => Sys2Proof.Machine.execBkpt s
  | .bkptLone tag => Sys2Proof.Machine.execBkptLone tag s
  | .passRidge b tmpl off => Sys2Proof.Machine.execPassRidge b tmpl off s
  | .passSpur tmpl off => Sys2Proof.Machine.execPassSpur tmpl off s
  | .passFlush tmpl off => Sys2Proof.Machine.execPassFlush tmpl off s
  | .brv m b => Sys2Proof.Machine.execBrv m b s
  | .brvLone m off => Sys2Proof.Machine.execBrvLone m off s
  | .elsev b => Sys2Proof.Machine.execElsev b s
  | .elsevLone off => Sys2Proof.Machine.execElsevLone off s
  | .joinv lone => Sys2Proof.Machine.execJoinv lone s
  | .waitr d a => Sys2Proof.Machine.execWaitr d a s
  | .waitrLone d limit => Sys2Proof.Machine.execWaitrLone d limit s
  -- spec/07: memory
  | .ld m => Sys2Proof.Machine.execLd m s
  | .st m => Sys2Proof.Machine.execSt m s
  | .ldq m => Sys2Proof.Machine.execLdq m s
  | .lds m => Sys2Proof.Machine.execLds m s
  | .sts m => Sys2Proof.Machine.execSts m s
  | .lda m => Sys2Proof.Machine.execLda m s
  | .stl m => Sys2Proof.Machine.execStl m s
  | .ldsync m => Sys2Proof.Machine.execLdsync m s
  | .stf m => Sys2Proof.Machine.execStf m s
  | .memoryLoneForm k m e => Sys2Proof.Machine.execMemoryLoneForm k m e s
  | .atom m e => Sys2Proof.Machine.execAtom m e s
  | .amsg m e => Sys2Proof.Machine.execAmsg m e s
  | .pf m e => Sys2Proof.Machine.execPf m e s
  | .cwb m e => Sys2Proof.Machine.execCwb m e s
  | .cinv m e => Sys2Proof.Machine.execCinv m e s
  | .fence => Sys2Proof.Machine.execFence s
  | .fenceSt => Sys2Proof.Machine.execFenceSt s
  | .hist m e => Sys2Proof.Machine.execHist m e s
  -- spec/09: copy engine and messages
  | .cpyj d a => Sys2Proof.Machine.execCpyj d a s
  | .cpyjLone d a b words => Sys2Proof.Machine.execCpyjLone d a b words s
  | .cpyq d a => Sys2Proof.Machine.execCpyq d a s
  | .cpyw d a => Sys2Proof.Machine.execCpyw d a s
  | .gath m e => Sys2Proof.Machine.execGath m e s
  | .scat m e => Sys2Proof.Machine.execScat m e s
  | .tload d a b doff => Sys2Proof.Machine.execTload d a b doff s
  | .send d a b => Sys2Proof.Machine.execSend d a b s
  | .sendLone d a b nw => Sys2Proof.Machine.execSendLone d a b nw s
  | .recv d a b => Sys2Proof.Machine.execRecv d a b s
  | .mbw d a b => Sys2Proof.Machine.execMbw d a b s
  | .mbr d a => Sys2Proof.Machine.execMbr d a s
  -- spec/10: matrix
  | .acca d t mode w => Sys2Proof.Machine.execAcca d t mode w s
  | .accf t => Sys2Proof.Machine.execAccf t s
  | .accz t => Sys2Proof.Machine.execAccz t s
  | .accsv t b => Sys2Proof.Machine.execAccsv t b s
  | .accsvLone t b spad => Sys2Proof.Machine.execAccsvLone t b spad s
  | .accld d t b => Sys2Proof.Machine.execAccld d t b s
  | .accldLone d t b spad => Sys2Proof.Machine.execAccldLone d t b spad s
  | .bldq ring quad slot b x e => Sys2Proof.Machine.execBldq ring quad slot b x e s
  | .yset y a pitch step => Sys2Proof.Machine.execYset y a pitch step s
  -- spec/12: contour
  | .cview a b => Sys2Proof.Machine.execCview a b s
  | .cviewLone a countm1 vt => Sys2Proof.Machine.execCviewLone a countm1 vt s
  | .ctile d b => Sys2Proof.Machine.execCtile d b s
  | .csegLin a b => Sys2Proof.Machine.execCsegLin a b s
  | .csegQuad a b => Sys2Proof.Machine.execCsegQuad a b s
  | .csegCub a b => Sys2Proof.Machine.execCsegCub a b s
  | .ctri a b => Sys2Proof.Machine.execCtri a b s
  | .ctriFrag a b => Sys2Proof.Machine.execCtriFrag a b s
  | .cfill d a b => Sys2Proof.Machine.execCfill d a b s
  | .cfillLone d b opts => Sys2Proof.Machine.execCfillLone d b opts s
  | .cclose d b => Sys2Proof.Machine.execCclose d b s
  -- spec/13: traversal
  | .trace d a b => Sys2Proof.Machine.execTrace d a b s
  | .traceRidge tmpl pipe off => Sys2Proof.Machine.execTraceRidge tmpl pipe off s
  | .tnext d a => Sys2Proof.Machine.execTnext d a s
  | .thit d a b => Sys2Proof.Machine.execThit d a b s
  | .tign a => Sys2Proof.Machine.execTign a s
  | .tterm d a => Sys2Proof.Machine.execTterm d a s
  | .repack d tmpl off => Sys2Proof.Machine.execRepack d tmpl off s
  -- spec/14: synchronisation
  | .bar n b => Sys2Proof.Machine.execBar n b s
  | .barLone n cnt => Sys2Proof.Machine.execBarLone n cnt s
  | .bara d n b => Sys2Proof.Machine.execBara d n b s
  | .baraLone d n cnt => Sys2Proof.Machine.execBaraLone d n cnt s
  | .barw n b => Sys2Proof.Machine.execBarw n b s
  | .launch d a => Sys2Proof.Machine.execLaunch d a s
  | .lwait d a => Sys2Proof.Machine.execLwait d a s
  | .lwaitLone d a limit => Sys2Proof.Machine.execLwaitLone d a limit s
  | .rangeSet a => Sys2Proof.Machine.execRangeSet a s
  | .rangeNext d b => Sys2Proof.Machine.execRangeNext d b s
  | .rangeNextLone d cnt => Sys2Proof.Machine.execRangeNextLone d cnt s
  | .steal d b => Sys2Proof.Machine.execSteal d b s
  | .stealLone d probes => Sys2Proof.Machine.execStealLone d probes s
  | .rangeGet d => Sys2Proof.Machine.execRangeGet d s
  | .task d a b => Sys2Proof.Machine.execTask d a b s
  | .tend a => Sys2Proof.Machine.execTend a s
  | .sleep d a b => Sys2Proof.Machine.execSleep d a b s
  | .sleepLone d a b limit => Sys2Proof.Machine.execSleepLone d a b limit s
  | .wake d a b => Sys2Proof.Machine.execWake d a b s
  | .wakeLone d a cnt => Sys2Proof.Machine.execWakeLone d a cnt s
  | .prio d a => Sys2Proof.Machine.execPrio d a s
  | .prioLone d level => Sys2Proof.Machine.execPrioLone d level s
  -- spec/15: system
  | .trap => Sys2Proof.Machine.execTrap s
  | .trapLone code => Sys2Proof.Machine.execTrapLone code s
  | .svc => Sys2Proof.Machine.execSvc s
  | .svcLone num => Sys2Proof.Machine.execSvcLone num s
  | .sret => Sys2Proof.Machine.execSret s
  | .eret lone a => Sys2Proof.Machine.execEret lone a s
  | .eretRedirect a b => Sys2Proof.Machine.execEretRedirect a b s
  | .eretKill a => Sys2Proof.Machine.execEretKill a s
  | .crd d num => Sys2Proof.Machine.execCrd d num s
  | .cwr a num => Sys2Proof.Machine.execCwr a num s
  | .tlbw d a b req size => Sys2Proof.Machine.execTlbw d a b req size s
  | .tlbiPage d a => Sys2Proof.Machine.execTlbiPage d a s
  | .tlbiCtx d a => Sys2Proof.Machine.execTlbiCtx d a s
  | .tlbiFunc d a => Sys2Proof.Machine.execTlbiFunc d a s
  | .gstop lone d a => Sys2Proof.Machine.execGstop lone d a s
  | .gstopGo d a => Sys2Proof.Machine.execGstopGo d a s
  | .pmr d a b => Sys2Proof.Machine.execPmr d a b s
  | .tsr d => Sys2Proof.Machine.execTsr d s
  | .wfi d => Sys2Proof.Machine.execWfi d s
  | .wfiLone d limit => Sys2Proof.Machine.execWfiLone d limit s
  -- spec/06: lane arithmetic
  | .vadd f => Sys2Proof.Machine.execVadd f s
  | .vsub f => Sys2Proof.Machine.execVsub f s
  | .vmul f => Sys2Proof.Machine.execVmul f s
  | .vmulh f => Sys2Proof.Machine.execVmulh f s
  | .vmad f => Sys2Proof.Machine.execVmad f s
  | .vmin f => Sys2Proof.Machine.execVmin f s
  | .vmax f => Sys2Proof.Machine.execVmax f s
  | .vand f => Sys2Proof.Machine.execVand f s
  | .vor f => Sys2Proof.Machine.execVor f s
  | .vxor f => Sys2Proof.Machine.execVxor f s
  | .vshl f => Sys2Proof.Machine.execVshl f s
  | .vshr f => Sys2Proof.Machine.execVshr f s
  | .vsra f => Sys2Proof.Machine.execVsra f s
  | .vpopc f => Sys2Proof.Machine.execVpopc f s
  | .vclz f => Sys2Proof.Machine.execVclz f s
  | .vbrev f => Sys2Proof.Machine.execVbrev f s
  | .vsel f => Sys2Proof.Machine.execVsel f s
  | .vcmp f => Sys2Proof.Machine.execVcmp f s
  | .vmov f => Sys2Proof.Machine.execVmov f s
  | .vmovk f => Sys2Proof.Machine.execVmovk f s
  | .fadd f => Sys2Proof.Machine.execFadd f s
  | .fsub f => Sys2Proof.Machine.execFsub f s
  | .fmul f => Sys2Proof.Machine.execFmul f s
  | .ffma f => Sys2Proof.Machine.execFfma f s
  | .fmin f => Sys2Proof.Machine.execFmin f s
  | .fmax f => Sys2Proof.Machine.execFmax f s
  | .fcmp f => Sys2Proof.Machine.execFcmp f s
  | .fclass f => Sys2Proof.Machine.execFclass f s
  | .frcp f => Sys2Proof.Machine.execFrcp f s
  | .frsq f => Sys2Proof.Machine.execFrsq f s
  | .fsqrt f => Sys2Proof.Machine.execFsqrt f s
  | .fexp2 f => Sys2Proof.Machine.execFexp2 f s
  | .flog2 f => Sys2Proof.Machine.execFlog2 f s
  | .fsin f => Sys2Proof.Machine.execFsin f s
  | .fcos f => Sys2Proof.Machine.execFcos f s
  | .ftanh f => Sys2Proof.Machine.execFtanh f s
  | .dot2 f => Sys2Proof.Machine.execDot2 f s
  | .dot4 f => Sys2Proof.Machine.execDot4 f s
  | .dot8 f => Sys2Proof.Machine.execDot8 f s
  | .shfl f => Sys2Proof.Machine.execShfl f s
  | .shflx f => Sys2Proof.Machine.execShflx f s
  | .bcst f => Sys2Proof.Machine.execBcst f s
  | .scan f => Sys2Proof.Machine.execScan f s
  | .redu f => Sys2Proof.Machine.execRedu f s
  | .vote f => Sys2Proof.Machine.execVote f s
  | .mand f => Sys2Proof.Machine.execMand f s
  | .mor f => Sys2Proof.Machine.execMor f s
  | .mxor f => Sys2Proof.Machine.execMxor f s
  | .mnot f => Sys2Proof.Machine.execMnot f s
  | .mpopc f => Sys2Proof.Machine.execMpopc f s
  | .mfind f => Sys2Proof.Machine.execMfind f s
  | .phlx f => Sys2Proof.Machine.execPhlx f s
  -- spec/05: conversion
  | .cvt f => Sys2Proof.Machine.execCvt f s
  | .cvtsc f => Sys2Proof.Machine.execCvtsc f s
  | .pack f => Sys2Proof.Machine.execPack f s
  | .unpack f => Sys2Proof.Machine.execUnpack f s
  -- spec/10: matrix, compute stream
  | .mma d a b kb => Sys2Proof.Machine.execMma d a b kb s
  | .mmas d a b kb => Sys2Proof.Machine.execMmas d a b kb s
  | .mmax d a b kb => Sys2Proof.Machine.execMmax d a b kb s
  | .mmaLone k f => Sys2Proof.Machine.execMmaLone k f s
  | .accrd f => Sys2Proof.Machine.execAccrd f s
  | .accwr f => Sys2Proof.Machine.execAccwr f s
  -- spec/11: selection
  | .keyx f => Sys2Proof.Machine.execKeyx f s
  | .digit f => Sys2Proof.Machine.execDigit f s
  | .matchEq f => Sys2Proof.Machine.execMatchEq f s
  | .rank f => Sys2Proof.Machine.execRank f s
  | .cmpx f => Sys2Proof.Machine.execCmpx f s
  | .expd f => Sys2Proof.Machine.execExpd f s
  | .bmrg f => Sys2Proof.Machine.execBmrg f s
  | .isect f => Sys2Proof.Machine.execIsect f s
  | .interp f => Sys2Proof.Machine.execInterp f s
  -- steps of the device without words (spec/95)
  | .waitrTimeout w => Sys2Proof.Machine.execWaitrTimeout w s
  | .serviceGroupReturn w lane => Sys2Proof.Machine.execServiceGroupReturn w lane s
  | .memoryAnswer acc lane => Sys2Proof.Machine.execMemoryAnswer acc lane s
  | .ldsyncRetry acc lane => Sys2Proof.Machine.execLdsyncRetry acc lane s
  | .copyJobStart engine => Sys2Proof.Machine.execCopyJobStart engine s
  | .copyJobCompletion job => Sys2Proof.Machine.execCopyJobCompletion job s
  | .copyJobFaultResume job => Sys2Proof.Machine.execCopyJobFaultResume job s
  | .messageArrival msg => Sys2Proof.Machine.execMessageArrival msg s
  | .overflowMove pos => Sys2Proof.Machine.execOverflowMove pos s
  | .taskStart pos slot => Sys2Proof.Machine.execTaskStart pos slot s
  | .contourMessage msg => Sys2Proof.Machine.execContourMessage msg s
  | .contourResolve msg => Sys2Proof.Machine.execContourResolve msg s
  | .lwaitRecheck u => Sys2Proof.Machine.execLwaitRecheck u s
  | .launchqGrant die => Sys2Proof.Machine.execLaunchqGrant die s
  | .sleepTimeout u => Sys2Proof.Machine.execSleepTimeout u s
  | .wfiWake u => Sys2Proof.Machine.execWfiWake u s
  | .matrixStep w => Sys2Proof.Machine.execMatrixStep w s
  | .queueDeadlock w => Sys2Proof.Machine.execQueueDeadlock w s
  | .bundleFetch u => Sys2Proof.Machine.execBundleFetch u s
  | .inboxSlotGrant pos => Sys2Proof.Machine.execInboxSlotGrant pos s
  | .binTimeout vale bin => Sys2Proof.Machine.execBinTimeout vale bin s
  | .wavePlacement vale bin => Sys2Proof.Machine.execWavePlacement vale bin s
  | .threadReturn u => Sys2Proof.Machine.execThreadReturn u s
  | .trapDelivery vale => Sys2Proof.Machine.execTrapDelivery vale s
  | .translationMiss acc lane => Sys2Proof.Machine.execTranslationMiss acc lane s
  | .faultMessageRetry entry => Sys2Proof.Machine.execFaultMessageRetry entry s
  | .parkWaitEnd u => Sys2Proof.Machine.execParkWaitEnd u s
  | .parklimExpiry blk => Sys2Proof.Machine.execParklimExpiry blk s
  | .blockSwapOut blk => Sys2Proof.Machine.execBlockSwapOut blk s
  | .swapImageComplete blk => Sys2Proof.Machine.execSwapImageComplete blk s
  | .blockReadmission blk => Sys2Proof.Machine.execBlockReadmission blk s
  | .blockAdmission die => Sys2Proof.Machine.execBlockAdmission die s
  | .bypassLimit die => Sys2Proof.Machine.execBypassLimit die s
  | .gridReady g => Sys2Proof.Machine.execGridReady g s
  | .dependencePoll g => Sys2Proof.Machine.execDependencePoll g s
  | .gridRetire g => Sys2Proof.Machine.execGridRetire g s
  | .valeOffline vale => Sys2Proof.Machine.execValeOffline vale s
  | .powerGate eng => Sys2Proof.Machine.execPowerGate eng s
  | .snoop eng ctx va => Sys2Proof.Machine.execSnoop eng ctx va s
  | .operatingPointChange aMHz fMHz => Sys2Proof.Machine.execOperatingPointChange aMHz fMHz s
  | .powerLimitExceeded => Sys2Proof.Machine.execPowerLimitExceeded s
  | .heartbeat pos => Sys2Proof.Machine.execHeartbeat pos s
  | .positionDead pos => Sys2Proof.Machine.execPositionDead pos s
  | .hbmScrub stack => Sys2Proof.Machine.execHbmScrub stack s
  | .cmapWrite vale val => Sys2Proof.Machine.execCmapWrite vale val s
  | .positionAbsent pos => Sys2Proof.Machine.execPositionAbsent pos s
  | .ctxctlLoad ctx => Sys2Proof.Machine.execCtxctlLoad ctx s
  | .ctxctlTeardown ctx => Sys2Proof.Machine.execCtxctlTeardown ctx s
  | .tdwaitTimeout ctx => Sys2Proof.Machine.execTdwaitTimeout ctx s
  | .lateTraffic write fn src addr => Sys2Proof.Machine.execLateTraffic write fn src addr s
  | .worldSwitch die val => Sys2Proof.Machine.execWorldSwitch die val s
  | .trplWrite vale n val => Sys2Proof.Machine.execTrplWrite vale n val s
  | .pmselWrite vale n val => Sys2Proof.Machine.execPmselWrite vale n val s
  | .counterOverflow vale n => Sys2Proof.Machine.execCounterOverflow vale n s
  | .inboxOverflowWrite pos size val => Sys2Proof.Machine.execInboxOverflowWrite pos size val s
  | .registerWrite space num val => Sys2Proof.Machine.execRegisterWrite space num val s
  | .submit fn page offset words => Sys2Proof.Machine.execSubmit fn page offset words s
  | .submitPostedWrite fn page => Sys2Proof.Machine.execSubmitPostedWrite fn page s
  | .workRecordLaunch fn page => Sys2Proof.Machine.execWorkRecordLaunch fn page s
  | .completionWrite fn page => Sys2Proof.Machine.execCompletionWrite fn page s
  | .crheadWrite fn page val => Sys2Proof.Machine.execCrheadWrite fn page val s
  | .crbaseWrite fn page val => Sys2Proof.Machine.execCrbaseWrite fn page val s
  | .functionLevelReset fn => Sys2Proof.Machine.execFunctionLevelReset fn s
  | .hostCxlAccess fn op va => Sys2Proof.Machine.execHostCxlAccess fn op va s
  | .hfwaitExpiry req => Sys2Proof.Machine.execHfwaitExpiry req s
  | .peerRequest port op va => Sys2Proof.Machine.execPeerRequest port op va s
  | .linkLaneRepair die port => Sys2Proof.Machine.execLinkLaneRepair die port s
  | .linkRetrainFailure die port => Sys2Proof.Machine.execLinkRetrainFailure die port s
  | .errorLogEntry cause src fn sev addr detail => Sys2Proof.Machine.execErrorLogEntry cause src fn sev addr detail s
  | .eltailWrite fn val => Sys2Proof.Machine.execEltailWrite fn val s
  | .fatalHalt reason src => Sys2Proof.Machine.execFatalHalt reason src s
  | .coldReset => Sys2Proof.Machine.execColdReset s
  | .admgo => Sys2Proof.Machine.execAdmgo s
  | .attestationRequest fn nonce => Sys2Proof.Machine.execAttestationRequest fn nonce s
  | .engineWrite job word => Sys2Proof.Machine.execEngineWrite job word s
  | .pointOfPerformance acc lane => Sys2Proof.Machine.execPointOfPerformance acc lane s
  | .warmReset => Sys2Proof.Machine.execWarmReset s
  | .stealRequest req => Sys2Proof.Machine.execStealRequest req s
  | .tileOpen req => Sys2Proof.Machine.execTileOpen req s
  | .tileClose req => Sys2Proof.Machine.execTileClose req s
  | .viewTableUpdate req => Sys2Proof.Machine.execViewTableUpdate req s
  | .forwardedCompletion acc lane => Sys2Proof.Machine.execForwardedCompletion acc lane s

end Sys2Proof.Machine
end

