-- ==== Sys2Proof/Machine/Auto.lean ====
section
/-! DEFINITION. The steps of the device that follow from the state by themselves (spec/95), in a fixed order: the first that changes anything
takes place before a unit goes on (log entry 1). Steps that only the outside world or the firmware brings, such as scrubbing or a change of clocks, come
from the agenda. -/

namespace Sys2Proof.Machine

/-- The state after a step, the same where it stops. -/
def nextOr (f : State → Host.Outcome State Fault Refusal) (s : State) : State := match f s with | .next t => t | _ => s

/-- A unit whose holding instruction has met a fault parks (R432). -/
def State.parkHold (u : UnitId) (s : State) : State :=
  let here : Bool := match u with
    | .thread t => (match (s.thread t).loc with | .slot .. => true | _ => false)
    | .wave w => (match (s.wave w).c.block with | some b => (s.block b).swap == .res | none => false)
  if here && s.faulted u && (match (s.com u).wait with | .hold _ => true | _ => false) then (s.countUnit u 0x006).parkUnit u else s

/-- A unit that ERET with MODE KILL has named ends once its accesses are performed (R418). -/
def State.killOn (u : UnitId) (s : State) : State :=
  if (s.com u).after != some .kill then s
  else
    let s := s.replay u
    if s.answered u (fun _ => true) then s.endUnit u 0 true else s

/-- The deadlock count of a wave begins when both its streams are blocked, and ends when they are not (R65). -/
def State.noteDeadlock (w : Nat) (s : State) : State :=
  if (s.wave w).c.deadlock.isNone == s.deadlocked w && (s.wave w).c.wait == .none then
    s.modCom (.wave w) (fun c => { c with deadlock := if c.deadlock.isNone then some s.acount else none })
  else s

/-- An offline Vale's leaving goes on once it has begun (R19). -/
def State.offlineOn (v : Nat) (s : State) : State :=
  if (s.vale v).dead == BitVec.allOnes 32 && !(s.vale v).offline then nextOr (execValeOffline v) s else s

/-- A held host or peer access whose walk or reply is there goes on (R457). -/
def State.remoteOn (id : Nat) (s : State) : State :=
  match s.remotes.find? (fun r => r.id == id) with
  | some r => if r.pw.failed || s.pageReady (s.remoteCtx r) r.pw then s.remoteAgain r else s
  | none => s

/-- A lane of an access goes on as it stands. -/
def State.laneOn (acc lane : Nat) (s : State) : State :=
  match s.laneAt acc lane with
  | .pend => nextOr (execPointOfPerformance acc lane) s
  | .perf => nextOr (execMemoryAnswer acc lane) s
  | .walk => if s.laneWalked acc lane then nextOr (execTranslationMiss acc lane) s else s
  | .recall | .forwarded => nextOr (execForwardedCompletion acc lane) s
  | .waiting => nextOr (execLdsyncRetry acc lane) s
  | _ => s

/-- A copy job goes on: its fault's reply, its next word, its end. -/
def State.jobOn (k : Nat) (s : State) : State :=
  match s.jobs.find k with
  | some j =>
    if j.waitTok.isSome then nextOr (execCopyJobFaultResume k) s
    else match (List.range j.moves.length).find? (fun i => (j.moves[i]?).any (fun m => !m.written) && s.jobReady j i) with
      | some i => nextOr (execEngineWrite k i) s
      | none => nextOr (execCopyJobCompletion k) s
  | none => s

/-- A lane that a wave's service calls have brought back. -/
def State.backLane (s : State) (w : Nat) : Nat := ((List.range 64).find? (fun l => !(s.wave w).absent.getLsbD l)).getD 0

/-- The steps that a unit's own state may make due. -/
def unitMoves (u : UnitId) : List (State → State) :=
  [fun s => s.sendTrap u, State.killOn u, fun s => s.endFences u, State.parkHold u, nextOr (execParkWaitEnd u), nextOr (execSleepTimeout u), nextOr (execLwaitRecheck u)] ++
  (match u with
    | .thread t => [nextOr (execThreadReturn t), nextOr (execWfiWake t)]
    | .wave w => [State.noteDeadlock w, nextOr (execMatrixStep w), nextOr (execWaitrTimeout w), nextOr (execQueueDeadlock w),
        fun s => nextOr (execServiceGroupReturn w (s.backLane w)) s])

/-- Positions at which something waits: threads in inboxes or slots, messages, and the Summit cores that walks wait for. -/
def State.busyPositions (s : State) : List Nat :=
  (s.threads.filterMap (fun e => match e.2.loc with | .inbox p _ _ => some p | .slot p _ => some p | _ => none)
    ++ s.positions.filterMap (fun e => if e.2.inbox.isEmpty && e.2.overflow.isEmpty then none else some e.1)
    ++ (s.walks.filter (fun w => !w.started)).map (fun w => s.walkVale (w.caches.headD 0) * 32)).eraseDups

def positionMoves (p : Nat) : List (State → State) :=
  [nextOr (execInboxSlotGrant p), nextOr (execOverflowMove p)]
    ++ (List.range (slotsOf p)).map (fun n => nextOr (execTaskStart p n))
    ++ [fun s => if (s.position p).absent then nextOr (execPositionAbsent p) s else s]

def valeMoves (v : Nat) (x : Vale) : List (State → State) :=
  [nextOr (execTrapDelivery v), State.offlineOn v] ++ x.bins.keys.flatMap (fun b => [nextOr (execBinTimeout v b), nextOr (execWavePlacement v b)])

def requestMoves (e : Nat × Req) : List (State → State) :=
  match e.2 with
  | .steal .. => [nextOr (execStealRequest e.1)]
  | .frags .. => [nextOr (execContourMessage e.1)]

def blockMoves (b : Nat) : List (State → State) :=
  [nextOr (execParklimExpiry b), nextOr (execBlockSwapOut b), nextOr (execSwapImageComplete b), nextOr (execBlockReadmission b)]

def gridMoves (g : Nat) : List (State → State) :=
  [nextOr (execDependencePoll g), nextOr (execGridReady g), nextOr (execGridRetire g)]

/-- The launch controller and the registers of a die. -/
def dieMoves (d : Nat) (x : Die) : List (State → State) :=
  [nextOr (execLaunchqGrant d), nextOr (execBypassLimit d), nextOr (execBlockAdmission d)]
    ++ (match x.ctxOp with
        | some (1, c) => [nextOr (execCtxctlLoad c)]
        | some (_, c) => [nextOr (execCtxctlTeardown c), nextOr (execTdwaitTimeout c)]
        | none => [])
    ++ (match x.wsOp with | some v => [nextOr (execWorldSwitch d v)] | none => [])

def pageMoves (fn n : Nat) : List (State → State) := [nextOr (execWorkRecordLaunch fn n), nextOr (execCompletionWrite fn n)]

/-- The positions among which a heartbeat may be due (R469): all, once a core that State has no record of could have counted an HBPER. -/
def State.beating (s : State) : List Nat :=
  if 10000 ≤ s.time || s.vales.any (fun e => decide (e.2.hbper.toNat ≤ s.time)) then List.range (Config.vales * 32) else s.positions.keys

/-- Every step of the device that may be due, in order. -/
def State.autoMoves (s : State) : List (State → State) :=
  s.accesses.flatMap (fun a => a.lanes.map (fun l => State.laneOn a.id l.lane))
    ++ s.units.flatMap unitMoves
    ++ s.prefetches.map (fun p s => s.prefetchOn p)
    ++ s.busyPositions.flatMap positionMoves
    ++ s.vales.flatMap (fun e => valeMoves e.1 e.2)
    ++ s.jobs.flatMap (fun e => [nextOr (execCopyJobStart e.2.eng), State.jobOn e.1])
    ++ s.reqs.flatMap requestMoves
    ++ s.faults.map (fun f => nextOr (execFaultMessageRetry (f.die * 1024 + f.idx)))
    ++ s.remotes.flatMap (fun r => [State.remoteOn r.id, nextOr (execHfwaitExpiry r.id)])
    ++ s.blocks.flatMap (fun e => blockMoves e.1)
    ++ s.grids.flatMap (fun e => gridMoves e.1)
    ++ ((s.dies.keys ++ s.grids.vals.map Grid.die).eraseDups).flatMap (fun d => dieMoves d (s.die d))
    ++ s.engines.keys.map State.engineGone
    ++ (s.beating.filter (fun p => s.beatsDue p != 0)).map (fun p => nextOr (execHeartbeat p))
    ++ s.funcs.flatMap (fun f => f.2.pages.flatMap (fun p => pageMoves f.1 p.1))

/-- The first of some steps that changes the state. -/
def firstMove (s : State) : List (State → State) → Option State
  | [] => none
  | f :: t => if f s = s then firstMove s t else some (f s)

/-- The step of the device that takes place before a unit goes on; none while the dies do not run (R477, R478). -/
def autoStep (s : State) : Option State := if s.adentoth.st = 1 then firstMove s s.autoMoves else none

end Sys2Proof.Machine
end

