-- ==== Sys2Proof/Machine/Schedule.lean ====
section
/-! DEFINITION. Which unit goes on next, and one slot of a unit (R44, R61, R75, R76, R402, R403). The order among units that the spec
leaves open is fixed by default and free through the agenda (log entry 1). -/

namespace Sys2Proof.Machine

/-- Moves one slot of a unit on: what is due after a bundle, a trap of an earlier access, a stop of a fault, or the next instruction. -/
inductive Slot where
  | instr (i : Instr) (s : State)
  | settled (s : State)

/-- The unit that an actor names. -/
def Actor.unit : Actor → UnitId
  | .thread u => .thread u
  | .access w => .wave w
  | .compute w => .wave w

/-- May an actor go on? A compute stream goes on while its wave is parked for anything but a trap (R432), and halts with its wave (R193, R437); one
that traps lets the C-slot in flight complete, and the access stream stops after it (R66). -/
def State.actorReady (s : State) (a : Actor) : Bool :=
  match a with
  | .thread u => s.runnable (.thread u)
  | .access w => s.runnable (.wave w) && !((s.wave w).trapDue && (s.wave w).c.wait == .none)
  | .compute w =>
    let x := s.wave w
    let u := UnitId.wave w
    s.ready u && s.placed u && !x.lead.isEmpty && !s.unitHalted u && !(x.c.wait == .trap) && !(x.trapDue && s.holdRuns u)

/-- The wait of a YIELD is over: the wake is an acquire (R112). -/
def State.wake (s : State) (u : UnitId) : State :=
  match (s.com u).wait with
  | .job _ _ .none => (s.setWait u .none).l1Acquire u
  | .fault => s.setWait u .none
  | _ => s

/-- A unit with a fault parks at its next bundle boundary (R432). -/
def State.mustPark (s : State) (u : UnitId) : Bool :=
  s.faulted u && (s.com u).wait == .none && (match u with | .thread t => !(s.thread t).slotBit | .wave _ => true)

/-- Does a thread stand before the A-slot of its bundle, which comes before what is due after the bundle (R44, R67)? -/
def State.beforeA (s : State) (u : UnitId) : Bool :=
  match u with
  | .thread t => (s.thread t).slotBit
  | .wave _ => false

/-- What is due after a bundle, where nothing else comes first. -/
def State.afterSlot (s : State) (u : UnitId) : State :=
  let t := s.runAfter u
  if (t.com u).after.isSome then t.noteTried u false else t

/-- The slot of a unit whose bundle is latched. -/
def State.bundleSlot (s : State) (u : UnitId) (b : Bundle) : Slot :=
  match u with
  | .thread t =>
    if (s.thread t).slotBit then (match b.ai with | some a => .instr a s | none => .instr .nopA s) else .instr b.ci s
  | .wave w =>
    if (aClass b.ci).isSome && !((s.wave w).lead.isEmpty && !(s.wave w).computeWait) then
      -- a lone A-class instruction behind the compute stream waits for it among the A-slots (R44, R61)
      if s.leadFull u then .settled (s.stalled u)
      else
        let x := s.wave w
        .settled (((s.setWave w { x with lead := x.lead ++ [⟨x.apc, b.ci, x.exec, x.c.words⟩] }).modCom u
          (fun c => { c with body := c.rpt.act })).endBundle u x.apc (x.apc + 8))
    else .instr b.ci s

/-- The C-slot of a unit, or its next due step, at a bundle boundary in the order of R137 and R505. Nothing issues before the replay (R206). -/
def State.nextSlot (s : State) (u : UnitId) : Slot :=
  let s := (s.wake u).replay u
  if s.mustPark u then .settled (s.park u .fault)
  else if s.replaying u then .settled (s.stalled u)
  else match s.errorTrap u with
    | some i => .settled (s.takeErrorTrap u i)
    | none =>
      if (s.com u).after.isSome && !s.beforeA u then .settled (s.afterSlot u)
      else
        let s := if (s.com u).bundle.isNone then s.fetch u else s
        match (s.com u).bundle with
        | none => .settled s
        | some b => s.bundleSlot u b

/-! ## What an actor would execute next (R63, R75) -/

/-- The bundle that a unit issues from: the latched one, or the one that stands at its PC. -/
def State.peekBundle (s : State) (u : UnitId) : Option Bundle :=
  match (s.com u).bundle with
  | some b => some b
  | none =>
    let c := s.opCtx u .fetch
    match xlat s (s.opSpace u .fetch) c (s.ctx c).gen (s.unitPos u) 2 (s.pcOf u).toNat with
    | .ok place _ _ =>
      (match checkBundle (s.decodeCtx u) (BitVec.ofNat 32 (s.rd place 4)) (BitVec.ofNat 32 (s.rd (place + 4) 4)) with
        | .ok b => some b
        | .error _ => none)
    | _ => none

/-- The slot that an actor would execute next, where nothing else comes before it. -/
def State.slotNext (s : State) (a : Actor) : Option Instr :=
  let u := a.unit
  let clear : Bool := !s.mustPark u && !s.replaying u && (s.errorTrap u).isNone && ((s.com u).after.isNone || s.beforeA u)
  match a with
  | .thread t => if clear then (s.peekBundle u).bind (fun b => if (s.thread t).slotBit then b.ai else some b.ci) else none
  | .access _ => if clear then (s.peekBundle u).map Bundle.ci else none
  | .compute w => (s.wave w).lead.head?.map LeadSlot.ai

/-- Is a slot not ready because it waits for a register that an access has yet to write (R75, R508), or a stream because it is blocked on a queue
(R63)? -/
def State.slotWaits (s : State) (a : Actor) : Bool :=
  (match a with | .compute w => (s.wave w).computeBlocked | _ => false)
    || (if s.answered a.unit (fun _ => true) && (s.com a.unit).frec.isEmpty then false
      else match s.slotNext a with
        | some i => !(s.waitRegs a.unit (s.useOf a.unit i)).1
        | none => false)

/-- One slot of an actor: the state in which it executes, whether an instruction does, and what comes of it. -/
def State.slotOutcome (s : State) (a : Actor) : State × Bool × Host.Outcome State Fault Refusal :=
  let s := { s with cur := some a.unit }
  match a with
  | .compute w => (match (s.wave w).lead with | l :: _ => (s, true, exec l.ai s) | [] => (s, false, .next s))
  | _ => match s.nextSlot a.unit with
    | .instr i t => (t, true, exec i t)
    | .settled t => (s, false, .next t)

/-- Has a slot that executed in state `s` and cannot go on issued all the same: its instruction has begun, and keeps the slot while it waits or accesses
memory (R75, R505)? -/
def State.begins (s : State) (a : Actor) (r : State) : Bool :=
  let u := a.unit
  match a with
  | .compute _ => false
  | _ => !(s.com u).issued && ((s.com u).wait == .none && (r.com u).wait != .none
      || (r.accessesOf u).any (fun x => !(s.accessesOf u).any (fun y => y.id == x.id)))

/-- Would the slot of an actor neither go on nor begin: it is not ready, as one that waits for a fence, for room in a queue or in a bin, for an answer
(R75, R402)? -/
def State.wouldStall (s : State) (a : Actor) : Bool :=
  match s.slotOutcome a with
  | (t, _, .next r) => r.tried != s.tried && !t.begins a r
  | _ => false

/-! ## Time (R38, R39) -/

/-- Do the counts in a-cycles of a wave's deadlock (R65) and of its WAITRs (R130) stand still? -/
def State.deadlockPaused (s : State) (w : Nat) : Bool :=
  let u := UnitId.wave w
  (s.com u).wait != .none || !s.placed u || s.unitHalted u || !(s.com u).stopped.isEmpty
def State.waitrPaused (s : State) (w : Nat) : Bool :=
  let u := UnitId.wave w
  !s.placed u || s.unitHalted u || !(s.com u).stopped.isEmpty

/-- The counts of a unit that stand still are put off: the limit of a SLEEP or LWAIT while its partition does not run (R388, R399). -/
def State.putOff (s : State) (u : UnitId) (n : Nat) (c : Common) : Common :=
  if s.limitPaused u then { c with until_ := c.until_.map (· + n) } else c

/-- The waiting time of a bin whose partition is halted stands still (R125, R437). -/
def State.putOffBins (s : State) (v n : Nat) (x : Vale) : Vale :=
  if x.bins.isEmpty then x
  else { x with bins := x.bins.map (fun e => if s.stoppedOn (s.ctxFunc e.2.ctx) v then (e.1, { e.2 with oldest := e.2.oldest + n }) else e) }

/-- The f-count from which a core has a slot that is ready, of those that wait for nothing else (R469); none where every slot waits. -/
def State.readyFrom (s : State) (p : Nat) : Option Nat :=
  (s.threads.filterMap (fun e => match e.2.loc with
    | .slot q _ => if q == p && s.actorReady (.thread e.1) && !s.slotWaits (.thread e.1) && !s.wouldStall (.thread e.1)
        then some (if e.2.slotBit then 0 else e.2.readyAt) else none
    | _ => none)).min?

/-- Of `n` ticks, those in which a core has a ready slot. -/
def State.readyTicks (s : State) (p n : Nat) : Nat :=
  match s.readyFrom p with
  | some f => n - (f - s.fcount + s.adentoth.fMHz - 1) / s.adentoth.fMHz
  | none => 0

/-- In `n` ticks in which it issues nothing, a core's heartbeat does not count those in which a slot is ready (R469). -/
def State.holdBeat (s : State) (n : Nat) (p : Nat) (q : Position) : Position := { q with beatFrom := q.beatFrom + s.readyTicks p n }

/-- Every core with a thread in a slot has a record of its own. -/
def State.recordCores (s : State) : State :=
  s.threads.foldl (fun s e => match e.2.loc with | .slot p _ => s.setPosition p (s.position p) | _ => s) s

/-- Nothing issues for `n` ticks, on any core but those that have stopped. -/
def State.idle (s : State) (n : Nat) : State :=
  let s := s.recordCores
  { s with positions := s.positions.map (fun e => if e.2.stuck then e else (e.1, s.holdBeat n e.1 e.2)) }

/-- Has a function a resident wave in a Vale? -/
def State.residentIn (s : State) (v fn : Nat) : Bool :=
  s.waves.any (fun e => e.2.eng / 4 == v && !e.2.c.away && (match e.2.c.block with | some b => (s.block b).onEngine | none => true)
    && s.unitFunc (.wave e.1) == fn)

/-- `n` a-cycles count in each Vale for the functions that have a resident wave there, while the dies run (R472). -/
def State.countCycles (s : State) (n : Nat) : State :=
  if s.adentoth.st != 1 then s
  else s.vales.keys.foldl (fun t v => if (s.vale v).pmsel.isEmpty then t
    else (List.range 16).foldl (fun t fn => if s.residentIn v fn then t.countEvents v fn 0x001 n else t) t) s

/-- `n` ticks pass: the a-clock and the f-clock count on at their frequencies; a core that has stopped counts only those in which no slot is ready. -/
def State.passTime (s : State) (n : Nat) : State :=
  let k := n * s.adentoth.aMHz
  { s with
    time := s.time + n, acount := s.acount + k, fcount := s.fcount + n * s.adentoth.fMHz
    vales := s.vales.map (fun e => (e.1, s.putOffBins e.1 n e.2))
    positions := s.positions.map (fun e => if e.2.stuck then (e.1, s.holdBeat n e.1 e.2) else e)
    threads := s.threads.map (fun e => (e.1, { e.2 with c := s.putOff (.thread e.1) n e.2.c }))
    waves := s.waves.map (fun e =>
      let c := s.putOff (.wave e.1) n e.2.c
      (e.1, { e.2 with
        c := if s.deadlockPaused e.1 then { c with deadlock := c.deadlock.map (· + k) } else c
        stack := if s.waitrPaused e.1 then e.2.stack.map (fun d => { d with since := d.since.map (· + k) }) else e.2.stack })) }

/-- `n` ticks pass, with the counts of the a-cycles in them (R38, R39, R472). -/
def State.tick (s : State) (n : Nat) : State :=
  (s.passTime n).countCycles ((s.acount + n * s.adentoth.aMHz) / 1000 - s.acount / 1000)

/-! ## Who issues next (R75 to R77, R402, R403) -/

/-- The core or the selection of an issue port to which an actor belongs: core `p` as `p`; from 3,072 on the two streams of each port, port 0 for the
even wave slots of an engine and port 1 for the odd ones (R167). -/
def State.portOf (s : State) : Actor → Nat
  | .thread t => (s.thread t).pos
  | .access w => 3072 + (s.wave w).eng * 4 + (s.wave w).slot % 2 * 2
  | .compute w => 3073 + (s.wave w).eng * 4 + (s.wave w).slot % 2 * 2

/-- Every actor: for each wave its access stream and its compute stream. -/
def State.actors (s : State) : List Actor :=
  s.threads.keys.map Actor.thread ++ s.waves.keys.flatMap (fun w => [Actor.access w, Actor.compute w])

/-- May an actor issue by the clock: the A-slot of a bundle follows its C-slot, and the next bundle of a core's slot waits (R75, R77); a core that has
stopped issues nothing (R469)? -/
def State.clockReady (s : State) : Actor → Bool
  | .thread t => !(s.position (s.thread t).pos).stuck && ((s.thread t).slotBit || decide ((s.thread t).readyAt ≤ s.fcount))
  | _ => true

/-- May an actor be tried: it waits for nothing that is known beforehand, and has not been tried in vain since the machine last went on? -/
def State.eligible (s : State) (a : Actor) : Bool := s.actorReady a && s.clockReady a && !s.tried.contains a && !s.slotWaits a

/-- Is an actor ready: its slot would issue (R75, R402)? -/
def State.issuable (s : State) (a : Actor) : Bool := s.eligible a && !s.wouldStall a

/-- Selections that a stream has been ready for since it last issued (R402). -/
def State.ageOf (s : State) : Actor → Nat
  | .thread _ => 0
  | .access w => (s.wave w).ageC
  | .compute w => (s.wave w).ageA

/-- Slots from the one after the class's last issuer to a thread's (R76). DESIGN CHOICE: before any slot of a class has issued, slot 0 goes first (log
entry 1). -/
def State.slotTurn (s : State) (t : Nat) : Nat :=
  let x := s.thread t
  match x.loc with
  | .slot p n => (n + 16 - (s.position p).lastSlot.getD (s.issueClass x) 7 - 1) % 8
  | _ => 8

/-- Does a port take actor `a` before `b`: on a core the higher class, then the next slot (R76); on a port of an engine the stream that has been ready for
48 selections, then the higher priority, then the earlier start (R402)? -/
def State.goesBefore (s : State) (a b : Actor) : Bool :=
  match a, b with
  | .thread t, .thread u =>
    let i := s.issueClass (s.thread t)
    let j := s.issueClass (s.thread u)
    decide (j < i) || (i == j && decide (s.slotTurn t < s.slotTurn u))
  | _, _ =>
    let x := s.ageOf a
    let y := s.ageOf b
    if 48 ≤ x ∨ 48 ≤ y then decide (y < x)
    else
      let w (c : Actor) : Wave := match c with | .thread _ => {} | .access w => s.wave w | .compute w => s.wave w
      decide ((w b).c.prio < (w a).c.prio) || ((w a).c.prio == (w b).c.prio && decide ((w a).started < (w b).started))

/-- Must an actor that the agenda names wait for another of its port: on a core for one that goes before it (R76, R403), on an engine for one that has
been ready for 48 selections (R402; log entry 1)? -/
def State.outranked (s : State) (a : Actor) : Bool :=
  s.actors.any (fun b => s.portOf b == s.portOf a && s.goesBefore b a
    && (match b with | .thread _ => true | _ => decide (48 ≤ s.ageOf b)) && s.issuable b)

/-- The actor that a port takes among some. -/
def State.portPick (s : State) (as : List Actor) : Option Actor :=
  as.foldl (fun best a => match best with | none => some a | some b => if s.goesBefore a b then some a else some b) none

/-- The next actor by default: that of the first port after the one that went last, in turn. -/
def State.nextActor (s : State) : Option Actor :=
  let as := s.actors.filter s.eligible
  let ports := (as.map s.portOf).eraseDups
  let first (l : List Nat) : Option Nat := l.min?
  match (match first (ports.filter (fun p => decide (s.turn < p))) with | some p => some p | none => first ports) with
  | some p => s.portPick (as.filter (fun a => s.portOf a == p))
  | none => none

/-- Latency of an instruction on a core, in f-cycles, and whether it is a divide (R77). -/
def coreLatency : Instr → Nat × Bool
  | .mul .. | .mulh .. | .mulhn .. => (8, false)
  | .div _ _ _ w | .divn _ _ _ w | .rem _ _ _ w | .remn _ _ _ w => (if w then 20 else 36, true)
  | .aluImmediateLone op _ _ w _ => match op with
    | .mul | .mulh | .mulhn => (8, false)
    | .div | .divn | .rem | .remn => (if w then 20 else 36, true)
    | _ => (4, false)
  | _ => (4, false)

/-- A core has issued a bundle of a thread in state `s`, and stands in `r`: the slot is its class's last, and is ready again after the latency; a divide
takes the divider once it is free (R75 to R77). -/
def State.noteCore (s : State) (t : Nat) (b : Bundle) (r : State) : State :=
  match (s.thread t).loc with
  | .slot p n =>
    let q := s.position p
    let c := coreLatency b.ci
    let a := (b.ai.map coreLatency).getD (4, false)
    let div := c.2 || a.2
    let done := (if div then max s.fcount q.divider else s.fcount) + 1000 * max c.1 a.1
    let r := r.modPosition p (fun q => { q with lastSlot := q.lastSlot.put (s.issueClass (s.thread t)) n, divider := if div then done else q.divider })
    if (r.threads.find t).isSome then r.modThread t (fun x => { x with readyAt := done }) else r
  | _ => r

/-- A port of an engine has selected a stream in state `s`: the others that were ready have waited once more (R402). -/
def State.noteWaits (s : State) (a : Actor) (r : State) : State :=
  let p := s.portOf a
  let age (x : Actor) (n : Nat) : Nat := if x == a then 0 else if s.portOf x == p && s.issuable x then n + 1 else n
  { r with waves := r.waves.map (fun e => (e.1, { e.2 with ageC := age (.access e.1) e.2.ageC, ageA := age (.compute e.1) e.2.ageA })) }

/-- An actor has issued the slot that it had in state `s`. On a core the first slot of a bundle issues it, and an instruction that has kept its slot while
it waited has issued before (R75). -/
def State.noteIssue (s : State) (a : Actor) (r : State) : State :=
  match a with
  | .thread t => match (s.thread t).slotBit, (s.thread t).c.issued, (s.thread t).c.bundle with
    | false, false, some b => s.noteCore t b r
    | _, _, _ => r
  | .access w => if (s.wave w).c.issued then r else s.noteWaits a r
  | .compute _ => s.noteWaits a r

/-- The issue of a slot that executed in state `s`; where no instruction did, a core has issued nothing. -/
def State.noteSlot (s : State) (a : Actor) (instr : Bool) (r : State) : State :=
  match instr, a with
  | false, .thread _ => r
  | _, _ => s.noteIssue a r

/-- After an actor's slot, which executed in state `s`: where it has gone on, or begun, its issue is noted, a tick passes and every actor may try again. A
slot that is not ready takes no time, and its port selects another (R75, R402, R403). -/
def settledStep (s : State) (a : Actor) (note : State → State) :
    Host.Outcome State Fault Refusal → Host.Outcome State Fault Refusal
  | .next t => .next (
      if t.tried == s.tried then { (note t).tick 1 with turn := s.portOf a, tried := [] }
      else if s.begins a t then { (note (t.modCom a.unit (fun c => { c with issued := true }))).tick 1 with turn := s.portOf a, tried := [] }
      else t)
  | o => o

/-- One slot of an actor, which waits for those that go before it. -/
def State.runActor (s : State) (a : Actor) : Host.Outcome State Fault Refusal :=
  if !s.actorReady a || !s.clockReady a || s.outranked a then .next s
  else let o := s.slotOutcome a; settledStep o.1 a (o.1.noteSlot a o.2.1) o.2.2

/-- Is the constructor a step of the device or of the host, which no unit executes? -/
def isEvent (i : Instr) : Bool := (encode i).isNone

/-- A step of the device or of the host while the dies do not run: Adentoth's own, and writes to the window of BAR 4 before an image has been
accepted. A halted package completes every other request of the host with Completer Abort, and drops what is posted (R477, R478). -/
def stoppedEvent (i : Instr) (s : State) : Host.Outcome State Fault Refusal :=
  match i with
  | .coldReset => execColdReset s
  | .admgo => execAdmgo s
  | .registerWrite (.bar2 0) n x => if s.adentoth.st ≠ 3 ∧ 0x100000 ≤ n then execRegisterWrite (.bar2 0) n x s else .next s
  | .submit fn _ _ _ => .next (if s.adentoth.st = 3 then s.answer fn 2 [] else s)
  | .hostCxlAccess _ (.write _) _ => .next s
  | .hostCxlAccess fn _ _ => .next (if s.adentoth.st = 3 then s.answer fn 2 [] else s)
  | _ => .next s

/-- A step of the device or of the host that the agenda orders. -/
def stepEvent (i : Instr) (s : State) : Host.Outcome State Fault Refusal :=
  if !isEvent i then .next s else if s.adentoth.st = 1 then exec i s else stoppedEvent i s

/-! ## The moves of a step -/

/-- A move that the agenda orders. -/
def State.move (s : State) : Move → Host.Outcome State Fault Refusal
  | .event i => stepEvent i { s with tried := [] }
  | .run a => s.runActor a
  | .pass n => .next ((({ s with tried := [] } : State).idle n).tick n)
  | .upset place double cache => .next (s.upset place double cache)
  | .stop p => .next (s.modPosition p (fun q => { q with stuck := true }))
  | .link p up => .next { s with adentoth := s.adentoth.setLink p up }

/-- What takes place where the agenda orders nothing: a step of the device that is due; else one slot of the next unit; else time passes. -/
def State.goesOn (s : State) : Host.Outcome State Fault Refusal :=
  match autoStep s with
  | some t => .next { t with tried := [] }
  | none =>
    match s.nextActor with
    | some a => s.runActor a
    | none => .next (({ s with tried := [] } : State).tick 1)

end Sys2Proof.Machine
end

