-- ==== Sys2Proof/Machine/Step.lean ====
section
/-! DEFINITION. One step of the machine, and the state in which the next step runs a given instruction. -/

namespace Sys2Proof.Machine

/-- One step: the threads of a core that has died end; then the move that the agenda orders, or what is due by itself. -/
def step (s : State) : Host.Outcome State Fault Refusal :=
  let t := s.endDead
  match t.agenda with
  | m :: rest => ({ t with agenda := rest } : State).move m
  | [] => t.goesOn

/-! ## Placing an instruction where the next step fetches -/

/-- The words of the bundle that holds a table row's word: as a C-slot or lone instruction, or as the A-slot beside a NOP. -/
def fetchWords (w : Nat) : W32 × W32 :=
  let w0 := BitVec.ofNat 32 w
  let w1 := BitVec.ofNat 32 (w / 2 ^ 32)
  if (decodeC false w0 w1).isSome || (decodeC true w0 w1).isSome then (w0, w1) else (0, w0)

/-- A page entry that maps a 64 KiB page to HBM address `pa` with every permission, HOMED (R421). -/
def openEntry (pa : Nat) : W64 := BitVec.ofNat 64 (2 ^ 63 + 2 * 2 ^ 60 + 7 * 2 ^ 52 + pa / 2 ^ 16 % 2 ^ 32 * 2 ^ 16 + 0xFFFF)

/-- Where a program that is loaded from outside the machine stands: PC of the unit that runs it. -/
def loadPc : W64 := 0x10000

/-- The engine that a word's bundle needs: a spur thread, a Summit thread in supervisor mode, or a wave. -/
def fetchUnit (w0 w1 : W32) : Nat :=
  let kind (i : Instr) : Nat :=
    match engineOf i with
    | .ridge => 2
    | _ => if privileged i || crPrivileged i then 1 else 0
  match decodeC false w0 w1 with
  | some (.nopC false, _) =>
    (match decodeA true w1 with | some (i, _) => if engineOf i == .ridge then 2 else 0 | none => 0)
  | some (i, _) => kind i
  | none => 2

/-- A unit for a program that is loaded from outside the machine, in context 0 (log entry 23). -/
def State.loadUnit (s : State) (w0 w1 : W32) : UnitId × State :=
  let n := s.newId
  match fetchUnit w0 w1 with
  | 2 =>
    (.wave n.1, n.2.setWave n.1 { nv := 256, apc := loadPc, exec := BitVec.allOnes 64, live := BitVec.allOnes 64 })
  | k =>
    let p := if k = 1 then 0 else 3
    let t : Thread :=
      { loc := .slot p 0, home := some (p, 0), tid := BitVec.ofNat 64 (p * 2 ^ 52 + 1), pc := loadPc, sup := k = 1 }
    (.thread n.1, n.2.setThread n.1 t)

/-- The page of a unit's PC is mapped for fetching, in every translation cache. -/
def State.mapPc (s : State) (u : UnitId) : State :=
  let c := s.opCtx u .fetch
  let s := s.modCtx c (fun x => { x with loaded := true })
  let pc := (s.pcOf u).toNat
  match xlat s (s.opSpace u .fetch) c (s.ctx c).gen (s.unitPos u) 2 pc with
  | .ok .. => s
  | _ =>
    let e : TcEntry :=
      { cache := none, ctx := c, gen := (s.ctx c).gen, va := pc / 2 ^ 16 * 2 ^ 16, size := 16, entry := openEntry (pc / 2 ^ 16 * 2 ^ 16) }
    { s with tcs := e :: s.tcs }

/-- Nothing of an earlier bundle stands before the fetch of a unit. -/
def State.freshBundle (s : State) (u : UnitId) : State :=
  let s := s.modCom u (fun c => { c with
    bundle := none, after := none, wait := .none, under := .none, frec := [], trapped := none, stepDue := false, fences := [], stopped := [],
    redo := none, walk := false, until_ := none })
  match u with
  | .thread t => s.modThread t (fun x => { x with slotBit := false })
  | .wave w => s.modWave w (fun x => { x with lead := [], computeWait := false })

/-- The state in which the next step fetches and runs the instruction of a table row's word: the unit that would go on next, or a unit
made for it, finds the bundle at its PC, and the agenda gives it the next step. -/
def State.withFetchWord (s : State) (_nbits w : Nat) : State :=
  let ws := fetchWords w
  let r : UnitId × State := match s.nextActor with
    | some a => (a.unit, s)
    | none => s.loadUnit ws.1 ws.2
  let u := r.1
  let s := { ((r.2.freshBundle u).mapPc u) with adentoth := { r.2.adentoth with st := 1 } }
  let c := s.opCtx u .fetch
  let s := match xlat s (s.opSpace u .fetch) c (s.ctx c).gen (s.unitPos u) 2 (s.pcOf u).toNat with
    | .ok place _ _ => (s.clearBad place 8).rawPutBytes place (bytesLE 4 ws.1.toNat ++ bytesLE 4 ws.2.toNat)
    | _ => s
  let a : Actor := match u with | .thread t => .thread t | .wave w => .access w
  { s with agenda := .run a :: s.agenda }

end Sys2Proof.Machine
end

