-- ==== Sys2Proof/Safety.lean ====
section
/-! DEFINITION. What counts as a safe run, and the terms in which statements speak of one instruction: a unit that stands alone at
a slot, the state in which its slot begins, and the state after the slot has taken its effect. -/

namespace Sys2Proof.Machine

/-- The memory list is canonical, so equal memories are equal data. -/
def State.memWf (s : State) : Prop := Memory.wf s.mem = true

/-- A run of `k` steps ends in a next state, with no fault and no refusal. -/
def runsSafely (k : Nat) (s : State) : Prop := ∃ t, Host.Core.run Sys2Proof.core k s = .next t

/-- Unit `u` executes, on dies that run; it waits for nothing, no access of its own is outstanding or in error, no fence of its own is open,
nothing is due after its bundle, and on a Ridge engine its compute stream has caught up. Then no rule holds back its next slot (R62, R75, R508). -/
structure Alone (s : State) (u : UnitId) : Prop where
  current : s.cur = some u
  running : s.ready u = true
  waits : (s.com u).wait = .none
  clean : (s.com u).frec = []
  quiet : s.accessesOf u = []
  due : (s.com u).after = none
  open_ : (s.com u).fences = []
  steps : (s.com u).stepping = false
  caughtUp : ∀ w, u = .wave w → (s.wave w).lead = []

/-- Unit `u` executes an A-slot that waits for no register: no access of its own is outstanding or in error. The slot stands in a
thread's bundle, alone, or at the head of a wave's compute stream. -/
structure AloneA (s : State) (u : UnitId) : Prop where
  current : s.cur = some u
  running : s.ready u = true
  clean : (s.com u).frec = []
  quiet : s.accessesOf u = []

/-- The state in which a C-slot takes its effect: whether the bundle stands in an active repeat body is noted (R106). -/
def State.begun (s : State) (u : UnitId) : State := s.modCom u (fun c => { c with body := c.rpt.act })

/-- The state in which an A-slot takes its effect. -/
def State.begunA (s : State) (u : UnitId) : State :=
  match u with
  | .thread t => if (s.thread t).slotBit then s else s.begun u
  | .wave w => if (s.wave w).lead.isEmpty then s.begun u else s

/-- After the effect `t` of a C-slot the PC moves past the bundle, or to its paired A-slot. -/
def State.afterC (s : State) (u : UnitId) (i : Instr) (t : State) : State :=
  (t.noteWrites u (s.noted u i)).retireC u (s.pcOf u) none (s.execOf u)

/-- After the effect `t` of a transfer the PC stands at `a`. -/
def State.afterGo (s : State) (u : UnitId) (i : Instr) (t : State) (a : W64) : State :=
  (t.noteWrites u (s.noted u i)).retireC u (s.pcOf u) (some a) (s.execOf u)

/-- After the effect `t` of an A-slot. -/
def State.afterA (s : State) (u : UnitId) (i : Instr) (t : State) : State := (t.noteWrites u (s.noted u i)).retireA u

end Sys2Proof.Machine
end

