-- ==== Sys2Proof/Certificates/Slice0/Obligations.lean ====
section
/-! DEFINITION. The statements for the provers. Each formalises rules of spec/; the terms in which they speak of one slot (`Alone`,
`State.begun`, `State.afterC` …) are in Sys2Proof/Safety.lean. -/

open Sys2Proof Sys2Proof.Machine

namespace Spec

/-! ## Terms of the statements: scalar arithmetic (R84 to R98) -/

/-- The n-bit result of a scalar operation, as R87 to R93 give it, in exact arithmetic on the operands read as numbers. -/
def alu (op : AluOp) (n : Nat) (a b : BitVec n) : BitVec n :=
  let c := b.toNat % n
  match op with
  | .add => BitVec.ofNat n (a.toNat + b.toNat)
  | .sub => BitVec.ofInt n (a.toInt - b.toInt)
  | .and => a &&& b
  | .or => a ||| b
  | .xor => a ^^^ b
  | .andn => a &&& ~~~b
  | .shl => BitVec.ofNat n (a.toNat * 2 ^ c)
  | .shr => BitVec.ofNat n (a.toNat / 2 ^ c)
  | .sra => BitVec.ofInt n (a.toInt / 2 ^ c)
  | .rot => a.rotateLeft c
  | .shladd1 => BitVec.ofNat n (a.toNat * 2 + b.toNat)
  | .shladd2 => BitVec.ofNat n (a.toNat * 4 + b.toNat)
  | .shladd3 => BitVec.ofNat n (a.toNat * 8 + b.toNat)
  | .shladd4 => BitVec.ofNat n (a.toNat * 16 + b.toNat)
  | .min => if a.toInt < b.toInt then a else b
  | .max => if b.toInt < a.toInt then a else b
  | .minn => if a.toNat < b.toNat then a else b
  | .maxn => if b.toNat < a.toNat then a else b
  | .slt => if a.toInt < b.toInt then BitVec.ofNat n 1 else BitVec.ofNat n 0
  | .sltn => if a.toNat < b.toNat then BitVec.ofNat n 1 else BitVec.ofNat n 0
  | .seq => if a = b then BitVec.ofNat n 1 else BitVec.ofNat n 0
  | .mul => BitVec.ofInt n (a.toInt * b.toInt)
  | .mulh => BitVec.ofInt n (a.toInt * b.toInt / 2 ^ n)
  | .mulhn => BitVec.ofNat n (a.toNat * b.toNat / 2 ^ n)
  | .div =>
    if b = BitVec.ofNat n 0 then (if 0 ≤ a.toInt then BitVec.ofInt n (2 ^ (n - 1) - 1) else BitVec.ofInt n (-2 ^ (n - 1)))
    else if a.toInt = -2 ^ (n - 1) ∧ b.toInt = -1 then BitVec.ofInt n (2 ^ (n - 1) - 1)
    else BitVec.ofInt n (a.toInt.tdiv b.toInt)
  | .divn => if b = BitVec.ofNat n 0 then BitVec.ofNat n (2 ^ n - 1) else BitVec.ofNat n (a.toNat / b.toNat)
  | .rem =>
    if b = BitVec.ofNat n 0 then a
    else if a.toInt = -2 ^ (n - 1) ∧ b.toInt = -1 then BitVec.ofNat n 0
    else BitVec.ofInt n (a.toInt.tmod b.toInt)
  | .remn => if b = BitVec.ofNat n 0 then a else BitVec.ofNat n (a.toNat % b.toNat)
  | .sel => b

/-- D of a scalar operation: the 64-bit form, or the 32-bit form, sign-extended (R84). -/
def aluD (op : AluOp) (w : Bool) (a b : W64) : W64 :=
  if w then (alu op 32 (a.extractLsb' 0 32) (b.extractLsb' 0 32)).signExtend 64 else alu op 64 a b

/-- The operations that are no division (R94) and no selection (R92). -/
def plain : AluOp → Bool
  | .div | .divn | .rem | .remn | .sel => false
  | _ => true

/-- The four divisions (R94). -/
def divides : AluOp → Bool
  | .div | .divn | .rem | .remn => true
  | _ => false

/-- Does the operation set SSTAT.DZ: a division of width n by 0 (R94)? -/
def setsDz (op : AluOp) (w : Bool) (b : W64) : Bool :=
  divides op && (if w then b.extractLsb' 0 32 == 0 else b == 0)

/-- Does it set SSTAT.OV: DIV of the least number by -1 (R94)? -/
def setsOv (op : AluOp) (w : Bool) (a b : W64) : Bool :=
  op == .div && (if w then a.extractLsb' 0 32 == 0x80000000 && b.extractLsb' 0 32 == 0xFFFFFFFF
    else a == 0x8000000000000000 && b == 0xFFFFFFFFFFFFFFFF)

/-- The n-bit result of a unary instruction (R96). -/
def unary (i : Instr) (n : Nat) (a : BitVec n) : Option (BitVec n) :=
  match i with
  | .clz _ _ _ => some (BitVec.ofNat n (((List.range n).map (fun k => a.getLsbD (n - 1 - k))).takeWhile (! ·)).length)
  | .ctz _ _ _ => some (BitVec.ofNat n (((List.range n).map (fun k => a.getLsbD k)).takeWhile (! ·)).length)
  | .popc _ _ _ => some (BitVec.ofNat n ((List.range n).filter (fun k => a.getLsbD k)).length)
  | .brev _ _ _ => some a.reverse
  | .bswp _ _ _ => some (BitVec.ofNat n (ofBytesLE (bytesLE (n / 8) a.toNat).reverse))
  | _ => none

/-- D of a unary instruction (R96). -/
def unaryD (i : Instr) (w : Bool) (a : W64) : Option W64 :=
  if w then (unary i 32 (a.extractLsb' 0 32)).map (BitVec.signExtend 64) else unary i 64 a

/-- The width of the field at POS, cut at bit 63 (R98). -/
def fieldLen (lenm1 pos : BitVec 6) : Nat := min (pos.toNat + (lenm1.toNat + 1)) 64 - pos.toNat

/-- The field that BEXT takes from `a`, as a 64-bit value (R98). -/
def bext (a : W64) (sx : Bool) (lenm1 pos : BitVec 6) : W64 :=
  let w := fieldLen lenm1 pos
  let f := a.toNat / 2 ^ pos.toNat % 2 ^ w
  if sx then BitVec.ofInt 64 (if 2 * f < 2 ^ w then (f : Int) else (f : Int) - 2 ^ w) else BitVec.ofNat 64 f

/-- D after BINS: the field of `d` takes the low bits of `a` (R98). -/
def bins (d a : W64) (lenm1 pos : BitVec 6) : W64 :=
  let m : W64 := BitVec.ofNat 64 ((2 ^ fieldLen lenm1 pos - 1) * 2 ^ pos.toNat)
  (d &&& ~~~m) ||| (BitVec.ofNat 64 (a.toNat * 2 ^ pos.toNat) &&& m)

/-! ## Terms of the statements: control flow (spec/04) -/

/-- The target of an offset in bundles (R102). -/
def relative (s : State) (u : UnitId) (off : W64) : W64 := s.pcOf u + off * 8

/-- A target that a transfer accepts: bits 63:55 are 0 (R103). -/
def reachable (t : W64) : Prop := t.toNat < 2 ^ 55

/-- No path of the wave has siblings, so the spin detector does not watch it (R133). -/
def onePath (s : State) (u : UnitId) : Prop := ∀ w, u = .wave w → (s.wave w).stack = []

/-- A taken B, BC, JMP or RET ends an active repeat (R107). -/
def leaveRepeat (s : State) (u : UnitId) : State :=
  (s.begun u).modCom u (fun c => { c with rpt := if c.body then { c.rpt with act := false } else c.rpt })

/-- The condition of BC (R48). -/
def holds (c : Cond) (a b : W64) : Prop :=
  match c with
  | .eq => a = b
  | .ne => a ≠ b
  | .lt => a.toInt < b.toInt
  | .ge => b.toInt ≤ a.toInt
  | .ltn => a.toNat < b.toNat
  | .gen => b.toNat ≤ a.toNat

/-! ## Terms of the statements: memory instructions (spec/07) -/

/-- The address form of a memory major (R203, R208). -/
def form (u : UnitId) (m : MemOp) (e : Option MemExt) : MemForm := memForm (memUniform (isRidge u) m) true m e
/-- The address form of ATOM and AMSG, which have no NOIX (R216). -/
def formX (u : UnitId) (m : MemOp) (e : Option MemExt) : MemForm := memForm (memUniform (isRidge u) m) false m e

/-- The addressed lanes and their addresses (R204). -/
def addresses (s : State) (u : UnitId) (f : MemForm) : List (Nat × W64) := (s.memLanes u f).map (fun l => (l, s.memEa u f l))

/-- Every addressed lane passes the checks of R205, for an access of kind `k`: 0 a read, 1 a write, 3 an atomic (R422). -/
def passes (s : State) (u : UnitId) (sp : Space) (f : MemForm) (k : Nat) : Prop :=
  ∀ e ∈ addresses s u f, s.laneCheck u sp (szBytes f.m.sz) e.2 k = none

/-- An access has no lane, or, once sent, has every lane answered, and none with an error: its pages are mapped, its words readable
and, for LDSYNC, full. -/
def answersAtOnce (s : State) (a : Access) : Prop :=
  a.lanes = [] ∨ ∃ b, (s.issue a).2.access (s.issue a).1 = some b ∧ b.complete = true ∧ b.failed = false

/-- The state after a holding access has been sent and answered: it is over. Without lanes nothing is sent. -/
def answered (s : State) (a : Access) : State :=
  if a.lanes.isEmpty then s else (s.issue a).2.dropAccess (s.issue a).1

/-- The extension word's MOD. -/
def modOf (e : Option MemExt) : BitVec 8 := match e with | some x => x.md | none => 0

/-- The space that LDS, STS and the SPAD forms name, or the unit's own (R204). -/
def space (s : State) (u : UnitId) (spad : Bool) : Space := if spad then s.spadSpace u else s.spaceOf u

/-- The load that an instruction sends. -/
def loadOf (s : State) (u : UnitId) (m : MemOp) (e : Option MemExt) (sp : Space) (op : AccOp) (dest : Dest) (hold : Bool) : Access :=
  s.memAccess u sp op (szBytes m.sz) dest hold hold ((addresses s u (form u m e)).map (fun x => { lane := x.1, ea := x.2 }))

/-- The store that an instruction sends, with its data. -/
def storeOf (s : State) (u : UnitId) (m : MemOp) (e : Option MemExt) (sp : Space) (op : AccOp) (hold : Bool) (d : Nat → W64) : Access :=
  s.memAccess u sp op (szBytes m.sz) .none hold false
    ((addresses s u (form u m e)).map (fun x => { lane := x.1, ea := x.2, data := d x.1 }))

/-- The entries that LDQ reserves at its issue: one, or two for 64 bits, marked by the access's number, or zeros that no access fills (R63,
R209). -/
def reserved (s : State) (w : Nat) (m : MemOp) (e : Option MemExt) : State :=
  let q := m.d.toNat - 0x40
  let pend := Mask.ofLanes ((addresses s (.wave w) (form (.wave w) m e)).map Prod.fst)
  let entry (hi : Bool) : QEntry := { vals := Lanes.zero, pend := pend, tag := if addresses s (.wave w) (form (.wave w) m e) = [] then 0 else s.fresh, hi := hi }
  s.modWave w (fun x => { x with lq := x.lq.put q (x.lq.getD q [] ++ (if m.sz = 3 then [entry false, entry true] else [entry false])) })

/-- The lanes of an ATOM with their operands: D, and for CAS the register or pair after D (R216). -/
def atomLanes (s : State) (u : UnitId) (m : MemOp) (e : MemExt) : List ALane :=
  (addresses s u (formX u m (some e))).map (fun x =>
    { lane := x.1, ea := x.2, data := s.memReg u (formX u m (some e)) m.d.toNat (m.sz == 3) x.1,
      data2 := if bitsOf e.md 3 0 = 7 then s.casNew u (formX u m (some e)) x.1 else 0 })

/-- The access of an ATOM (R217). -/
def atomOf (s : State) (u : UnitId) (m : MemOp) (e : MemExt) (hold : Bool) : Access :=
  let nr := e.md.getLsbD 7
  s.memAccess u (s.spaceOf u) (.atom (bitsOf e.md 3 0) (e.md.getLsbD 6) nr) (szBytes m.sz)
    (if nr then .none else memDest u (formX u m (some e))) hold (bitsOf e.md 5 4 % 2 == 1) (atomLanes s u m e)

/-- The lanes of a HIST: the lowest of those with one address carries the sum of their increments, the others stand with it (R316). -/
def histLanes (s : State) (u : UnitId) (m : MemOp) (e : Option MemExt) : List ALane :=
  let eas := addresses s u (form u m e)
  let inc (l : Nat) : Nat :=
    if (modOf e).getLsbD 1 then 1 else (s.memReg u (form u m e) m.d.toNat (m.sz == 3) l).toNat % 2 ^ (8 * szBytes m.sz)
  let sum (a : W64) : Nat := ((eas.filter (fun x => x.2 == a)).map (fun x => inc x.1)).sum
  eas.map (fun x =>
    if ∃ y ∈ eas, y.2 = x.2 ∧ y.1 < x.1 then { lane := x.1, ea := x.2, st := .done }
    else { lane := x.1, ea := x.2, data := BitVec.ofNat 64 (sum x.2), data2 := BitVec.ofNat 64 (sum x.2 / 2 ^ 64) })

/-- The access of a HIST. -/
def histOf (s : State) (u : UnitId) (m : MemOp) (e : Option MemExt) : Access :=
  s.memAccess u (space s u ((modOf e).getLsbD 0)) (.hist ((modOf e).getLsbD 2)) (szBytes m.sz) .none false false (histLanes s u m e)

/-- Every lane of an access has its page mapped for it, and none is a HIST of a COHERENT page, which is refused (R316, R422). -/
def mapped (s : State) (a : Access) : Prop :=
  ∀ l ∈ a.lanes, ∃ place cls grain, xlat s a.space a.ctx a.gen a.pos a.op.kind l.ea.toNat = .ok place cls grain ∧
    ((∃ sat, a.op = .hist sat) → cls ≠ 3)

/-- A byte outside the bytes that the lanes of an access name, each at the place where its address lies. -/
def outside (s : State) (a : Access) (q : Nat) : Prop :=
  ∀ l ∈ a.lanes, ∀ place cls grain, xlat s a.space a.ctx a.gen a.pos a.op.kind l.ea.toNat = .ok place cls grain →
    q < place ∨ place + a.bytes ≤ q

/-- An instruction that sends the access `a` changes no byte outside those that its lanes name. -/
def storesOnly (s s0 : State) (i : Instr) (a : Access) : Prop :=
  mapped s0 a → ∀ t, exec i s = .next t → ∀ q, outside s0 a q → t.byteAt q = s.byteAt q

/-- The cause of a lane that fails the checks of R205: its address is refused, or is no multiple of the access's size. -/
def cause (s : State) (u : UnitId) (sp : Space) (width k : Nat) (a : W64) : Option Cause :=
  if (if isScratch sp then decide (s.unitScr u ≤ a.toNat) else s.badAddr u a k) = true then some .accessViolation
  else if a.toNat % width ≠ 0 then some .misaligned else none

/-- R205: where a lane fails its checks the instruction traps before anything is sent, with the cause and the address of the lowest
failing lane, and the mask of all that fail; an address beyond the address space is logged too (R30). -/
def checkTraps (s : State) (u : UnitId) (i : Instr) (sp : Space) (width k : Nat) (eas : List (Nat × W64)) : Prop :=
  let s0 := s.begun u
  let fails := eas.filter (fun e => (cause s0 u sp width k e.2).isSome)
  let far := if isScratch sp then [] else fails.filter (fun e => decide (2 ^ 55 ≤ e.2.toNat))
  let mask : Mask := if isRidge u then Mask.ofLanes (fails.map Prod.fst) else 1
  ∀ l a rest c, fails = (l, a) :: rest → cause s0 u sp width k a = some c →
    exec i s = .next ((far.foldl (fun t e => t.logViolation u e.2) s0).takeTrap u { cause := c, mask := mask, addr := a })

/-- The lanes of PF, CWB and CINV with their addresses. -/
def extentLanes (s : State) (u : UnitId) (m : MemOp) (e : Option MemExt) : List (Nat × W64) :=
  addresses s u (memForm (isRidge u && m.dk) false m e)

/-- Does a sector that an L1 holds meet what CWB or CINV names: every sector for SZ 3, else an extent of a lane in the unit's context
(R220)? -/
def inExtent (s : State) (u : UnitId) (m : MemOp) (e : Option MemExt) (x : Sector) : Bool :=
  m.sz == 3 || (x.ctx == s.unitCtx u && (extentLanes s u m e).any (fun l =>
    let n := 32 * 4 ^ m.sz.toNat
    decide (l.2.toNat / n * n < x.va + x.span) && decide (x.va < l.2.toNat / n * n + n)))

/-! ## Terms of the statements: copy jobs and messages (spec/09) -/

/-- The state after a job is accepted: it has the next ID of its engine, which D receives; a job without a word is complete (R246,
R249). -/
def submitted (s : State) (u : UnitId) (d : Nat) (blk : Option Nat) (kind : JobKind) (moves : List JobMove) : State :=
  let r := (s.setWait u .none).addJob u blk kind moves true
  let t := r.2.setReg u d (BitVec.ofNat 64 r.1)
  if moves = [] then t.endJob ((s.setWait u .none).newJobId (s.jobEngine u)).2.fresh 1 else t

/-- The unit's partition is not halted there (R258), the engine's queue has an entry free (R245), and every home of the job's destination words a mark, which SCAT does not take (R250). -/
def jobRoom (s : State) (u : UnitId) (blk : Option Nat) (kind : JobKind) (moves : List JobMove) : Prop :=
  s.stoppedOn (s.ctxFunc (s.unitCtx u)) (s.jobEngine u / 4) = false ∧ (s.jobsOf (s.jobEngine u)).length < 64 ∧ (kind = .scat ∨ s.marksFree u blk moves = true)

/-- The copy that the record of a paired CPYJ describes (R248). -/
def copyRec (ws : List W64) : CopyRec :=
  let lo (i : Nat) : W32 := (ws.getD i 0).extractLsb' 0 32
  let hi (i : Nat) : W32 := (ws.getD i 0).extractLsb' 32 32
  { src := ws.getD 0 0, dst := ws.getD 1 0, rowlen := (lo 2).toNat, rows := (hi 2).toNat, sstride := lo 3, dstride := hi 3 }

/-- The requests of a GATH or SCAT: one for each lane, at its scattered address (R253). -/
def requests (s : State) (u : UnitId) (m : MemOp) (e : MemExt) (scat : Bool) : Access :=
  s.memAccess u (s.spaceOf u) (.probe scat) (szBytes m.sz) .none true false
    ((s.gathLanes u m e).map (fun l => { lane := l.1, ea := l.2.1, data2 := l.2.2 }))

/-- Both addresses of every lane of a GATH or SCAT pass the checks of R205: SCAT writes the scattered one and reads the other, GATH the
other way round. -/
def gathers (s : State) (u : UnitId) (m : MemOp) (e : MemExt) (scat : Bool) : Prop :=
  ∀ l ∈ s.gathLanes u m e, s.laneCheck u (s.spaceOf u) (szBytes m.sz) l.2.1 (if scat then 1 else 0) = none ∧
    s.laneCheck u (space s u (e.md.getLsbD 0)) (szBytes m.sz) l.2.2 (if scat then 0 else 1) = none

/-- The block whose scratchpad a GATH or SCAT with the SPAD bit names. -/
def gathBlock (s : State) (u : UnitId) (e : MemExt) : Option Nat := if e.md.getLsbD 0 then (s.com u).block else none

/-- The messages of an AMSG: one for each lane, with the word of D and the sender's TID (R219). -/
def messages (s : State) (u : UnitId) (m : MemOp) (e : MemExt) : Access :=
  let f := formX u m (some e)
  let value (l : Nat) : W64 :=
    let v := s.memReg u f m.d.toNat (m.sz == 3) l
    if m.sz = 3 then v else (v.extractLsb' 0 32).zeroExtend 64
  let sender (l : Nat) : W64 :=
    match u with | .thread t => (s.thread t).sendTid | .wave w => if f.uniform then s.senderTid u else s.laneTid w l
  s.memAccess u .virt (.amsg e.md.toNat) (szBytes m.sz)
    (if isRidge u && !f.uniform then .vreg m.d.toNat false else .reg (m.d.truncate 6)) true false
    ((addresses s u f).map (fun x => { lane := x.1, ea := x.2, data := value x.1, data2 := sender x.1 }))

/-- The message of a SEND of the `n` words from register B on, to the position and type in A (R263). -/
def message (s : State) (u : UnitId) (d a b : Reg6) (n : Nat) : Access :=
  let x := (s.reg u a.toNat).toNat
  s.sendMsg u d (x / 256 % 4096) 0 (x % 256) ((List.range n).map (fun i => s.reg u (b.toNat + i))) false

/-- The unit's partition holds the Vale (R27). -/
def inPartition (s : State) (u : UnitId) (v : Nat) : Prop := s.holdsVale (s.unitFunc u) v = true

/-! ## Terms of the statements: numbers and their rounding (spec/05) -/

/-- What a code stands for: a NaN, an infinity, or a number with its sign (R142, R143). -/
inductive Num where
  | nan (signalling : Bool)
  | inf (neg : Bool)
  | real (neg : Bool) (x : ℚ)
  deriving DecidableEq

/-- A row of the tables of R142, R143 and R145: the format, its MaxFinite and its NaNOf. -/
structure Format where
  fmt : Fmt
  max : ℚ
  nan : Nat

/-- The formats of TYPE codes 0 to 7. -/
def formats : List Format :=
  [⟨⟨8, 23, 127, true, false⟩, (2 - 2 ^ (-23 : ℤ)) * 2 ^ 127, 0x7FC00000⟩, ⟨⟨5, 10, 15, true, false⟩, 65504, 0x7E00⟩,
   ⟨⟨8, 7, 127, true, false⟩, (2 - 2 ^ (-7 : ℤ)) * 2 ^ 127, 0x7FC0⟩, ⟨⟨4, 3, 7, false, true⟩, 448, 0x7F⟩,
   ⟨⟨5, 2, 15, true, false⟩, 57344, 0x7E⟩, ⟨⟨3, 2, 3, false, false⟩, 28, 0⟩, ⟨⟨2, 3, 1, false, false⟩, 15 / 2, 0⟩,
   ⟨⟨2, 1, 1, false, false⟩, 6, 0⟩]

/-- The format of a TYPE code. -/
def format (ty : Nat) : Format := formats.getD ty ⟨⟨2, 1, 1, false, false⟩, 6, 0⟩

/-- The accumulator element in float mode (R145). -/
def accumulator : Format := ⟨⟨12, 83, 2047, true, false⟩, (2 - 2 ^ (-83 : ℤ)) * 2 ^ 2047, 0x7FFC00000000000000000000⟩

/-- `x` with a sign. -/
def signed (neg : Bool) (x : ℚ) : ℚ := if neg then -x else x

/-- The reading of a code of a format (R142, R143). -/
def read (f : Fmt) (code : Nat) : Num :=
  let frac := code % 2 ^ f.m
  let ex := code / 2 ^ f.m % 2 ^ f.e
  let neg : Bool := code / 2 ^ (f.m + f.e) % 2 = 1
  if f.infs = true ∧ ex = 2 ^ f.e - 1 then (if frac = 0 then .inf neg else .nan (frac < 2 ^ (f.m - 1)))
  else if f.nan8 = true ∧ ex = 2 ^ f.e - 1 ∧ frac = 2 ^ f.m - 1 then .nan false
  else if ex = 0 then .real neg (signed neg ((frac : ℚ) / 2 ^ f.m * 2 ^ (1 - (f.bias : ℤ))))
  else .real neg (signed neg ((1 + (frac : ℚ) / 2 ^ f.m) * 2 ^ ((ex : ℤ) - f.bias)))

/-- The multiple of `u` that RM chooses for `x` (R147): codes 0 to 4 are RNE, RZ, RU, RD and RO. -/
def choose (rm : Nat) (u x : ℚ) : ℚ :=
  let k := ⌊x / u⌋
  let lo : ℚ := k * u
  let hi : ℚ := (k + 1) * u
  if lo = x then x else
  match rm with
  | 0 => if x - lo < hi - x then lo else if hi - x < x - lo then hi else if k % 2 = 0 then lo else hi
  | 1 => if x < 0 then hi else lo
  | 2 => hi
  | 3 => lo
  | _ => if k % 2 = 0 then hi else lo

/-- The spacing of a format's grid, with an unbounded exponent range, at `x` (R147, R182). -/
def spacing (f : Fmt) (x : ℚ) : ℚ := 2 ^ (max (Int.log 2 |x|) (1 - (f.bias : ℤ)) - f.m)

/-- Has the number a sign? -/
def Num.negative : Num → Bool
  | .nan _ => false
  | .inf neg => neg
  | .real neg _ => neg
def Num.isNan : Num → Bool
  | .nan _ => true
  | _ => false
def Num.isInf : Num → Bool
  | .inf _ => true
  | _ => false
def Num.signalling : Num → Bool
  | .nan s => s
  | _ => false
def Num.isZero : Num → Bool
  | .real _ x => decide (x = 0)
  | _ => false
def Num.value : Num → ℚ
  | .real _ x => x
  | _ => 0

/-- RoundTo (R68, R147 to R149): the number of the format that `v` becomes, and the flags. -/
def rounding (F : Format) (rm : Nat) (sat : Bool) (v : Num) : Num × FFlags :=
  match v with
  | .nan s => (if F.nan = 0 then .real false 0 else .nan false, if s ∨ F.nan = 0 then fNV else 0)
  | .inf neg => if F.fmt.infs then (.inf neg, 0) else (.real neg (signed neg F.max), fOF ||| fNX)
  | .real neg x =>
    let y := choose rm (spacing F.fmt x) x
    if x = 0 then (.real neg 0, 0)
    else if F.max < |y| then
      (if F.fmt.infs = true ∧ sat = false ∧ (rm = 0 ∨ (rm = 2 ∧ neg = false) ∨ (rm = 3 ∧ neg = true)) then .inf neg
        else .real neg (signed neg F.max), fOF ||| fNX)
    else (.real neg y, if y = x then 0 else if |y| < 2 ^ (1 - (F.fmt.bias : ℤ)) then fUF ||| fNX else fNX)

/-- `r` is the code of the format for `v`, with its flags; the code of a NaN is NaNOf. -/
def rounds (F : Format) (rm : Nat) (sat : Bool) (v : Num) (r : Nat × FFlags) : Prop :=
  r.1 < 2 ^ (1 + F.fmt.e + F.fmt.m) ∧ (read F.fmt r.1, r.2) = rounding F rm sat v ∧ (v.isNan = true → r.1 = F.nan)

/-- What an exact value of the model stands for. -/
def numOf : FVal → Num
  | .nan s => .nan s
  | .inf neg => .inf neg
  | .fin neg n d => .real neg (signed neg ((n : ℚ) / d))

/-! ## Terms of the statements: float arithmetic (R177 to R185, R351) -/

/-- A number with its sign turned. -/
def Num.minus : Num → Num
  | .nan s => .nan s
  | .inf neg => .inf (!neg)
  | .real neg x => .real (!neg) (-x)

/-- The exact product, and whether it is invalid: 0 times an infinity (R177). -/
def times (a b : Num) : Num × Bool :=
  if a.isNan ∨ b.isNan then (.nan (a.signalling || b.signalling), false)
  else if a.isInf ∨ b.isInf then (if a.isZero ∨ b.isZero then (.nan false, true) else (.inf (a.negative != b.negative), false))
  else (.real (a.negative != b.negative) (a.value * b.value), false)

/-- The exact sum, and whether it is invalid: infinities of both signs. An exact zero sum is +0, under RD -0, or the zero that every
addend is (R177). -/
def total (rm : Nat) (l : List Num) : Num × Bool :=
  let x := (l.map Num.value).sum
  if l.any Num.isNan then (.nan (l.any Num.signalling), false)
  else if .inf true ∈ l ∧ .inf false ∈ l then (.nan false, true)
  else if .inf true ∈ l then (.inf true, false)
  else if .inf false ∈ l then (.inf false, false)
  else if x ≠ 0 then (.real (decide (x < 0)) x, false)
  else if l.all (fun v => v.isZero && v.negative) then (.real true 0, false)
  else if l.all (fun v => v.isZero && !v.negative) then (.real false 0, false)
  else (.real (rm == 3) 0, false)

/-- The result of an exact computation: NaNOf with NV where it was invalid, else its value rounded once (R177). -/
def answers (F : Format) (rm : Nat) (sat : Bool) (v : Num) (invalid : Bool) (r : Nat × FFlags) : Prop :=
  if invalid then r = (F.nan, fNV) else rounds F rm sat v r

/-- The order of numbers that are not NaN: infinities at its ends; -0 and +0 are equal. -/
def below (a b : Num) : Prop :=
  match a, b with
  | .inf n, .inf m => n = true ∧ m = false
  | .inf n, _ => n = true
  | _, .inf m => m = false
  | a, b => a.value < b.value

/-- FMIN and FMAX on numbers that are not NaN: -0 counts as less than +0 (R178). -/
def belowZeros (a b : Num) : Prop := below a b ∨ (a.isZero = true ∧ b.isZero = true ∧ a.negative = true ∧ b.negative = false)

/-- FCMP (R179): the predicate of an OP, and its NV. -/
def compared (op : Nat) (a b : Num) : Prop :=
  let un := a.isNan = true ∨ b.isNan = true
  match op with
  | 0 => ¬ un ∧ ¬ below a b ∧ ¬ below b a
  | 1 => un ∨ below a b ∨ below b a
  | 2 => ¬ un ∧ below a b
  | 3 => ¬ un ∧ ¬ below b a
  | 4 => un
  | _ => ¬ un

/-- The class of a number that a code gives (R180): its bit. -/
def classOf (f : Fmt) (v : Num) : Nat :=
  match v with
  | .nan s => if s then 0 else 1
  | .inf neg => if neg then 2 else 9
  | .real neg x =>
    if x = 0 then (if neg then 5 else 6) else if |x| < 2 ^ (1 - (f.bias : ℤ)) then (if neg then 4 else 7)
    else if neg then 3 else 8

/-- The results of R183's table for an infinity or a zero, and for a negative number under FRSQ, FSQRT and FLOG2. -/
def specials (fn : Nat) (v : Num) : Option (Num × FFlags) :=
  let invalid : Num × FFlags := (.nan false, fNV)
  match v, fn with
  | .nan s, _ => some (.nan false, if s then fNV else 0)
  | .inf neg, 0 => some (.real neg 0, 0)
  | .inf true, 1 | .inf true, 2 | .inf true, 4 | .inf _, 5 | .inf _, 6 => some invalid
  | .inf false, 1 => some (.real false 0, 0)
  | .inf false, 2 | .inf false, 3 | .inf false, 4 => some (.inf false, 0)
  | .inf true, 3 => some (.real false 0, 0)
  | .inf neg, _ => some (.real neg (signed neg 1), 0)
  | .real neg x, _ =>
    if x = 0 then some (match fn with
      | 0 | 1 => (.inf neg, fDZ)
      | 2 | 5 | 7 => (.real neg 0, 0)
      | 3 | 6 => (.real false 1, 0)
      | _ => (.inf true, fDZ))
    else if x < 0 ∧ (fn = 1 ∨ fn = 2 ∨ fn = 4) then some invalid else none

/-- The exact cases of R182: the result where it is exact. -/
def exactly (fn : Nat) (f : Fmt) (x : ℚ) : Option Num :=
  let n := Int.log 2 |x|
  let power := decide (|x| = 2 ^ n)
  let normal (k : Int) := decide (1 - (f.bias : ℤ) ≤ k) && decide (k ≤ f.bias)
  let neg := decide (x < 0)
  match fn with
  | 0 => if power && normal (-n) then some (.real neg (signed neg (2 ^ (-n)))) else none
  | 1 => if power && n % 2 == 0 then some (.real false (2 ^ (-(n / 2)))) else none
  | 3 => if x.den == 1 && normal x.num then some (.real false (2 ^ x.num)) else none
  | 4 => if power then some (.real (decide (n < 0)) n) else none
  | 5 => if (2 * x).den == 1 then some (.real neg 0)
    else if (4 * x).den == 1 then (let up := (4 * x).num % 4 == 1; some (.real (!up) (signed (!up) 1))) else none
  | 6 => if (4 * x).den == 1 then
      some (if (4 * x).num % 4 = 0 then .real false 1 else if (4 * x).num % 4 = 2 then .real true (-1) else .real false 0)
    else none
  | _ => none

/-- The square root of `x` chosen under RM on a grid of spacing `u`: on the multiples of `u` around it (R147, R182). -/
def chooseRoot (rm : Nat) (u x y : ℚ) : Prop :=
  ∃ k : ℕ, (k * u) ^ 2 ≤ x ∧ x < ((k + 1) * u) ^ 2 ∧
    y = if (k * u) ^ 2 = x then k * u else
      match rm with
      | 0 => if x < ((k + 1 / 2) * u) ^ 2 then k * u else if ((k + 1 / 2) * u) ^ 2 < x then (k + 1) * u
        else if k % 2 = 0 then k * u else (k + 1) * u
      | 1 | 3 => k * u
      | 2 => (k + 1) * u
      | _ => if k % 2 = 0 then (k + 1) * u else k * u

/-- The exact result of FRSQ, FEXP2, FLOG2, FSIN, FCOS and FTANH (R182): `z` at the argument `x`. -/
def exactIs (fn : Nat) (x z : ℝ) : Prop :=
  match fn with
  | 1 => z = 1 / Real.sqrt x
  | 3 => z = (2 : ℝ) ^ x
  | 4 => z = Real.logb 2 x
  | 5 => z = Real.sin (2 * Real.pi * x)
  | 6 => z = Real.cos (2 * Real.pi * x)
  | _ => z = Real.tanh x

/-- R182's bound on a result `y` at the argument `x`, against the number `q`, in the format of TYPE code `ty`. -/
def meets (ty fn : Nat) (f : Fmt) (x q y : ℚ) : Prop :=
  let ulps (k : ℚ) : Prop := |y - q| ≤ k * spacing f q
  let within (k : ℤ) : Prop := |y - q| ≤ 2 ^ k
  if ty = 0 then
    match fn with
    | 0 | 1 => ulps 1
    | 3 => ulps 2
    | 4 => if 1 / 2 ≤ x ∧ x ≤ 2 then within (-22) else ulps 2
    | 5 | 6 => within (-22)
    | _ => if 1 / 8 ≤ |x| then ulps 2 else within (-24)
  else ulps 1 ∨ (|q| ≤ 1 / 2 ∧ within (-12))

/-- `y` meets R182's bound against the exact result `z`, taken to 60 bits: absolute, or of `z` itself for FRSQ and FEXP2. -/
def meetsExact (ty fn : Nat) (f : Fmt) (x y : ℚ) (z : ℝ) : Prop :=
  ∃ q : ℚ, q ≠ 0 ∧ |(q : ℝ) - z| ≤ 2 ^ (-60 : ℤ) * (if fn = 1 ∨ fn = 3 then |z| else 1) ∧ meets ty fn f x q y

/-! ## Terms of the statements: conversions (R157 to R163), keys (R313) and prefixes (R188) -/

/-- The least and the greatest number of an integer TYPE, and its code of a number (R141). -/
def least (ty : BitVec 4) : Int := if ty.toNat % 2 = 0 then -2 ^ (tyWidth ty - 1) else 0
def greatest (ty : BitVec 4) : Int := if ty.toNat % 2 = 0 then 2 ^ (tyWidth ty - 1) - 1 else 2 ^ tyWidth ty - 1
def codeOf (ty : BitVec 4) (x : Int) : Nat := (x % 2 ^ tyWidth ty).toNat

/-- The number that a code of TYPE stands for: a UNORM fraction, a float or an integer (R140, R161). -/
def sourceOf (ty : BitVec 4) (unorm : Bool) (c : Nat) : Num :=
  let n := 2 ^ tyWidth ty
  if unorm then .real false ((c : ℚ) / ((n : ℚ) - 1))
  else if ty.toNat < 8 then read (format ty.toNat).fmt c
  else if ty.toNat % 2 = 0 ∧ n / 2 ≤ c then .real true ((c : ℚ) - n) else .real false c

/-- CVT of the number `v`, of an integer TYPE or not, to DT, as a UNORM or not (R161): `r` is the code, with the flags. -/
def converts (whole unorm : Bool) (dt : BitVec 4) (rm : Nat) (sat : Bool) (v : Num) (r : Nat × FFlags) : Prop :=
  let past : FFlags := if sat then fSI else fNV
  if dt.toNat < 8 then rounds (format dt.toNat) rm sat v r
  else if unorm = true then
    match v with
    | .nan _ => r = (0, fNV)
    | .inf neg => r = (if neg then 0 else 2 ^ tyWidth dt - 1, 0)
    | .real _ x =>
      let z := max 0 (min x 1) * (2 ^ tyWidth dt - 1)
      (r.1 : ℚ) = choose rm 1 z ∧ r.2 = if choose rm 1 z = z then 0 else fNX
  else if whole = false then
    match v with
    | .nan _ => r = (0, fNV)
    | .inf neg => r = (codeOf dt (if neg then least dt else greatest dt), past)
    | .real _ x =>
      let k := ⌊choose rm 1 x⌋
      r = if k < least dt then (codeOf dt (least dt), past) else if greatest dt < k then (codeOf dt (greatest dt), past)
        else (codeOf dt k, if choose rm 1 x = x then 0 else fNX)
  else
    let k := ⌊v.value⌋
    r = if sat = true ∧ k < least dt then (codeOf dt (least dt), fSI)
      else if sat = true ∧ greatest dt < k then (codeOf dt (greatest dt), fSI) else (codeOf dt k, 0)

/-- A number times a power of two: a scale of a block (R157). -/
def Num.times2 (v : Num) (k : Int) : Num :=
  match v with
  | .real neg x => .real neg (x * 2 ^ k)
  | v => v

/-- emax of a narrow TYPE (R158). -/
def emax (ty : BitVec 4) : Int := if ty = 3 then 8 else if ty = 4 then 15 else if ty = 5 then 4 else 2

/-- The scale of a block whose active elements are `vs` (R158). -/
def scaleIs (ty : BitVec 4) (vs : List Num) (x : Nat) : Prop :=
  ((∃ v ∈ vs, v.isNan = true ∨ v.isInf = true) → x = 0xFF) ∧
  ((∀ v ∈ vs, v.isZero = true) → x = 0x7F) ∧
  ((∀ v ∈ vs, v.isNan = false ∧ v.isInf = false) → ∀ v ∈ vs, v.isZero = false → (∀ w ∈ vs, |w.value| ≤ |v.value|) →
    (x : Int) = max 0 (min 254 (Int.log 2 |v.value| - emax ty + 127)))

/-- KEYX of a code (R313). -/
def keyed (ty : BitVec 4) (nhi desc : Bool) (w c : Nat) : Nat :=
  let x := c % 2 ^ w
  let v := read (format ty.toNat).fmt x
  let k := if 8 ≤ ty.toNat then (if ty.toNat % 2 = 0 then (x + 2 ^ (w - 1)) % 2 ^ w else x)
    else if v.isNan then (if nhi then 2 ^ w - 1 else 0)
    else if v.isZero then 2 ^ (w - 1)
    else if v.negative then 2 ^ w - 1 - x else x + 2 ^ (w - 1)
  if desc then 2 ^ w - 1 - k else k

/-- What SCAN and REDU have joined after some lanes: nothing before the first (R188). -/
def joined (f : LA) (a : Nat → W32) (ls : List Nat) : Option W32 :=
  ls.foldl (fun acc l => some (match acc with | none => a l | some x => (scanOp f (f.md.toNat % 8) x (a l)).1)) none

/-- The values that SCAN passes through: a lane, the value before it, the value after it, and the flags of its step (R188). -/
def prefixes (f : LA) (a : Nat → W32) (act : Mask) : List (Nat × Option W32 × W32 × FFlags) :=
  let ls := Mask.lanes act
  (List.range ls.length).map (fun i =>
    let l := ls.getD i 0
    let before := joined f a (ls.take i)
    (l, before, (joined f a (ls.take (i + 1))).getD 0,
      match before with | none => 0 | some x => (scanOp f (f.md.toNat % 8) x (a l)).2))

/-! ## Terms of the statements: lane instructions (spec/05, spec/06, spec/11) -/

/-- What a lane instruction gives in a lane: from its sources, ACTIVE and the lane, a 32-bit result with its flags. -/
abbrev LaneFn := (Nat → W32) → (Nat → W32) → (Nat → W32) → Mask → Nat → W32 × FFlags

/-- R170 to R172: where its sources can be read, no enabled flag is raised and its destination has room, instruction `i` writes `g` to
the lanes of ACTIVE, or pushes it, joins its flags to FPST, and completes. -/
def laneRuns (s : State) (u : UnitId) (i : Instr) (f : LA) (n : LaneSrcs) (g : LaneFn) : Prop :=
  AloneA s u → ∀ a b c t t',
    let s0 := s.begunA u
    let act := s0.active u f.msel
    let fl := flagsOver (laneList u act) (fun l => (g a b c act l).2)
    s0.laneSources u f n = some (a, b, c, t) → fl &&& (s0.com u).fpctl = 0 →
    t.laneDst u f.kd f.d act (fun l => (g a b c act l).1) = some t' →
    exec i s = .next (s.afterA u i (t'.orFpst u fl))

/-- R154: the trap FP_EXCEPTION of an instruction whose flags are `fl`, raised by the lanes `ls`; nothing of the instruction is written. -/
def flagTrap (s : State) (u : UnitId) (i : Instr) (fl : FFlags) (ls : List Nat) : Prop :=
  let s0 := s.begunA u
  let mask : Mask := if isRidge u then Mask.ofLanes ls else 0
  exec i s = .next (s0.takeTrap u { cause := .fpException, detail := fl.zeroExtend 64, mask := mask, slot := s0.atASlot u })

/-- The lanes of `ls` that raise a flag which the unit enables. -/
def raising (s : State) (u : UnitId) (ls : List Nat) (fl : Nat → FFlags) : List Nat := ls.filter (fun l => fl l &&& (s.com u).fpctl != 0)

/-- R154, R172: where a lane instruction raises an enabled flag it traps, with its flags in DETAIL and the lanes that raised one in
MASK. -/
def laneTraps (s : State) (u : UnitId) (i : Instr) (f : LA) (n : LaneSrcs) (g : LaneFn) : Prop :=
  AloneA s u → ∀ a b c t,
    let s0 := s.begunA u
    let act := s0.active u f.msel
    let fl (l : Nat) : FFlags := (g a b c act l).2
    s0.laneSources u f n = some (a, b, c, t) → flagsOver (laneList u act) fl &&& (s0.com u).fpctl ≠ 0 →
    flagTrap s u i (flagsOver (laneList u act) fl) (raising s0 u (laneList u act) fl)

/-- The elements of an integer TYPE, read exactly (R141, R173). -/
def elemAt (f : LA) (x : W32) (k : Nat) : Int :=
  let w := tyWidth f.ty
  let n := x.toNat / 2 ^ (w * k) % 2 ^ w
  if f.ty.toNat % 2 = 0 ∧ 2 ^ (w - 1) ≤ n then (n : Int) - 2 ^ w else n

/-- An exact integer in the width and the signedness of TYPE: modulo 2^w, or under SAT the nearest value with flag SI (R68, R173). -/
def fitInt (f : LA) (w : Nat) (x : Int) : Nat × FFlags :=
  let sgn := f.ty.toNat % 2 = 0
  let lo : Int := if sgn then -2 ^ (w - 1) else 0
  let hi : Int := if sgn then 2 ^ (w - 1) - 1 else 2 ^ w - 1
  if f.sat ∧ x < lo then ((lo % 2 ^ w).toNat, fSI) else if f.sat ∧ hi < x then ((hi % 2 ^ w).toNat, fSI)
  else ((x % 2 ^ w).toNat, 0)

/-- An integer lane operation, element by element. -/
def ints (f : LA) (op : Int → Int → Int → Int) : LaneFn := fun a b c _ l =>
  packed (tyWidth f.ty) (fun k => fitInt f (tyWidth f.ty) (op (elemAt f (a l) k) (elemAt f (b l) k) (elemAt f (c l) k)))

/-- The exact results of R173. -/
def intOps : List ((AForm → Instr) × Nat × LaneSrcs × (Int → Int → Int → Int)) :=
  [(.vadd, 0x01, {}, fun a b _ => a + b), (.vsub, 0x02, {}, fun a b _ => a - b), (.vmul, 0x03, {}, fun a b _ => a * b),
   (.vmulh, 0x04, {}, fun a b _ => a * b / 2 ^ 32), (.vmad, 0x05, { c := true }, fun a b c => a * b + c),
   (.vmin, 0x06, {}, fun a b _ => if a < b then a else b), (.vmax, 0x07, {}, fun a b _ => if a < b then b else a)]

/-- The bit operations of R173 to R175: no flags. -/
def bitOps : List ((AForm → Instr) × Nat × LaneSrcs × (W32 → W32 → W32)) :=
  [(.vand, 0x08, {}, fun a b => a &&& b), (.vor, 0x09, {}, fun a b => a ||| b), (.vxor, 0x0A, {}, fun a b => a ^^^ b),
   (.vshl, 0x0B, {}, fun a b => BitVec.ofNat 32 (a.toNat * 2 ^ (b.toNat % 32))),
   (.vshr, 0x0C, {}, fun a b => BitVec.ofNat 32 (a.toNat / 2 ^ (b.toNat % 32))),
   (.vsra, 0x0D, {}, fun a b => BitVec.ofInt 32 (a.toInt / 2 ^ (b.toNat % 32))),
   (.vpopc, 0x0E, { b := false }, fun a _ => BitVec.ofNat 32 ((List.range 32).filter (fun k => a.getLsbD k)).length),
   (.vclz, 0x0E, { b := false }, fun a _ =>
      BitVec.ofNat 32 (((List.range 32).map (fun k => a.getLsbD (31 - k))).takeWhile (! ·)).length),
   (.vbrev, 0x0E, { b := false }, fun a _ => a.reverse), (.vmov, 0x11, { a := false }, fun _ b => b)]

/-- A float operation on codes, element by element. -/
def floats (f : LA) (op : Nat → Nat → Nat → Nat × FFlags) : LaneFn := fun a b c _ l =>
  let w := tyWidth f.ty
  let e (x : W32) (k : Nat) : Nat := x.toNat / 2 ^ (w * k) % 2 ^ w
  packed w (fun k => op (e (a l) k) (e (b l) k) (e (c l) k))

/-- The float operations of R177, R178, R180, R181 on the codes of TYPE. -/
def floatOps : List ((AForm → Instr) × Nat × LaneSrcs × (LA → Nat → Nat → Nat → Nat × FFlags)) :=
  [(.fadd, 0x13, {}, fun f a b _ => fpAdd (fmtOf f.ty) f.rm.toNat f.sat a b),
   (.fsub, 0x14, {}, fun f a b _ => fpSub (fmtOf f.ty) f.rm.toNat f.sat a b),
   (.fmul, 0x15, {}, fun f a b _ => fpMul (fmtOf f.ty) f.rm.toNat f.sat a b),
   (.fmin, 0x17, {}, fun f a b _ => fpMinMax (fmtOf f.ty) false a b),
   (.fmax, 0x18, {}, fun f a b _ => fpMinMax (fmtOf f.ty) true a b),
   (.fclass, 0x1A, { b := false }, fun f a _ _ => (2 ^ fpClass (fmtOf f.ty) a, 0)),
   (.frcp, 0x1B, { b := false }, fun f a _ _ => fpSpecial 0 f.ty.toNat f.rm.toNat f.sat a),
   (.frsq, 0x1B, { b := false }, fun f a _ _ => fpSpecial 1 f.ty.toNat f.rm.toNat f.sat a),
   (.fsqrt, 0x1B, { b := false }, fun f a _ _ => fpSpecial 2 f.ty.toNat f.rm.toNat f.sat a),
   (.fexp2, 0x1B, { b := false }, fun f a _ _ => fpSpecial 3 f.ty.toNat f.rm.toNat f.sat a),
   (.flog2, 0x1B, { b := false }, fun f a _ _ => fpSpecial 4 f.ty.toNat f.rm.toNat f.sat a),
   (.fsin, 0x1B, { b := false }, fun f a _ _ => fpSpecial 5 f.ty.toNat f.rm.toNat f.sat a),
   (.fcos, 0x1B, { b := false }, fun f a _ _ => fpSpecial 6 f.ty.toNat f.rm.toNat f.sat a),
   (.ftanh, 0x1B, { b := false }, fun f a _ _ => fpSpecial 7 f.ty.toNat f.rm.toNat f.sat a)]

/-- The sum of the products of two registers' elements of width `w`, with an addend, exact and then fitted to 32 bits (R185). -/
def dots (f : LA) (w : Nat) : LaneFn := fun a b c _ l =>
  let sgn := f.ty.toNat % 2 = 0
  let e (v : Nat) (x : W32) (k : Nat) : Int :=
    let n := x.toNat / 2 ^ (v * k) % 2 ^ v
    if sgn ∧ 2 ^ (v - 1) ≤ n then (n : Int) - 2 ^ v else n
  let r := fitInt f 32 (((List.range (32 / w)).map (fun k => e w (a l) k * e w (b l) k)).foldl (· + ·) (e 32 (c l) 0))
  (BitVec.ofNat 32 r.1, r.2)

/-- INTERP: three attributes in registers A to A + 2, two weights in registers B and B + 1, or in the halves of a k-register (R351). -/
def interpolates (s : State) (w : Nat) (g : LA) : LaneFn := fun _ _ _ _ l =>
  let x := s.wave w
  let attr (n : Nat) : W32 := if g.ka then (x.kreg (g.a.toNat + n)).extractLsb' 0 32 else (x.vreg (g.a.toNat + n)).at l
  let weight (n : Nat) : W32 := if g.kb then (x.kreg g.b.toNat).extractLsb' (32 * n) 32 else (x.vreg (g.b.toNat + n)).at l
  interpolate g.rm.toNat g.sat (attr 0) (attr 1) (attr 2) (weight 0) (weight 1)

/-- SCAN gives each lane its prefix, or with EXCL the prefix before it (R188). -/
def scans (g : LA) : LaneFn := fun a _ _ act l =>
  match (prefixes g a act).find? (fun e => e.1 == l) with
  | some (_, before, after, fl) => (if g.md.getLsbD 3 then before.getD (scanIdentity g (g.md.toNat % 8)) else after, fl)
  | none => (0, 0)

/-- CVTSC: a block is 32 lanes, with the scale of its lanes in ACTIVE (R163). -/
def blocks (f : LA) : LaneFn := fun a _ _ act l =>
  let scale (j : Nat) : Nat := mxScale f.ty (((Mask.lanes act).filter (fun l => l / 32 == j)).map (fun l => wideValue f (a l)))
  if f.md.getLsbD 4 then mxDecode f (a l) else mxEncode f (scale (if l < 32 then 0 else 1)) (wideValue f (a l))

/-- KEYX, DIGIT and RANK (R313, R314, R320). -/
def keys (g : LA) : LaneFn := fun a _ _ _ l =>
  let w := tyWidth g.ty
  packed w (fun k => (keyOf g.ty (g.md.getLsbD 0) (g.md.getLsbD 1) w ((a l).toNat / 2 ^ (w * k) % 2 ^ w), 0))
def digits (g : LA) : LaneFn := fun a b c _ l => (digitOf (g.md.getLsbD 0) (a l) (b l) (c l), 0)
def ranks (g : LA) : LaneFn := fun a _ _ act l =>
  (BitVec.ofNat 32 ((Mask.lanes act).filter (fun j => (g.md.getLsbD 0 || decide (j < l)) && a j == a l)).length, 0)

/-- The state after an instruction whose one result goes to a k-register as `k`, or to every lane of ACTIVE as `r` (R187 to R189). -/
def uniformly (s t : State) (u : UnitId) (f : LA) (k : W64) (r : W32) : Option State :=
  if f.kd ∧ f.d.toNat < 0x40 then some (t.setReg u f.d.toNat k) else t.laneDst u f.kd f.d (s.active u f.msel) (fun _ => r)

/-- A comparison (R176, R179). -/
def compares (s : State) (u : UnitId) (i : Instr) (f : LA) (g : W32 → W32 → Bool × FFlags) : Prop :=
  ∀ w, u = .wave w → AloneA s u → ∀ a b c t,
    let s0 := s.begunA u
    let ls := Mask.lanes (s0.active u f.msel)
    let fl := flagsOver ls (fun l => (g (a l) (b l)).2)
    s0.laneSources u f {} = some (a, b, c, t) → fl &&& (s0.com u).fpctl = 0 →
    exec i s = .next (s.afterA u i ((t.modWave w (fun x =>
      x.setMask (f.d.toNat % 8) (Mask.ofLanes (ls.filter (fun l => (g (a l) (b l)).1))))).orFpst u fl))

/-- The condition codes of VCMP (R176). -/
def laneHolds (c : Nat) (a b : W32) : Bool :=
  match c with
  | 0 => decide (a = b)
  | 1 => decide (a ≠ b)
  | 2 => decide (a.toInt < b.toInt)
  | 3 => decide (b.toInt ≤ a.toInt)
  | 4 => decide (a.toNat < b.toNat)
  | _ => decide (b.toNat ≤ a.toNat)

/-- The mask operations of R190. -/
def maskOps : List ((AForm → Instr) × (Mask → Mask → Mask)) :=
  [(.mand, fun a b => a &&& b), (.mor, fun a b => a ||| b), (.mxor, fun a b => a ^^^ b), (.mnot, fun a _ => ~~~a)]

/-- The lanes of a wave that a source gives to a list instruction, all 64 results, and the count that KC asks for (R321). -/
def listed (s : State) (w : Nat) (i : Instr) (f : LA) (r : (Nat → W32) → Nat → W32) (count : (Nat → W32) → W64) : Prop :=
  AloneA s (.wave w) → ∀ a t, (s.begunA (.wave w)).laneSrc (.wave w) f.ka f.a = some (a, t) →
    exec i s = .next (s.afterA (.wave w) i (t.modWave w (fun x =>
      let y := x.setV f.d.toNat (Lanes.gen (r a))
      if f.kc then y.setK f.c.toNat (count a) else y)))

/-- The lanes that CMPX and EXPD select (R322). -/
def chosen (s : State) (w : Nat) (f : LA) : List Nat :=
  Mask.lanes (s.active (.wave w) f.msel &&& (s.wave w).mask (f.b.toNat % 8))

/-! ## Terms of the statements: the matrix unit (spec/10) -/

/-- Banks and columns of a narrow and of a wide tile (R283). -/
def banks (wide : Bool) : Nat := if wide then 24 else 12
def columns (wide : Bool) : Nat := if wide then 64 else 32

/-- An allocation succeeds: the wave has a block, tile `t` is NONE, and enough banks of the reservation are free (R284). -/
def tileFits (s : State) (w t : Nat) (wide : Bool) : Prop :=
  (s.wave w).t.find t = none ∧ ∃ b, (s.wave w).c.block = some b ∧ banks wide ≤ s.freeBanks b

/-- A tile that no issued step uses, with its contents. -/
def tileIs (s : State) (w t : Nat) (x : Tile) : Prop := (s.wave w).tileBusy t = false ∧ (s.wave w).t.find t = some x

/-- Words from `a` on pass the checks of R205, for an access of kind `k` (R422). -/
def wordsPass (s : State) (u : UnitId) (sp : Space) (a : W64) (n k : Nat) : Prop :=
  ∀ i < n, s.laneCheck u sp 8 (a + BitVec.ofNat 64 (8 * i)) k = none

/-- Every word of an image, and its alignment to 64 bytes, pass the checks of R287. -/
def imagePasses (s : State) (u : UnitId) (sp : Space) (a : W64) (n k : Nat) : Prop := a.toNat % 64 = 0 ∧ wordsPass s u sp a n k

/-- The stores of ACCSV (R286, R287). -/
def imageStores (s : State) (u : UnitId) (sp : Space) (a : W64) (t : Nat) (x : Tile) : Access :=
  { s.memAccess u sp .store 8 .none false false ((List.range (8 + 96 * columns x.wide)).map (fun i =>
      { lane := i, ea := a + BitVec.ofNat 64 (8 * i), data := x.word i })) with image := some t }

/-- The header of an image: tile mode, width and flags (R286); its other bits and words are 0. -/
def headOk (ws : List W64) : Prop := (ws.getD 0 0).toNat < 64 ∧ ∀ x ∈ ws.drop 1, x = 0
def headTile (h : W64) : Tile :=
  { int := h.getLsbD 0, wide := h.getLsbD 1, elems := [],
    flags := (0 : BitVec 1) ++ BitVec.ofBool (h.getLsbD 5) ++ (0 : BitVec 1) ++ BitVec.ofBool (h.getLsbD 4) ++
      BitVec.ofBool (h.getLsbD 3) ++ BitVec.ofBool (h.getLsbD 2) }

/-- The element words of an image that ACCLD loads (R288). -/
def imageLoads (s : State) (u : UnitId) (sp : Space) (a : W64) (t : Nat) (wide : Bool) : Access :=
  s.memAccess u sp (.load false) 8 (.tile t) false false ((List.range (96 * columns wide)).map (fun i =>
    { lane := 8 + i, ea := a + BitVec.ofNat 64 (8 * (8 + i)) }))

/-- A stream register after one use: CUR moves by STEP modulo WRAP, or 2^18 (R281). -/
def moved (y : Stream) : Stream :=
  { y with cur := BitVec.ofInt 18 (((y.cur.toNat : Int) + y.step.toInt) % (if y.wrap = 0 then 2 ^ 18 else (y.wrap.toNat : Int))) }

/-- The operand of an MMA-class instruction that issues: rows of codes, metadata and scales of its active lanes, and its B slots
(R292, R296 to R299). `k` is the instruction, `f` its fields, `j` the first or second step, `src` the stream use of its rows, `n` its place in the order of issue
(R270). -/
def mmaStep (s : State) (w : Nat) (k : MmaKind) (f : LA) (paired : Bool) (j : Nat) (src : Option Stream) (ymeta : Stream)
    (n : Nat) : MatStep :=
  let x := s.wave w
  let wid := tyWidth x.mfa
  let act := s.active (.wave w) f.msel
  { tile := f.d.toNat - 0x60 + j, fmtA := x.mfa, fmtB := x.mfb, active := act
    rows := byLane act (fun l => match src with
      | some y => rowCodes wid (s.spadBits w (y.row l) (4 * wid))
      | none => x.regRow (f.a.toNat + j * wid) l)
    metadata := if k = .mmas then byLane act (fun l => metaIdx (if f.kc then s.spadBits w (ymeta.row l) 8
      else ((x.vreg (metaReg wid f paired + 1)).at l ++ (x.vreg (metaReg wid f paired)).at l).toNat)) else []
    sa := byLane act (fun l => if k = .mmas then [x.rowScale 0 l, x.rowScale 1 l] else [x.rowScale j l])
    slots := x.mmaSlots k f x.bp, srcB := x.msb.extractLsb' 18 2, xvalB := x.msb.extractLsb' 0 8
    half := k = .mmax && j = 0, order := n }

/-- The scratchpad pieces that the stream uses of an instruction name: its rows, then its metadata (R282). -/
def pieces (s : State) (w : Nat) (k : MmaKind) (f : LA) (uses : List Stream) (ymeta : Stream) : List (Nat × Nat × Nat) :=
  let ls := Mask.lanes (s.active (.wave w) f.msel)
  uses.flatMap (fun y => ls.map (fun l => (l, y.row l, 4 * tyWidth (s.wave w).mfa))) ++
    (if k = .mmas ∧ f.kc then ls.map (fun l => (l, ymeta.row l, 8)) else [])

/-- R292, R293, R297, R299: an MMA-class instruction that passes its checks, while fewer than four are issued, samples its operands into
one step, or two of MMAX, and moves its stream registers, the position of its scales and the ring pointer on. -/
def mmaIssues (s : State) (w : Nat) (i : Instr) (k : MmaKind) (f : LA) (paired : Bool) : Prop :=
  let u : UnitId := .wave w
  AloneA s u →
    let s0 := s.begunA u
    let s1 := s0.newId.2
    let x := s0.wave w
    let ya := f.b.toNat - 0x50
    let ym := f.c.toNat - 0x50
    let y0 := x.stream ya
    let uses : List Stream := if f.kb then (if k = .mmax then [y0, moved y0] else [y0]) else []
    let yEnd := if k = .mmax then moved (moved y0) else moved y0
    let ymeta := if f.kb ∧ ym = ya then yEnd else x.stream ym
    let steps := (List.range (if k = .mmax then 2 else 1)).map (fun j => mmaStep s1 w k f paired j uses[j]? ymeta s0.newId.1)
    (x.steps.filter (fun t => !t.half)).length < 4 → s0.mmaCheck w k f paired = none →
    spadCheck (s0.unitScr u) 8 (pieces s0 w k f uses ymeta) = none →
    exec i s = .next (s.afterA u i (s1.modWave w (fun v =>
      let v := { v with steps := v.steps ++ steps }
      let v := if f.kb then { v with y := v.y.setIfInBounds ya yEnd } else v
      let v := if k = .mmas ∧ f.kc then { v with y := v.y.setIfInBounds ym (moved ymeta) } else v
      let v := if x.scaleUses k = 0 then v else v.setScalePos (x.scalePos + x.scaleUses k)
      if f.md.getLsbD 5 then v else v.setRing v.lp ((x.bp + if k = .mmas then 2 else 1) % (x.nm1 + 1)))))

/-- The codes that ACCRD reads for a lane, in the target format, with their flags (R301). -/
def readout (x : Tile) (f : LA) (cq l : Nat) : List (Nat × FFlags) :=
  (List.range 16).map (fun c => readoutCode x f.ty f.rm.toNat f.sat (x.elem l (16 * cq + c)))

/-! ## Terms of the statements: Contour and Traverse units (spec/12, spec/13) -/

/-- A thread at an equipped position, in its own mode, with nothing sent again (R115, R409). -/
def Equipped (s : State) (t : Nat) : Prop :=
  Alone s (.thread t) ∧ (s.com (.thread t)).redo = none ∧ (s.thread t).sup = false ∧ isEquipped (s.thread t).pos = true

/-- The tile record in register `b` and the target record that it names are readable and in order; `t` is the state after their reads,
`r` what they say (R333, R343). -/
def tileAt (s : State) (u : UnitId) (b : Reg6) (t : State) (r : TileRec) : Prop :=
  (s.reg u b.toNat).toNat % 32 = 0 ∧ ∃ ws s1 vs, s.record u (s.reg u b.toNat) 4 = .ok (ws, s1) ∧
    s1.recordMore u (s1.targetAddr u (bitsOf (ws.getD 0 0) 39 32)) 4 = .ok (vs, t) ∧ r = tileRec ws vs ∧ recordBad ws vs r = false

/-- The header of the shader, where fragment lanes need one, is valid; it asks for `nv` registers and `scr` bytes (R507). -/
def shaderAt (s : State) (u : UnitId) (use : Bool) (shader : W64) (t : State) (nv scr : Nat) : Prop :=
  ((use = false ∨ shader = 0) ∧ t = s ∧ nv = 16 ∧ scr = 0) ∨
  (use = true ∧ shader ≠ 0 ∧ ∃ v, s.readNow u .fetch 8 (shader - 64) = .ok v t ∧ passHeader true (BitVec.ofNat 64 v) = some (nv, scr))

/-- The owners of all lanes of a holding Contour message have answered without an error; `b` holds their answers and `t` is the state
after it. -/
def ownersAnswer (s : State) (u : UnitId) (a b : Access) (t : State) : Prop :=
  (s.issue a).2.access (s.issue a).1 = some b ∧ b.complete = true ∧ b.failed = false ∧ ((s.issue a).2.com u).redo = none ∧
    t = ((s.issue a).2.dropAccess b.id).setWait u .none

/-- A holding instruction on the tile of record `r`: D is 0 for an empty MASK, else `status` of the owners' answers. -/
def onViews (s : State) (t : Nat) (i : Instr) (d : Reg6) (s1 : State) (r : TileRec) (o : ContourOp) (status : Access → W64) : Prop :=
  let u : UnitId := .thread t
  (r.mask = [] → exec i s = .next (s.afterC u i (s1.setReg u d.toNat 0))) ∧
  (r.mask ≠ [] → s1.accessesOf u = [] → (s1.com u).redo = none → ∀ b s2, ownersAnswer s1 u (s1.viewAccess u r.t o r.mask true) b s2 →
    exec i s = .next (s.afterC u i (s2.setReg u d.toNat (status b))))

/-- The message of a posted segment or triangle goes out to the owner of every view in MASK, if no projection fails (R346, R352). -/
def sends (s : State) (t : Nat) (i : Instr) (b : Reg6) (frag : Bool) (pts : List W64) (o : TileRec → Nat → Nat → ContourOp) : Prop :=
  let u : UnitId := .thread t
  ∀ s1 r s2 nv scr, tileAt (s.begun u) u b s1 r → shaderAt s1 u frag r.shader s2 nv scr → s2.accessesOf u = [] →
    s2.rangeFails u r pts = none →
    exec i s = .next (s.afterC u i (s2.sendRel (s2.viewAccess u r.t (o r nv scr) r.mask false)))

/-- Stores of words that the checks of R205 and their pages allow, in order; no other side of a link is asked first (R374, R458). -/
def writable (s : State) (u : UnitId) (l : List (W64 × W64)) : Prop :=
  (∀ e ∈ l, s.badAddr u e.1 1 = false ∧ (s.writeNow u e.1 []).isSome = true) ∧ (s.asksWord u l).1 = none
def written (s : State) (u : UnitId) (l : List (W64 × W64)) : State :=
  l.foldl (fun s e => (s.writeNow u e.1 (bytesLE 8 e.2.toNat)).getD s) (s.asksWord u l).2

/-- The ray record at `a`, readable, with its parent's address (R363, R364): its fields, and the state after its reads. -/
def rayAt (s : State) (u : UnitId) (a parent : W64) (t : State) (r : Ray) : Prop :=
  a.toNat % 128 = 0 ∧ a.toNat + 0x47F < 2 ^ 55 ∧ s.badAddr u a = false ∧ parent.toNat + 0x47F < 2 ^ 55 ∧
    ∃ ws, s.readWords u a 14 = .ok (ws, t) ∧ r = rayOf ws

/-- The end of a walk: the changed fields of the record, and its result in three registers (R367, R374). -/
def ends (s : State) (t : Nat) (i : Instr) (d : Reg6) (a : W64) (s1 : State) (old new : Ray) (status : Nat) : Prop :=
  let u : UnitId := .thread t
  writable s1 u (rayWrites a old new) →
    exec i s = .next (s.afterC u i ((written s1 u (rayWrites a old new)).setRegs u d.toNat (rayResults new status)))

/-- One step of a walk in PHASE 1 (R363, R374): it returns a status, or the instruction stays in place with the record further on. -/
def walks (s : State) (t : Nat) (i : Instr) (d : Reg6) (a : W64) (s1 : State) (r : Ray) : Prop :=
  let u : UnitId := .thread t
  let s2 := s1.modCom u (fun c => { c with walk := true })
  (∀ n status es s3, s2.walkStep u a r = .ok ((.ret n status, es), s3) → writable s3 u (rayWrites a r n ++ es) →
    exec i s = .next (s.afterC u i ((written s3 u (rayWrites a r n ++ es)).setRegs u d.toNat (rayResults n status)))) ∧
  (∀ n es s3, s2.walkStep u a r = .ok ((.next n, es), s3) → writable s3 u (rayWrites a r n ++ es) →
    exec i s = .next ((written s3 u (rayWrites a r n ++ es)).stalled u))

/-- The checks of TRACE on its record and its operand (R364, R365). -/
def traceable (r : Ray) (op : W64) (pipe : BitVec 25) : Prop :=
  pipeMaxd pipe ≠ 0 ∧ op.toNat / 16 % 8 = 0 ∧ op.toNat < 2 ^ 55 ∧ r.root &&& ~~~(0x7FFFFFFFFFFF80 : W64) = 0 ∧ r.flags.toNat < 16

/-- The state after thread `t` has entered a bin of Vale `v` under the key `k` (R114, R117, R371). -/
def binned (s : State) (t v : Nat) (k : BinKey) (key : Nat) (ret : Option Nat) : State :=
  ((s.binServed v (.thread t)).binEnter v k key (.thread t)).2.modThread t (fun x => { x with
    retpos := ret, loc := .bin v (((s.vale v).binFor k).getD 0), pc := k.target, slotBit := false
    c := { x.c with bundle := none, exempt := false, parkedAt := some x.pos } })

/-! ## Terms of the statements: synchronisation and tasks (spec/14) -/

/-- A member of block `b`, on no divergent path, arrives at a barrier: no task, an empty stack (R390). -/
def memberOf (s : State) (u : UnitId) (b : Nat) : Prop :=
  s.inTask u = false ∧ (s.com u).block = some b ∧ ∀ w, u = .wave w → (s.wave w).stack = [] ∧ (s.wave w).lateRun = false

/-- An arrival with count `cnt`: the phase before it, and the barrier after it, which moves to the next phase with the last arrival
(R391). -/
def arrival (s : State) (b n : Nat) (cnt : W32) : Option (W32 × Bar) :=
  (s.bar b n).arrive (s.block b).members.length (s.block b).bsize cnt
def arrived (s : State) (b n : Nat) (x : Bar) : State :=
  s.setBlock b { s.block b with bars := (s.block b).bars.put n x }

/-- The word at an address is mapped for a read and can be read; `place` is where it lies (R399, R400). -/
def wordAt (s : State) (u : UnitId) (a : W64) (n place : Nat) : Prop :=
  s.laneCheck u (s.spaceOf u) 8 a = none ∧
    (∃ c g, xlat s (s.spaceOf u) (s.unitCtx u) (s.ctx (s.unitCtx u)).gen (s.unitPos u) 0 a.toNat = .ok place c g) ∧
    s.badRead place n = false

/-- The indices that RANGE.NEXT takes: at least one, at most what is left (R393). -/
def taken (s : State) (u : UnitId) (cnt : W32) : W32 := BitVec.ofNat 32 (min (max cnt.toNat 1) ((s.com u).hi - (s.com u).lo).toNat)
def takes (s : State) (u : UnitId) (d : Reg6) (cnt : W32) : State :=
  (s.modCom u (fun c => { c with lo := c.lo + taken s u cnt })).setReg u d.toNat (taken s u cnt ++ (s.com u).lo)

/-- A holding access of one lane is answered with `x` (R217, R263): `t` is the state after it. -/
def oneAnswer (s : State) (a : Access) (x : W64) (t : State) : Prop :=
  ∃ b, (s.issue a).2.access (s.issue a).1 = some b ∧ b.complete = true ∧ b.failed = false ∧ b.first.data = x ∧
    t = (s.issue a).2.dropAccess (s.issue a).1

/-- The message of a TASK: kind 2, three words from register B on (R398). -/
def taskMessage (s : State) (u : UnitId) (d a b : Reg6) : Access :=
  let x := (s.reg u a.toNat).toNat
  s.sendMsg u d (x / 256 % 4096) 2 (x % 256) ((List.range 3).map (fun i => s.reg u (b.toNat + i))) true

/-- The atomic add of 1, or of -1, to a join word (R398). -/
def joins (s : State) (u : UnitId) (j : W64) (down : Bool) : Access :=
  s.memAccess u (s.spaceOf u) (.atom 0 false true) 8 .none true false
    [{ lane := 0, ea := j, data := if down then BitVec.ofInt 64 (-1) else 1, data2 := if down then 1 else 0 }]

/-! ## Terms of the statements: the system class (spec/15) -/

/-- What follows the bundle of a unit. -/
def dueAfter (s : State) (u : UnitId) (x : After) : State := s.modCom u (fun c => { c with after := some x })

/-- A unit may reach register `n`: only the physical function and walker tasks reach the registers of R411 that are its own, LQCFG only the
physical function (R382); and a wave whose matrix or float registers it names has no A-slot ahead, nor, for FPCTL and FPST, a step
(R155, R279, R299). -/
def mayReach (s : State) (u : UnitId) (write : Bool) (n : Nat) : Prop :=
  (pfOnly write n = false ∨ s.pfHolds u n = true) ∧ s.crWaits u n = false

/-- A supervisor unit may name a function: its own, or any for the physical function and walker tasks (R425, R437). -/
def mayName (s : State) (u : UnitId) (fn : Nat) : Prop := s.partOf u = fn ∨ s.physical u = true

/-- The operands of TLBW are in order (R420, R425, R426). -/
def leafOk (a e : W64) (size : BitVec 2) : Prop :=
  let n := sizeLog size.toNat
  let cls := e.toNat / 2 ^ 60 % 4
  let grain := e.toNat / 2 ^ 58 % 4
  a.getLsbD 55 = false ∧ (if cls = 3 then grain ≤ 2 else grain = 0) ∧ e.toNat / 2 ^ 56 % 4 ≤ 2 ∧
    (e.getLsbD 63 = true → e.getLsbD 62 = true) ∧ (size ≠ 0 → e.toNat % 2 ^ 16 = 0xFFFF) ∧
    a.toNat % 2 ^ 55 % 2 ^ n = 0 ∧ e.toNat / 2 ^ 16 % 2 ^ 32 * 2 ^ 16 % 2 ^ n = 0

/-- TLBI takes the entries and walks of its extent away, and the lines of metadata that the copy engines hold of it; walks that have
started go on, stale (R257, R427). -/
def invalidated (s : State) (tc : TcEntry → Bool) (wk : Walk → Bool) (ml : MetaLine → Bool) : State :=
  { s with
    tcs := s.tcs.filter (fun e => !tc e)
    walks := (s.walks.filter (fun w => !wk w || w.started)).map (fun w => if wk w then { w with stale := true } else w)
    copies := s.copies.map (fun e => (e.1, { e.2 with metadata := e.2.metadata.filter (fun l => !ml l) })) }

/-! ## Terms of the statements: the steps of the device (spec/95) -/

/-- A step of the device: under its condition it has its effect; else nothing changes. -/
def occurs (s : State) (e : Instr) (c : Prop) (t : State) : Prop := (c → exec e s = .next t) ∧ (¬ c → exec e s = .next s)

/-- An answer of the device to the host or a peer (R450, R457, R460). -/
def replied (s : State) (dest status : Nat) : State := { s with answers := s.answers ++ [{ dest := dest, status := status, data := [] }] }

/-- The record of a submission: its form, and its place in the page's window of 64 (R449, R450). -/
def recordFits (p : Page) (ws : List W64) : Prop :=
  let w (i : Nat) : Nat := (ws.getD i 0).toNat
  w 0 % 2 ^ 32 = (p.submitSeq.toNat + 1) % 2 ^ 32 ∧ w 0 / 2 ^ 32 ≤ 1 ∧ (∀ i, 3 ≤ i → i < 16 → w i = 0) ∧
    (w 0 / 2 ^ 32 = 0 → w 1 % 128 = 0)

/-- The clocks' legal points (R38). -/
def legalPoint (a f : Nat) : Prop := 400 ≤ a ∧ a ≤ 850 ∧ 800 ≤ f ∧ f ≤ 1700 ∧ a ≤ f ∧ a % 25 = 0 ∧ f % 25 = 0

/-! ## Terms of the statements: frames, memory, decoding -/

/-- What an instruction of unit `u` that only writes registers leaves as it was: the registers and the common state of every other unit, the
lanes, masks and queues of every other wave, memory with its full-empty bits, FPCTL, every special register, and every tile, stream register
and EXEC. -/
structure Untouched (s t : State) (u : UnitId) : Prop where
  others : ∀ v, v ≠ u → t.com v = s.com v ∧ ∀ n, t.reg v n = s.reg v n
  bytes : ∀ a, t.byteAt a = s.byteAt a
  empty : t.empty = s.empty
  fpctl : (t.com u).fpctl = (s.com u).fpctl
  own : (t.com u).ctx = (s.com u).ctx ∧ (t.com u).lo = (s.com u).lo ∧ (t.com u).hi = (s.com u).hi ∧ (t.com u).prio = (s.com u).prio
  vales : ∀ v, (t.vale v).tvec = (s.vale v).tvec ∧ (t.vale v).svec = (s.vale v).svec ∧ (t.vale v).traps = (s.vale v).traps ∧
    (t.vale v).frames = (s.vale v).frames
  tables : t.ctxs = s.ctxs ∧ t.dies = s.dies ∧ t.funcs = s.funcs ∧ t.positions = s.positions ∧ t.accesses = s.accesses ∧ t.jobs = s.jobs
  waves : ∀ w, (t.wave w).t = (s.wave w).t ∧ (t.wave w).y = (s.wave w).y ∧ (t.wave w).exec = (s.wave w).exec
  lanes : ∀ w, u ≠ .wave w → (t.wave w).v = (s.wave w).v ∧ (t.wave w).m = (s.wave w).m ∧ (t.wave w).lq = (s.wave w).lq ∧
    (t.wave w).sq = (s.wave w).sq

/-- What an instruction of unit `u` that writes the registers `ds` of R56 leaves as it was: all that `Untouched` names, every other register of
the unit, its flags, lanes, masks and queues. -/
structure Kept (s t : State) (u : UnitId) (ds : List Nat) : Prop extends Untouched s t u where
  regs : ∀ n, n ∉ ds → t.reg u n = s.reg u n
  fpst : (t.com u).fpst = (s.com u).fpst
  files : ∀ w, (t.wave w).v = (s.wave w).v ∧ (t.wave w).m = (s.wave w).m ∧ (t.wave w).lq = (s.wave w).lq ∧ (t.wave w).sq = (s.wave w).sq

/-- The lane instructions that give one result for each lane, on a thread and on a wave. -/
def laneForms (f : AForm) (h : LA) : List (Instr × LA × LaneSrcs × LaneFn) :=
  intOps.map (fun e => (e.1 f, toLA e.2.1 f, e.2.2.1, ints (toLA e.2.1 f) e.2.2.2)) ++
  bitOps.map (fun e => (e.1 f, toLA e.2.1 f, e.2.2.1, fun a b _ _ l => (e.2.2.2 (a l) (b l), 0))) ++
  floatOps.map (fun e => (e.1 f, toLA e.2.1 f, e.2.2.1, floats (toLA e.2.1 f) (e.2.2.2 (toLA e.2.1 f)))) ++
  [(.ffma h, h, { c := true }, floats h (fpFma (fmtOf h.ty) h.rm.toNat h.sat)),
   (.dot2 f, toLA 0x1C f, { c := true }, fun a b c _ l => dot2Lane (toLA 0x1C f) (a l) (b l) (c l)),
   (.dot4 f, toLA 0x1D f, { c := true }, dots (toLA 0x1D f) 8), (.dot8 f, toLA 0x1E f, { c := true }, dots (toLA 0x1E f) 4),
   (.cvt h, h, { b := false }, fun a _ _ _ l => cvtLane h (a l)),
   (.keyx f, toLA 0x30 f, { b := false }, keys (toLA 0x30 f)),
   (.digit f, toLA 0x31 f, { c := (toLA 0x31 f).md.getLsbD 0 }, digits (toLA 0x31 f))]

/-- Those of a wave alone, which look at other lanes or masks. -/
def waveForms (s : State) (w : Nat) (f : AForm) (h : LA) : List (Instr × LA × LaneSrcs × LaneFn) :=
  [(.vsel h, h, {}, fun a b _ _ l => (if ((s.wave w).mask (h.c.toNat % 8)).getLsbD l then a l else b l, 0)),
   (.interp f, toLA 0x37 f, { a := false, b := false }, interpolates s w (toLA 0x37 f)),
   (.shfl f, toLA 0x1F f, {}, fun a b _ _ l => (a ((b l).toNat % 64), 0)),
   (.shflx f, toLA 0x20 f, {}, fun a b _ _ l => (a (Nat.xor l ((b l).toNat % 64)), 0)),
   (.scan f, toLA 0x22 f, { b := false }, scans (toLA 0x22 f)), (.cvtsc h, h, { b := false }, blocks h),
   (.rank f, toLA 0x33 f, { b := false }, ranks (toLA 0x33 f))]

/-- What the other A-class instructions of a wave write: v-registers, k-registers, masks; the MSEL of its lanes, or all 64 lanes of the v-registers. A
destination with KD that names a queue is none of them. -/
structure Written where
  v : List Nat := []
  k : List Nat := []
  m : List Nat := []
  msel : BitVec 3 := 0
  whole : Bool := false

/-- A uniform result, or one for each lane, at D (R171). -/
def writtenAt (g : LA) : Written := if g.kd then (if g.d.toNat < 0x40 then { k := [g.d.toNat] } else {}) else { v := [g.d.toNat], msel := g.msel }

/-- A list instruction writes all lanes of D, and a count to C where KC asks for it (R321). -/
def writtenList (g : LA) : Written := { v := [g.d.toNat], k := if g.kc then [g.c.toNat] else [], whole := true }

/-! ## Terms of the statements: a matrix step (R271, R274, R276, R277, R294 to R296) -/

/-- The row of B that stands for stored element `k` of row `l`: `k`, or under MMAS the one that the metadata picks (R296). -/
def stepRow (st : MatStep) (l k : Nat) : Nat :=
  if st.metadata = [] then k else 4 * (k / 2) + (st.metadata.getD l []).getD k 0

/-- The code of B at row `r` and column `j`, in the image of the quarter of the column, of the first or second slot (R274). -/
def stepB (b : Block) (st : MatStep) (r j : Nat) : Nat :=
  let w := tyWidth st.fmtB
  ((b.bslots.getD (4 * st.slots.getD (r / 32) 0 + j / 16) 0).extractLsb' (w * (16 * (r % 32) + j % 16)) w).toNat

/-- The scale of column `j` (R271, R277). -/
def stepScale (b : Block) (st : MatStep) (r j : Nat) : Nat :=
  if st.srcB = 0 then 0x7F
  else if st.srcB = 1 then st.xvalB.toNat
  else match b.bscale.find (4 * st.slots.getD (r / 32) 0 + j / 16) with
    | some x => (x.extractLsb' (8 * (j % 16)) 8).toNat
    | none => 0x7F

/-- The product P_k of R294, and whether the step is NaN for its sake. -/
def stepTerm (b : Block) (st : MatStep) (l j k : Nat) : Num × Bool :=
  let r := stepRow st l k
  let sa := (st.sa.getD l []).getD (if st.metadata = [] then 0 else k / 16) 0x7F
  let sb := stepScale b st r j
  let x := read (format st.fmtA.toNat).fmt ((st.rows.getD l []).getD k 0)
  let y := read (format st.fmtB.toNat).fmt (stepB b st r j)
  let p := times x y
  (p.1.times2 ((sa : Int) + sb - 254), x.isNan || y.isNan || decide (sa = 0xFF) || decide (sb = 0xFF) || p.2)

/-- A float-mode step on one element (R294): the exact sum of the 32 products and the element, rounded once to A96; an exact zero is +0. That a NaN
in the tile raises no flag is the model's choice (log entry 110). -/
def floatStep (b : Block) (st : MatStep) (l j : Nat) (old : BitVec 96) (r : Nat × FFlags) : Prop :=
  let ps := (List.range 32).map (stepTerm b st l j)
  let s := total 0 (ps.map Prod.fst)
  let t := read accumulator.fmt old.toNat
  let x := total 0 [t, s.1]
  if ps.any Prod.snd = true ∨ s.2 = true then r = (accumulator.nan, fNV)
  else if t.isNan = true then r = (accumulator.nan, 0)
  else if x.2 = true then r = (accumulator.nan, fNV)
  else if x.1.isZero = true then r = (0, 0)
  else rounds accumulator 0 false x.1 r

/-- The integer that a code of an integer TYPE stands for (R140). -/
def wholeOf (ty : BitVec 4) (c : Nat) : Int := if ty.toNat % 2 = 0 ∧ 2 ^ (tyWidth ty - 1) ≤ c then (c : Int) - 2 ^ tyWidth ty else c

/-- An integer-mode step on one element (R295): modulo 2^96. -/
def intStep (b : Block) (st : MatStep) (l j : Nat) (old : BitVec 96) : BitVec 96 :=
  BitVec.ofInt 96 (old.toInt + ((List.range 32).map (fun k =>
    wholeOf st.fmtA ((st.rows.getD l []).getD k 0) * wholeOf st.fmtB (stepB b st (stepRow st l k) j))).sum)

/-- The A-class instructions of a wave that write masks, several registers, or one result, with what they write. -/
def writers (f : AForm) (h : LA) : List (Instr × Written) :=
  let mask (n : BitVec 8) : Written := { m := [n.toNat % 8] }
  let m (a : Nat) : Written := mask (toLA a f).d
  let run (a n : Nat) : Written := { v := (List.range n).map ((toLA a f).d.toNat + ·), msel := (toLA a f).msel }
  [(.vcmp h, mask h.d), (.fcmp h, mask h.d), (.mand f, m 0x25), (.mor f, m 0x25), (.mxor f, m 0x25), (.mnot f, m 0x25),
   (.mpopc f, { k := [(toLA 0x25 f).d.toNat] }), (.mfind f, { k := [(toLA 0x25 f).d.toNat] }), (.vmovk f, run 0x12 2), (.phlx f, run 0x26 4),
   (.bcst f, writtenAt (toLA 0x21 f)), (.redu f, writtenAt (toLA 0x23 f)), (.vote f, writtenAt (toLA 0x24 f)),
   (.matchEq f, if (toLA 0x32 f).md.getLsbD 0 then m 0x32 else run 0x32 2), (.pack h, writtenAt h), (.unpack h, writtenAt h),
   (.cmpx f, writtenList (toLA 0x34 f)), (.expd f, writtenList (toLA 0x34 f)), (.bmrg f, writtenList (toLA 0x35 f)),
   (.isect f, writtenList (toLA 0x36 f)), (.nopA, {})]

/-- What an access does to memory at the place where it is performed: it writes its own bytes, or none (R210 to R217). -/
def writesPlace : AccOp → Bool
  | .store | .storeFull | .atom .. | .hist _ => true
  | _ => false

/-- The new value of an atomic of `w` bits (R216, R217): `old` in memory, the operand `a` and, for CAS, the new value `n`. -/
def atomValue (op : Nat) (sgn : Bool) {w : Nat} (old a n r : BitVec w) : Prop :=
  let lt (x y : BitVec w) : Bool := if sgn then decide (x.toInt < y.toInt) else decide (x.toNat < y.toNat)
  match op with
  | 0 => r = old + a
  | 1 => r = if lt a old then a else old
  | 2 => r = if lt old a then a else old
  | 3 => r = old &&& a
  | 4 => r = old ||| a
  | 5 => r = old ^^^ a
  | 6 => r = a
  | 7 => r = if old = a then n else old
  | 8 => r = if a.toNat ≤ old.toNat then 0 else old + 1
  | _ => let x := total 0 [read (format 0).fmt old.toNat, read (format 0).fmt a.toNat]
         ∃ fl, answers (format 0) 0 false x.1 x.2 (r.toNat, fl)

/-- The lane of an access that has been performed, with the value that its answer carries. -/
def performed (t : State) (a : Access) (l : Nat) (v : W64) : Prop :=
  ∀ b x, t.access a.id = some b → b.lane l = some x → x.st = .perf ∧ x.data = v

/-- An instruction's words are read back as the instruction, with no field that must be 0 set (R43 to R49). -/
def roundTrips (i : Instr) : Prop :=
  ∀ (ridge : Bool) (e : Enc), i.wf ridge = true → encode i = some e → decodeEnc ridge e = some (i, false)

/-- A unit's common state, but for when the limits of its waits end: those count in ticks, and are put off while a partition does not run (R65, R388,
R399). -/
def unlimited (c : Common) : Common := { c with until_ := none, deadlock := none }

/-- A state without its clocks, what counts by them, the model's own order of moves, the answers to the host, errors that arise and links that change from
outside; positions are compared on their own. -/
def frozen (s : State) : State :=
  { s with
    time := 0, acount := 0, fcount := 0, answers := [], agenda := [], tried := [], bad := [], soft := [], cacheErr := []
    adentoth := { s.adentoth with hostLinks := 0 }
    threads := s.threads.map (fun e => (e.1, { e.2 with c := unlimited e.2.c }))
    waves := s.waves.map (fun e =>
      (e.1, { e.2 with c := unlimited e.2.c, stack := e.2.stack.map (fun d => { d with since := none }) }))
    vales := s.vales.map (fun e => (e.1, { e.2 with bins := e.2.bins.map (fun b => (b.1, { b.2 with oldest := 0 })) }))
    positions := [] }

/-- The package is halted, and no cold reset is ordered (R478). -/
def halted (s : State) : Prop := s.adentoth.st = 3 ∧ Move.event .coldReset ∉ s.agenda

/-- The bundle at the PC of a unit can be read at `place`, and passes the checks of R49 as `b`: the PC is aligned, names a place that may be
fetched, stands under no debug match, and holds the words `w0` and `w1`. -/
def fetches (s : State) (u : UnitId) (place : Nat) (w0 w1 : W32) (b : Bundle) : Prop :=
  let pc := s.pcOf u
  let c := s.opCtx u .fetch
  s.addressMatch u = false ∧ pc &&& 7 = 0 ∧ s.badAddr u pc 2 = false ∧
  (∃ cls grain, xlat s (s.opSpace u .fetch) c (s.ctx c).gen (s.unitPos u) 2 pc.toNat = .ok place cls grain ∧
    s.badRead place 8 = false ∧ BitVec.ofNat 32 (s.rd place 4) = w0 ∧ BitVec.ofNat 32 (s.rd (place + 4) 4) = w1) ∧
  checkBundle (s.decodeCtx u) w0 w1 = .ok b

/-- The bundle is latched: its translation is used and its line stands in the home's cache, a single-bit error is corrected (R426, R466); the
first bundle of a grid notes the time (R42, R380). -/
def latched (s : State) (u : UnitId) (place : Nat) (w0 w1 : W32) (b : Bundle) : State :=
  let c := s.opCtx u .fetch
  let t := (s.useEntry (s.opSpace u .fetch) c (s.pcOf u).toNat).correct place 8 (s.ctxFunc c)
  ((t.homeUse (s.opSpace u .fetch) c (s.unitPos u) (s.pcOf u).toNat place).gridBegins u).modCom u (fun c => { c with bundle := some b, words := (w0, w1) })

end Spec

/-- R56: register 0 of a thread and of a wave reads as 0 and discards writes; every other register reads as it was written last, and a
write leaves the others. -/
def Obligations.RegisterFiles : Prop :=
  ∀ (s : State) (u : UnitId) (d n : Reg6) (x : W64), (∀ t, u = .thread t → d.toNat < 16 ∧ n.toNat < 16) →
    s.reg u 0 = 0 ∧ (s.setReg u 0 x).reg u n.toNat = s.reg u n.toNat ∧
    (s.setReg u d.toNat x).reg u n.toNat = (if n = d ∧ d ≠ 0 then x else s.reg u n.toNat)

/-- R84 to R91, R93: an operation of CMAJ 0x01 or 0x02 that is no division, on two registers, at either width, writes D as its rule
gives and completes. Where D is register 0 nothing is written (R56). -/
def Obligations.ScalarResults : Prop :=
  ∀ (s : State) (u : UnitId) (op : AluOp) (d a b : Reg6) (w : Bool), Spec.plain op = true → Alone s u →
    exec (aluInstr op d a b w) s = .next (s.afterC u (aluInstr op d a b w)
      ((s.begun u).setReg u d.toNat (Spec.aluD op w (s.reg u a.toNat) (s.reg u b.toNat))))

/-- R94: the four divisions write D, set SSTAT.DZ for a divisor of 0 and SSTAT.OV for DIV's overflow, never trap, and complete. -/
def Obligations.ScalarDivisions : Prop :=
  ∀ (s : State) (u : UnitId) (op : AluOp) (d a b : Reg6) (w : Bool), Spec.divides op = true → Alone s u →
    exec (aluInstr op d a b w) s = .next (s.afterC u (aluInstr op d a b w)
      (((s.begun u).setReg u d.toNat (Spec.aluD op w (s.reg u a.toNat) (s.reg u b.toNat))).orSstat u
        (Spec.setsDz op w (s.reg u b.toNat)) (Spec.setsOv op w (s.reg u a.toNat) (s.reg u b.toNat))))

/-- R86, R92: the lone forms of CMAJ 0x01 and 0x02, whose extension word, sign-extended, stands for B; and SEL, in both forms, whose
old D chooses. -/
def Spec.ScalarImmediates : Prop :=
  ∀ (s : State) (u : UnitId) (op : AluOp) (d a b : Reg6) (w : Bool) (imm : W32), Alone s u →
    (Spec.plain op = true → exec (.aluImmediateLone op d a w imm) s = .next (s.afterC u (.aluImmediateLone op d a w imm)
      ((s.begun u).setReg u d.toNat (Spec.aluD op w (s.reg u a.toNat) (imm.signExtend 64))))) ∧
    (Spec.divides op = true → exec (.aluImmediateLone op d a w imm) s = .next (s.afterC u (.aluImmediateLone op d a w imm)
      (((s.begun u).setReg u d.toNat (Spec.aluD op w (s.reg u a.toNat) (imm.signExtend 64))).orSstat u
        (Spec.setsDz op w (imm.signExtend 64)) (Spec.setsOv op w (s.reg u a.toNat) (imm.signExtend 64))))) ∧
    exec (.aluImmediateLone .sel d a w imm) s = .next (s.afterC u (.aluImmediateLone .sel d a w imm)
      ((s.begun u).setReg u d.toNat (if s.reg u d.toNat = 0 then imm.signExtend 64 else s.reg u a.toNat))) ∧
    exec (.sel d a b) s = .next (s.afterC u (.sel d a b)
      ((s.begun u).setReg u d.toNat (if s.reg u d.toNat = 0 then s.reg u b.toNat else s.reg u a.toNat)))

/-- R96: the unary bit instructions count, reverse or swap the bits of A at either width and complete. -/
def Spec.ScalarUnary : Prop :=
  ∀ (s : State) (u : UnitId) (d a : Reg6) (w : Bool) (i : Instr) (x : W64),
    (i = .clz d a w ∨ i = .ctz d a w ∨ i = .popc d a w ∨ i = .brev d a w ∨ i = .bswp d a w) →
    Spec.unaryD i w (s.reg u a.toNat) = some x → Alone s u →
    exec i s = .next (s.afterC u i ((s.begun u).setReg u d.toNat x))

/-- R87, R97, R98: ADDI, LI, LIH, BEXT and BINS write D as given and complete, in each of their forms. -/
def Spec.ScalarConstants : Prop :=
  ∀ (s : State) (u : UnitId) (d a : Reg6) (imm13 : BitVec 13) (imm19 : BitVec 19) (imm : W32) (sx : Bool) (lenm1 pos : BitVec 6),
    Alone s u →
    let writes (i : Instr) (x : W64) : Prop := exec i s = .next (s.afterC u i ((s.begun u).setReg u d.toNat x))
    let low : W32 := (s.reg u d.toNat).extractLsb' 0 32
    writes (.addi d a imm13) (s.reg u a.toNat + imm13.signExtend 64) ∧
    writes (.addiLone d a imm) (s.reg u a.toNat + imm.signExtend 64) ∧
    writes (.li d imm19) (imm19.signExtend 64) ∧
    writes (.liLone d imm) (imm.signExtend 64) ∧
    writes (.lih d imm19) ((imm19.signExtend 32 : W32) ++ low) ∧
    writes (.lihLone d imm) (imm ++ low) ∧
    writes (.bext d a sx lenm1 pos) (Spec.bext (s.reg u a.toNat) sx lenm1 pos) ∧
    writes (.bins d a lenm1 pos) (Spec.bins (s.reg u d.toNat) (s.reg u a.toNat) lenm1 pos)

/-- Lone scalar forms, SEL, bit counts, constants and bit fields complete with their result: the statements above together. -/
def Obligations.ScalarForms : Prop := Spec.ScalarImmediates ∧ Spec.ScalarUnary ∧ Spec.ScalarConstants

/-- R102, R103, R107: NOP does nothing; B, CALL, a taken BC, JMP and RET continue at their target; CALL and JMP save the address of the
next bundle; a BC whose condition fails goes on. The targets are those that R103 accepts. -/
def Spec.Transfers : Prop :=
  ∀ (s : State) (u : UnitId), Alone s u → Spec.onePath s u →
    (∀ lone, exec (.nopC lone) s = .next (s.afterC u (.nopC lone) (s.begun u))) ∧
    (∀ off : BitVec 25, Spec.reachable (Spec.relative s u (off.signExtend 64)) →
      exec (.b off) s = .next (s.afterGo u (.b off) (Spec.leaveRepeat s u) (Spec.relative s u (off.signExtend 64)))) ∧
    (∀ off : BitVec 25, (s.com u).rpt.act = false → Spec.reachable (Spec.relative s u (off.signExtend 64)) →
      exec (.call off) s = .next (s.afterGo u (.call off) ((s.begun u).setReg u (linkNum u) (s.pcOf u + 8))
        (Spec.relative s u (off.signExtend 64)))) ∧
    (∀ (c : Cond) (a b : Reg6) (off : BitVec 10), Spec.reachable (Spec.relative s u (off.signExtend 64)) →
      Spec.holds c (s.reg u a.toNat) (s.reg u b.toNat) →
      exec (.bc c a b off) s = .next (s.afterGo u (.bc c a b off) (Spec.leaveRepeat s u) (Spec.relative s u (off.signExtend 64)))) ∧
    (∀ (c : Cond) (a b : Reg6) (off : BitVec 10), ¬ Spec.holds c (s.reg u a.toNat) (s.reg u b.toNat) →
      exec (.bc c a b off) s = .next (s.afterC u (.bc c a b off) (s.begun u))) ∧
    (∀ (c : Cond) (a b : Reg6) (off : W32), Spec.reachable (Spec.relative s u (off.signExtend 64)) →
      Spec.holds c (s.reg u a.toNat) (s.reg u b.toNat) →
      exec (.bcLone c a b off) s =
        .next (s.afterGo u (.bcLone c a b off) (Spec.leaveRepeat s u) (Spec.relative s u (off.signExtend 64)))) ∧
    (∀ (c : Cond) (a b : Reg6) (off : W32), ¬ Spec.holds c (s.reg u a.toNat) (s.reg u b.toNat) →
      exec (.bcLone c a b off) s = .next (s.afterC u (.bcLone c a b off) (s.begun u))) ∧
    (∀ d a : Reg6, Spec.reachable (s.reg u a.toNat) → s.reg u a.toNat &&& 7 = 0 →
      exec (.jmp d a) s = .next (s.afterGo u (.jmp d a) ((Spec.leaveRepeat s u).setReg u d.toNat (s.pcOf u + 8)) (s.reg u a.toNat))) ∧
    (∀ a : Reg6, Spec.reachable (s.reg u a.toNat) → s.reg u a.toNat &&& 7 = 0 →
      exec (.ret a) s = .next (s.afterGo u (.ret a) (Spec.leaveRepeat s u) (s.reg u a.toNat)))

/-- R106, R107: RPT arms the repeat buffer, or passes over the body for a count of 0; RPTX leaves the body, and does nothing outside. -/
def Spec.Repeats : Prop :=
  ∀ (s : State) (u : UnitId) (lenm1 : Reg6), Alone s u →
    let armed (n : W32) : State := (s.begun u).modCom u (fun c => { c with rpt := { act := true, lenm1 := lenm1, pos := 0, rc := n } })
    let past : W64 := s.pcOf u + (lenm1.zeroExtend 64 + 2) * 8
    ((s.com u).rpt.act = false → ∀ a : Reg6,
      ((s.reg u a.toNat).extractLsb' 0 32 ≠ (0 : W32) →
        exec (.rpt a lenm1) s = .next (s.afterC u (.rpt a lenm1) (armed ((s.reg u a.toNat).extractLsb' 0 32)))) ∧
      ((s.reg u a.toNat).extractLsb' 0 32 = (0 : W32) →
        exec (.rpt a lenm1) s = .next (s.afterGo u (.rpt a lenm1) (s.begun u) past))) ∧
    ((s.com u).rpt.act = false → ∀ n : W32,
      (n ≠ 0 → exec (.rptLone lenm1 n) s = .next (s.afterC u (.rptLone lenm1 n) (armed n))) ∧
      (n = 0 → exec (.rptLone lenm1 n) s = .next (s.afterGo u (.rptLone lenm1 n) (s.begun u) past))) ∧
    ((s.com u).rpt.act = false → exec .rptx s = .next (s.afterC u .rptx (s.begun u))) ∧
    ((s.com u).rpt.act = true → exec .rptx s = .next (s.afterGo u .rptx
      ((s.begun u).modCom u (fun c => { c with rpt := { c.rpt with act := false } }))
      (s.pcOf u - (s.com u).rpt.pos.zeroExtend 64 * 8 + ((s.com u).rpt.lenm1.zeroExtend 64 + 1) * 8)))

/-- Branches, calls, jumps and repeats continue where their rules say: the statements above together. -/
def Obligations.TransfersAndRepeats : Prop := Spec.Transfers ∧ Spec.Repeats

/-- R111 to R113, R138: EXIT of a thread ends it after the bundle with its code; BKPT traps BREAKPOINT after the bundle with its tag in
DETAIL; YIELD sets the continuation and, after the bundle, parks the unit while the job named in A is outstanding. -/
def Spec.Suspensions : Prop :=
  ∀ (s : State) (u : UnitId), Alone s u →
    let due (x : After) : State := (s.begun u).modCom u (fun c => { c with after := some x })
    (∀ t, u = .thread t → exec .exit s = .next (s.afterC u .exit (due (.exit 0)))) ∧
    (∀ t code, u = .thread t → exec (.exitLone code) s = .next (s.afterC u (.exitLone code) (due (.exit code)))) ∧
    exec .bkpt s = .next (s.afterC u .bkpt (due (.trap { cause := .breakpoint, detail := 0 }))) ∧
    (∀ tag : W32, exec (.bkptLone tag) s =
      .next (s.afterC u (.bkptLone tag) (due (.trap { cause := .breakpoint, detail := tag.zeroExtend 64 })))) ∧
    ((s.com u).rpt.act = false → ∀ a : Reg6,
      (Spec.reachable (s.pcOf u + 8) → exec (.yield a) s = .next (s.afterGo u (.yield a)
        (due (.yield (s.jobEngine u) ((s.reg u a.toNat).toNat % 2 ^ 16))) (s.pcOf u + 8))) ∧
      (∀ off : W32, Spec.reachable (Spec.relative s u (off.signExtend 64)) →
        exec (.yieldLone a off) s = .next (s.afterGo u (.yieldLone a off)
          (due (.yield (s.jobEngine u) ((s.reg u a.toNat).toNat % 2 ^ 16))) (Spec.relative s u (off.signExtend 64)))))

/-- R111, R132: EXIT by lanes of a wave that would leave no tile behind takes its lanes out of the wave: another path of the wave runs,
or the path's end parks the wave, or, with its last lanes gone, the wave ends after its bundle. That RPTS.ACT becomes 0 where a path ends is the
model's choice (log entry 30). -/
def Spec.WaveExit : Prop :=
  ∀ (s : State) (w : Nat), Alone s (.wave w) → (s.wave w).leak = none →
    let u : UnitId := .wave w
    let s0 := s.begun u
    let gone (code : W32) : State :=
      ((s0.gridEnd (s.wave w).c.grid code false).endLanes w
        ((s0.gridEnd (s.wave w).c.grid code false).wave w).exec code false).dropExec w
    let quiet (x : Wave) : Wave := { x with c := { x.c with rpt := { x.c.rpt with act := false } } }
    let leaves (i : Instr) (code : W32) : Prop :=
      let x := quiet ((gone code).wave w)
      (x.over = true → exec i s = .next (s.afterC u i
        (((gone code).setWave w x).modCom u (fun c => { c with after := some .endWave })))) ∧
      (x.over = false → (x.select 0).2 = true →
        exec i s = .next (s.afterGo u i ((gone code).setWave w (x.select 0).1) (x.select 0).1.apc)) ∧
      (x.over = false → (x.select 0).2 = false →
        exec i s = .next (s.afterC u i (((gone code).setWave w (x.select 0).1).park u .joinv)))
    leaves .exit 0 ∧ (∀ code, leaves (.exitLone code) code)

/-- EXIT, BKPT and YIELD take effect after the bundle; EXIT takes lanes out of a wave: the statements above together. -/
def Obligations.EndsAndSuspensions : Prop := Spec.Suspensions ∧ Spec.WaveExit

/-- R127, R128: on one path, BRV splits EXEC by a mask, ELSEV turns to the pending lanes, JOINV and WAITR end the topmost entry when no
lane is pending or missing, and WAITR gives 0. -/
def Obligations.Divergence : Prop :=
  ∀ (s : State) (w : Nat), Alone s (.wave w) → (s.com (.wave w)).rpt.act = false →
    let u : UnitId := .wave w
    let x : Wave := (s.begun u).wave w
    let yes (m : BitVec 3) : Mask := x.exec &&& x.mask m.toNat
    let no (m : BitVec 3) : Mask := x.exec &&& ~~~(x.mask m.toNat)
    let pushed (m : BitVec 3) (tgt : W64) : Wave :=
      { x with stack := { outer := x.exec, pend := no m, ppc := tgt, jpc := 0 } :: x.stack }
    let good (t : W64) : Prop := Spec.reachable t ∧ t &&& 7 = 0
    (x.stack.length < 32 → ∀ (m : BitVec 3) (b : Reg6), yes m ≠ 0 → good (s.reg u b.toNat) →
      exec (.brv m b) s = .next (s.afterC u (.brv m b)
        ((s.begun u).setWave w ((pushed m (s.reg u b.toNat)).runAt (yes m) x.apc)))) ∧
    (x.stack.length < 32 → ∀ (m : BitVec 3) (off : W32), yes m ≠ 0 → good (Spec.relative s u (off.signExtend 64)) →
      exec (.brvLone m off) s = .next (s.afterC u (.brvLone m off)
        ((s.begun u).setWave w ((pushed m (Spec.relative s u (off.signExtend 64))).runAt (yes m) x.apc)))) ∧
    (∀ top rest, x.stack = top :: rest → top.pend ≠ 0 →
      let turned (tgt : W64) : State :=
        (s.begun u).setWave w (({ x with stack := { top with jpc := tgt, pend := 0 } :: rest }).runAt top.pend top.ppc)
      (∀ b : Reg6, good (s.reg u b.toNat) → exec (.elsev b) s = .next (s.afterGo u (.elsev b) (turned (s.reg u b.toNat)) top.ppc)) ∧
      (∀ off : W32, good (Spec.relative s u (off.signExtend 64)) → exec (.elsevLone off) s =
        .next (s.afterGo u (.elsevLone off) (turned (Spec.relative s u (off.signExtend 64))) top.ppc))) ∧
    (∀ top rest, x.stack = top :: rest → top.pend = 0 → x.missing { top with jpc := x.apc } (rest.length + 1) = 0 →
      let joined : Wave := ({ x with stack := rest }).runAt (top.outer &&& x.live) x.apc
      (∀ lone, exec (.joinv lone) s = .next (s.afterC u (.joinv lone) ((s.begun u).setWave w joined))) ∧
      (∀ d a : Reg6, exec (.waitr d a) s = .next (s.afterC u (.waitr d a) ((s.begun u).setWave w (joined.setK d.toNat 0)))) ∧
      (∀ (d : Reg6) (n : W32), exec (.waitrLone d n) s =
        .next (s.afterC u (.waitrLone d n) ((s.begun u).setWave w (joined.setK d.toNat 0)))))

/-- R205, R208, R209: LD and LDS whose lanes pass the checks send one load of their lanes, of the width SZ, and complete; with no lane
active nothing is sent. -/
def Spec.PlainLoads : Prop :=
  ∀ (s : State) (u : UnitId) (m : MemOp) (e : MemExt), Alone s u →
    let s0 := s.begun u
    let plain (i : Instr) (x : Option MemExt) (spad : Bool) : Prop :=
      Spec.passes s0 u (Spec.space s0 u spad) (Spec.form u m x) 0 →
      exec i s = .next (s.afterC u i (s0.sendRel
        (Spec.loadOf s0 u m x (Spec.space s0 u spad) (.load ((Spec.modOf x).getLsbD 0)) (memDest u (Spec.form u m x)) false)))
    plain (.ld m) none false ∧ plain (.lds m) none true ∧
    plain (.memoryLoneForm .ld m e) (some e) false ∧ plain (.memoryLoneForm .lds m e) (some e) true

/-- R63, R209: LDQ of a wave with room in its lq queue reserves its entries at issue, sends its load and completes. -/
def Spec.QueueLoads : Prop :=
  ∀ (s : State) (w : Nat) (m : MemOp) (e : MemExt), Alone s (.wave w) →
    let u : UnitId := .wave w
    let s0 := s.begun u
    let queue (i : Instr) (x : Option MemExt) : Prop :=
      Spec.passes s0 u (s0.spaceOf u) (Spec.form u m x) 0 →
      (((s0.wave w).lq.getD (m.d.toNat - 0x40) []).length + (if m.sz = 3 then 2 else 1) ≤ 8) →
      exec i s = .next (s.afterC u i ((Spec.reserved s0 w m x).sendRel
        (Spec.loadOf (Spec.reserved s0 w m x) u m x (s0.spaceOf u) (.load ((Spec.modOf x).getLsbD 0))
          (.queue (m.d.toNat - 0x40) (m.sz == 3)) false)))
    queue (.ldq m) none ∧ queue (.memoryLoneForm .ldq m e) (some e)

/-- Loads whose lanes pass the checks are sent and complete: the statements above together. -/
def Obligations.LoadsIssue : Prop := Spec.PlainLoads ∧ Spec.QueueLoads

/-- R205, R210: ST and STS send one store of their lanes with the data of D, whose queue entries they take, and complete. -/
def Obligations.StoresIssue : Prop :=
  ∀ (s : State) (u : UnitId) (m : MemOp) (e : MemExt) (d : Nat → W64), Alone s u →
    let s0 := s.begun u
    let plain (i : Instr) (x : Option MemExt) (spad : Bool) : Prop :=
      Spec.passes s0 u (Spec.space s0 u spad) (Spec.form u m x) 1 → s0.storeData u (Spec.form u m x) = some d →
      let a := Spec.storeOf s0 u m x (Spec.space s0 u spad) .store false d
      let s1 := (s0.popStore u (Spec.form u m x)).noteStores u a.lanes
      exec i s = .next (s.afterC u i (s1.sendRel
        (s1.memAccess u (Spec.space s0 u spad) .store (szBytes m.sz) .none false false a.lanes)))
    plain (.st m) none false ∧ plain (.sts m) none true ∧
    plain (.memoryLoneForm .st m e) (some e) false ∧ plain (.memoryLoneForm .sts m e) (some e) true

/-- R211, R213, R214: LDA and LDSYNC complete, with acquire semantics, once their lanes are answered; STL and STF, and take their queue
entries. LDSYNC's words are full. -/
def Obligations.HoldingAccesses : Prop :=
  ∀ (s : State) (u : UnitId) (m : MemOp) (e : MemExt) (d : Nat → W64), Alone s u → (s.com u).redo = none →
    let s0 := s.begun u
    let load (i : Instr) (x : Option MemExt) (sp : Space) (op : AccOp) : Prop :=
      Spec.passes s0 u sp (Spec.form u m x) 0 →
      let a := Spec.loadOf s0 u m x sp op (memDest u (Spec.form u m x)) true
      Spec.answersAtOnce s0 a → exec i s = .next (s.afterC u i ((Spec.answered s0 a).l1Acquire u))
    let store (i : Instr) (x : Option MemExt) (sp : Space) (op : AccOp) : Prop :=
      Spec.passes s0 u sp (Spec.form u m x) 1 → s0.storeData u (Spec.form u m x) = some d →
      let ls := (Spec.storeOf s0 u m x sp op true d).lanes
      let a := (s0.noteStores u ls).memAccess u sp op (szBytes m.sz) .none true false ls
      Spec.answersAtOnce (s0.noteStores u ls) a →
      exec i s = .next (s.afterC u i ((Spec.answered (s0.noteStores u ls) a).popStore u (Spec.form u m x)))
    let bit (k : Nat) : Bool := e.md.getLsbD k
    load (.lda m) none (s0.spaceOf u) (.load false) ∧
    load (.memoryLoneForm .lda m e) (some e) (s0.spaceOf u) (.load (bit 0)) ∧
    (s0.inTask u = false → load (.ldsync m) none (s0.spaceOf u) (.sync false false)) ∧
    (s0.inTask u = false →
      load (.memoryLoneForm .ldsync m e) (some e) (Spec.space s0 u (bit 1)) (.sync (bit 0) (bit 2))) ∧
    store (.stl m) none (s0.spaceOf u) .store ∧
    store (.memoryLoneForm .stl m e) (some e) (s0.spaceOf u) .store ∧
    store (.stf m) none (s0.spaceOf u) .storeFull ∧
    store (.memoryLoneForm .stf m e) (some e) (Spec.space s0 u (bit 1)) .storeFull

/-- R217, R218: a posted ATOM completes when its lanes are sent; any other completes when every lane is answered, with acquire
semantics where ORD says so. -/
def Spec.Atomics : Prop :=
  ∀ (s : State) (u : UnitId) (m : MemOp) (e : MemExt), Alone s u → (s.com u).redo = none →
    let s0 := s.begun u
    let ord := bitsOf e.md 5 4
    let nr := e.md.getLsbD 7
    let ls := Spec.atomLanes s0 u m e
    let a := Spec.atomOf s0 u m e
    Spec.passes s0 u (s0.spaceOf u) (Spec.formX u m (some e)) 3 →
    (nr = true → ord = 0 → exec (.atom m e) s = .next (s.afterC u (.atom m e) ((s0.noteStores u ls).sendRel (a false)))) ∧
    (¬ (nr = true ∧ ord = 0) → Spec.answersAtOnce (s0.noteStores u ls) (a true) →
      let t := Spec.answered (s0.noteStores u ls) (a true)
      exec (.atom m e) s = .next (s.afterC u (.atom m e) (if ord % 2 = 1 then t.l1Acquire u else t)))

/-- R315, R316: HIST sends one read-modify-write for each address that its lanes name, at the lowest of its lanes and with the sum of their
increments; the other lanes stand with it. HIST completes. -/
def Spec.Histograms : Prop :=
  ∀ (s : State) (u : UnitId) (m : MemOp) (e : Option MemExt), Alone s u →
    let s0 := s.begun u
    let a := Spec.histOf s0 u m e
    let s1 := s0.noteStores u a.lanes
    Spec.passes s0 u a.space (Spec.form u m e) 3 →
    exec (.hist m e) s = .next (s.afterC u (.hist m e) (s1.sendRel
      (s1.memAccess u a.space a.op a.bytes .none false false a.lanes)))

/-- ATOM and HIST send their read-modify-writes and complete: the statements above together. -/
def Obligations.AtomicsAndHistograms : Prop := Spec.Atomics ∧ Spec.Histograms

/-- R220, R232, R233: PF never delays its issuer; CWB and CINV keep or drop the engine's copies of their extents and do nothing on a
spur or Summit core; FENCE, with acquire semantics, and FENCE.ST complete when nothing of the unit is outstanding. -/
def Spec.CacheOperations : Prop :=
  ∀ (s : State) (u : UnitId) (m : MemOp) (e : Option MemExt), Alone s u →
    let s0 := s.begun u
    exec (.pf m e) s = .next (s.afterC u (.pf m e) (s0.prefetch u m e)) ∧
    (∀ t, u = .thread t → exec (.cwb m e) s = .next (s.afterC u (.cwb m e) s0)) ∧
    (∀ t, u = .thread t → exec (.cinv m e) s = .next (s.afterC u (.cinv m e) s0)) ∧
    (∀ w, u = .wave w →
      (m.sz ≠ 3 → ∀ x ∈ Spec.extentLanes s0 u m e, s0.laneCheck u (s0.spaceOf u) 1 x.2 = none) →
      exec (.cwb m e) s = .next (s.afterC u (.cwb m e) (s0.modEngine (s0.wave w).eng (fun k =>
        { k with l1 := k.l1.map (fun x => if Spec.inExtent s0 u m e x && x.st == .m then { x with st := .s } else x) }))) ∧
      exec (.cinv m e) s = .next (s.afterC u (.cinv m e) (s0.modEngine (s0.wave w).eng (fun k =>
        { k with l1 := k.l1.filter (fun x => !Spec.inExtent s0 u m e x) })))) ∧
    exec .fence s = .next (s.afterC u .fence (s0.l1Acquire u)) ∧
    exec .fenceSt s = .next (s.afterC u .fenceSt s0)

/-- Unit `u` executes and waits for nothing, as in `Alone`, but accesses of its own may be outstanding, and fences open. -/
structure Spec.GoesOn (s : State) (u : UnitId) : Prop where
  current : s.cur = some u
  running : s.ready u = true
  waits : (s.com u).wait = .none
  clean : (s.com u).frec = []
  due : (s.com u).after = none
  steps : (s.com u).stepping = false
  caughtUp : ∀ w, u = .wave w → (s.wave w).lead = []

/-- R233: the fences, with accesses outstanding, which they bring forward: FENCE names every access of the unit, FENCE.ST those that write. Where all that
it names are then performed in every lane, the fence completes, FENCE with acquire semantics. Else a core's slot is not ready; a wave's access stream
goes on, and the fence stays open with the accesses that it names. -/
def Spec.FencesWait : Prop :=
  ∀ (s : State) (u : UnitId), Spec.GoesOn s u → (s.com u).fences = [] →
    ∀ p ∈ ([(.fence, true, fun _ => true), (.fenceSt, false, fun a => a.op.isWrite)] : List (Instr × Bool × (Access → Bool))),
      let r := (s.begun u).settle u p.2.2
      let ended : Prop := ∀ a ∈ r.2.accessesOf u, p.2.2 a = true → a.complete = true
      (ended → exec p.1 s = .next (s.afterC u p.1 (if p.2.1 then r.2.l1Acquire u else r.2))) ∧
      (¬ ended → ∀ t, u = .thread t → exec p.1 s = .next (r.2.stalled u)) ∧
      (¬ ended → ∀ w, u = .wave w → exec p.1 s = .next (s.afterC u p.1 (r.2.modCom u (fun c => { c with
        fences := c.fences ++ [⟨((r.2.accessesOf u).filter (fun a => p.2.2 a && !a.complete)).map Access.id, p.2.1⟩] }))))

/-- R233: an open fence of a wave, while an access that it names is not performed, holds each later memory instruction, a FENCE.ST only
those that write: a load goes on. It ends when all that it names are performed, with acquire semantics where it is a FENCE. The instructions
here name no register that an access in flight will write. -/
def Spec.FencesHold : Prop :=
  ∀ (s : State) (w : Nat) (f : Fence) (m : MemOp) (e : MemExt) (x : Option MemExt),
    let u : UnitId := .wave w
    let s0 := s.begun u
    let ended : Prop := ∀ a ∈ s.accessesOf u, a.id ∈ f.ids → a.complete = true
    let free (i : Instr) : Prop := ∀ a ∈ s.accessesOf u, a.complete = true ∨ regsMeet a.regs ((s.useOf u i).reads ++ (s.useOf u i).writes) = false
    let loads : List Instr := [.ld m, .lds m, .ldq m, .lda m, .ldsync m, .pf m x]
    let writes : List Instr := [.st m, .sts m, .stl m, .stf m, .atom m e, .hist m x, .cwb m x, .cinv m x]
    Spec.GoesOn s u → (s.com u).fences = [f] →
    (ended → s.endFences u =
      (if f.full then (s.modCom u (fun c => { c with fences := [] })).l1Acquire u else s.modCom u (fun c => { c with fences := [] })) ∧
      ∀ i ∈ loads ++ writes, exec i s = exec i (s.endFences u)) ∧
    (¬ ended →
      (∀ i ∈ writes, free i → exec i s = .next (s.stalled u)) ∧
      (f.full = true → ∀ i ∈ loads, free i → exec i s = .next (s.stalled u)) ∧
      (f.full = false → free (.ld m) → s0.memFull u = false → Spec.passes s0 u (s0.spaceOf u) (Spec.form u m none) 0 →
        exec (.ld m) s = .next (s.afterC u (.ld m) (s0.sendRel
          (Spec.loadOf s0 u m none (s0.spaceOf u) (.load ((Spec.modOf none).getLsbD 0)) (memDest u (Spec.form u m none)) false)))))

/-- Cache maintenance and fences: the statements above together. -/
def Obligations.CachesAndFences : Prop := Spec.CacheOperations ∧ Spec.FencesWait ∧ Spec.FencesHold

/-- R246, R248, R249, R251: CPYJ in both forms submits the job of its rows and writes its handle; CPYQ reads a job's status; CPYW of a
job that has ended writes its status with acquire semantics. -/
def Spec.CopySubmissions : Prop :=
  ∀ (s : State) (u : UnitId) (d a b : Reg6) (words : BitVec 28), Alone s u →
    let s0 := s.begun u
    let status := s0.jobStatus (s0.jobEngine u) ((s.reg u a.toNat).toNat % 2 ^ 16) u
    (∀ ws t, s.reg u a.toNat &&& 7 = 0 → s0.record u (s.reg u a.toNat) 4 = .ok (ws, t) → t.accessesOf u = [] →
      (Spec.copyRec ws).check = none → Spec.jobRoom t u none .copy (Spec.copyRec ws).moves →
      exec (.cpyj d a) s = .next (s.afterC u (.cpyj d a) (Spec.submitted t u d.toNat none .copy (Spec.copyRec ws).moves))) ∧
    (let c : CopyRec :=
        { src := s.reg u b.toNat, dst := s.reg u a.toNat, rowlen := 8 * words.toNat, rows := 1, sstride := 0, dstride := 0 };
     words ≠ 0 → c.check = none → Spec.jobRoom s0 u none .copy c.moves →
      exec (.cpyjLone d a b words) s = .next (s.afterC u (.cpyjLone d a b words) (Spec.submitted s0 u d.toNat none .copy c.moves))) ∧
    exec (.cpyq d a) s = .next (s.afterC u (.cpyq d a) (s0.setReg u d.toNat (BitVec.ofNat 64 status))) ∧
    (s0.inTask u = false → status ≠ 0 → exec (.cpyw d a) s = .next (s.afterC u (.cpyw d a)
      (((s0.setWait u .none).setReg u d.toNat (BitVec.ofNat 64 status)).l1Acquire u)))

/-- R255, R256: TLOAD of a layout record that passes its checks submits the job of its tile. -/
def Spec.TileLoads : Prop :=
  ∀ (s : State) (u : UnitId) (d a b : Reg6) (doff : W32) (ws : List W64) (t : State), Alone s u →
    let l := layoutOf ws
    (s.reg u a.toNat).toNat % 128 = 0 → (s.begun u).record u (s.reg u a.toNat) 16 = .ok (ws, t) → t.accessesOf u = [] →
    l.check (isRidge u) (t.unitScr u) doff = none →
    let t1 : State := { t with fresh := t.fresh + l.rows * l.freePerRow }
    Spec.jobRoom t1 u (if l.spad then (t1.com u).block else none) .tload (l.moves (t.reg u b.toNat) doff t.fresh) →
    exec (.tload d a b doff) s = .next (s.afterC u (.tload d a b doff)
      (Spec.submitted t1 u d.toNat (if l.spad then (t1.com u).block else none) .tload (l.moves (t.reg u b.toNat) doff t.fresh)))

/-- CPYJ and TLOAD submit their job; CPYQ and CPYW give its status: the statements above together. -/
def Obligations.CopyJobs : Prop := Spec.CopySubmissions ∧ Spec.TileLoads

/-- R253, R254: GATH and SCAT, whose lanes pass the checks and whose requests are answered, submit their job and write its handle; GATH
has its job, with the marks of its destination, from before its requests, and the job's ID once they are accepted; a word that an STF has
filled meanwhile stays filled (R250). -/
def Obligations.GatherScatter : Prop :=
  ∀ (s : State) (u : UnitId) (m : MemOp) (e : MemExt), Alone s u → (s.com u).redo = none →
    let s0 := s.begun u
    let moves (scat : Bool) : List JobMove := gathMoves scat (e.md.getLsbD 0) (szBytes m.sz) (s0.gathLanes u m e)
    (let s1 := s0.setWait u .none
      let t := Spec.answered s1 (Spec.requests s1 u m e true)
      Spec.gathers s0 u m e true → Spec.jobRoom s0 u (Spec.gathBlock s0 u e) .scat (moves true) →
      Spec.answersAtOnce s1 (Spec.requests s1 u m e true) →
      Spec.jobRoom t u (Spec.gathBlock t u e) .scat (moves true) →
      exec (.scat m e) s = .next (s.afterC u (.scat m e) (Spec.submitted t u m.d.toNat (Spec.gathBlock t u e) .scat (moves true)))) ∧
    (let s1 := ((s0.setWait u .none).addJob u (Spec.gathBlock s0 u e) .gath (moves false) false).2
      let t := Spec.answered s1 (Spec.requests s1 u m e false)
      Spec.gathers s0 u m e false → Spec.jobRoom s0 u (Spec.gathBlock s0 u e) .gath (moves false) → s0.gathJob u = none →
      Spec.answersAtOnce s1 (Spec.requests s1 u m e false) →
      ∀ k j, t.gathJob u = some k → t.jobs.find k = some j →
      let n := t.newJobId j.eng
      let r := n.2.newId
      let t1 := ({ r.2 with jobs := r.2.jobs.put k { j with id := n.1, accepted := true, order := r.1, moves := keepFilled j.moves (moves false) } } : State).setReg u
        m.d.toNat (BitVec.ofNat 64 n.1)
      exec (.gath m e) s = .next (s.afterC u (.gath m e) (if moves false = [] then t1.endJob k 1 else t1)))

/-- R219, R263, R265: AMSG completes when each lane's message has its status; SEND sends its message and goes on; RECV takes the oldest
waiting message of a type with LIMIT 0, or gives 0. That it gives 0 for a type whose LIMIT is not 0 is the model's choice (log entry 45). -/
def Spec.Messages : Prop :=
  ∀ (s : State) (u : UnitId), Alone s u → (s.com u).redo = none →
    let s0 := s.begun u
    (∀ (m : MemOp) (e : MemExt),
      (∀ x ∈ Spec.addresses s0 u (Spec.formX u m (some e)), s0.amsgCheck u (szBytes m.sz) x.2 = none) →
      Spec.answersAtOnce s0 (Spec.messages s0 u m e) →
      exec (.amsg m e) s = .next (s.afterC u (.amsg m e) (Spec.answered s0 (Spec.messages s0 u m e)))) ∧
    (∀ d a b : Reg6, (s.reg u a.toNat).toNat / 256 % 4096 < 3072 →
      exec (.send d a b) s = .next (s.afterC u (.send d a b) (s0.sendRel (Spec.message s0 u d a b 1)))) ∧
    (∀ (d a b : Reg6) (n : BitVec 3), n ≠ 7 → (s.reg u a.toNat).toNat / 256 % 4096 < 3072 →
      exec (.sendLone d a b n) s = .next (s.afterC u (.sendLone d a b n) (s0.sendRel (Spec.message s0 u d a b n.toNat)))) ∧
    (∀ d a b : Reg6, Spec.inPartition s0 u (s0.unitVale u) →
      let p := s0.unitVale u * 32 + (s.reg u a.toNat).toNat % 32
      let ty := (s.reg u b.toNat).toNat % 256
      (∀ m, (s0.vec p ty).limit = 0 → s0.oldestOf p ty = some m → exec (.recv d a b) s =
        .next (s.afterC u (.recv d a b) (((s0.takeMsg p m).drainOverflow p).setRegs u d.toNat m.words))) ∧
      ((s0.vec p ty).limit ≠ 0 ∨ s0.oldestOf p ty = none →
        exec (.recv d a b) s = .next (s.afterC u (.recv d a b) (s0.setReg u d.toNat 0))))

/-- R267: MBW writes an empty word and gives 0, or gives 1 and leaves a full word; MBR takes a full word, and of an empty one parks its
unit among the readers of the word. -/
def Spec.Mailboxes : Prop :=
  ∀ (s : State) (u : UnitId) (d a b : Reg6), Alone s u →
    let s0 := s.begun u
    let v := (s.reg u a.toNat).toNat / 256 % 128
    let w := (s.reg u a.toNat).toNat % 256
    let m := (s0.vale v).mail.getD w {}
    v < 96 → Spec.inPartition s0 u v →
    (m.full = false → exec (.mbw d a b) s =
      .next (s.afterC u (.mbw d a b) ((s0.mailPut v w (s.reg u b.toNat)).setReg u d.toNat 0))) ∧
    (m.full = true → exec (.mbw d a b) s = .next (s.afterC u (.mbw d a b) (s0.setReg u d.toNat 1))) ∧
    (m.full = true → exec (.mbr d a) s = .next (s.afterC u (.mbr d a)
      ((s0.modVale v (fun y => { y with mail := y.mail.put w { m with full := false } })).setReg u d.toNat m.val))) ∧
    (m.full = false → exec (.mbr d a) s =
      .next ((s0.modVale v (fun y => { y with mailWait := y.mailWait ++ [(w, u)] })).park u (.mailbox v w d)))

/-- AMSG, SEND, RECV, MBW and MBR complete with their result: the statements above together. -/
def Obligations.MessagesAndMailboxes : Prop := Spec.Messages ∧ Spec.Mailboxes

/-- R173, R185: the integer lane instructions, each on the elements of TYPE, and the integer dot products. -/
def Spec.LaneIntegers : Prop :=
  ∀ (s : State) (u : UnitId) (f : AForm),
    (∀ e ∈ Spec.intOps, Spec.laneRuns s u (e.1 f) (toLA e.2.1 f) e.2.2.1 (Spec.ints (toLA e.2.1 f) e.2.2.2)) ∧
    Spec.laneRuns s u (.dot4 f) (toLA 0x1D f) { c := true } (Spec.dots (toLA 0x1D f) 8) ∧
    Spec.laneRuns s u (.dot8 f) (toLA 0x1E f) { c := true } (Spec.dots (toLA 0x1E f) 4)

/-- R173 to R176: the bit operations, moves and the selection on whole lanes; VMOVK splits a k-register over a pair; the A-slot's NOP
does nothing. -/
def Spec.LaneBits : Prop :=
  ∀ (s : State) (u : UnitId),
    (∀ e ∈ Spec.bitOps, ∀ f : AForm,
      Spec.laneRuns s u (e.1 f) (toLA e.2.1 f) e.2.2.1 (fun a b _ _ l => (e.2.2.2 (a l) (b l), 0))) ∧
    (∀ w, u = .wave w → ∀ f : LA, Spec.laneRuns s u (.vsel f) f {} (fun a b _ _ l =>
      (if ((s.wave w).mask (f.c.toNat % 8)).getLsbD l then a l else b l, 0))) ∧
    (∀ w, u = .wave w → AloneA s u → ∀ f : AForm,
      let g := toLA 0x12 f
      let k := (s.wave w).kreg g.b.toNat
      exec (.vmovk f) s = .next (s.afterA u (.vmovk f) ((s.begunA u).modWave w (fun x =>
        x.setRun g.d.toNat ((s.begunA u).active u g.msel) [fun _ => k.extractLsb' 0 32, fun _ => k.extractLsb' 32 32])))) ∧
    (AloneA s u → exec .nopA s = .next (s.afterA u .nopA (s.begunA u)))

/-- Integer, bit, move and selection lane instructions write their result per element: the statements above together. -/
def Obligations.LaneIntegersAndBits : Prop := Spec.LaneIntegers ∧ Spec.LaneBits

/-- R177 to R181, R185: the float lane instructions on the codes of TYPE, and DOT2, whose sum is exact before it is rounded. -/
def Spec.FloatElements : Prop :=
  ∀ (s : State) (u : UnitId),
    (∀ e ∈ Spec.floatOps, ∀ f : AForm,
      Spec.laneRuns s u (e.1 f) (toLA e.2.1 f) e.2.2.1 (Spec.floats (toLA e.2.1 f) (e.2.2.2 (toLA e.2.1 f)))) ∧
    (∀ f : LA, Spec.laneRuns s u (.ffma f) f { c := true } (Spec.floats f (fpFma (fmtOf f.ty) f.rm.toNat f.sat))) ∧
    (∀ f : AForm,
      let g := toLA 0x1C f
      Spec.laneRuns s u (.dot2 f) g { c := true } (fun a b c _ l => dot2Lane g (a l) (b l) (c l)))

/-- R351: INTERP of a wave gives a0 + b1 (a1 - a0) + b2 (a2 - a0) in each lane. -/
def Spec.Interpolation : Prop :=
  ∀ (s : State) (w : Nat) (f : AForm),
    Spec.laneRuns s (.wave w) (.interp f) (toLA 0x37 f) { a := false, b := false } (Spec.interpolates (s.begunA (.wave w)) w (toLA 0x37 f))

/-- Float lane instructions, DOT2 and INTERP write their rounded result and join their flags: the statements above together. -/
def Obligations.LaneFloats : Prop := Spec.FloatElements ∧ Spec.Interpolation

/-- R68, R142, R143, R145, R147 to R149: the formats of the TYPE codes and of A96 read their codes as the tables say, and RoundTo of any exact value gives
the code, and the flags, of the number that the rounding mode chooses, with NaNs, infinities, overflow, underflow and zeros as the rules
say. -/
def Obligations.FloatRounding : Prop :=
  (∀ ty : BitVec 4, ty.toNat < 8 → fmtOf ty = (Spec.format ty.toNat).fmt) ∧ fmtA96 = Spec.accumulator.fmt ∧
  ∀ F ∈ Spec.formats ++ [Spec.accumulator],
    (∀ c, Spec.numOf (F.fmt.value c) = Spec.read F.fmt c) ∧
    ∀ rm sat, (∀ s, Spec.rounds F rm sat (.nan s) (roundTo F.fmt rm sat (.nan s))) ∧
      (∀ neg, Spec.rounds F rm sat (.inf neg) (roundTo F.fmt rm sat (.inf neg))) ∧
      (∀ neg n d, 0 < d → Spec.rounds F rm sat (Spec.numOf (.fin neg n d)) (roundTo F.fmt rm sat (.fin neg n d)))

/-- R177: sums, differences, products and fused products are exact and rounded once. -/
def Spec.Sums : Prop :=
  ∀ F ∈ Spec.formats.take 3, ∀ rm sat a b c,
    let x := Spec.read F.fmt a
    let y := Spec.read F.fmt b
    let add := Spec.total rm [x, y]
    let sub := Spec.total rm [x, y.minus]
    let mul := Spec.times x y
    let fma := Spec.total rm [mul.1, Spec.read F.fmt c]
    Spec.answers F rm sat add.1 add.2 (fpAdd F.fmt rm sat a b) ∧
    Spec.answers F rm sat sub.1 sub.2 (fpSub F.fmt rm sat a b) ∧
    Spec.answers F rm sat mul.1 mul.2 (fpMul F.fmt rm sat a b) ∧
    Spec.answers F rm sat fma.1 (mul.2 || fma.2) (fpFma F.fmt rm sat a b c)

/-- R178 to R180: minimum, maximum, comparison and class. -/
def Spec.Orders : Prop :=
  ∀ F ∈ Spec.formats.take 3, ∀ a b, a < 2 ^ (1 + F.fmt.e + F.fmt.m) → b < 2 ^ (1 + F.fmt.e + F.fmt.m) →
    let x := Spec.read F.fmt a
    let y := Spec.read F.fmt b
    let nv : FFlags := if x.signalling || y.signalling then fNV else 0
    (∀ max, (x.isNan = true → y.isNan = true → fpMinMax F.fmt max a b = (F.nan, nv)) ∧
      (x.isNan = true → y.isNan = false → fpMinMax F.fmt max a b = (b, nv)) ∧
      (x.isNan = false → y.isNan = true → fpMinMax F.fmt max a b = (a, nv)) ∧
      (x.isNan = false → y.isNan = false → Spec.belowZeros x y → fpMinMax F.fmt max a b = (if max then b else a, 0)) ∧
      (x.isNan = false → y.isNan = false → Spec.belowZeros y x → fpMinMax F.fmt max a b = (if max then a else b, 0)) ∧
      (x.isNan = false → y.isNan = false → ¬ Spec.belowZeros x y → ¬ Spec.belowZeros y x → fpMinMax F.fmt max a b = (a, 0) ∧ a = b)) ∧
    (∀ op < 6, ((fpCmp F.fmt op a b).1 = true ↔ Spec.compared op x y) ∧
      (fpCmp F.fmt op a b).2 = if (op = 2 ∨ op = 3) ∧ (x.isNan = true ∨ y.isNan = true) then fNV else nv) ∧
    fpClass F.fmt a = Spec.classOf F.fmt x

/-- R185, R351: DOT2 and INTERP are exact sums of products, rounded once. -/
def Spec.Dots : Prop :=
  let F := Spec.format 0
  let num (x : W32) : Spec.Num := Spec.read F.fmt x.toNat
  (∀ (f : LA) (a b c : W32), f.ty = 1 ∨ f.ty = 2 →
    let e (x : W32) (k : Nat) : Spec.Num := Spec.read (Spec.format f.ty.toNat).fmt (x.toNat / 2 ^ (16 * k) % 2 ^ 16)
    let p0 := Spec.times (e a 0) (e b 0)
    let p1 := Spec.times (e a 1) (e b 1)
    let x := Spec.total f.rm.toNat [p0.1, p1.1, num c]
    Spec.answers F f.rm.toNat f.sat x.1 (p0.2 || p1.2 || x.2) ((dot2Lane f a b c).1.toNat, (dot2Lane f a b c).2)) ∧
  ∀ (rm : Nat) (sat : Bool) (a0 a1 a2 b1 b2 : W32),
    let d1 := Spec.total rm [num a1, (num a0).minus]
    let d2 := Spec.total rm [num a2, (num a0).minus]
    let p1 := Spec.times (num b1) d1.1
    let p2 := Spec.times (num b2) d2.1
    let x := Spec.total rm [num a0, p1.1, p2.1]
    let r := interpolate rm sat a0 a1 a2 b1 b2
    Spec.answers F rm sat x.1 (d1.2 || d2.2 || p1.2 || p2.2 || x.2) (r.1.toNat, r.2)

/-- R181 to R183: the special functions give the values of R183's table and the exact cases of R182; FSQRT is correctly rounded; FRCP lies within R182's
bound of 1/a; FTANH gives a small argument itself, and ±1 from 10 on; the flags are NX, with OF for an overflow and UF for a subnormal or zero
result. -/
def Spec.Specials : Prop :=
  ∀ ty < 3, ∀ fn < 8, ∀ rm sat a, a < 2 ^ tyWidth (BitVec.ofNat 4 ty) →
    let F := Spec.format ty
    let v := Spec.read F.fmt a
    let x := v.value
    let r := fpSpecial fn ty rm sat a
    let y := Spec.read F.fmt r.1
    (∀ e, Spec.specials fn v = some e → (y, r.2) = e ∧ (e.1.isNan = true → r.1 = F.nan)) ∧
    (Spec.specials fn v = none → fn = 2 → Spec.chooseRoot rm (2 ^ (Int.log 2 x / 2 - F.fmt.m)) x y.value ∧ y.isInf = false ∧ y.isNan = false ∧
      r.2 = if y.value ^ 2 = x then 0 else fNX) ∧
    (Spec.specials fn v = none → ∀ e, Spec.exactly fn F.fmt x = some e → (y, r.2) = (e, 0)) ∧
    (Spec.specials fn v = none → fn ≠ 2 → Spec.exactly fn F.fmt x = none →
      (r.2 = fNX ∧ 2 ^ (1 - (F.fmt.bias : ℤ)) ≤ |y.value| ∨ (r.2 = fNX ||| fUF ∧ |y.value| < 2 ^ (1 - (F.fmt.bias : ℤ)) ∧ y.isInf = false ∧ y.isNan = false) ∨
        (r.2 = fNX ||| fOF ∧ y = if sat then .real y.negative (Spec.signed y.negative F.max) else .inf y.negative)) ∧
      (fn = 0 → r.2.getLsbD 2 = false → Spec.meets ty fn F.fmt x (1 / x) y.value) ∧
      (fn = 7 → |x| < 2 ^ (-12 : ℤ) → r.1 = a) ∧
      (fn = 7 → 10 ≤ |x| → y = .real (decide (x < 0)) (Spec.signed (decide (x < 0)) 1)))

/-- R177 to R183, R185, R351: the float operations of lanes give the exact result, rounded once, with the flags and the special results that
their rules give: the statements above together. -/
def Obligations.FloatArithmetic : Prop := Spec.Sums ∧ Spec.Orders ∧ Spec.Dots ∧ Spec.Specials

/-- R182: FRSQ, FEXP2, FLOG2, FSIN, FCOS and FTANH of a finite input outside R183's special values give a result within R182's bound of the exact
result, which is taken to 60 bits, where it does not overflow. That an exact result which rounds to an overflow overflows, though the greatest finite
number may lie within the bound too, is the model's choice (log entry 5). -/
def Obligations.SpecialFunctions : Prop :=
  ∀ ty < 3, ∀ fn ∈ [1, 3, 4, 5, 6, 7], ∀ rm sat a, a < 2 ^ tyWidth (BitVec.ofNat 4 ty) →
    let F := Spec.format ty
    let v := Spec.read F.fmt a
    let r := fpSpecial fn ty rm sat a
    Spec.specials fn v = none → Spec.exactly fn F.fmt v.value = none → r.2.getLsbD 2 = false →
    ∀ z : ℝ, Spec.exactIs fn v.value z → Spec.meetsExact ty fn F.fmt v.value (Spec.read F.fmt r.1).value z

/-- R154, R172: where a lane instruction raises a flag that FPCTL enables it traps FP_EXCEPTION, with its flags in DETAIL and the lanes that
raised one in MASK, and writes nothing: the integer instructions under SAT, the float instructions, the dot products, INTERP, SCAN, REDU,
FCMP, CVT, CVTSC and ACCRD. -/
def Spec.ElementTraps : Prop :=
  ∀ (s : State) (u : UnitId) (f : AForm) (h : LA),
    (∀ e ∈ Spec.intOps, Spec.laneTraps s u (e.1 f) (toLA e.2.1 f) e.2.2.1 (Spec.ints (toLA e.2.1 f) e.2.2.2)) ∧
    (∀ e ∈ Spec.floatOps,
      Spec.laneTraps s u (e.1 f) (toLA e.2.1 f) e.2.2.1 (Spec.floats (toLA e.2.1 f) (e.2.2.2 (toLA e.2.1 f)))) ∧
    Spec.laneTraps s u (.ffma h) h { c := true } (Spec.floats h (fpFma (fmtOf h.ty) h.rm.toNat h.sat)) ∧
    (let g := toLA 0x1C f
     Spec.laneTraps s u (.dot2 f) g { c := true } (fun a b c _ l => dot2Lane g (a l) (b l) (c l))) ∧
    Spec.laneTraps s u (.dot4 f) (toLA 0x1D f) { c := true } (Spec.dots (toLA 0x1D f) 8) ∧
    Spec.laneTraps s u (.dot8 f) (toLA 0x1E f) { c := true } (Spec.dots (toLA 0x1E f) 4) ∧
    Spec.laneTraps s u (.cvt h) h { b := false } (fun a _ _ _ l => cvtLane h (a l)) ∧
    Spec.laneTraps s u (.cvtsc h) h { b := false } (Spec.blocks h)

/-- R154, R172, R179, R188, R301, R351: the flag traps of the instructions of waves that join lanes: INTERP, SCAN, REDU, whose MASK names the lanes whose step
raised one, FCMP, and ACCRD, whose MASK names every lane of ACTIVE where the tile's own flags hold an enabled one (log entry 80, the model's
choice). -/
def Spec.WaveTraps : Prop :=
  ∀ (s : State) (w : Nat) (f : AForm) (h : LA),
    let u : UnitId := .wave w
    let s0 := s.begunA u
    Spec.laneTraps s u (.interp f) (toLA 0x37 f) { a := false, b := false } (Spec.interpolates s0 w (toLA 0x37 f)) ∧
    Spec.laneTraps s u (.scan f) (toLA 0x22 f) { b := false } (Spec.scans (toLA 0x22 f)) ∧
    (AloneA s u →
      (∀ a t, let g := toLA 0x23 f
        let res := Spec.prefixes g a (s0.active u g.msel)
        let fl := flagsOver (List.range res.length) (fun i => ((res[i]?).map (fun e => e.2.2.2)).getD 0)
        s0.laneSrc u g.ka g.a = some (a, t) → fl &&& (s0.com u).fpctl ≠ 0 →
        Spec.flagTrap s u (.redu f) fl ((res.filter (fun e => e.2.2.2 &&& (s0.com u).fpctl != 0)).map Prod.fst)) ∧
      (∀ a b c t,
        let k := tyWidth h.ty
        let e (x : W32) : Nat := x.toNat / 2 ^ (k * (if h.md.getLsbD 3 then 1 else 0)) % 2 ^ k
        let ls := Mask.lanes (s0.active u h.msel)
        let fl (l : Nat) : FFlags := (fpCmp (fmtOf h.ty) (h.md.toNat % 8) (e (a l)) (e (b l))).2
        s0.laneSources u h {} = some (a, b, c, t) → flagsOver ls fl &&& (s0.com u).fpctl ≠ 0 →
        Spec.flagTrap s u (.fcmp h) (flagsOver ls fl) (Spec.raising s0 u ls fl)) ∧
      (∀ x : Tile, let g := toLA 0x2E f
        let cq := g.b.toNat % 4
        let ls := Mask.lanes (s0.active u g.msel)
        let fl (l : Nat) : FFlags := (Spec.readout x g cq l).foldl (fun m r => m ||| r.2) 0
        Spec.tileIs s0 w (g.a.toNat - 0x60) x → 16 * cq < Spec.columns x.wide → (x.flags ||| flagsOver ls fl) &&& (s0.com u).fpctl ≠ 0 →
        Spec.flagTrap s u (.accrd f) (x.flags ||| flagsOver ls fl)
          (if x.flags &&& (s0.com u).fpctl = 0 then Spec.raising s0 u ls fl else ls)))

/-- An enabled flag makes a lane instruction trap FP_EXCEPTION and write nothing: the statements above together. -/
def Obligations.LaneFlagTraps : Prop := Spec.ElementTraps ∧ Spec.WaveTraps

/-- R187 to R189: SHFL and SHFLX read lanes as they stood before; BCST, REDU and VOTE give one result; SCAN gives each lane its prefix
in ascending order of lanes. -/
def Spec.Exchanges : Prop :=
  ∀ (s : State) (u : UnitId) (f : AForm),
    Spec.laneRuns s u (.shfl f) (toLA 0x1F f) {} (fun a b _ _ l => (a ((b l).toNat % 64), 0)) ∧
    Spec.laneRuns s u (.shflx f) (toLA 0x20 f) {} (fun a b _ _ l => (a (Nat.xor l ((b l).toNat % 64)), 0)) ∧
    Spec.laneRuns s u (.scan f) (toLA 0x22 f) { b := false } (Spec.scans (toLA 0x22 f)) ∧
    (AloneA s u →
      let s0 := s.begunA u
      (∀ a t t', let g := toLA 0x21 f
        let act := s0.active u g.msel
        let src := if g.md.getLsbD 0 then ((Mask.lanes act).head?).getD 0
          else if g.kb then (s0.reg u g.b.toNat).toNat % 64 else g.b.toNat % 64
        s0.laneSrc u g.ka g.a = some (a, t) → Spec.uniformly s0 t u g ((a src).zeroExtend 64) (a src) = some t' →
        exec (.bcst f) s = .next (s.afterA u (.bcst f) (t'.orFpst u 0))) ∧
      (∀ a t t', let g := toLA 0x23 f
        let res := Spec.prefixes g a (s0.active u g.msel)
        let r : W32 := match res.getLast? with | some (_, _, v, _) => v | none => scanIdentity g (g.md.toNat % 8)
        let fl := flagsOver (List.range res.length) (fun i => ((res[i]?).map (fun e => e.2.2.2)).getD 0)
        s0.laneSrc u g.ka g.a = some (a, t) → fl &&& (s0.com u).fpctl = 0 → Spec.uniformly s0 t u g (r.zeroExtend 64) r = some t' →
        exec (.redu f) s = .next (s.afterA u (.redu f) (t'.orFpst u fl))) ∧
      (∀ a t t', let g := toLA 0x24 f
        let ls := laneList u (s0.active u g.msel)
        let op := g.b.toNat % 4
        let b : Bool := if op = 0 then ls.any (fun l => a l != 0) else ls.all (fun l => a l != 0)
        let n : Nat := if b then 1 else 0
        s0.laneSrc u g.ka g.a = some (a, t) →
        (if op < 2 then Spec.uniformly s0 t u g (BitVec.ofNat 64 n) (BitVec.ofNat 32 n)
          else Spec.uniformly s0 t u g (Mask.ofLanes (ls.filter (fun l => a l != 0))) 0) = some t' →
        exec (.vote f) s = .next (s.afterA u (.vote f) (t'.orFpst u 0))))

/-- R188: the steps of SCAN and REDU by OP, and the identities. -/
def Spec.ScanSteps : Prop :=
  ∀ (f : LA) (x y : W32),
    let less (p q : W32) : Prop := if f.ty.toNat % 2 = 0 then p.toInt < q.toInt else p.toNat < q.toNat
    scanOp f 0 x y = (BitVec.ofNat 32 (x.toNat + y.toNat), 0) ∧
    (¬ less y x → scanOp f 1 x y = (x, 0)) ∧ (less y x → scanOp f 1 x y = (y, 0)) ∧
    (¬ less x y → scanOp f 2 x y = (x, 0)) ∧ (less x y → scanOp f 2 x y = (y, 0)) ∧
    scanOp f 3 x y = (x &&& y, 0) ∧ scanOp f 4 x y = (x ||| y, 0) ∧ scanOp f 5 x y = (x ^^^ y, 0) ∧
    (let t := Spec.total f.rm.toNat [Spec.read (Spec.format 0).fmt x.toNat, Spec.read (Spec.format 0).fmt y.toNat]
     Spec.answers (Spec.format 0) f.rm.toNat false t.1 t.2 ((scanOp f 6 x y).1.toNat, (scanOp f 6 x y).2)) ∧
    (f.ty = 8 ∨ f.ty = 9 → scanIdentity f 1 = BitVec.ofInt 32 (Spec.greatest f.ty) ∧ scanIdentity f 2 = BitVec.ofInt 32 (Spec.least f.ty)) ∧
    scanIdentity f 0 = 0 ∧ scanIdentity f 3 = 0xFFFFFFFF ∧ scanIdentity f 4 = 0 ∧ scanIdentity f 5 = 0 ∧ scanIdentity f 6 = 0

/-- SHFL, SHFLX, BCST, SCAN, REDU and VOTE exchange lanes: the statements above together. -/
def Obligations.LaneExchange : Prop := Spec.Exchanges ∧ Spec.ScanSteps

/-- R176, R179, R190: the comparisons write a mask that is 0 outside ACTIVE; the mask instructions combine, count and search masks. -/
def Spec.LaneMasks : Prop :=
  ∀ (s : State) (u : UnitId),
    (∀ f : LA, Spec.compares s u (.vcmp f) f (fun a b => (Spec.laneHolds (f.md.toNat % 8) a b, 0))) ∧
    (∀ f : LA,
      let w := tyWidth f.ty
      let e (x : W32) : Nat := x.toNat / 2 ^ (w * (if f.md.getLsbD 3 then 1 else 0)) % 2 ^ w
      Spec.compares s u (.fcmp f) f (fun a b => fpCmp (fmtOf f.ty) (f.md.toNat % 8) (e a) (e b))) ∧
    (∀ w, u = .wave w → AloneA s u → ∀ f : AForm,
      let g := toLA 0x25 f
      let m (n : BitVec 8) : Mask := (s.wave w).mask (n.toNat % 8)
      (∀ e ∈ Spec.maskOps, exec (e.1 f) s = .next (s.afterA u (e.1 f)
        ((s.begunA u).modWave w (fun x => x.setMask (g.d.toNat % 8) (e.2 (m g.a) (m g.b)))))) ∧
      exec (.mpopc f) s = .next (s.afterA u (.mpopc f) ((s.begunA u).modWave w (fun x => x.setK g.d.toNat
        (BitVec.ofNat 64 ((List.range 64).filter (fun l => (m g.a).getLsbD l)).length)))) ∧
      exec (.mfind f) s = .next (s.afterA u (.mfind f) ((s.begunA u).modWave w (fun x => x.setK g.d.toNat
        (BitVec.ofNat 64 (((List.range 64).find? (fun l => (m g.a).getLsbD l)).getD 64))))))

/-- R191: PHLX writes the four words of Philox 4x32-10, on a thread as two registers, on a wave to four registers of each lane. -/
def Spec.LaneRandom : Prop :=
  ∀ (s : State) (u : UnitId) (f : AForm), AloneA s u →
    let g := toLA 0x26 f
    let s0 := s.begunA u
    (∀ t, u = .thread t →
      let r := philox (s0.reg u g.a.toNat) (s0.reg u g.b.toNat)
      exec (.phlx f) s = .next (s.afterA u (.phlx f)
        ((s0.setReg u g.d.toNat (r.2.1 ++ r.1)).setReg u (g.d.toNat + 1) (r.2.2.2 ++ r.2.2.1)))) ∧
    (∀ w, u = .wave w → ∀ a b t t', s0.pairSrc w g.ka g.a = some (a, t) → t.pairSrc w g.kb g.b = some (b, t') →
      let r (l : Nat) := philox (a l) (b l)
      exec (.phlx f) s = .next (s.afterA u (.phlx f) (t'.modWave w (fun x => x.setRun g.d.toNat (t'.active u g.msel)
        [fun l => (r l).1, fun l => (r l).2.1, fun l => (r l).2.2.1, fun l => (r l).2.2.2]))))

/-- Comparisons and mask instructions write masks; PHLX writes Philox 4x32-10: the statements above together. -/
def Obligations.MasksAndRandom : Prop := Spec.LaneMasks ∧ Spec.LaneRandom

/-- R160, R161, R163, R164: CVT and CVTSC, element by element and block by block; PACK and UNPACK of a wave through the stream of 64
elements, of a thread in one register. -/
def Spec.ConversionForms : Prop :=
  ∀ (s : State) (u : UnitId) (f : LA),
    Spec.laneRuns s u (.cvt f) f { b := false } (fun a _ _ _ l => cvtLane f (a l)) ∧
    Spec.laneRuns s u (.cvtsc f) f { b := false } (Spec.blocks f) ∧
    (AloneA s u → ∀ a t,
      let s0 := s.begunA u
      let w := tyWidth f.ty
      let off := f.md.toNat % 16
      s0.laneSrc u f.ka f.a = some (a, t) →
      (∀ k, u = .thread k →
        let m : W32 := BitVec.ofNat 32 ((2 ^ w - 1) * 2 ^ (w * off))
        let old : W32 := (s0.reg u f.d.toNat).extractLsb' 0 32
        let new : W32 := BitVec.ofNat 32 ((a 0).toNat * 2 ^ (w * off))
        exec (.pack f) s = .next (s.afterA u (.pack f) (t.setReg u f.d.toNat (((old &&& ~~~m) ||| (new &&& m)).zeroExtend 64))) ∧
        exec (.unpack f) s = .next (s.afterA u (.unpack f)
          (t.setReg u f.d.toNat (BitVec.ofNat 64 ((a 0).toNat / 2 ^ (w * off) % 2 ^ w))))) ∧
      (∀ k, u = .wave k →
        let act := s0.active u f.msel
        let first := off * (2 * w)
        let elems := ((List.range 64).map (fun l => (if act.getLsbD l then (a l).toNat % 2 ^ w else 0) * 2 ^ (w * l))).foldl (· + ·) 0
        let words := ((List.range (2 * w)).map (fun j => (a (first + j)).toNat * 2 ^ (32 * j))).foldl (· + ·) 0
        let window := Mask.ofLanes ((Mask.lanes act).filter (fun l => decide (first ≤ l) && decide (l < first + 2 * w)))
        (∀ t', t.laneDst u f.kd f.d window (fun l => BitVec.ofNat 32 (elems / 2 ^ (32 * (l - first)))) = some t' →
          exec (.pack f) s = .next (s.afterA u (.pack f) (t'.orFpst u 0))) ∧
        (∀ t', t.laneDst u f.kd f.d act (fun l => BitVec.ofNat 32 (words / 2 ^ (w * l) % 2 ^ w)) = some t' →
          exec (.unpack f) s = .next (s.afterA u (.unpack f) (t'.orFpst u 0)))))

/-- R157 to R163: CVT of an element; the scale of a block, the encoding of an element under it, saturated without OF, and the decoding. -/
def Spec.Codes : Prop :=
  (∀ (f : LA) (a : W32),
    let w := tyWidth f.ty
    let c := a.toNat / 2 ^ (w * (f.md.toNat / 16)) % 2 ^ w
    Spec.converts (decide (8 ≤ f.ty.toNat) && !f.b.getLsbD 1) (f.b.getLsbD 0) (f.md.extractLsb' 0 4) f.rm.toNat f.sat
      (Spec.sourceOf f.ty (f.b.getLsbD 1) c) ((cvtLane f a).1.toNat, (cvtLane f a).2)) ∧
  ∀ (f : LA), 3 ≤ f.ty.toNat → f.ty.toNat < 8 → f.md.toNat % 16 < 3 →
    let wide := Spec.format (f.md.toNat % 16)
    let narrow := Spec.format f.ty.toNat
    let num (a : W32) : Spec.Num := Spec.read wide.fmt (a.toNat % 2 ^ (1 + wide.fmt.e + wide.fmt.m))
    (∀ as : List W32, Spec.scaleIs f.ty (as.map num) (mxScale f.ty (as.map (wideValue f)))) ∧
    (∀ (a : W32) (x : Nat), x < 255 → ∃ r : Nat × FFlags, Spec.rounds narrow f.rm.toNat true ((num a).times2 (127 - (x : Int))) r ∧
      ((num a).isNan = false → (num a).isInf = false → mxEncode f x (wideValue f a) = (BitVec.ofNat 32 (x * 2 ^ 8 + r.1), r.2 &&& ~~~fOF))) ∧
    (∀ a : W32, mxEncode f 255 (wideValue f a) = (0xFF00, if (num a).isNan = true ∨ (num a).isInf = true then fNV else 0)) ∧
    (∀ a : W32,
      let x : Nat := a.toNat / 2 ^ 8 % 2 ^ 8
      let c : Nat := a.toNat % 2 ^ (1 + narrow.fmt.e + narrow.fmt.m)
      let r := mxDecode f a
      if x = 255 then r = (BitVec.ofNat 32 wide.nan, 0)
      else Spec.rounds wide f.rm.toNat f.sat ((Spec.read narrow.fmt c).times2 ((x : Int) - 127)) (r.1.toNat, r.2))

/-- CVT, CVTSC, PACK and UNPACK: the statements above together. -/
def Obligations.Conversions : Prop := Spec.ConversionForms ∧ Spec.Codes

/-- R313, R314, R319, R320: KEYX, DIGIT and RANK give each lane its key, digit or rank; MATCH the mask of the lanes that hold its
value, or the mask of the first lanes of each value. -/
def Spec.Keys : Prop :=
  ∀ (s : State) (f : AForm),
    (∀ u, Spec.laneRuns s u (.keyx f) (toLA 0x30 f) { b := false } (Spec.keys (toLA 0x30 f)) ∧
      Spec.laneRuns s u (.digit f) (toLA 0x31 f) { c := (toLA 0x31 f).md.getLsbD 0 } (Spec.digits (toLA 0x31 f)) ∧
      Spec.laneRuns s u (.rank f) (toLA 0x33 f) { b := false } (Spec.ranks (toLA 0x33 f))) ∧
    (∀ w, AloneA s (.wave w) → ∀ a t,
      let u : UnitId := .wave w
      let g := toLA 0x32 f
      let act := (s.begunA u).active u g.msel
      let ls := Mask.lanes act
      let same (l : Nat) : Mask := Mask.ofLanes (ls.filter (fun j => a j == a l))
      let firsts : Mask := Mask.ofLanes (ls.filter (fun l => ls.all (fun j => decide (l ≤ j) || a j != a l)))
      (s.begunA u).laneSrc u g.ka g.a = some (a, t) →
      exec (.matchEq f) s = .next (s.afterA u (.matchEq f) (t.modWave w (fun x =>
        if g.md.getLsbD 0 then x.setMask (g.d.toNat % 8) firsts
        else x.setRun g.d.toNat act [fun l => (same l).extractLsb' 0 32, fun l => (same l).extractLsb' 32 32]))))

/-- R321 to R324: CMPX and EXPD move the chosen lanes down and up; BMRG merges two sorted halves; ISECT lists the matches of two sorted
lists; each writes all 64 lanes, and a count where KC asks for it. -/
def Spec.Lists : Prop :=
  ∀ (s : State) (w : Nat) (f : AForm),
    let u : UnitId := .wave w
    let s0 := s.begunA u
    (let g := toLA 0x34 f
     let sel := Spec.chosen s0 w g
     let other (p : Nat) : W32 := if g.md.getLsbD 0 then ((s0.wave w).vreg g.d.toNat).at p else 0
     Spec.listed s w (.cmpx f) g (fun a p => match sel[p]? with | some l => a l | none => other p)
        (fun _ => BitVec.ofNat 64 sel.length) ∧
     Spec.listed s w (.expd f) g (fun a p => if p ∈ sel then a (sel.idxOf p) else other p)
        (fun _ => BitVec.ofNat 64 sel.length)) ∧
    (let g := toLA 0x35 f
     let h := if g.kb then min ((s0.reg u g.b.toNat).toNat % 128) 64 else g.b.toNat
     let le (a : Nat → W32) (p q : Nat) : Bool :=
       if g.ty.toNat % 2 = 0 then decide ((a p).toInt ≤ (a q).toInt) else decide ((a p).toNat ≤ (a q).toNat)
     Spec.listed s w (.bmrg f) g (fun a p =>
        let l := (mergeFrom (le a) h 64 0 h).getD p 0
        if g.md.getLsbD 0 then BitVec.ofNat 32 l else a l) (fun _ => 0)) ∧
    (AloneA s u → ∀ p q c t,
      let g := toLA 0x36 f
      let k := (s0.reg u g.c.toNat).toNat
      let np := if g.kc then min (k % 128) 64 else 64
      let nq := if g.kc then min (k / 256 % 128) 64 else 64
      let lt (x y : W32) : Bool := if g.ty.toNat % 2 = 0 then decide (x.toInt < y.toInt) else decide (x.toNat < y.toNat)
      let ms := intersect lt p q np nq 129 0 0
      let bound : W32 := if lt (q (nq - 1)) (p (np - 1)) then q (nq - 1) else p (np - 1)
      let adv (x : Nat → W32) (n : Nat) : Nat :=
        if np = 0 ∨ nq = 0 then n else ((List.range n).filter (fun i => !lt bound (x i))).length
      s0.laneSources u g {} = some (p, q, c, t) →
      exec (.isect f) s = .next (s.afterA u (.isect f) (t.modWave w (fun x =>
        let y := x.setV g.d.toNat (Lanes.gen (fun l => match ms[l]? with | some (i, j) => BitVec.ofNat 32 (j * 256 + i) | none => 0xFFFFFFFF))
        if g.kc then y.setK g.c.toNat (BitVec.ofNat 64 (ms.length * 2 ^ 16 + adv q nq * 2 ^ 8 + adv p np)) else y))))

/-- R313, R314: the key of a code, whose order is that of the numbers; the digit of a key. -/
def Spec.KeyCodes : Prop :=
  (∀ (ty : BitVec 4) (nhi desc : Bool), ty.toNat < 3 ∨ ty = 8 ∨ ty = 9 →
    let w := tyWidth ty
    let key (c : Nat) : Nat := keyOf ty nhi desc w c
    (∀ c < 2 ^ w, key c = Spec.keyed ty nhi desc w c ∧ key c < 2 ^ w) ∧
    ∀ a < 2 ^ w, ∀ b < 2 ^ w,
      let x := Spec.sourceOf ty false a
      let y := Spec.sourceOf ty false b
      x.isNan = false → y.isNan = false → (Spec.below x y ↔ if desc then key b < key a else key a < key b)) ∧
  ∀ (pfx : Bool) (a b c : W32),
    let pos := b.toNat % 32
    let len := min (max (b.toNat / 2 ^ 8 % 32) 1) 16
    let above := min (pos + len) 32
    digitOf pfx a b c =
      if pfx = true ∧ above < 32 ∧ a.toNat / 2 ^ above ≠ c.toNat / 2 ^ above then BitVec.ofNat 32 (2 ^ len)
      else BitVec.ofNat 32 (a.toNat / 2 ^ pos % 2 ^ (above - pos))

/-- KEYX, DIGIT, MATCH, RANK, CMPX, EXPD, BMRG and ISECT complete with their result: the statements above together. -/
def Obligations.KeysAndLists : Prop := Spec.Keys ∧ Spec.KeyCodes ∧ Spec.Lists

/-- R284 to R285: ACCA allocates a tile of zeros and gives 1, or gives 2 for a tile that is not NONE and 0 for want of banks; ACCF
frees a tile, ACCZ clears it. -/
def Spec.TileHandles : Prop :=
  ∀ (s : State) (w : Nat), Alone s (.wave w) →
    let u : UnitId := .wave w
    let s0 := s.begun u
    (∀ (d : Reg6) (t : BitVec 4) (mode wide : Bool),
      (Spec.tileFits s0 w t.toNat wide → exec (.acca d t mode wide) s = .next (s.afterC u (.acca d t mode wide)
        ((s0.modWave w (fun x => { x with t := x.t.put t.toNat { int := mode, wide := wide, elems := [], flags := 0 } })).setReg u
          d.toNat 1))) ∧
      (((s0.wave w).t.find t.toNat).isSome = true →
        exec (.acca d t mode wide) s = .next (s.afterC u (.acca d t mode wide) (s0.setReg u d.toNat 2))) ∧
      ((s0.wave w).t.find t.toNat = none → ¬ Spec.tileFits s0 w t.toNat wide →
        exec (.acca d t mode wide) s = .next (s.afterC u (.acca d t mode wide) (s0.setReg u d.toNat 0)))) ∧
    (∀ t : BitVec 4, (s0.wave w).tileBusy t.toNat = false →
      exec (.accf t) s = .next (s.afterC u (.accf t) (s0.modWave w (fun x => { x with t := x.t.drop t.toNat })))) ∧
    (∀ (t : BitVec 4) (x : Tile), Spec.tileIs s0 w t.toNat x →
      exec (.accz t) s = .next (s.afterC u (.accz t) (s0.modWave w (fun y =>
        { y with t := y.t.put t.toNat { x with elems := [], flags := 0 } }))))

/-- R286 to R288: ACCSV stores the image of a tile, to memory or the scratchpad; ACCLD of an image in memory whose header and range
are in order allocates the tile that the header describes, gives 1 and loads its elements, or gives 2 or 0 as ACCA does. -/
def Spec.TileImages : Prop :=
  ∀ (s : State) (w : Nat) (t : BitVec 4) (b : Reg6) (x : Tile), Alone s (.wave w) →
    let u : UnitId := .wave w
    let s0 := s.begun u
    let a := s.reg u b.toNat
    let saves (i : Instr) (spad : Bool) : Prop :=
      Spec.tileIs s0 w t.toNat x → Spec.imagePasses s0 u (Spec.space s0 u spad) a (8 + 96 * Spec.columns x.wide) 1 →
      exec i s = .next (s.afterC u i (s0.sendRel (Spec.imageStores s0 u (Spec.space s0 u spad) a t.toNat x)))
    let loads (i : Instr) (d : Reg6) (spad : Bool) : Prop :=
      (((s0.wave w).t.find t.toNat).isSome = true → exec i s = .next (s.afterC u i (s0.setReg u d.toNat 2))) ∧
      (∀ ws s1, (s0.wave w).t.find t.toNat = none → Spec.wordsPass s0 u (Spec.space s0 u spad) a 8 0 →
        s0.readHead u (Spec.space s0 u spad) a = .ok (ws, s1) → Spec.headOk ws →
        let y := Spec.headTile (ws.getD 0 0)
        Spec.imagePasses s1 u (Spec.space s0 u spad) a (8 + 96 * Spec.columns y.wide) 0 →
        (Spec.tileFits s1 w t.toNat y.wide →
          let s2 := (s1.modWave w (fun v => { v with t := v.t.put t.toNat y })).setReg u d.toNat 1
          exec i s = .next (s.afterC u i (s2.sendRel (Spec.imageLoads s2 u (Spec.space s0 u spad) a t.toNat y.wide)))) ∧
        ((s1.wave w).t.find t.toNat = none → ¬ Spec.tileFits s1 w t.toNat y.wide →
          exec i s = .next (s.afterC u i (s1.setReg u d.toNat 0))))
    saves (.accsv t b) false ∧ (∀ spad, saves (.accsvLone t b spad) spad) ∧
    (∀ d : Reg6, loads (.accld d t b) d false) ∧ (∀ (d : Reg6) (spad : Bool), loads (.accldLone d t b spad) d spad)

/-- ACCA, ACCF, ACCZ, ACCSV and ACCLD manage tiles and their images: the statements above together. -/
def Obligations.Tiles : Prop := Spec.TileHandles ∧ Spec.TileImages

/-- R280, R290, R291: YSET writes a stream register; BLDQ sends the loads of one quarter of a slot, and its ring form moves the stream
register on and, with the last quarter, the load pointer. -/
def Spec.SlotsAndStreams : Prop :=
  ∀ (s : State) (w : Nat), Alone s (.wave w) →
    let u : UnitId := .wave w
    let s0 := s.begun u
    (∀ (y : BitVec 3) (a : Reg6) (pitch step : W16),
      let v := s.reg u a.toNat
      exec (.yset y a pitch step) s = .next (s.afterC u (.yset y a pitch step) (s0.modWave w (fun x => { x with
        y := x.y.setIfInBounds y.toNat
          { step := step, pitch := pitch, cur := 0, wrap := v.extractLsb' 18 18, base := v.extractLsb' 0 18 } })))) ∧
    (∀ (ring : Bool) (quad : BitVec 2) (slot : BitVec 5) (b : Reg6) (x : BitVec 8) (e : Option MemExt),
      let v := s0.wave w
      let yn := b.toNat % 8
      let y := v.stream yn
      let n := if ring then v.lp else slot.toNat
      let data := 8 * tyWidth v.mfb
      let words := data + (if bitsOf v.msb 19 18 = 2 then 2 else 0)
      let a : W64 := if ring then BitVec.ofNat 64 (y.base.toNat + y.cur.toNat)
        else s0.memEa u (memForm true false { d := 0, b := b, x := x, sz := 3, dk := true } e) 0
      let sp := if (Spec.modOf e).getLsbD 0 then s0.spaceOf u else s0.spadSpace u
      fmtAccepted v.mfb = true → n < s0.slotsOf w → (ring = true → v.nm1 < s0.slotsOf w) → v.slotBusy n = false →
      a.toNat % 16 = 0 → (∀ k < words, s0.laneCheck u sp 8 (a + BitVec.ofNat 64 (8 * k)) = none) →
      let t := s0.sendRel (s0.memAccess u sp (.load false) 8 (.slot ((s0.com u).block.getD 0) n quad.toNat data) false false
        ((List.range words).map (fun k => { lane := k, ea := a + BitVec.ofNat 64 (8 * k) })))
      exec (.bldq ring quad slot b x e) s = .next (s.afterC u (.bldq ring quad slot b x e) (if ring then t.modWave w (fun z =>
        let z := { z with y := z.y.setIfInBounds yn (Spec.moved y) }
        if quad = 3 then z.setRing ((z.lp + 1) % (z.nm1 + 1)) z.bp else z) else t)))

/-- R300 to R302: ACCRD converts a column quarter of a tile into registers, joins the tile's flags to FPST, and clears the quarter
where it is asked to; ACCWR writes a column quarter from registers. -/
def Spec.TileReadout : Prop :=
  ∀ (s : State) (w : Nat) (f : AForm) (x : Tile), AloneA s (.wave w) →
    let u : UnitId := .wave w
    let s0 := s.begunA u
    (let g := toLA 0x2E f
     let cq := g.b.toNat % 4
     let act := s0.active u g.msel
     let n := tyWidth g.ty
     let fl := x.flags ||| flagsOver (Mask.lanes act) (fun l => (Spec.readout x g cq l).foldl (fun m r => m ||| r.2) 0)
     let bits (l : Nat) : Nat := ((Spec.readout x g cq l).zipIdx.map (fun e => e.1.1 % 2 ^ n * 2 ^ (n * e.2))).sum
     let written := (List.range (n / 2)).foldl (fun t r =>
       t.modWave w (fun y => y.setLanes (g.d.toNat + r) act (fun l => BitVec.ofNat 32 (bits l / 2 ^ (32 * r))))) s0
     let cleared := written.modWave w (fun y => { y with t := y.t.put (g.a.toNat - 0x60) { x with
       elems := x.elems.filter (fun e => !(act.getLsbD (e.1 / 64) && decide (e.1 % 64 / 16 = cq))) } })
     Spec.tileIs s0 w (g.a.toNat - 0x60) x → 16 * cq < Spec.columns x.wide → fl &&& (s0.com u).fpctl = 0 →
     exec (.accrd f) s = .next (s.afterA u (.accrd f) ((if g.md.getLsbD 0 then cleared else written).orFpst u fl))) ∧
    (let g := toLA 0x2F f
     let cq := g.b.toNat % 4
     let n := tyWidth g.ty
     let bits (l : Nat) : Nat := (List.range (n / 2)).foldl (fun m r => m + (((s0.wave w).vreg (g.a.toNat + r)).at l).toNat * 2 ^ (32 * r)) 0
     let y : Tile := (Mask.lanes (s0.active u g.msel)).foldl (fun y l => (List.range 16).foldl (fun (y : Tile) c =>
       { y with elems := y.elems.put (64 * l + 16 * cq + c) (writeElem x.int g.ty (bits l / 2 ^ (n * c) % 2 ^ n)) }) y) x
     Spec.tileIs s0 w (g.d.toNat - 0x60) x → 16 * cq < Spec.columns x.wide → ¬ (x.int = true ∧ tyFloat g.ty = true) →
     exec (.accwr f) s = .next (s.afterA u (.accwr f) (s0.modWave w (fun v => { v with t := v.t.put (g.d.toNat - 0x60) y }))))

/-- R301: the readout of an element is CVT of its number: a 96-bit integer, or the reading of A96. -/
def Spec.ReadoutCodes : Prop :=
  ∀ (x : Tile) (dt : BitVec 4) (rm : Nat) (sat : Bool) (y : BitVec 96),
    let v : Spec.Num := if x.int then .real (decide (y.toInt < 0)) y.toInt else Spec.read Spec.accumulator.fmt y.toNat
    Spec.converts x.int false dt rm sat v (readoutCode x dt rm sat y)

/-- R294 to R296: a matrix step changes the elements of the active rows and of the tile's columns and no others: in float mode each to the exact sum of
its 32 products and itself, rounded once, whose flags join the tile's; in integer mode to the sum modulo 2^96, with no flag. -/
def Spec.MatrixElements : Prop :=
  ∀ (t : Tile) (st : MatStep) (b : Block),
    let u := t.step st b
    let hits (l j : Nat) : Prop := st.active.getLsbD l = true ∧ j < Spec.columns t.wide
    (t.int = decide (8 ≤ st.fmtA.toNat)) → (t.int = decide (8 ≤ st.fmtB.toNat)) → (∀ r ∈ st.rows, ∀ c ∈ r, c < 2 ^ tyWidth st.fmtA) →
    u.int = t.int ∧ u.wide = t.wide ∧ (∀ l j, j < 64 → ¬ hits l j → u.elem l j = t.elem l j) ∧
    (t.int = true → u.flags = t.flags ∧ ∀ l j, hits l j → u.elem l j = Spec.intStep b st l j (t.elem l j)) ∧
    (t.int = false → ∃ r : Nat → Nat → Nat × FFlags,
      (∀ l j, hits l j → Spec.floatStep b st l j (t.elem l j) (r l j) ∧ u.elem l j = BitVec.ofNat 96 (r l j).1) ∧
      ∀ i, u.flags.getLsbD i = true ↔ t.flags.getLsbD i = true ∨ ∃ l j, hits l j ∧ (r l j).2.getLsbD i = true)

/-- YSET, BLDQ, ACCRD and ACCWR move matrix operands and results, and a step adds its products to its tile: the statements above together. -/
def Obligations.MatrixOperands : Prop := Spec.SlotsAndStreams ∧ Spec.TileReadout ∧ Spec.ReadoutCodes ∧ Spec.MatrixElements

/-- R292 to R299: the MMA-class instructions, paired and lone. -/
def Obligations.MatrixIssue : Prop :=
  ∀ (s : State) (w : Nat),
    (∀ (d a b : BitVec 8) (kb : Bool),
      Spec.mmaIssues s w (.mma d a b kb) .mma (toLA 0x2B (.p d a b kb false)) true ∧
      Spec.mmaIssues s w (.mmas d a b kb) .mmas (toLA 0x2C (.p d a b kb false)) true ∧
      Spec.mmaIssues s w (.mmax d a b kb) .mmax (toLA 0x2D (.p d a b kb false)) true) ∧
    (∀ (k : MmaKind) (f : LA), Spec.mmaIssues s w (.mmaLone k f) k f false)

/-- R344, R345, R348, R349: at an equipped position CVIEW gives every live unit of the partition its view entries; CTILE opens, CFILL
resolves and CCLOSE writes out the slots of the views of a tile, and D tells the owners' answers. That CVIEW passes over a dead unit is the model's
choice (log entry 50). -/
def Spec.ContourTiles : Prop :=
  ∀ (s : State) (t : Nat), Spec.Equipped s t →
    let u : UnitId := .thread t
    let s0 := s.begun u
    (∀ (d b : Reg6) s1 r, Spec.tileAt s0 u b s1 r →
      Spec.onViews s t (.ctile d b) d s1 r .tileOpen (fun x =>
        (x.lanes.foldl (fun (r : Nat × W64) l => if l.lane < r.1 then (l.lane, l.data) else r) (128, 0)).2
          ||| (if x.lanes.any (fun l => l.data == 0) then 1 else 0)) ∧
      Spec.onViews s t (.cclose d b) d s1 r (.tileClose r.cbase r.wt r.ht) (fun x => x.lanes.foldl (fun v l => v ||| l.data) 0)) ∧
    (∀ (d a b : Reg6) (opts : BitVec 3) s1 r s2 nv scr, Spec.tileAt s0 u b s1 r →
      let fill (n : BitVec 3) : ContourOp := .resolve (n.getLsbD 0) (n.getLsbD 1) (n.getLsbD 2) r.shader nv scr
      let given : BitVec 3 := (s.reg u a.toNat).extractLsb' 0 3
      (Spec.shaderAt s1 u (opts.getLsbD 1) r.shader s2 nv scr →
        Spec.onViews s t (.cfillLone d b opts) d s2 r (fill opts) (fun x => x.lanes.foldl (fun v l => v ||| l.data) 0)) ∧
      (Spec.shaderAt s1 u (given.getLsbD 1) r.shader s2 nv scr →
        Spec.onViews s t (.cfill d a b) d s2 r (fill given) (fun x => x.lanes.foldl (fun v l => v ||| l.data) 0))) ∧
    (let views (i : Instr) (a : W64) (n vt : Nat) : Prop := ∀ ws s1, a.toNat % 16 = 0 → s0.record u a (10 * (n + 1)) = .ok (ws, s1) →
       let live := (s1.equippedList (s1.unitFunc u)).filter (fun p => !s1.posDead p)
       let x := s1.memAccess u .virt (.contour ⟨0, 0, 0, vt, 0⟩ (.view (viewEntries ws (n + 1)))) 8 .none true false
         (live.map (fun p => { lane := p, ea := BitVec.ofNat 64 (windowAddr p 0) }))
       (s1.com u).redo = none → s1.accessesOf u = [] →
       (live = [] → exec i s = .next (s.afterC u i s1)) ∧
       (live ≠ [] → ∀ b s2, Spec.ownersAnswer s1 u x b s2 → exec i s = .next (s.afterC u i s2))
     (∀ a b : Reg6, views (.cview a b) (s.reg u a.toNat) ((s.reg u b.toNat).toNat % 128) ((s.reg u b.toNat).toNat / 128 % 2)) ∧
     (∀ (a : Reg6) (n : BitVec 7) (vt : Bool), views (.cviewLone a n vt) (s.reg u a.toNat) n.toNat (if vt then 1 else 0)))

/-- R346, R347, R352: the segments and triangles go, posted, to the owners of their views. -/
def Spec.ContourSegments : Prop :=
  ∀ (s : State) (t : Nat) (a b : Reg6), Spec.Equipped s t →
    let u : UnitId := .thread t
    let pts (n : Nat) : List W64 := (List.range n).map (fun i => s.reg u (a.toNat + i))
    Spec.sends s t (.csegLin a b) b false (pts 2) (fun _ _ _ => .segment (pts 2) false) ∧
    Spec.sends s t (.csegQuad a b) b false (pts 3) (fun _ _ _ => .segment (pts 3) false) ∧
    Spec.sends s t (.csegCub a b) b false (pts 4) (fun _ _ _ => .segment (pts 4) false) ∧
    Spec.sends s t (.ctri a b) b false (pts 3) (fun _ _ _ => .segment (pts 3) true) ∧
    Spec.sends s t (.ctriFrag a b) b true (pts 3) (fun r nv scr =>
      .frags (pts 3) ((s.reg u (a.toNat + 3)).extractLsb' 0 32) r.shader nv scr)

/-- Contour instructions at an equipped position send their messages and complete: the statements above together. -/
def Obligations.ContourInstructions : Prop := Spec.ContourTiles ∧ Spec.ContourSegments

/-- R115: a Contour or Traverse instruction of a thread elsewhere moves the thread to the nearest live equipped position of its Vale,
where it begins again. -/
def Spec.EquippedMoves : Prop :=
  ∀ (s : State) (t q : Nat) (d a b : Reg6) (n : BitVec 7) (vt : Bool) (opts : BitVec 3) (i : Instr),
    let u : UnitId := .thread t
    let s0 := s.begun u
    i ∈ [.cview a b, .cviewLone a n vt, .ctile d b, .csegLin a b, .csegQuad a b, .csegCub a b, .ctri a b, .ctriFrag a b, .cfill d a b,
      .cfillLone d b opts, .cclose d b, .trace d a b, .tnext d a, .thit d a b, .tign a, .tterm d a] →
    Alone s u → (s.thread t).sup = false → isEquipped (s.thread t).pos = false → s0.equippedFor (s.thread t).pos = some q →
    exec i s = .next ((s0.modThread t (fun x => { x with loc := .retry (q / 32) })).returnThread t q 0)

/-- R364, R365, R368, R374: TRACE of a ray whose range is void writes a record and ends with status 0; of any other ray it writes the
record and goes on in place, step by step, until its walk returns a status. -/
def Spec.RayTraces : Prop :=
  ∀ (s : State) (t : Nat) (d a b : Reg6), Spec.Equipped s t →
    let u : UnitId := .thread t
    let s0 := s.begun u
    let p := s.reg u a.toNat
    let op := s.reg u b.toNat
    let parent : W64 := BitVec.ofNat 64 (op.toNat / 128 * 128 % 2 ^ 55)
    let pipe := (s0.vale (s0.unitVale u)).pipe (op.toNat % 16)
    let started (s2 : State) (r : Ray) (depth : Nat) : Prop :=
      let n := r.begin parent (op.toNat % 16) depth
      let s3 := Spec.written s2 u (beginWrites p n)
      depth ≤ pipeMaxd pipe → Spec.writable s2 u (beginWrites p n) →
      (n.void = true → Spec.ends s t (.trace d a b) d p s3 n n.finish 0) ∧
      (n.void = false → exec (.trace d a b) s = .next ((s3.modCom u (fun c => { c with walk := true })).stalled u))
    (∀ s1 r, (s.com u).walk = false → Spec.rayAt s0 u p parent s1 r → Spec.traceable r op pipe →
      (parent = 0 → started s1 r 1) ∧
      (parent ≠ 0 → ∀ x s2, s1.readWords u (parent + 0x58) 1 = .ok ([x], s2) → started s2 r ((walkStOf x).depth + 1))) ∧
    (∀ s1 r, (s.com u).walk = true → Spec.rayAt s0 u p 0 s1 r → r.st.phase = 1 → Spec.walks s t (.trace d a b) d p s1 r)

/-- R369: TNEXT of a finished walk gives its verdict, of an active one goes on; THIT takes the candidate and tells whether it did; TIGN
drops it; TTERM ends the walk. -/
def Spec.RayRecords : Prop :=
  ∀ (s : State) (t : Nat) (d a b : Reg6) (s1 : State) (r : Ray), Spec.Equipped s t →
    let u : UnitId := .thread t
    let s0 := s.begun u
    let p := s.reg u a.toNat
    Spec.rayAt s0 u p 0 s1 r →
    (r.st.phase = 0 → Spec.ends s t (.tnext d a) d p s1 r r.finish r.finish.verdict) ∧
    (r.st.phase = 1 → Spec.walks s t (.tnext d a) d p s1 r) ∧
    (r.st.phase = 2 ∨ r.st.phase = 3 →
      let l := rayWrites p r { r with st := { r.st with phase := 1 } }
      Spec.writable s1 u l →
      exec (.tnext d a) s = .next (((Spec.written s1 u l).modCom u (fun c => { c with walk := true })).stalled u)) ∧
    (r.st.phase < 4 →
      (let x := r.take (s.reg u b.toNat)
       Spec.writable s1 u (rayWrites p r x.1) → exec (.thit d a b) s =
        .next (s.afterC u (.thit d a b) ((Spec.written s1 u (rayWrites p r x.1)).setReg u d.toNat (if x.2 then 1 else 0)))) ∧
      (let n := if 2 ≤ r.st.phase then { r with st := { r.st with phase := 1 } } else r
       Spec.writable s1 u (rayWrites p r n) → exec (.tign a) s = .next (s.afterC u (.tign a) (Spec.written s1 u (rayWrites p r n)))) ∧
      Spec.ends s t (.tterm d a) d p s1 r r.finish r.finish.verdict)

/-- TRACE, TNEXT, THIT, TIGN and TTERM work on the ray record and complete: the statements above together. -/
def Obligations.RayInstructions : Prop := Spec.RayTraces ∧ Spec.RayRecords

/-- R370 to R372: with no lane in EXEC a lone TRACE does nothing; else its lanes leave for the equipped positions of their groups.
REPACK of a thread, or of the lanes of a wave, moves them into bins of the Vale, once it is their turn and there is room. A path that
ends so gives way to another, or to the end of the wave. That a lone TRACE and a REPACK may stand in a repeat body (log entry 52) and that RPTS.ACT
becomes 0 where a path ends (log entry 30) are the model's choices. -/
def Spec.LanesLeave : Prop :=
  ∀ (s : State) (w : Nat) (tmpl : BitVec 4) (off : W32), Alone s (.wave w) →
    let u : UnitId := .wave w
    let s0 := s.begun u
    let ls := Mask.lanes (s0.wave w).exec
    let tgt := Spec.relative s u (off.signExtend 64)
    let ending (i : Instr) (x : State) : Prop :=
      (∀ y, x.pathEnd w = .done y → exec i s = .next (s.afterC u i y)) ∧
      (∀ y a, x.pathEnd w = .goto y a → exec i s = .next (s.afterGo u i y a))
    Spec.reachable tgt →
    (∀ pipe : BitVec 4,
      let x := (s0.vale (s0.unitVale u)).pipe pipe.toNat
      let dest := ls.map (fun l => (l, s0.equippedFor (s0.unitVale u * 32 + 4 * (l / 8) + 3)))
      pipeMaxd x ≠ 0 →
      (ls = [] → exec (.traceRidge tmpl pipe off) s = .next (s.afterC u (.traceRidge tmpl pipe off) s0)) ∧
      (ls ≠ [] → ∀ h s1, s0.readHeader u false tgt = .ok (h, s1) → s1.accessesOf u = [] → (s1.wave w).lead = [] →
        (s1.wave w).leak = none → (∀ e ∈ dest, e.2.isSome = true) →
        ending (.traceRidge tmpl pipe off)
          ((s1.lanesToTrace w tmpl.toNat (pipePregs x) tgt (dest.map (fun e => (e.1, e.2.getD 0)))).dropExec w))) ∧
    (∀ d : Reg6,
      let key (l : Nat) : W32 := s0.lreg w l d.toNat
      (ls = [] → exec (.repack d tmpl off) s = .next (s.afterC u (.repack d tmpl off) s0)) ∧
      (ls ≠ [] → (∀ l ∈ ls, keyRetpos (key l) ≠ some 0) → ∀ h s1, s0.readHeader u true tgt = .ok (h, s1) →
        s1.accessesOf u = [] → (s1.wave w).lead = [] → (s1.wave w).leak = none →
        let v := s1.unitVale u
        s1.binTurn v u = true →
        ending (.repack d tmpl off) (((s1.binServed v u).lanesToBins w v tmpl.toNat tgt h.1 h.2 key ls).dropExec w)))

/-- R114, R117, R371: PASS.RIDGE or REPACK of a thread, whose target has a valid header and whose turn it is, moves the thread into a
bin of its Vale. That a REPACK may stand in a repeat body is the model's choice (log entry 52). -/
def Spec.ThreadsToBins : Prop :=
  ∀ (s : State) (t : Nat) (b d : Reg6) (tmpl : BitVec 4) (off : W32) (h : Nat × Nat) (s1 : State), Alone s (.thread t) →
    let u : UnitId := .thread t
    let tgt := Spec.relative s u (off.signExtend 64)
    let v := s1.unitVale u
    let k : BinKey := { target := tgt, tmpl := tmpl.toNat, ctx := (s1.com u).ctx, fpctl := (s1.com u).fpctl, frag := false,
                        nv := h.1, scr := h.2 }
    (s.thread t).sup = false → Spec.reachable tgt → (s.begun u).readHeader u true tgt = .ok (h, s1) → s1.accessesOf u = [] →
    s1.binTurn v u = true →
    ((s.com u).rpt.act = false →
      exec (.passRidge b tmpl off) s = .next (Spec.binned s1 t v k ((s1.reg u b.toNat).toNat % 2 ^ 16) (s1.thread t).retpos)) ∧
    (let key : W32 := ((s.thread t).reg d.toNat).extractLsb' 0 32
     keyRetpos key ≠ some 0 →
     exec (.repack d tmpl off) s = .next (Spec.binned s1 t v k (key.toNat % 2 ^ 16) (keyRetpos key)))

/-- R123, R124: PASS.SPUR sends the lanes of EXEC home as threads; PASS.FLUSH closes the open bins of its target and template. -/
def Spec.LanesReturn : Prop :=
  ∀ (s : State) (u : UnitId) (tmpl : BitVec 4) (off : W32), Alone s u → (s.com u).rpt.act = false → s.isSup u = false →
    let s0 := s.begun u
    let tgt := Spec.relative s u (off.signExtend 64)
    Spec.reachable tgt →
    exec (.passFlush tmpl off) s = .next (s.afterC u (.passFlush tmpl off)
      (s0.modVale (s0.unitVale u) (fun x => { x with bins := x.bins.map (fun e =>
        if e.2.closed.isNone && e.2.target == tgt && e.2.tmpl == tmpl.toNat && e.2.ctx == (s.com u).ctx
        then (e.1, { e.2 with closed := some (if e.2.frag then 3 else 2) }) else e) }))) ∧
    (∀ w h s1, u = .wave w → s0.readHeader u false tgt = .ok (h, s1) → s1.accessesOf u = [] → (s1.wave w).lead = [] →
      s1.lanesHaveHome w = true → (s1.wave w).leak = none →
      let x := (s1.lanesHome w tmpl.toNat tgt (Mask.lanes (s1.wave w).exec)).dropExec w
      (∀ y, x.pathEnd w = .done y → exec (.passSpur tmpl off) s = .next (s.afterC u (.passSpur tmpl off) y)) ∧
      (∀ y a, x.pathEnd w = .goto y a → exec (.passSpur tmpl off) s = .next (s.afterGo u (.passSpur tmpl off) y a)))

/-- A Contour or Traverse instruction elsewhere, lone TRACE, REPACK and PASS move threads and lanes between positions and engines: the statements
above together. -/
def Obligations.Passes : Prop := Spec.EquippedMoves ∧ Spec.LanesLeave ∧ Spec.ThreadsToBins ∧ Spec.LanesReturn

/-- R390, R391: BARA arrives and gives the phase; BAR arrives and, as the last, goes on with acquire semantics, or waits for the end of
its phase; BARW goes on once the phase has passed its token. -/
def Obligations.Barriers : Prop :=
  ∀ (s : State) (u : UnitId) (b : Nat) (n : BitVec 4), Alone s u →
    let s0 := s.begun u
    Spec.memberOf s0 u b →
    let arrives (i : Instr) (cnt : W32) : Prop := ∀ p x, Spec.arrival s0 b n.toNat cnt = some (p, x) →
      let s1 := Spec.arrived s0 b n.toNat x
      (x.ph ≠ p → exec i s = .next (s.afterC u i (s1.l1Acquire u))) ∧
      (x.ph = p → exec i s = .next (((s1.l1Acquire u).setWait u (.barrier b n.toNat p)).stalled u))
    let notes (i : Instr) (d : Reg6) (cnt : W32) : Prop := ∀ p x, Spec.arrival s0 b n.toNat cnt = some (p, x) →
      exec i s = .next (s.afterC u i ((Spec.arrived s0 b n.toNat x).setReg u d.toNat (p.zeroExtend 64)))
    (∀ c : Reg6, arrives (.bar n c) ((s.reg u c.toNat).extractLsb' 0 32)) ∧ (∀ cnt : W32, arrives (.barLone n cnt) cnt) ∧
    (∀ d c : Reg6, notes (.bara d n c) d ((s.reg u c.toNat).extractLsb' 0 32)) ∧
    (∀ (d : Reg6) (cnt : W32), notes (.baraLone d n cnt) d cnt) ∧
    (∀ c : Reg6,
      let ahead := ((s0.bar b n.toNat).ph - (s.reg u c.toNat).extractLsb' 0 32).toNat
      (1 ≤ ahead ∧ ahead ≤ 2 ^ 31 → exec (.barw n c) s = .next (s.afterC u (.barw n c) ((s0.setWait u .none).l1Acquire u))) ∧
      (¬ (1 ≤ ahead ∧ ahead ≤ 2 ^ 31) → exec (.barw n c) s =
        .next ((s0.setWait u (.barrierTok b n.toNat ((s.reg u c.toNat).extractLsb' 0 32))).stalled u)))

/-- R394: RANGE.SET, RANGE.GET and RANGE.NEXT, whose words R393 gives, write, read and consume a unit's range; STEAL (R395) gives 2 while the range is not
empty, 1 with the upper half of the first victim's range, or 0. That a count is bits 31:0 (log entry 57) and the order in which victims are asked
(log entry 55) are the model's choices. -/
def Spec.Ranges : Prop :=
  ∀ (s : State) (u : UnitId), Alone s u →
    let s0 := s.begun u
    let lo := (s.com u).lo
    let hi := (s.com u).hi
    (∀ a : Reg6,
      let x := s.reg u a.toNat
      let l : W32 := x.extractLsb' 0 32
      let h : W32 := x.extractLsb' 32 32
      exec (.rangeSet a) s = .next (s.afterC u (.rangeSet a)
        (s0.modCom u (fun c => { c with lo := l, hi := if h.toNat < l.toNat then l else h })))) ∧
    (∀ d : Reg6, exec (.rangeGet d) s = .next (s.afterC u (.rangeGet d) (s0.setReg u d.toNat (hi ++ lo)))) ∧
    (∀ d b : Reg6, exec (.rangeNext d b) s =
      .next (s.afterC u (.rangeNext d b) (Spec.takes s0 u d ((s.reg u b.toNat).extractLsb' 0 32)))) ∧
    (∀ (d : Reg6) (cnt : W32), exec (.rangeNextLone d cnt) s = .next (s.afterC u (.rangeNextLone d cnt) (Spec.takes s0 u d cnt))) ∧
    (let steals (i : Instr) (d : Reg6) (n : Nat) : Prop :=
       let vs := (s0.victims u).take (if n = 0 then 8 else n)
       (lo.toNat < hi.toNat → exec i s = .next (s.afterC u i (s0.setReg u d.toNat 2))) ∧
       (¬ lo.toNat < hi.toNat → (s0.choose 2).1 = 0 →
         (∀ t, (s0.choose 2).2.probeAll u vs = some t → exec i s = .next (s.afterC u i (t.setReg u d.toNat 1))) ∧
         ((s0.choose 2).2.probeAll u vs = none → exec i s = .next (s.afterC u i ((s0.choose 2).2.setReg u d.toNat 0))))
     (∀ d b : Reg6, steals (.steal d b) d ((s.reg u b.toNat).toNat % 256)) ∧
     (∀ (d : Reg6) (n : BitVec 8), steals (.stealLone d n) d n.toNat))

/-- R401: PRIO gives the old priority and sets the new one, at most the unit's cap. -/
def Spec.Priorities : Prop :=
  ∀ (s : State) (u : UnitId) (d a : Reg6) (level : BitVec 2), Alone s u →
    let set (i : Instr) (n : BitVec 2) : Prop := exec i s = .next (s.afterC u i
      (((s.begun u).modCom u (fun c => { c with prio := if c.cap.toNat < n.toNat then c.cap else n })).setReg u d.toNat
        ((s.com u).prio.zeroExtend 64)))
    set (.prio d a) ((s.reg u a.toNat).extractLsb' 0 2) ∧ set (.prioLone d level) level

/-- R394: a steal at a victim with at least two indices left moves the upper half to the thief in one step; the victim keeps the lower
half, and the odd index. -/
def Spec.StealSplits : Prop :=
  ∀ (s : State) (thief victim : UnitId), s.unitExists victim = true → s.unitExists thief = true → thief ≠ victim →
    2 ≤ ((s.com victim).hi - (s.com victim).lo).toNat →
    ∃ t, s.stealFrom thief victim = some t ∧
      ((t.com victim).hi - (t.com victim).lo).toNat = (((s.com victim).hi - (s.com victim).lo).toNat + 1) / 2 ∧
      (t.com victim).lo = (s.com victim).lo ∧ (t.com thief).lo = (t.com victim).hi ∧ (t.com thief).hi = (s.com victim).hi

/-- RANGE, STEAL and PRIO complete with their result: the statements above together. -/
def Obligations.RangesAndPriorities : Prop := Spec.Ranges ∧ Spec.StealSplits ∧ Spec.Priorities

/-- R386 to R388: LAUNCH, with an entry free once the parked LAUNCHes have what they can use, and a record that passes its checks, enters the grid and writes its serial number; LWAIT of
a record that is DONE gives the exit code with acquire semantics, and all ones once its limit has passed. -/
def Obligations.Launches : Prop :=
  ∀ (s : State) (u : UnitId) (d a : Reg6), Alone s u →
    let s0 := s.begun u
    let p := s.reg u a.toNat
    (∀ shared ws t,
      let depth := s0.launchDepth u
      let g0 := s0.grantLaunches (s0.unitDie u) (s0.die (s0.unitDie u)).launchq.length
      let s1 := ((g0.takeEntry u depth shared).setWait u .none).l1Acquire u
      let die := t.unitDie u
      let k := t.com u
      let r := launchRec ws
      let cap : BitVec 2 := match k.grid with | some g => (t.grid g).prio | none => 3
      let g := t.enterGrid die (t.unitCtx u) r (if cap.toNat < r.prio.toNat then cap else r.prio) depth k.grid k.lastGrid none k.granted
      (∀ w, u = .wave w → (s.wave w).kind = .launched) → depth < 11 → p.toNat % 128 = 0 → p.toNat < 2 ^ 55 →
      (s.com u).granted = none → (g0.die (s0.unitDie u)).freeFor depth = some shared → (g0.com u).wait = .none → s1.accessesOf u = [] →
      s1.record u p 16 = .ok (ws, t) → t.launchCheck (t.unitFunc u) die r = none →
      exec (.launch d a) s = .next (s.afterC u (.launch d a)
        ((g.2.modCom u (fun k => { k with granted := none, lastGrid := some g.1 })).setReg u d.toNat
          (((g.2.modCom u (fun k => { k with granted := none, lastGrid := some g.1 })).grid g.1).serial.zeroExtend 64)))) ∧
    (∀ (i : Instr) (limit : Option W32) place,
      i = (match limit with | none => .lwait d a | some n => .lwaitLone d a n) →
      let s1 := s0.modCom u (fun c => { c with until_ := limit.map (fun n => (s.com u).until_.getD (s.time + n.toNat)) })
      let s2 := (s1.usedWord u p place).setWait u .none
      s0.inTask u = false → p.toNat % 64 = 0 → Spec.wordAt s1 u p 16 place →
      (s2.rd place 8 ≠ 0 → exec i s = .next (s.afterC u i ((s2.setReg u d.toNat (BitVec.ofNat 64 (s2.rd (place + 8) 4))).l1Acquire u))) ∧
      (s2.rd place 8 = 0 → s2.limitPassed u = true →
        exec i s = .next (s.afterC u i ((s2.setReg u d.toNat (BitVec.ofInt 64 (-1))).l1Acquire u))) ∧
      (s2.rd place 8 = 0 → s2.limitPassed u = false →
        exec i s = .next ((s2.addWaiter u place).park u (.lwait p d (s2.time + 100000) false))))

/-- R399, R400: SLEEP gives 1 where its word differs from B, 2 where it would wait with a limit of 0, and else parks its unit as a
waiter on the word; WAKE releases the oldest waiters on its word and gives their number. -/
def Obligations.SleepAndWake : Prop :=
  ∀ (s : State) (u : UnitId) (d a b : Reg6) (place : Nat), Alone s u →
    let s0 := s.begun u
    (∀ (i : Instr) (limit : Option W32), i = (match limit with | none => .sleep d a b | some n => .sleepLone d a b n) →
      let s1 := s0.modCom u (fun c => { c with until_ := limit.map (fun n => (s.com u).until_.getD (s.time + n.toNat)) })
      let s2 := s1.usedWord u (s.reg u a.toNat) place
      s0.inTask u = false → Spec.wordAt s1 u (s.reg u a.toNat) 8 place →
      (BitVec.ofNat 64 (s2.rd place 8) ≠ s.reg u b.toNat →
        exec i s = .next (s.afterC u i ((s2.setReg u d.toNat 1).l1Acquire u))) ∧
      (BitVec.ofNat 64 (s2.rd place 8) = s.reg u b.toNat → limit = some 0 →
        exec i s = .next (s.afterC u i ((s2.setReg u d.toNat 2).l1Acquire u))) ∧
      (BitVec.ofNat 64 (s2.rd place 8) = s.reg u b.toNat → limit ≠ some 0 →
        exec i s = .next ((s2.addWaiter u place).park u (.sleep d)))) ∧
    (∀ (i : Instr) (cnt : Nat), (i = .wake d a b ∧ cnt = (s.reg u b.toNat).toNat) ∨ (∃ n : W32, i = .wakeLone d a n ∧ cnt = n.toNat) →
      let s1 := s0.l1Acquire u
      s1.accessesOf u = [] → s1.heldAccess u = none →
      s0.laneCheck u (s0.spaceOf u) 8 (s.reg u a.toNat) = none → Spec.wordAt s1 u (s.reg u a.toNat) 0 place →
      let s2 := s1.usedWord u (s.reg u a.toNat) place
      exec i s = .next (s.afterC u i ((s2.wakeWord place cnt).2.setReg u d.toNat (BitVec.ofNat 64 (s2.wakeWord place cnt).1))))

/-- R398: TASK counts its task in at the join word, where it names one, sends its message, and completes when the message has its
status, counting the task out again if it was refused; TEND counts out with a release, wakes the waiters on the join word, and ends its
thread, or its lanes, as EXIT does. -/
def Obligations.Tasks : Prop :=
  ∀ (s : State) (u : UnitId) (d a b : Reg6), Alone s u → (s.com u).redo = none →
    let s0 := s.begun u
    (let j := s.reg u (b.toNat + 2)
     let pos := (s.reg u a.toNat).toNat / 256 % 4096
     (∀ x t, j = 0 → pos < 3072 → Spec.oneAnswer s0 (Spec.taskMessage s0 u d a b) x t →
       exec (.task d a b) s = .next (s.afterC u (.task d a b) t)) ∧
     (∀ x y s1 t, j ≠ 0 → pos < 3072 → s0.laneCheck u (s0.spaceOf u) 8 j = none →
       Spec.oneAnswer s0 (Spec.joins s0 u j false) x s1 → Spec.oneAnswer s1 (Spec.taskMessage s1 u d a b) y t →
       (y = 0 → exec (.task d a b) s = .next (s.afterC u (.task d a b) t)) ∧
       (∀ z t', y ≠ 0 → Spec.oneAnswer t (Spec.joins t u j true) z t' →
         exec (.task d a b) s = .next (s.afterC u (.task d a b) t')))) ∧
    (let j := s.reg u a.toNat
     let ended (x : State) : Prop :=
       (∀ t, u = .thread t →
         exec (.tend a) s = .next (s.afterC u (.tend a) (x.modCom u (fun c => { c with after := some (.exit 0) })))) ∧
       (∀ y, x.exitUnit u 0 = .done y → exec (.tend a) s = .next (s.afterC u (.tend a) y)) ∧
       (∀ y c, x.exitUnit u 0 = .goto y c → exec (.tend a) s = .next (s.afterGo u (.tend a) y c))
     (∀ w, u = .wave w → (s0.wave w).leak = none) →
     (j = 0 → ended s0) ∧
     (∀ x s1 place, j ≠ 0 → s0.laneCheck u (s0.spaceOf u) 8 j = none → Spec.oneAnswer s0 (Spec.joins s0 u j true) x s1 →
       s1.accessesOf u = [] → s1.heldAccess u = none → Spec.wordAt s1 u j 0 place →
       ended ((s1.usedWord u j place).wakeWord place 0).2))

/-- R415, R416: TRAP and SVC execute their whole bundle; then TRAP takes TRAP_INSTRUCTION with its code in DETAIL, and SVC calls the
supervisor service with its number. SVC needs an SVEC, user mode (R409) and no repeat body (R107), and does nothing with EXEC 0. -/
def Spec.TrapsAndCalls : Prop :=
  ∀ (s : State) (u : UnitId), Alone s u →
    let s0 := s.begun u
    let trap (i : Instr) (code : W32) : Prop := exec i s = .next (s.afterC u i
      (Spec.dueAfter s0 u (.trap { cause := .trapInstruction, detail := code.zeroExtend 64 })))
    let call (i : Instr) (num : W32) : Prop := s.isSup u = false → (s.com u).rpt.act = false →
      ((∀ w, u = .wave w → (s.wave w).exec ≠ 0) → (s0.vale (s0.unitVale u)).svec &&& 0x7FFFFFFFFFFFC0 ≠ 0 →
        exec i s = .next (s.afterC u i (Spec.dueAfter s0 u (.svc num)))) ∧
      (∀ w, u = .wave w → (s.wave w).exec = 0 → exec i s = .next (s.afterC u i s0))
    trap .trap 0 ∧ (∀ code, trap (.trapLone code) code) ∧ call .svc 0 ∧ ∀ num, call (.svcLone num) num

/-- R417, R418: SRET of a thread in a service call returns after its bundle; ERET in its three modes disposes of the unit in the frame
that A names, after which its handler ends. -/
def Spec.TrapReturns : Prop :=
  ∀ (s : State) (u : UnitId), Alone s u →
    let s0 := s.begun u
    (∀ t, u = .thread t → (s.thread t).svc.isSome = true →
      exec .sret s = .next (s.afterC u .sret (Spec.dueAfter s0 u .sret))) ∧
    (∀ (a b : Reg6) (lone : Bool) f x, s0.frameAt (s0.unitVale u) (s.reg u a.toNat) = some (f, x) →
      let done (i : Instr) (mode : Nat) (tgt : W64) : Prop := exec i s = .next (s.afterC u i
        (Spec.dueAfter (s0.returnTrap (s0.unitVale u) f x mode tgt) u (.exit 0)))
      done (.eret lone a) 0 0 ∧ ((s.reg u b.toNat).toNat % 8 = 0 → done (.eretRedirect a b) 1 (s.reg u b.toNat)) ∧
      done (.eretKill a) 2 0)

/-- TRAP, SVC, SRET and ERET take effect after their bundle: the statements above together. -/
def Obligations.CallsAndReturns : Prop := Spec.TrapsAndCalls ∧ Spec.TrapReturns

/-- R60, R411: CRD and CWR of a register that the unit may reach read and write it. -/
def Spec.ControlAccess : Prop :=
  ∀ (s : State) (u : UnitId) (d a : Reg6) (num : BitVec 12), Alone s u →
    let s0 := s.begun u
    (Spec.mayReach s0 u false num.toNat → exec (.crd d num) s = .next (s.afterC u (.crd d num)
      ((s0.readControl u num.toNat).2.setReg u d.toNat (s0.readControl u num.toNat).1))) ∧
    (Spec.mayReach s0 u true num.toNat →
      let t := s0.writeControl u num.toNat (s.reg u a.toNat)
      (t.unitExists u = true → exec (.cwr a num) s = .next (s.afterC u (.cwr a num) t)) ∧
      (t.unitExists u = false → exec (.cwr a num) s = .next t))

/-- R120, R134, R136, R411, R469, R471, R506: registers of a Vale that hold one value each, with their number, what a write of `x` stores and what a read
gives. Reserved fields stay 0; GWAIT takes 1 for 0. -/
def Spec.valeRegisters (x : W64) : List (Nat × (Vale → Vale) × (Vale → W64)) :=
  let word : W32 := x.extractLsb' 0 32
  [(0x110, fun y => { y with gwait := if word = 0 then 1 else word }, fun y => y.gwait.zeroExtend 64),
   (0x111, fun y => { y with spinLimit := x.extractLsb' 0 16 }, fun y => y.spinLimit.zeroExtend 64),
   (0x201, fun y => { y with tvec := x &&& 0x7FFFFFFFFFFFC0 }, fun y => y.tvec),
   (0x202, fun y => { y with svec := x &&& 0x7FFFFFFFFFFFC0 }, fun y => y.svec),
   (0x221, fun y => { y with hbper := word }, fun y => y.hbper.zeroExtend 64),
   (0x250, fun y => { y with pmov := y.pmov &&& ~~~(x.extractLsb' 0 16) }, fun y => y.pmov.zeroExtend 64),
   (0x280, fun y => { y with dbga0 := x &&& 0x7FFFFFFFFFFFFE }, fun y => y.dbga0),
   (0x281, fun y => { y with dbga1 := x &&& 0x7FFFFFFFFFFFFE }, fun y => y.dbga1),
   (0x282, fun y => { y with dbgss := x }, fun y => y.dbgss),
   (0x283, fun y => { y with dbgsw := x.extractLsb' 0 10 &&& 0x37F }, fun y => y.dbgsw.zeroExtend 64),
   (0x2C0, fun y => { y with sblk := x.extractLsb' 0 25 &&& 0x1FF01FF }, fun y => y.sblk.zeroExtend 64)]

/-- R382, R411: registers of a die, likewise. Launch queue q has LQCFG at 0x500 + q. -/
def Spec.dieRegisters (x : W64) : List (Nat × (Die → Die) × (Die → W64)) :=
  let word : W32 := x.extractLsb' 0 32
  [(0x210, fun y => { y with parklim := word }, fun y => y.parklim.zeroExtend 64),
   (0x211, fun y => { y with ctxtb := x &&& 0xFFFFFFFFC000 }, fun y => y.ctxtb),
   (0x212, fun y => { y with swapb := x &&& 0xFFFFFFFFFFFF0000 }, fun y => y.swapb),
   (0x213, fun y => { y with wtype := x.extractLsb' 0 8 }, fun y => y.wtype.zeroExtend 64),
   (0x214, fun y => { y with tdwait := word }, fun y => y.tdwait.zeroExtend 64)] ++
  (List.range 64).map (fun q =>
    (0x500 + q, fun y => { y with lqcfg := y.lqcfg.put q (x.extractLsb' 0 16 &&& 0xF007) }, fun y => (y.lqcfg.getD q 0).zeroExtend 64))

/-- R79, R152, R279, R411: what the registers read as and what a write does to them: SSTAT's DZ and OV and FPST clear where 1 is
written, FPCTL takes six bits, RPTS is only read; SCTL and SINFO of a supervisor; the matrix registers of a wave, MFA, MFB, MSA, MSB and MRING, their
fields; CORECFG of the unit's core, and the registers of its Vale and of its die. -/
def Spec.OwnRegisters : Prop :=
  ∀ (s : State) (u : UnitId) (x : W64),
    s.readControl u 1 = ((s.com u).fpctl.zeroExtend 64, s) ∧ s.readControl u 2 = ((s.com u).fpst.zeroExtend 64, s) ∧
    s.readControl u 0 = (s.sstat u, s) ∧ s.readControl u 3 = ((s.com u).rpt.word, s) ∧
    s.writeControl u 0 x = s.modCom u (fun c => { c with dz := c.dz && !x.getLsbD 0, ov := c.ov && !x.getLsbD 1 }) ∧
    s.writeControl u 1 x = s.modCom u (fun c => { c with fpctl := x.extractLsb' 0 6 }) ∧
    s.writeControl u 2 x = s.modCom u (fun c => { c with fpst := c.fpst &&& ~~~(x.extractLsb' 0 6) }) ∧
    s.readControl u 0x200 = ((s.position (s.unitVale u * 32 + s.unitPos u % 32)).cls.zeroExtend 64, s) ∧
    (s.unitPos u < Config.vales * 32 → exec (.registerWrite (.position (s.unitPos u)) 0x200 x) s = .next (s.writeControl u 0x200 x)) ∧
    (∀ r ∈ Spec.valeRegisters x, s.readControl u r.1 = (r.2.2 (s.vale (s.unitVale u)), s) ∧
      s.writeControl u r.1 x = s.modVale (s.unitVale u) r.2.1) ∧
    (∀ r ∈ Spec.dieRegisters x, s.readControl u r.1 = (r.2.2 (s.die (s.unitDie u)), s) ∧
      s.writeControl u r.1 x = s.modDie (s.unitDie u) r.2.1) ∧
    (∀ t, u = .thread t →
      s.readControl u 0x203 = (BitVec.ofNat 64 ((s.thread t).sctx % 256 * 2 ^ 8 + if (s.thread t).phys then 1 else 0), s) ∧
      s.readControl u 0x204 = ((s.thread t).sinfo, s) ∧
      s.writeControl u 0x203 x = s.modThread t (fun y => { y with sctx := x.toNat / 256 % 256, phys := x.getLsbD 0 })) ∧
    (∀ w, u = .wave w →
      let y := s.wave w
      s.readControl u 0x10 = (y.mfa.zeroExtend 64, s) ∧ s.readControl u 0x11 = (y.mfb.zeroExtend 64, s) ∧
      s.readControl u 0x12 = (y.msa.zeroExtend 64, s) ∧ s.readControl u 0x13 = (y.msb.zeroExtend 64, s) ∧
      s.readControl u 0x14 = (y.mring.zeroExtend 64, s) ∧
      s.writeControl u 0x10 x = s.modWave w (fun y => { y with mfa := x.extractLsb' 0 4 }) ∧
      s.writeControl u 0x11 x = s.modWave w (fun y => { y with mfb := x.extractLsb' 0 4 }) ∧
      s.writeControl u 0x12 x = s.modWave w (fun y => { y with msa := x.extractLsb' 0 20 }) ∧
      s.writeControl u 0x13 x = s.modWave w (fun y => { y with msb := x.extractLsb' 0 20 &&& 0xC00FF }) ∧
      s.writeControl u 0x14 x = s.modWave w (fun y => { y with mring := x.extractLsb' 0 21 &&& 0x1F1F1F }))

/-- CRD and CWR reach the control registers, which read and write as their rules say: the statements above together. -/
def Obligations.ControlRegisters : Prop := Spec.ControlAccess ∧ Spec.OwnRegisters

/-- R420, R425 to R427: TLBW with operands in order ends its walk, and gives 0, or 1 for a stale one; TLBI removes the entries of a
page, a context or a function, and gives 0 once no access that it names is still on its way to the host or a peer. -/
def Spec.Translations : Prop :=
  ∀ (s : State) (u : UnitId) (d a b : Reg6) (req : W16) (size : BitVec 2), Alone s u →
    let s0 := s.begun u
    let x := s.reg u a.toNat
    let drops (i : Instr) (fn : Nat) (tc : TcEntry → Bool) (wk : Walk → Bool) (ml : MetaLine → Bool) (on : Nat → Bool) (cs : List Nat) : Prop :=
      let t := cs.foldl State.reloadRegions (Spec.invalidated s0 tc wk ml)
      Spec.mayName s0 u fn → (s.com u).walk = false →
      ((∀ x ∈ t.accesses, on x.ctx = true → ∀ l ∈ x.lanes, l.st ≠ .forwarded) →
        exec i s = .next (s.afterC u i (t.setReg u d.toNat 0))) ∧
      ((∃ x ∈ t.accesses, on x.ctx = true ∧ ∃ l ∈ x.lanes, l.st = .forwarded) →
        exec i s = .next ((t.modCom u (fun c => { c with walk := true })).stalled u))
    let ctx := x.toNat / 2 ^ 56
    let page := x.toNat / 2 ^ 16 % 2 ^ 39
    (Spec.leafOk x (s.reg u b.toNat) size →
      let r := s0.endWalk (s0.unitDie u) x (s.reg u b.toNat) req.toNat size.toNat
      exec (.tlbw d a b req size) s = .next (s.afterC u (.tlbw d a b req size) (r.2.setReg u d.toNat r.1))) ∧
    drops (.tlbiPage d a) (s0.ctxFunc ctx) (fun e => e.ctx == ctx && e.va / 2 ^ e.size == page * 2 ^ 16 / 2 ^ e.size)
      (fun w => w.ctx == ctx && w.page == page) (fun l => l.ctx == ctx && l.va / 2 ^ 16 == page) (fun c => c == ctx) [] ∧
    drops (.tlbiCtx d a) (s0.ctxFunc ctx) (fun e => e.ctx == ctx) (fun w => w.ctx == ctx) (fun l => l.ctx == ctx) (fun c => c == ctx) [ctx] ∧
    drops (.tlbiFunc d a) (x.toNat % 16) (fun e => s0.ctxFunc e.ctx == x.toNat % 16) (fun w => s0.ctxFunc w.ctx == x.toNat % 16)
      (fun l => s0.ctxFunc l.ctx == x.toNat % 16) (fun c => s0.ctxFunc c == x.toNat % 16)
      (s0.ctxs.keys.filter (fun c => s0.ctxFunc c == x.toNat % 16))

/-- R437: GSTOP of a partition that is not halted halts it, and gives 0 once every unit of it is at rest, or waits; of a halted one it
gives 1. GSTOP.GO releases a halted partition and gives 0, or gives 1. -/
def Spec.Halts : Prop :=
  ∀ (s : State) (u : UnitId) (lone : Bool) (d a : Reg6), Alone s u →
    let s0 := s.begun u
    let fn := (s.reg u a.toNat).toNat % 16
    let i : Instr := .gstop lone d a
    let s1 := (s0.modFunc fn (fun f => { f with halted := true, issuer := some u })).haltStep fn (fun _ => true) (some u)
    Spec.mayName s0 u fn →
    ((s0.func fn).halted = false → s1.haltDone fn (fun _ => true) (some u) = true →
      exec i s = .next (s.afterC u i (((s1.modFunc fn (fun f => { f with quiet := true })).setWait u .none).setReg u d.toNat 0))) ∧
    ((s0.func fn).halted = false → s1.haltDone fn (fun _ => true) (some u) = false →
      exec i s = .next ((s1.setWait u (.gstop fn)).stalled u)) ∧
    ((s0.func fn).halted = true → exec i s = .next (s.afterC u i (s0.setReg u d.toNat 1))) ∧
    ((s0.func fn).halted = false → exec (.gstopGo d a) s = .next (s.afterC u (.gstopGo d a) (s0.setReg u d.toNat 1))) ∧
    ((s0.func fn).halted = true →
      let f := s0.func fn
      let s2 := (s0.haltUnits fn (fun _ => true) f.issuer).foldl State.goOn s0
      exec (.gstopGo d a) s = .next (s.afterC u (.gstopGo d a)
        ((s2.setFunc fn { f with halted := false, issuer := none, quiet := false }).setReg u d.toNat 0)))

/-- R429, R442, R443: PMR answers the fault of a token, and gives 0, or 1 where none is open; TSR reads the tick counter; WFI gives 1
for an event, 2 for a limit of 0, and else waits. -/
def Spec.RepliesAndEvents : Prop :=
  ∀ (s : State) (u : UnitId) (d a b : Reg6), Alone s u →
    let s0 := s.begun u
    let tok := (s.reg u a.toNat).toNat % 2 ^ 16
    (let r := s0.answerToken tok ((s.reg u b.toNat).getLsbD 0)
     exec (.pmr d a b) s = .next (s.afterC u (.pmr d a b) (r.2.setReg u d.toNat r.1)) ∧
     ((∀ f ∈ s.faults, f.token ≠ tok) → r = (1, s0))) ∧
    exec (.tsr d) s = .next (s.afterC u (.tsr d) (s0.setReg u d.toNat (BitVec.ofNat 64 s.time))) ∧
    (∀ t, u = .thread t →
      (∀ (i : Instr) (limit : Option W32), i = (match limit with | none => .wfi d | some n => .wfiLone d n) →
        ((s.thread t).event = true → exec i s = .next (s.afterC u i
          ((s0.modThread t (fun x => { x with event := false })).setReg u d.toNat 1))) ∧
        ((s.thread t).event = false → limit = some 0 → exec i s = .next (s.afterC u i (s0.setReg u d.toNat 2))) ∧
        ((s.thread t).event = false → limit ≠ some 0 →
          exec i s = .next (s0.setWait u (.wfi d (limit.map (fun n => s.time + n.toNat)))))))

/-- TLBW, TLBI, GSTOP, PMR, TSR and WFI complete with their result: the statements above together. -/
def Obligations.SystemOperations : Prop := Spec.Translations ∧ Spec.Halts ∧ Spec.RepliesAndEvents

/-- R206, R213, R225, R424, R458: an access that has reached its home in order is performed; its answer, that of a forwarded access, or
a word filled for a waiting LDSYNC, comes back; an access that waits for a walk is translated again. -/
def Spec.LaneSteps : Prop :=
  ∀ (s : State) (n lane : Nat) (a : Access) (l : ALane), s.access n = some a → a.lane lane = some l →
    Spec.occurs s (.memoryAnswer n lane) (l.st = .perf) (s.answerLane n lane) ∧
    Spec.occurs s (.pointOfPerformance n lane)
      (l.st = .pend ∧ s.mayPerform a l = true ∧ ¬ (a.op.isSync = true ∧ ((s.com a.unit).away || s.haltNames a.unit) = true)) (s.performLane n lane) ∧
    Spec.occurs s (.translationMiss n lane) (l.st = .walk) (s.performLane n lane) ∧
    (l.st = .recall → exec (.forwardedCompletion n lane) s = .next (s.performAnswer n lane)) ∧
    (l.st ≠ .recall → Spec.occurs s (.forwardedCompletion n lane) (l.st = .forwarded)
      (if s.unitExists a.unit then (((s.choose 2).2.forwardOver ((s.choose 2).1 == 1) n lane).answerLane n lane).reap n
        else s.lateAnswer a l)) ∧
    (∀ w, s.waiters.find? (fun x => x.lane == some (n, lane)) = some w →
      Spec.occurs s (.ldsyncRetry n lane)
        (l.st = .waiting ∧ s.wordEmpty w.key = false ∧ s.marked a.ctx l.ea.toNat w.key = false) (s.serveWord w.key))

/-- R244 to R251, R394: an engine starts its oldest job that may start, moves the words of a running job in any order, resumes it after
a fault and completes it; a probe of a STEAL is granted, refused by the last victim, or goes on to the next. -/
def Spec.JobSteps : Prop :=
  ∀ (s : State),
    (∀ eng, (∀ k, s.startable eng = some k → exec (.copyJobStart eng) s = .next (s.modJob k (fun j => { j with running := true }))) ∧
      (s.startable eng = none → exec (.copyJobStart eng) s = .next s)) ∧
    (∀ k j word, s.jobs.find k = some j →
      Spec.occurs s (.engineWrite k word) (s.jobReady j word = true) (s.moveWord k word) ∧
      Spec.occurs s (.copyJobCompletion k) (j.running = true ∧ j.status = 0 ∧ ∀ m ∈ j.moves, m.written = true) (s.endJob k 1) ∧
      (∀ t, j.waitTok = some t → Spec.occurs s (.copyJobFaultResume k) (∀ f ∈ s.faults, f.token ≠ t)
        (s.modJob k (fun x => { x with waitTok := none })))) ∧
    (∀ req u vs d, s.reqs.find req = some (.steal u vs d) →
      let done (t : State) (x : W64) : State := (({ t with reqs := t.reqs.drop req }).setReg u d.toNat x).setOwnWait u (.answered false)
      (vs = [] → exec (.stealRequest req) s = .next (done s 0)) ∧
      (∀ v rest, vs = v :: rest →
        (∀ t, s.stealFrom u v = some t → exec (.stealRequest req) s = .next (done t 1)) ∧
        (s.stealFrom u v = none → rest = [] → exec (.stealRequest req) s = .next (done s 0)) ∧
        (s.stealFrom u v = none → rest ≠ [] →
          exec (.stealRequest req) s = .next { s with reqs := s.reqs.put req (.steal u rest d) })))

/-- Steps of accesses, copy jobs and steals take place when they are due: the statements above together. -/
def Obligations.AccessSteps : Prop := Spec.LaneSteps ∧ Spec.JobSteps

/-- R259 to R262, R340 to R350: a message of SEND, TASK or AMSG reaches its inbox; a message moves from the overflow region of a live
position; a Contour unit serves the first lane of a message that may be served, or a fragment lane; a slot starts a walker or the task
of a message. -/
def Obligations.MessageSteps : Prop :=
  ∀ (s : State) (n : Nat),
    (∀ a, s.access n = some a → ((∃ ws, a.op = .send ws) ∨ ∃ ty, a.op = .amsg ty) →
      exec (.messageArrival n) s = .next ((s.settleLanes n (a.lanes.map ALane.lane)).reap n)) ∧
    Spec.occurs s (.overflowMove n) (s.posDead n = false) (s.drainOverflow n) ∧
    (∀ size val, Spec.occurs s (.inboxOverflowWrite n size val) ((s.position n).overflow = [])
      (s.modPosition n (fun q => if size then { q with ovSlots := val.extractLsb' 0 32 } else { q with ovBase := val &&& 0x7FFFFFFFFFF000 }))) ∧
    (∀ slot,
      (∀ w, s.walkFor n slot = some w → exec (.taskStart n slot) s = .next (s.startWalker n slot w)) ∧
      (∀ m, s.walkFor n slot = none → s.taskFor n slot = some m → exec (.taskStart n slot) s = .next (s.startTask n slot m)) ∧
      (s.walkFor n slot = none → s.taskFor n slot = none → exec (.taskStart n slot) s = .next s)) ∧
    (∀ e ∈ [Instr.contourMessage n, .contourResolve n, .tileOpen n, .tileClose n, .viewTableUpdate n],
      (∀ a l, s.access n = some a → a.op.isContour = true → a.lanes.find? (fun l => l.st == .pend && s.mayPerform a l) = some l →
        exec e s = .next (s.performAnswer n l.lane)) ∧
      (∀ a, s.access n = some a → a.op.isContour = true → a.lanes.find? (fun l => l.st == .pend && s.mayPerform a l) = none →
        exec e s = .next s) ∧
      (∀ t, s.access n = none → s.fragEnter n = some t → exec e s = .next t) ∧
      (s.access n = none → s.fragEnter n = none → exec e s = .next s))

/-- R65, R129 to R131, R299: the limit of a WAITR ends its wait and names the missing lanes, with those that are back but have not arrived (log entry 36, the
model's choice); lanes back from a service call let a wave go on; both streams blocked for 4,096 a-cycles trap QUEUE_DEADLOCK; the matrix unit runs
a wave's oldest step once its operands are there, and where the residue check passes the tile is as `Spec.MatrixElements` says; a unit without a
bundle fetches the next. -/
def Spec.WaveSteps : Prop :=
  ∀ (s : State) (w lane : Nat),
    (∀ d, s.waitrOver w = some d →
      let x := (s.wave w).timeout d.toNat
      let y (t : Wait) : Wave := { x with c := x.c.setOwnWait t }
      exec (.waitrTimeout w) s = .next (if x.exec == 0 then (s.setWave w (y .joinv)).selectPath w else s.setWave w (y .none))) ∧
    (s.waitrOver w = none → exec (.waitrTimeout w) s = .next s) ∧
    Spec.occurs s (.serviceGroupReturn w lane) (s.groupReturned w lane = true)
      (if ((s.wave w).select 0).2 then
        (s.setWave w { ((s.wave w).select 0).1 with c := ((s.wave w).select 0).1.c.setOwnWait .none }).l1Acquire (.wave w) else s) ∧
    Spec.occurs s (.queueDeadlock w) (s.deadlockOver w = true)
      ((s.modCom (.wave w) (fun c => { c with deadlock := none, bundle := none })).takeTrap (.wave w) { cause := .queueDeadlock }) ∧
    (let r := (s.settle (.wave w) (fun a => match a.dest with | .slot .. => true | _ => false)).2
     exec (.matrixStep w) s = .next (if r.stepReady w then r.runStep w else r) ∧
     ∀ st rest x, r.stepReady w = true → (r.wave w).steps = st :: rest → (r.wave w).t.find st.tile = some x → (r.choose 257).1 = 0 →
       ∃ t, exec (.matrixStep w) s = .next t ∧ (t.wave w).steps = rest ∧
         (t.wave w).t.find st.tile = some (x.step st (r.block ((r.wave w).c.block.getD 0)))) ∧
    (∀ u, Spec.occurs s (.bundleFetch u) (s.runnable u = true ∧ (s.com u).bundle = none ∧ (s.com u).after = none) (s.fetch u))

/-- R115, R123, R387, R399, R400, R412, R428, R432, R443: what ends the waits of units: a SLEEP's limit gives 2, an event or a limit
ends a WFI, an LWAIT's word is read again, a parked unit whose reason is gone goes on, a freed entry goes to the LAUNCH of the greatest
depth, a slot to the thread that waits for it, a trap to a frame, a fault message to its service again. -/
def Spec.WaitSteps : Prop :=
  ∀ (s : State) (u : UnitId) (n : Nat),
    (∀ d, s.ownWait u = .sleep d → Spec.occurs s (.sleepTimeout u) (s.limitPassed u = true ∧ s.limitPaused u = false)
      (((s.dropWaiter u).setReg u d.toNat 2).setOwnWait u (.answered true))) ∧
    (∀ d lim, (s.thread n).c.wait = .wfi d lim →
      let ended (x : W64) : State := ((s.modThread n (fun t => { t with event := false })).setReg (.thread n) d.toNat x).setWait (.thread n) (.answered false)
      ((s.thread n).event = true → exec (.wfiWake n) s = .next (ended 1)) ∧
      ((s.thread n).event = false → (∃ x, lim = some x ∧ x ≤ s.time) → exec (.wfiWake n) s = .next (ended 2)) ∧
      ((s.thread n).event = false → (∀ x, lim = some x → s.time < x) → exec (.wfiWake n) s = .next s)) ∧
    exec (.lwaitRecheck u) s = .next (s.recheck u) ∧
    ((∀ e d next, s.ownWait u ≠ .lwait e d next false) → s.recheck u = s) ∧
    Spec.occurs s (.parkWaitEnd u) (s.parkEnds u = true) (s.endPark u) ∧
    (∀ v c sh, s.bestLaunch n = some (v, c, sh) → exec (.launchqGrant n) s =
      .next ((s.takeEntry v c sh).modDie n (fun d => { d with launchq := d.launchq.filter (· != v) }))) ∧
    (s.bestLaunch n = none → exec (.launchqGrant n) s = .next s) ∧
    (∀ a t c x, s.slotWaiter n = some (a, t, c) → s.takeSlot t n c = some x → exec (.inboxSlotGrant n) s = .next x) ∧
    (s.slotWaiter n = none → exec (.inboxSlotGrant n) s = .next s) ∧
    Spec.occurs s (.threadReturn n) ((∃ v, (s.thread n).loc = .retry v) ∧ (s.thread n).c.away = false)
      (s.returnThread n ((s.thread n).c.parkedAt.getD 0) (s.thread n).cls) ∧
    (∀ t, s.deliverTrap n = some t → exec (.trapDelivery n) s = .next t) ∧
    (s.deliverTrap n = none → exec (.trapDelivery n) s = .next s) ∧
    (∀ f, s.faultDue n = some f → exec (.faultMessageRetry n) s = .next (s.sendFault f (s.waitingOn f.token))) ∧
    (s.faultDue n = none → exec (.faultMessageRetry n) s = .next s)

/-- R38, R39, R65, R130, R388, R399: `n` ticks pass for every die and unit alike, and the a-cycles and f-cycles of their clocks; the limit of a
SLEEP or LWAIT counts only while its partition runs, QUEUE_DEADLOCK and WAITR count a-cycles and stand still while the wave may not issue.
Neither changes a register. The model's choices: that no two units differ in their time (log entry 91), when limits stand still (log entry 73), how
a-cycles go with ticks (log entry 76). -/
def Spec.TimePasses : Prop :=
  ∀ (s : State) (n : Nat),
    let t := s.tick n
    t.time = s.time + n ∧ t.acount = s.acount + n * s.adentoth.aMHz ∧ t.fcount = s.fcount + n * s.adentoth.fMHz ∧ t.mem = s.mem ∧
    (∀ u, s.unitExists u = true →
      (t.com u).until_ = (if s.limitPaused u then (s.com u).until_.map (· + n) else (s.com u).until_) ∧ ∀ r, t.reg u r = s.reg u r) ∧
    (∀ w, s.unitExists (.wave w) = true →
      (t.com (.wave w)).deadlock = (if s.deadlockPaused w then (s.com (.wave w)).deadlock.map (· + n * s.adentoth.aMHz) else (s.com (.wave w)).deadlock) ∧
      (s.waitrPaused w = false → (t.wave w).stack = (s.wave w).stack))

/-- Steps that end the waits of waves and threads take place when they are due, and time passes: the statements above together. -/
def Obligations.UnitSteps : Prop := Spec.WaveSteps ∧ Spec.WaitSteps ∧ Spec.TimePasses

/-- R380 to R384: a grid whose dependences are met becomes ready; unmet dependences are read again when they are due, a failed one
retires the grid; a grid that has ended retires; the best candidate of a die is admitted; the limit of bypassing bars others. -/
def Spec.GridSteps : Prop :=
  ∀ (s : State) (g die : Nat),
    Spec.occurs s (.gridReady g) (s.becomesReady g (s.grid g) = true) (s.modGrid g (fun x => { x with ready := some s.time })) ∧
    (let x := s.grid g
     (s.pollDue g x = false → exec (.dependencePoll g) s = .next s) ∧
     (s.pollDue g x = true → x.pw.failed = true → exec (.dependencePoll g) s =
      .next (s.gridFails g ((x.deps.head?.map Prod.fst).getD 0))) ∧
     (s.pollDue g x = true → x.pw.failed = false → exec (.dependencePoll g) s = .next (s.readDeps g [] x.deps))) ∧
    Spec.occurs s (.gridRetire g) (s.retireDue g (s.grid g) = true) (s.retireGrid g) ∧
    exec (.bypassLimit die) s = .next (s.barLate die) ∧
    (∀ h e passed, s.nextCand die = some (.fresh h, e, passed) →
      exec (.blockAdmission die) s = .next ((s.notePassed passed).admitNew h e)) ∧
    ((∀ h e passed, s.nextCand die ≠ some (.fresh h, e, passed)) → exec (.blockAdmission die) s = .next s)

/-- R119, R121, R350, R433 to R436: a bin closes when its oldest entry has waited GWAIT ticks and its partition runs, with its cause; a closed bin forms a
wave on an engine with room; a block becomes eligible after PARKLIM, leaves, and comes back. -/
def Spec.BlockSteps : Prop :=
  ∀ (s : State) (v n b : Nat) (x : Bin) (k : Block), (s.vale v).bins.find n = some x → s.blocks.find b = some k →
    Spec.occurs s (.binTimeout v n) (x.closed = none ∧ x.entries ≠ [] ∧ s.stoppedOn (s.ctxFunc x.ctx) v = false ∧ x.oldest + (s.vale v).gwait.toNat ≤ s.time)
      (s.modVale v (fun y => { y with bins := y.bins.put n { x with closed := some (if x.frag then 3 else 1) } })) ∧
    (∀ e, x.closed.isSome = true → s.stoppedOn (s.ctxFunc x.ctx) v = false → s.binEngine v x = some e →
      exec (.wavePlacement v n) s = .next (s.formWave v n x e)) ∧
    ((x.closed = none ∨ s.stoppedOn (s.ctxFunc x.ctx) v = true ∨ s.binEngine v x = none) → exec (.wavePlacement v n) s = .next s) ∧
    Spec.occurs s (.parklimExpiry b) (k.ridge = true ∧ k.swap = .prk ∧ k.eligible = false ∧
      ∃ t, k.parkTime = some t ∧ t + (s.die k.die).parklim.toNat ≤ s.time) (s.setBlock b { k with eligible := true }) ∧
    (¬ (s.swapDue b k = true ∧ s.swapFirst b k = true) → exec (.blockSwapOut b) s = .next s) ∧
    (∀ e, s.swapDue b k = true → s.swapFirst b k = true → k.eng = some e → exec (.blockSwapOut b) s =
      .next ((s.countEvent (e / 4) (s.ctxFunc ((k.members.head?.map (fun m => (s.com m).ctx)).getD 0)) 0x007).setBlock b { k with swap := .out })) ∧
    (k.swap = .out →
      let r := k.members.foldl (fun s m => s.settleAll (s.accessesOf m)) s
      exec (.swapImageComplete b) s = .next (if r.imageDone k then r.modBlock b (fun y => { y with
        swap := if y.members.any r.parkedNow then .swp else .rdy, eng := none, bypassed := none }) else r)) ∧
    (k.swap = .inn →
      let r := s.modBlock b (fun y => { y with
        swap := if y.members.any s.parkedNow then .prk else .res, parkTime := none, eligible := false })
      exec (.swapImageComplete b) s = .next (k.members.foldl (fun s m => match m with | .wave w => s.startWave w | .thread _ => s) r)) ∧
    ((k.swap ≠ .out ∧ k.swap ≠ .inn) → exec (.swapImageComplete b) s = .next s) ∧
    (∀ e passed, s.nextCand k.die = some (.back b, e, passed) →
      exec (.blockReadmission b) s = .next ((s.notePassed passed).readmit b e)) ∧
    ((∀ e passed, s.nextCand k.die ≠ some (.back b, e, passed)) → exec (.blockReadmission b) s = .next s)

/-- Steps of grids, bins and blocks take place when they are due: the statements above together. -/
def Obligations.GridAndBlockSteps : Prop := Spec.GridSteps ∧ Spec.BlockSteps

/-- R425, R440, R441, R455: CTXCTL loads a context, or tears it down in its two steps, the second once it has
drained or after TDWAIT; late traffic is logged; a world switch that is under way goes on. That a load waits while a teardown of its context is under way
is the model's choice (log entry 70), as is the SEV 1 of the log records of late traffic and of a refused WSCTL (log entry 66); their DETAIL is open
(log entry 2). -/
def Spec.ContextSteps : Prop :=
  ∀ (s : State) (c d : Nat),
    (s.ctlDie 1 c = some d → Spec.occurs s (.ctxctlLoad c) ((s.ctx c).teardown = none) (s.loadCtx d c)) ∧
    (s.ctlDie 2 c = some d →
      ((s.ctx c).teardown = none → exec (.ctxctlTeardown c) s = .next (s.beginTeardown d c)) ∧
      (∀ t, (s.ctx c).teardown = some t →
        Spec.occurs s (.ctxctlTeardown c) (s.drained c = true) (s.endTeardown d c 0) ∧
        Spec.occurs s (.tdwaitTimeout c) (t + (s.die d).tdwait.toNat ≤ s.time ∧ s.drained c = false)
          ((((s.jobs.filter (fun j => j.2.ctx == c && j.2.status == 0)).map Prod.fst).foldl (fun s j => s.failJob j 0) s).endTeardown d c 1))) ∧
    ((∀ e, s.ctlDie 1 c ≠ some e) → exec (.ctxctlLoad c) s = .next s) ∧
    ((∀ e, s.ctlDie 2 c ≠ some e) → exec (.ctxctlTeardown c) s = .next s ∧ exec (.tdwaitTimeout c) s = .next s) ∧
    (∀ fn src addr,
      exec (.lateTraffic true fn src addr) s = .next (s.logOpen 0x04 src fn 1 addr) ∧
      exec (.lateTraffic false fn src addr) s = .next (s.logOpen 0x03 src fn 1 0)) ∧
    (∀ val,
      (∀ x, (s.die d).wsOp = some x → exec (.worldSwitch d val) s = .next (s.switchStep d x)) ∧
      ((s.die d).wsOp = none → Spec.occurs s (.worldSwitch d val) (d < 4)
        (if s.switchOk d val then s.modDie d (fun y => { y with wsOp := some (val &&& 0xFFFFFFFF) })
          else s.logOpen 0x16 (srcNum d 31 0 15) (bitsOf val 27 24) 1 0)))

/-- R7, R9, R262, R329, R364, R411, R448, R465, R471: a register write from outside a unit, by the number of the register: the fields that it stores, and when it has no
effect. Of a Vale: `Spec.valeRegisters`, the counters and their selectors, TRPL, CMAP, the templates, CTGTB and CTSLOT, which every Vale of the partition
takes, the overflow registers and the classes of its positions; of a die: `Spec.dieRegisters`, CTXCTL and WSCTL, nothing while BUSY; of a function
(BAR 2) and of a submission page. Read-only and unassigned numbers take no write. The model's choices: that a write of CTGTB or CTSLOT reaches every Vale of the partition at once
(log entry 89), the SEV 1 of log records (log entry 66), and the numbers in BAR 2 (log entry 63). -/
def Spec.RegisterWrites : Prop :=
  ∀ (s : State) (x : W64),
    let put (space : RegSpace) (num : Nat) (t : State) : Prop := exec (.registerWrite space num x) s = .next t
    (∀ v < Config.vales,
      (∀ r ∈ Spec.valeRegisters x, put (.vale v) r.1 (s.modVale v r.2.1)) ∧
      put (.vale v) 0x220 (s.writeCmap v x) ∧
      (∀ i < 16,
        put (.vale v) (0x230 + i) (s.modVale v (fun y => { y with pmc := y.pmc.put i (x.extractLsb' 0 48) })) ∧
        exec (.registerWrite (.vale v) (0x240 + i) x) s = exec (.pmselWrite v i x) s ∧
        exec (.registerWrite (.vale v) (0x2B0 + i) x) s = exec (.trplWrite v i x) s) ∧
      (∀ n, 0x310 ≤ n → n < 0x400 → n % 16 ≠ 0 →
        put (.vale v) n (s.modVale v (fun y => { y with templ := y.templ.put (n - 0x300) (x.extractLsb' 0 16) }))) ∧
      (∀ w < Config.vales,
        let other : Prop := (s.vale w).func ≠ (s.vale v).func
        (∃ t, put (.vale v) 0x2A0 t ∧ (other → t.vale w = s.vale w) ∧ (¬ other → t.vale w = { s.vale w with ctgtb := x &&& 0x7FFFFFFFFFE000 })) ∧
        (∃ t, put (.vale v) 0x2A1 t ∧ (other → t.vale w = s.vale w) ∧
          (¬ other → t.vale w = { s.vale w with ctTop := x.extractLsb' 12 6, ctNslot := x.extractLsb' 0 5 }))) ∧
      (∀ p < 32,
        let q := v * 32 + p
        (∀ a ∈ [(RegSpace.vale v, 0x400 + 4 * p, 0x401 + 4 * p), (RegSpace.position q, 0x400, 0x401)],
          ((s.position q).overflow = [] →
            put a.1 a.2.1 (s.modPosition q (fun y => { y with ovBase := x &&& 0x7FFFFFFFFFF000 })) ∧
            put a.1 a.2.2 (s.modPosition q (fun y => { y with ovSlots := x.extractLsb' 0 32 }))) ∧
          ((s.position q).overflow ≠ [] → put a.1 a.2.1 s ∧ put a.1 a.2.2 s)) ∧
        (∀ a ∈ [(RegSpace.vale v, 0x600 + p), (RegSpace.position q, 0x200)], ∃ t, put a.1 a.2 t ∧
          t = { s with positions := t.positions } ∧ { t.position q with cls := (s.position q).cls } = s.position q ∧
          ∀ i < 8, (t.position q).cls.extractLsb' (2 * i) 2 =
            if x.extractLsb' (2 * i) 2 = 3 then (s.position q).cls.extractLsb' (2 * i) 2 else x.extractLsb' (2 * i) 2))) ∧
    (∀ d < 4,
      (∀ r ∈ Spec.dieRegisters x, put (.die d) r.1 (s.modDie d r.2.1)) ∧
      ((s.die d).ctxOp ≠ none ∨ x.extractLsb' 8 2 = 0 ∨ x.extractLsb' 8 2 = 3 → put (.die d) 0x215 s) ∧
      ((s.die d).ctxOp = none → x.extractLsb' 8 2 = 1 ∨ x.extractLsb' 8 2 = 2 →
        put (.die d) 0x215 (s.modDie d (fun y => { y with ctxOp := some ((x.extractLsb' 8 2).toNat, (x.extractLsb' 0 8).toNat) }))) ∧
      ((s.die d).wsOp ≠ none → put (.die d) 0x216 s) ∧
      ((s.die d).wsOp = none → exec (.registerWrite (.die d) 0x216 x) s = exec (.worldSwitch d x) s)) ∧
    (∀ fn < 16,
      put (.bar2 fn) 0 (s.modFunc fn (fun y => { y with elbase := x &&& 0xFFFFFFFFFFFFF000, ellog2 := x.toNat % 16 })) ∧
      put (.bar2 fn) 2 (s.modFunc fn (fun y => { y with eltail := x.extractLsb' 0 32 })) ∧
      put (.bar2 fn) 4 (s.modFunc fn (fun y => { y with hctx := x.toNat % 256 })) ∧
      put (.bar2 fn) 5 (s.modFunc fn (fun y => { y with hfwait := x.toNat % 2 ^ 32 })) ∧
      (∀ n < 1024,
        put (.bar2 fn) (0x1000 + n) (s.modPage fn n (fun p => { p with
          bound := if x.getLsbD 63 then some (x.toNat / 2 ^ 14 % 4, x.toNat / 2 ^ 8 % 64, x.toNat % 256) else none })) ∧
        (∀ num < 0x80, put (.page fn n) num (s.logPort 0x16 fn)) ∧
        exec (.registerWrite (.page fn n) 0xA0 x) s = exec (.crbaseWrite fn n x) s ∧
        put (.page fn n) 0xA8 (s.modPage fn n (fun p => { p with crhead := x.extractLsb' 0 32 })) ∧
        put (.page fn n) 0xB0 (s.modPage fn n (fun p => { p with uiaddr := x &&& 0xFFFFFFFFFFFFFFFC }))) ∧
      (fn ≠ 0 → ∀ num, 6 ≤ num → num < 0x1000 → put (.bar2 fn) num s)) ∧
    put (.bar2 0) 6 { s with adentoth := { s.adentoth with powerLimit := min (x.toNat % 2 ^ 32) 2400 } } ∧
    (∀ i < 16, put (.bar2 0) (0x10 + i) { s with peermap := s.peermap.put i (x.extractLsb' 0 32 &&& 0x83FF0007) }) ∧
    (∀ i < 8, put (.bar2 0) (0x20 + i) { s with pctx := s.pctx.put i (x.toNat % 256) }) ∧
    (∀ space num, ∃ t, put space num t) ∧ (∀ e num, put (.engine e) num s) ∧
    (∀ v num, Config.vales ≤ v ∨ 0x620 ≤ num ∨ 0x290 ≤ num ∧ num < 0x294 → put (.vale v) num s) ∧
    (∀ fn n num, 0x80 ≤ num → num ≠ 0xA0 → num ≠ 0xA8 → num ≠ 0xB0 → put (.page fn n) num s)

/-- R262, R364, R448, R465, R471, R474: what the writes of registers with a step of their own do: a TRPL whose PBYTES
is too large or uneven is logged, a PMSEL that another counter of the Vale holds has no effect, CRBASE is written with no record open
and a legal size, ELTAIL and CRHEAD take their value; a counter of an open event wraps: which events those are the model leaves open, with the
DETAIL of the log records (log entries 2, 99); their SEV 1 is the model's choice (log entry 66). -/
def Spec.RegisterSteps : Prop :=
  ∀ (s : State) (v n : Nat) (x : W64),
    (n < 16 →
      let pb := x.toNat / 2 ^ 12 % 2 ^ 9
      (pb ≤ 256 → pb % 8 = 0 → exec (.trplWrite v n x) s =
        .next (s.modVale v (fun y => { y with trpl := y.trpl.put n (x.extractLsb' 0 25 &&& 0x1FFF0F8) }))) ∧
      (256 < pb ∨ pb % 8 ≠ 0 → exec (.trplWrite v n x) s = .next (s.logOpen 0x16 (srcNum (v / 24) (v % 24) 0 0) (s.vale v).func 1 0))) ∧
    (n < 16 →
      let y : BitVec 24 := x.extractLsb' 0 24 &&& 0xFF0FFF
      Spec.occurs s (.pmselWrite v n x)
        (∀ j < 16, j ≠ n → ¬ (selFunc ((s.vale v).sel j) = selFunc y ∧ selSlot ((s.vale v).sel j) = selSlot y))
        ((s.counterSettle v n).modVale v (fun z => { z with pmsel := z.pmsel.put n y }))) ∧
    (16 ≤ n → exec (.trplWrite v n x) s = .next s ∧ exec (.pmselWrite v n x) s = .next s) ∧
    (let k := s.vale v
     Spec.occurs s (.counterOverflow v n) (n < 16 ∧ k.counts n (selFunc (k.sel n)) (openEvent (selFunc (k.sel n))) = true)
      ((s.setVale v { k with pmc := k.pmc.put n 0 }).counterWraps v n)) ∧
    Spec.occurs s (.crbaseWrite v n x) ((s.page v n).opens = [] ∧ 4 ≤ x.toNat % 16 ∧ x.toNat % 16 ≤ 12)
      (s.modPage v n (fun p => { p with crbase := x &&& 0xFFFFFFFFFFFFF000, crlog2 := x.toNat % 16 })) ∧
    (∀ y : W32, exec (.crheadWrite v n y) s = .next (s.modPage v n (fun p => { p with crhead := y }))) ∧
    (∀ y : W32, exec (.eltailWrite v y) s = .next (s.modFunc v (fun f => { f with eltail := y })))

/-- R7, R9, R448, R465, R477: what a host's read of a register gives, which changes nothing: the sequence numbers, OPEN, OPENMAP, CRBASE, CRHEAD,
UIADDR and HISTORY of a submission page, whose SUBMIT and reserved offsets read as 0; ELHEAD and ELLOST of a function; ADMSTAT of the
physical function, 0 for the others; and the registers of a Vale and of a die. The numbers in BAR 2 are the model's (log entry 63). -/
def Spec.RegisterReads : Prop :=
  ∀ (s : State) (fn n : Nat), fn < 16 → n < 1024 →
    (s.adentoth.st = 3 → (∀ space num, (∀ f, space = .bar2 f → f ≠ 0) → (s.readRegister space num).1 = none) ∧
      (∀ num, num ≠ 7 → (num < 0xB00000 ∨ 0xB40000 ≤ num) →
        s.readRegister (.bar2 0) num = (none, { s with answers := s.answers ++ [{ dest := 0, status := 2 }] })) ∧
      s.readRegister (.bar2 0) 7 = (some (BitVec.ofNat 64 (3 + s.adentoth.reason % 256 * 2 ^ 8 + s.adentoth.src % 65536 * 2 ^ 16)), s)) ∧
    (s.adentoth.st ≠ 3 →
    let p := s.page fn n
    let reads (space : RegSpace) (num : Nat) (x : W64) : Prop := s.readRegister space num = (some x, s)
    (∀ v < Config.vales, ∀ r ∈ Spec.valeRegisters 0, reads (.vale v) r.1 (r.2.2 (s.vale v))) ∧
    (∀ d < 4, ∀ r ∈ Spec.dieRegisters 0, reads (.die d) r.1 (r.2.2 (s.die d))) ∧
    (∀ num, num < 0x80 ∨ (0xB8 ≤ num ∧ num < 0x800) ∨ 0x1000 ≤ num → reads (.page fn n) num 0) ∧
    reads (.page fn n) 0x80 (p.submitSeq.zeroExtend 64) ∧ reads (.page fn n) 0x88 (p.doneSeq.zeroExtend 64) ∧
    (∀ r rest, p.opens = r :: rest → reads (.page fn n) 0x90 (BitVec.ofNat 64 (p.opens.length * 2 ^ 32 + r.hseq.toNat))) ∧
    (p.opens = [] → reads (.page fn n) 0x90 ((p.submitSeq + 1).zeroExtend 64) ∧ reads (.page fn n) 0x98 0) ∧
    reads (.page fn n) 0xA0 (p.crbase + BitVec.ofNat 64 p.crlog2) ∧ reads (.page fn n) 0xA8 (p.crhead.zeroExtend 64) ∧
    reads (.page fn n) 0xB0 p.uiaddr ∧
    (∀ slot ws, p.history.find slot = some ws → slot < 64 → ∀ i < 4, reads (.page fn n) (0x800 + 32 * slot + 8 * i) (ws.getD i 0)) ∧
    reads (.bar2 fn) 1 ((s.func fn).elhead.zeroExtend 64) ∧ reads (.bar2 fn) 3 ((s.func fn).ellost.zeroExtend 64) ∧
    (fn ≠ 0 → reads (.bar2 fn) 7 0) ∧
    (fn = 0 → s.adentoth.st < 16 → s.adentoth.reason < 256 → s.adentoth.src < 65536 →
      reads (.bar2 fn) 7 (BitVec.ofNat 64 (s.adentoth.st + s.adentoth.reason * 2 ^ 8 + s.adentoth.src * 2 ^ 16))))

/-- Context loads and teardowns, world switches, register writes and register reads have their effect: the statements above together. -/
def Obligations.ContextAndRegisterSteps : Prop := Spec.ContextSteps ∧ Spec.RegisterWrites ∧ Spec.RegisterSteps ∧ Spec.RegisterReads

/-- R470: a write of CMAP: each 1 of DEAD sets its bit, and that of position 0 takes the whole Vale. A write is refused, for the spares, that sets SAV or
SBV with position 0 or one whose DEAD bit is 0, or names for one spare the position that the other holds while its DEAD bit is 0; both spares
with one position are refused too, and the field of a spare that is mapped stays, which is the model's choice (log entry 64). Any other maps the
spares that it names: their positions' DEAD bits are cleared. -/
def Spec.MapWrites : Prop :=
  ∀ (s : State) (v : Nat) (x : W64),
    let y := s.vale v
    let dead : W32 := if x.getLsbD 0 = true ∧ y.dead.getLsbD 0 = false then BitVec.allOnes 32 else y.dead ||| x.extractLsb' 0 32
    let a : Bool := x.getLsbD 37 && !y.sav
    let b : Bool := x.getLsbD 43 && !y.sbv
    let pa : BitVec 5 := x.extractLsb' 32 5
    let pb : BitVec 5 := x.extractLsb' 38 5
    let refused : Prop :=
      (a = true ∧ (pa = 0 ∨ dead.getLsbD pa.toNat = false)) ∨ (b = true ∧ (pb = 0 ∨ dead.getLsbD pb.toNat = false)) ∨ (a = true ∧ b = true ∧ pa = pb) ∨
      (y.sav = false ∧ y.sbv = true ∧ pa = y.sbp ∧ dead.getLsbD pa.toNat = false) ∨ (y.sbv = false ∧ y.sav = true ∧ pb = y.sap ∧ dead.getLsbD pb.toNat = false)
    let clear (c : Bool) (p : BitVec 5) (d : W32) : W32 := if c then d &&& ~~~((1 : W32) <<< p.toNat) else d
    ∃ t, exec (.cmapWrite v x) s = .next t ∧
      (refused → (t.vale v).dead = dead ∧ (t.vale v).sav = y.sav ∧ (t.vale v).sap = y.sap ∧ (t.vale v).sbv = y.sbv ∧ (t.vale v).sbp = y.sbp) ∧
      (¬ refused → (t.vale v).dead = clear b pb (clear a pa dead) ∧
        (t.vale v).sav = (y.sav || x.getLsbD 37) ∧ (t.vale v).sap = (if y.sav then y.sap else pa) ∧
        (t.vale v).sbv = (y.sbv || x.getLsbD 43) ∧ (t.vale v).sbp = (if y.sbv then y.sbp else pb))

/-- R19, R38, R41, R242, R243, R466 to R469: a position whose heartbeat is late dies, with its threads; a core's heartbeat rises and is
stored; a position dies with both spares in use; a Vale goes offline; an empty cluster drops its sectors; a COHERENT
chunk is recalled; the clocks move between legal points, the a-clock falling first; a stack is scrubbed; a log entry comes from
outside. The model's choices: ADDR of a scrub's log record is the word's physical place (log entry 13), its severity (log entry 66), and how
heartbeats count (log entry 107). -/
def Spec.HealthEvents : Prop :=
  ∀ (s : State) (p : Nat),
    (s.posDead p = true →
      exec (.positionDead p) s = .next (if isSummit p && !(s.vale (p / 32)).offline then s.valeFails (p / 32) else s.killCore p)) ∧
    (s.posDead p = false → Spec.occurs s (.positionDead p)
      (isSummit p = true ∨ (s.position p).beatAt + 4 * (s.vale (p / 32)).hbper.toNat ≤ s.time)
      ((s.positionDies p).logOpen 0x11 (srcOfPos p 0) (s.vale (p / 32)).func 1 0)) ∧
    (let q := s.position p
     let period := max 1 (s.vale (p / 32)).hbper.toNat
     let n := (s.time - q.beatFrom) / period
     Spec.occurs s (.heartbeat p)
      (isSummit p = false ∧ s.posDead p = false ∧ 1 ≤ n)
      ((s.setPosition p { q with beat := q.beat + BitVec.ofNat 64 n, beatAt := s.time, beatFrom := q.beatFrom + n * period }).writeAt none 0 0
        (bankPlace (p / 32 * 32) (0x3BF00 + 8 * (p % 32))) 2 32 (bytesLE 8 (q.beat + BitVec.ofNat 64 n).toNat))) ∧
    Spec.occurs s (.positionAbsent p)
      (isSummit p = false ∧ (s.vale (p / 32)).dead.getLsbD (p % 32) = true ∧ (s.vale (p / 32)).sav = true ∧ (s.vale (p / 32)).sbv = true ∧
        ((s.position p).absent = false ∨ s.returnsLost p = true)) (s.positionLost p) ∧
    ((s.vale p).offline = true → exec (.valeOffline p) s = .next s) ∧
    ((s.vale p).offline = false →
      let t := if (s.vale p).dead == BitVec.allOnes 32 then s else s.valeFails p
      exec (.valeOffline p) s = .next (if t.valeEmpty p then
        ((t.settleCounters p).modVale p (fun x => { x with offline := true })).logOpen 0x13 adentothSrc (t.vale p).func 1 0 else t)) ∧
    Spec.occurs s (.powerGate p) (s.wavesOn p = []) (s.l1Filter p (fun _ => false)) ∧
    (∀ ctx va, exec (.snoop p ctx va) s = .next (s.l1Filter p (fun x =>
      !(x.cls == 3 && x.ctx == ctx && decide (x.va ≤ va.toNat) && decide (va.toNat < x.va + x.span))))) ∧
    (∀ a f, Spec.occurs s (.operatingPointChange a f) (Spec.legalPoint a f) { s with adentoth := { s.adentoth with aMHz := a, fMHz := f } }) ∧
    (let a := s.adentoth
     (400 < a.aMHz → exec .powerLimitExceeded s = .next { s with adentoth := { a with aMHz := a.aMHz - 25 } }) ∧
     (a.aMHz ≤ 400 → Spec.occurs s .powerLimitExceeded (800 < a.fMHz) { s with adentoth := { a with fMHz := a.fMHz - 25 } })) ∧
    (let here (b : Nat) : Bool := decide (b < 12 * 2 ^ 36) && decide (b / 2 ^ 36 = p) && (!s.cacheErr.contains b || (s.homesOf b).isEmpty)
     let t := (s.soft.filter here).foldl (fun s b => s.logCorrectedAs 0x0A (hbmSrc b) b 0) { s with soft := s.soft.filter (fun b => !here b) }
     exec (.hbmScrub p) s = .next ((s.bad.filter here).foldl (fun s b => s.logError 0x0B (hbmSrc b) 0 1 (BitVec.ofNat 64 b) 0) t)) ∧
    (∀ port, exec (.linkLaneRepair p port) s = .next (s.logOpen 0x14 (srcNum p 30 port 13) 0 0 0)) ∧
    (∀ cause src fn sev addr detail, cause < 256 → src < 65536 → fn < 16 → sev < 3 →
      exec (.errorLogEntry cause src fn sev addr detail) s = .next (s.logError cause src fn sev addr detail))

/-- The moves of the machine's health have their effect, and CMAP maps the spares: the statements above together. -/
def Obligations.HealthSteps : Prop := Spec.HealthEvents ∧ Spec.MapWrites

/-- R447 to R455: SUBMIT answers 1 on a page that is not bound or whose queue is off, 2 for a wrong size, offset or record, 3 for a
record outside the window of 64 or a full queue, and else 0, with the record open; posted submissions are dropped and logged; the
controller reads the first unread record of a queue; a completion is written in order once the ring has room; a function-level reset
clears the pages. The model's choices: a MARK record may have any LREC, the size counts 8-byte words, and a function-level reset unbinds the pages (log
entry 69). -/
def Spec.SubmissionSteps : Prop :=
  ∀ (s : State) (fn n off : Nat) (ws : List W64),
    let p := s.page fn n
    (p.bound = none → exec (.submit fn n off ws) s = .next (Spec.replied s fn 1)) ∧
    (∀ d q c, p.bound = some (d, q, c) →
      (s.queueOn fn d q = false → exec (.submit fn n off ws) s = .next (Spec.replied s fn 1)) ∧
      (s.queueOn fn d q = true → (ws.length ≠ 16 ∨ off ≠ 0 ∨ ¬ Spec.recordFits p ws) →
        exec (.submit fn n off ws) s = .next (Spec.replied (s.logPort 0x16 fn) fn 2)) ∧
      (s.queueOn fn d q = true → ws.length = 16 → off = 0 → Spec.recordFits p ws →
        let h : W32 := (ws.getD 0 0).extractLsb' 0 32
        let t := (s.choose 2).2
        ((64 ≤ (h - p.oldest).toNat ∨ (s.choose 2).1 = 1) → exec (.submit fn n off ws) s = .next (Spec.replied t fn 3)) ∧
        (¬ (64 ≤ (h - p.oldest).toNat ∨ (s.choose 2).1 = 1) →
          let r : WorkRec := { hseq := h, op := (ws.getD 0 0).toNat / 2 ^ 32, lrec := ws.getD 1 0, user := ws.getD 2 0, arr := t.newId.1 }
          exec (.submit fn n off ws) s = .next (Spec.replied
            (t.newId.2.modPage fn n (fun p => Page.marks { p with submitSeq := h, opens := p.opens ++ [r] } s.time)) fn 0)))) ∧
    Spec.occurs s (.submitPostedWrite fn n) (n < 1024) (s.postedSubmit fn) ∧
    (∀ r, s.nextRecord fn n = some r → exec (.workRecordLaunch fn n) s = .next (s.readLaunch fn n r)) ∧
    (s.nextRecord fn n = none → exec (.workRecordLaunch fn n) s = .next s) ∧
    (∀ r, s.nextCompletion fn n = some r → exec (.completionWrite fn n) s = .next (s.writeCompletion fn n r)) ∧
    (s.nextCompletion fn n = none → exec (.completionWrite fn n) s = .next s) ∧
    exec (.functionLevelReset fn) s = .next (({ s with
      grids := s.grids.map (fun g => (g.1, if g.2.page.any (fun p => p.1 == fn) then { g.2 with page := none } else g.2)) } : State).modFunc fn
        (fun f => { f with pages := [] }))

/-- R457, R460: an access of the host or of a peer goes to its home and is performed and answered there, fails, or is held; what a
fault holds fails after HFWAIT, which counts from the fault (log entry 72, the model's choice). -/
def Spec.RemoteSteps : Prop :=
  ∀ (s : State) (fn : Nat) (op : RemoteOp) (va : W64),
    let t := s.newId.2
    let r (fn : Nat) (peer : Option Nat) : Remote :=
      { id := s.newId.1, func := fn, op := op, va := va, until_ := none, peer := peer, pw := {} }
    let goes (e : Instr) (x : Remote) : Prop :=
      (∀ s1 ps cls grain, t.remotePlaces x (remoteLen op).1 0 = .ok s1 ps cls grain →
        let y := s1.remotePerform (t.remoteCtx x) op va ps cls grain
        let answer (z : State) : State := { z with answers := z.answers ++ [{ dest := x.dest, status := 0, data := y.1 }] }
        ((∃ n, op = .read n) → x.peer = none → exec e s = .next (answer (y.2.hostKeeps cls grain (ps.headD 0)))) ∧
        ((∀ n, op ≠ .read n) ∨ x.peer.isSome = true → exec e s = .next (answer y.2))) ∧
      (∀ s1, t.remotePlaces x (remoteLen op).1 0 = .err s1 → exec e s = .next (s1.remoteFails x)) ∧
      (∀ s1 w, t.remotePlaces x (remoteLen op).1 0 = .wait s1 w → exec e s = .next { s1 with
        remotes := s1.remotes ++ [{ x with pw := w, until_ := if w.tok.isSome then some (s1.time + (s1.func x.func).hfwait) else none }] }) ∧
      (0 < (remoteLen op).1 → x.peer.isSome = true → t.domOf (t.remoteCtx x) va.toNat ≠ 3 → t.remotePlaces x (remoteLen op).1 0 = .err t)
    goes (.hostCxlAccess fn op va) (r fn none) ∧
    (∀ port, port < 8 → goes (.peerRequest port op va) (r 0 (some port))) ∧
    (∀ port, 8 ≤ port → exec (.peerRequest port op va) s = .next s) ∧
    (∀ req x, s.remoteLate req = some x → exec (.hfwaitExpiry req) s =
      .next (({ s with remotes := s.remotes.filter (fun y => y.id != req) } : State).remoteFails x)) ∧
    (∀ req, s.remoteLate req = none → exec (.hfwaitExpiry req) s = .next s)

/-- Submissions, completions and accesses of the host and of peers: the statements above together. -/
def Obligations.SubmissionAndRemoteSteps : Prop := Spec.SubmissionSteps ∧ Spec.RemoteSteps

/-- R8, R459, R476 to R479: a fatal error halts the package; a cold reset boots the image of the flash, or reports RECOVERY with the
reason; ADMGO does so with the image in the window; a warm reset changes no field; an attestation report is written in its form. -/
def Spec.PackageEvents : Prop :=
  ∀ (s : State),
    (∀ reason src, src < 65536 → Spec.occurs s (.fatalHalt reason src) (reason = 0x10 ∨ reason = 0x11 ∨ reason = 0x12) (s.fatal reason src)) ∧
    (∀ die port, exec (.linkRetrainFailure die port) s = .next (s.fatal 0x10 (srcNum die 30 port 13))) ∧
    (let t := s.coldState
     (imageFails t.adentoth t.adentoth.flash = none → exec .coldReset s = .next (t.bootImage t.adentoth.flash)) ∧
     (∀ why, imageFails t.adentoth t.adentoth.flash = some why → exec .coldReset s = .next (t.recover why))) ∧
    (let img := s.adentoth.window
     (s.adentoth.st ≠ 2 → exec .admgo s = .next s) ∧
     (s.adentoth.st = 2 → imageFails s.adentoth img = none → exec .admgo s =
      .next (({ s with adentoth := { s.adentoth with flash := img.take (0x200 + fieldNum img 0x10 4) } } : State).bootImage img)) ∧
     (∀ why, s.adentoth.st = 2 → imageFails s.adentoth img = some why → exec .admgo s = .next (s.recover why))) ∧
    exec .warmReset s = .next s ∧
    (∀ fn nonce,
      let h := s.reportHead fn nonce
      exec (.attestationRequest fn nonce) s =
        .next (s.modFunc fn (fun f => { f with report := h ++ fit 132 (Config.identitySign h) ++ List.replicate 36 0 })))

/-- R465, R478: a fatal error halts the package, with its reason and source in ADMSTAT, whatever runs; an entry of SEV 2 goes to the ring of the physical
function, where that is configured and has room, and halts the package. That the ring takes it before the halt is the model's choice (log entry 112). -/
def Spec.FatalHalts : Prop :=
  (∀ (s : State) (reason src : Nat), s.adentoth.st ≠ 3 → (reason = 0x10 ∨ reason = 0x11 ∨ reason = 0x12) → src < 65536 →
    ∃ t, exec (.fatalHalt reason src) s = .next t ∧ t.adentoth.st = 3 ∧ t.adentoth.reason = reason ∧ t.adentoth.src = src ∧
      t.mem = s.mem ∧ t.threads = s.threads ∧ t.waves = s.waves) ∧
  ∀ (s : State) (cause src fn : Nat) (addr detail : W64), s.adentoth.st = 1 → cause < 256 → src < 65536 → fn < 16 →
    let f := s.func 0
    ∃ t, exec (.errorLogEntry cause src fn 2 addr detail) s = .next t ∧ t.adentoth.st = 3 ∧ t.adentoth.reason = 0x11 ∧ t.adentoth.src = src ∧
      (6 ≤ f.ellog2 → f.ellog2 ≤ 16 → ((f.elhead - f.eltail).toNat ≠ 2 ^ f.ellog2 → (t.func 0).elhead = f.elhead + 1) ∧
        ((f.elhead - f.eltail).toNat = 2 ^ f.ellog2 → (t.func 0).ellost = f.ellost + 1))

/-- Fatal errors, resets, recovery and attestation: the statements above together. -/
def Obligations.PackageSteps : Prop := Spec.PackageEvents ∧ Spec.FatalHalts

/-- The frame of the register forms: the scalar instructions, NOP, TSR and CPYQ change one register, beside the PC and the counters of
the Vale; the divisions change SSTAT too. -/
def Obligations.RegisterFrame : Prop :=
  ∀ (s t : State) (u : UnitId) (op : AluOp) (d a b : Reg6) (w sx lone : Bool) (lenm1 pos : BitVec 6) (i13 : BitVec 13) (i19 : BitVec 19)
    (v : W32) (i : Instr), Alone s u →
    i ∈ [aluInstr op d a b w, .aluImmediateLone op d a w v, .clz d a w, .ctz d a w, .popc d a w, .brev d a w, .bswp d a w, .addi d a i13,
      .addiLone d a v, .li d i19, .liLone d v, .lih d i19, .lihLone d v, .bext d a sx lenm1 pos, .bins d a lenm1 pos, .nopC lone, .tsr d,
      .cpyq d a] →
    exec i s = .next t →
    Spec.Kept s t u (if i = .nopC lone then [] else [d.toNat]) ∧
    (Spec.divides op = false → (t.com u).dz = (s.com u).dz ∧ (t.com u).ov = (s.com u).ov)

/-- The frame of the lane instructions with one result for each lane, of a wave and of a thread: where the sources can be read, no enabled
flag is raised and the destination has room, the instruction changes its destination in the lanes of ACTIVE, pops the queues that its sources
name, pushes the queue that its destination names, joins its flags to FPST, and changes nothing else. -/
def Spec.LaneElements : Prop :=
  ∀ (s : State) (u : UnitId) (f : AForm) (h : LA), AloneA s u → (s.com u).after = none → (s.com u).stepping = false →
    let s0 := s.begunA u
    ∀ e, (e ∈ Spec.laneForms f h ∨ ∃ w, u = .wave w ∧ e ∈ Spec.waveForms s0 w f h) →
      let g : LA := e.2.1
      let n : LaneSrcs := e.2.2.1
      let act := s0.active u g.msel
      ∀ a b c t t' t'', s0.laneSources u g n = some (a, b, c, t) →
        let r (l : Nat) : W32 × FFlags := e.2.2.2 a b c act l
        let fl := flagsOver (laneList u act) (fun l => (r l).2)
        fl &&& (s0.com u).fpctl = 0 → t.laneDst u g.kd g.d act (fun l => (r l).1) = some t' → exec e.1 s = .next t'' →
        Spec.Untouched s t'' u ∧ (t''.com u).fpst = (s.com u).fpst ||| fl ∧
        (∀ k, u = .thread k → ∀ d, d ≠ g.d.toNat → t''.reg u d = s.reg u d) ∧
        (∀ w, u = .wave w → (∀ d, t''.reg u d = s.reg u d) ∧ (t''.wave w).m = (s.wave w).m ∧
          (∀ d l, (g.kd = true ∨ d ≠ g.d.toNat ∨ act.getLsbD l = false) → t''.lreg w l d = s.lreg w l d) ∧
          (g.kd = false → ∀ l, l < 64 → act.getLsbD l = true → t''.lreg w l g.d.toNat = (r l).1) ∧
          (∀ q, (g.kd = false ∨ q ≠ g.d.toNat - 0x44) → (t''.wave w).sq.getD q [] = (s.wave w).sq.getD q []) ∧
          (∀ q, (n.a && g.ka) = false ∨ g.a.toNat ≠ 0x40 + q → (n.b && g.kb) = false ∨ g.b.toNat ≠ 0x40 + q →
            (n.c && g.kc) = false ∨ g.c.toNat ≠ 0x40 + q → (t''.wave w).lq.getD q [] = (s.wave w).lq.getD q []))

/-- The frame of the other A-class instructions of a wave: mask and list instructions, uniform results and runs of registers. A comparison or reduction of floats
is taken with its traps off. -/
def Spec.LaneWriters : Prop :=
  ∀ (s t : State) (w : Nat) (f : AForm) (h : LA),
    let u : UnitId := .wave w
    AloneA s u → (s.com u).after = none → (s.com u).stepping = false →
    ∀ e ∈ Spec.writers f h, ((s.com u).fpctl = 0 ∨ (e.1 ≠ .fcmp h ∧ (e.1 ≠ .redu f ∨ (toLA 0x23 f).md.toNat % 8 < 6))) → exec e.1 s = .next t →
      Spec.Untouched s t u ∧ (∀ n, n ∉ e.2.k → t.reg u n = s.reg u n) ∧ (∀ n, n ∉ e.2.m → (t.wave w).mask n = (s.wave w).mask n) ∧
      ∀ n l, (n ∉ e.2.v ∨ (e.2.whole = false ∧ ((s.begunA u).active u e.2.msel).getLsbD l = false)) → t.lreg w l n = s.lreg w l n

/-- The frame of PHLX, PACK and UNPACK of a thread. -/
def Spec.ThreadWriters : Prop :=
  ∀ (s t : State) (n : Nat) (f : AForm) (h : LA),
    let u : UnitId := .thread n
    AloneA s u → (s.com u).after = none → (s.com u).stepping = false →
    (exec (.phlx f) s = .next t → Spec.Kept s t u [(toLA 0x26 f).d.toNat, (toLA 0x26 f).d.toNat + 1]) ∧
    (exec (.pack h) s = .next t → Spec.Kept s t u [h.d.toNat]) ∧ (exec (.unpack h) s = .next t → Spec.Kept s t u [h.d.toNat])

/-- Lane instructions change their destination and nothing else: the statements above together. -/
def Obligations.LaneFrame : Prop := Spec.LaneElements ∧ Spec.LaneWriters ∧ Spec.ThreadWriters

/-- R209 to R217, R316: what an access does where it is performed: a store, an atomic or HIST writes its own bytes and no others,
every other access writes none, and memory keeps its canonical form; a store's bytes are its data, in little-endian order, an atomic's are the new value that
OP gives, and those of HIST the sum, saturated or wrapped; a load answers with its bytes, with zeros or with their sign before them, an atomic with the
old value, or with 0 where NR is 1. The bytes of the vector table and of the inbox that the core keeps are left out (`storeMask`). -/
def Spec.PerformedAccesses : Prop :=
  ∀ (s : State) (a : Access) (l : ALane) (place cls grain : Nat), s.memWf →
    let t := s.effect a l place cls grain
    let plain := ∀ k, k < a.bytes → storeMask (place + k) = 0xFF
    let w := 8 * a.bytes
    let old : BitVec w := BitVec.ofNat w (s.rd place a.bytes)
    let new : BitVec w := BitVec.ofNat w (t.rd place a.bytes)
    t.memWf ∧
    (∀ q, (Spec.writesPlace a.op = false ∨ q < place ∨ place + a.bytes ≤ q) → t.byteAt q = s.byteAt q) ∧
    (a.op = .store → plain → t.rd place a.bytes = l.data.toNat % 2 ^ w) ∧
    (∀ op sgn nr, a.op = .atom op sgn nr → op ≤ 9 → a.bytes = 4 ∨ a.bytes = 8 ∧ op < 9 →
      (plain → Spec.atomValue op sgn old (BitVec.ofNat w l.data.toNat) (BitVec.ofNat w l.data2.toNat) new) ∧
      Spec.performed t a l.lane (if nr then 0 else old.zeroExtend 64)) ∧
    (∀ sat, a.op = .hist sat → plain →
      let sum := s.rd place a.bytes + l.data.toNat + l.data2.toNat * 2 ^ 64
      t.rd place a.bytes = if sat then min sum (2 ^ w - 1) else sum % 2 ^ w) ∧
    (∀ sx, a.op = .load sx → a.bytes ∈ [1, 2, 4, 8] → (s.unitEng a.unit = none ∨ s.effClass (s.unitEng a.unit) a.ctx l.ea.toNat cls = 2) →
      Spec.performed t a l.lane (if sx then old.signExtend 64 else old.zeroExtend 64))

/-- R209: the answer of a performed lane writes its value into the destination: a register of a thread or of a wave, or the lane of a v-register or
of a pair. -/
def Spec.AnsweredLanes : Prop :=
  ∀ (s : State) (a : Access) (x : ALane), s.access a.id = some a → a.lane x.lane = some x → x.st = .perf →
    let t := s.answerLane a.id x.lane
    (∀ n d, a.unit = .thread n → a.dest = .reg d → 0 < d.toNat → d.toNat < 16 → t.reg a.unit d.toNat = x.data) ∧
    (∀ w, a.unit = .wave w →
      (∀ d, a.dest = .reg d → 0 < d.toNat → t.reg a.unit d.toNat = x.data) ∧
      (∀ n pair, a.dest = .vreg n pair → x.lane < 64 →
        t.lreg w x.lane n = x.data.extractLsb' 0 32 ∧ (pair = true → t.lreg w x.lane (n + 1) = x.data.extractLsb' 32 32)))

/-- What a performed access does to memory and to its destination: the statements above together. -/
def Obligations.MemoryEffects : Prop := Spec.PerformedAccesses ∧ Spec.AnsweredLanes

/-- The frame of the stores of threads and waves: ST, STS, STL and STF, with their data from registers or from a queue, ATOM, HIST and ACCSV, whose
addresses pass the checks and are mapped, change no byte outside the bytes that their lanes name, at the places where the addresses that they
compute lie; every byte of memory else reads as before. No word of memory is in error, which would be logged (R466). -/
def Obligations.StoreFrame : Prop :=
  ∀ (s : State) (u : UnitId), Alone s u → s.memWf → s.soft = [] → s.bad = [] →
    let s0 := s.begun u
    (∀ (m : MemOp) (e : MemExt) (d : Nat → W64),
      let bit := e.md.getLsbD 1
      ∀ p ∈ ([(.st m, none, false, .store, false), (.sts m, none, true, .store, false), (.stl m, none, false, .store, true),
          (.stf m, none, false, .storeFull, true), (.memoryLoneForm .st m e, some e, false, .store, false),
          (.memoryLoneForm .sts m e, some e, true, .store, false), (.memoryLoneForm .stl m e, some e, false, .store, true),
          (.memoryLoneForm .stf m e, some e, bit, .storeFull, true)] : List (Instr × Option MemExt × Bool × AccOp × Bool)),
        Spec.passes s0 u (Spec.space s0 u p.2.2.1) (Spec.form u m p.2.1) 1 → s0.storeData u (Spec.form u m p.2.1) = some d →
        Spec.storesOnly s s0 p.1 (Spec.storeOf s0 u m p.2.1 (Spec.space s0 u p.2.2.1) p.2.2.2.1 p.2.2.2.2 d)) ∧
    (∀ (m : MemOp) (e : MemExt) (hold : Bool), Spec.passes s0 u (s0.spaceOf u) (Spec.formX u m (some e)) 3 →
      Spec.storesOnly s s0 (.atom m e) (Spec.atomOf s0 u m e hold)) ∧
    (∀ (m : MemOp) (e : Option MemExt), Spec.passes s0 u (Spec.histOf s0 u m e).space (Spec.form u m e) 3 →
      Spec.storesOnly s s0 (.hist m e) (Spec.histOf s0 u m e)) ∧
    (∀ (w : Nat) (t : BitVec 4) (b : Reg6) (x : Tile), u = .wave w → Spec.tileIs s0 w t.toNat x →
      ∀ p ∈ [(Instr.accsv t b, false), (Instr.accsvLone t b false, false), (Instr.accsvLone t b true, true)],
        let sp := Spec.space s0 u p.2
        Spec.imagePasses s0 u sp (s.reg u b.toNat) (8 + 96 * Spec.columns x.wide) 1 →
        Spec.storesOnly s s0 p.1 (Spec.imageStores s0 u sp (s.reg u b.toNat) t.toNat x))

/-- R30, R205: the loads and stores of threads and waves, plain and holding, paired and lone, to memory and to the scratchpad, ATOM and HIST,
trap where an address is refused (ACCESS_VIOLATION) or not aligned to its size (MISALIGNED), before anything is sent: the cause and ADDR are the
lowest failing lane's, MASK names all that fail. -/
def Obligations.AlignmentTraps : Prop :=
  ∀ (s : State) (u : UnitId) (m : MemOp) (e : MemExt), Alone s u → (s.com u).redo = none →
    let s0 := s.begun u
    let bit := e.md.getLsbD 1
    let traps (i : Instr) (x : Option MemExt) (spad : Bool) (k : Nat) : Prop :=
      Spec.checkTraps s u i (Spec.space s0 u spad) (szBytes m.sz) k (Spec.addresses s0 u (Spec.form u m x))
    traps (.ld m) none false 0 ∧ traps (.lds m) none true 0 ∧ traps (.lda m) none false 0 ∧
    (∀ w, u = .wave w → traps (.ldq m) none false 0 ∧ traps (.memoryLoneForm .ldq m e) (some e) false 0) ∧
    (s0.inTask u = false → traps (.ldsync m) none false 0 ∧ traps (.memoryLoneForm .ldsync m e) (some e) bit 0) ∧
    traps (.st m) none false 1 ∧ traps (.sts m) none true 1 ∧ traps (.stl m) none false 1 ∧ traps (.stf m) none false 1 ∧
    (∀ p ∈ ([(.ld, false, 0), (.lds, true, 0), (.lda, false, 0), (.st, false, 1), (.sts, true, 1), (.stl, false, 1), (.stf, bit, 1)] :
        List (MemKind × Bool × Nat)), traps (.memoryLoneForm p.1 m e) (some e) p.2.1 p.2.2) ∧
    (∀ x : Option MemExt, traps (.hist m x) x ((Spec.modOf x).getLsbD 0) 3) ∧
    Spec.checkTraps s u (.atom m e) (s0.spaceOf u) (szBytes m.sz) 3 (Spec.addresses s0 u (Spec.formX u m (some e)))

/-- R66, R412: a user thread that traps stops where it stands, with its registers; once its earlier accesses are performed it leaves its slot and
its trap waits in the Vale's queue; until then the trap is kept with the unit. A wave stops likewise, in its place: APC, CPC, EXEC, the masks, the
lanes' registers, the queues, the tiles and the divergence stack stay, and the instruction that a wait belongs to is kept with it. That the wait itself is kept beside the trap is the model's choice (log entry 96). -/
def Spec.TrapStops : Prop :=
  ∀ (s : State) (u : UnitId) (x : TrapInfo), s.isSup u = false →
    let t := s.takeTrap u x
    let v := s.unitVale u
    let slot : Bool := match u with | .thread n => (s.thread n).slotBit | .wave _ => false
    let m : TrapMsg := { unit := u, info := x, time := s.time, slotBit := x.slot || slot }
    (t.com u).wait = .trap ∧ t.pcOf u = s.pcOf u ∧ (∀ r, t.reg u r = s.reg u r) ∧
    (s.trapQuiet u = true → (t.vale v).traps = (s.vale v).traps ++ [{ m with arr := s.newId.1 }]) ∧
    (s.trapQuiet u = false → t.vales = s.vales ∧ (t.com u).trapped = some m) ∧
    (∀ n, u = .thread n →
      (s.trapQuiet u = true → (t.thread n).loc = .trapWait v) ∧ (s.trapQuiet u = false → (t.thread n).loc = (s.thread n).loc)) ∧
    (∀ w, u = .wave w → (t.com u).under = (s.com u).ownWait ∧
      { t.wave w with c := (s.wave w).c, leaked := (s.wave w).leaked, trapDue := (s.wave w).trapDue } = s.wave w)

/-- R413: the 32 words of the frame of a trapped unit: the header with CAUSE, SLOTB, KIND, SRC, FUNC and CTXID; PC or APC; CPC of a wave; DETAIL;
MASK; ADDR; TIME; the unit's number; and a thread's context image (R78). -/
def Spec.frameWords (s : State) (m : TrapMsg) : List W64 :=
  let c := (s.com m.unit).ctx
  let header (kind : Nat) : W64 := BitVec.ofNat 64 (m.info.cause.code + 2 ^ 8 * (if m.slotBit then 1 else 0) + 2 ^ 9 * kind +
    2 ^ 16 * s.unitSrc m.unit + 2 ^ 32 * ((s.ctx c).func % 16) + 2 ^ 36 * c)
  let facts (id : W64) : List W64 := [m.info.detail, m.info.mask, m.info.addr, BitVec.ofNat 64 m.time, id]
  match m.unit with
  | .thread n =>
    let x := s.thread n
    [header (if x.pos % 32 = 0 then 1 else 0), x.pc, 0] ++ facts x.tid ++ [x.pc, s.sstat (.thread n)] ++
      [x.reg 1, x.reg 2, x.reg 3, x.reg 4, x.reg 5, x.reg 6, x.reg 7, x.reg 8, x.reg 9, x.reg 10, x.reg 11, x.reg 12, x.reg 13, x.reg 14, x.reg 15] ++
      [x.tid, BitVec.ofNat 64 (x.c.fpctl.toNat + 2 ^ 32 * x.c.fpst.toNat), s.pendWord (.thread n), 0, 0, 0, 0]
  | .wave w =>
    let x := s.wave w
    [header 2, x.apc, (match x.lead with | l :: _ => l.pc | [] => x.apc)] ++
      facts (BitVec.ofNat 64 (x.eng % 4 + 4 * x.slot + 2 ^ 8 * (x.eng / 4))) ++ List.replicate 24 0

/-- R408, R412, R413: the oldest trap of a Vale, with a frame and a handler slot free and nothing before it, is saved in its frame in the Summit
bank, and a supervisor thread starts at TVEC with the frame's address in s1, the cause in s2 and the unit's context in SCTL; with TVEC 0 the unit ends, and the log
records it, with SEV 1 as the model's choice (log entry 66). -/
def Spec.TrapDelivery : Prop :=
  ∀ (s : State) (v : Nat) m rest, (s.vale v).traps = m :: rest →
    let tvec := (s.vale v).tvec &&& 0x7FFFFFFFFFFFC0
    let s1 := s.setVale v { s.vale v with traps := rest }
    (tvec = 0 → s.deliverTrap v = some
      ((s1.logError 0x01 (s.unitSrc m.unit) (s.unitFunc m.unit) 1 (s.pcOf m.unit) (trapDetail m.info)).killUnit m.unit)) ∧
    (tvec ≠ 0 → s.posDead (v * 32) = false → ∀ f, freeIndex (s.vale v).frames.keys 32 = some f → s.freeSlots (v * 32) 0 ≠ [] →
      s.inboxThreads (v * 32) 0 false = [] → before m.arr (s.entryOrder (v * 32) 0) = true →
      ∃ t, s.deliverTrap v = some t ∧ (t.vale v).frames.find f = some m.unit ∧
        (s.memWf → ∀ k < 32, ∀ b < 8, t.byteAt (framePlace v f + 8 * k + b) = ((Spec.frameWords s m).getD k 0).extractLsb' (8 * b) 8) ∧
        ∃ h, (t.thread h).sup = true ∧ (t.thread h).pc = tvec ∧ (t.thread h).pos = v * 32 ∧
          (t.thread h).reg 1 = BitVec.ofNat 64 (windowAddr (v * 32) (0x3C000 + 0x100 * f)) ∧
          (t.thread h).reg 2 = BitVec.ofNat 64 m.info.cause.code ∧ (t.thread h).sctx = (s.com m.unit).ctx)

/-- R67, R413, R418: a unit disposed of by its handler, none of whose accesses is open, with no fault recorded: RESUME and REDIRECT free the frame and
end the wait. A thread takes PC, SLOT, its registers, FPCTL and FPST from the image, and keeps its TID; REDIRECT gives it the new PC, with SLOT 0. A wave's
streams restart at APC and CPC, or both at the new PC; its queues, masks and stack are kept. That RESUME takes up the wait kept under the trap is the model's
choice (log entry 96). -/
def Spec.TrapResumption : Prop :=
  ∀ (s : State) (u : UnitId) (v f : Nat) (target : W64), s.accessesOf u = [] → (s.com u).frec = [] → (∀ id, (s.com u).under ≠ .hold id) →
    ∀ mode < 2,
      let t := s.returnTrap v f u mode target
      (t.vale v).frames.find f = none ∧ t.mem = s.mem ∧
      (∀ n, u = .thread n →
        let word (k : Nat) : W64 := BitVec.ofNat 64 (s.rd (framePlace v f + 0x40 + 8 * k) 8)
        (t.thread n).pc = (if mode = 0 then word 0 else target) ∧ (t.thread n).slotBit = (if mode = 0 then (word 1).getLsbD 7 else false) ∧
        (∀ r, 1 ≤ r → r < 16 → t.reg u r = word (r + 1)) ∧ (t.thread n).tid = (s.thread n).tid ∧
        (t.com u).fpctl = (word 18).extractLsb' 0 6 ∧ (t.com u).fpst = (word 18).extractLsb' 32 6) ∧
      (∀ w, u = .wave w →
        let x := s.wave w
        let y := t.wave w
        y.k = x.k ∧ y.v = x.v ∧ y.m = x.m ∧ y.lq = x.lq ∧ y.sq = x.sq ∧ y.stack = x.stack ∧ y.exec = x.exec ∧ y.live = x.live ∧
        (mode = 0 → (t.com u).wait = (s.com u).under ∧ y.apc = x.apc ∧ y.lead = x.lead) ∧
        (mode = 1 → (t.com u).wait = .none ∧ y.apc = target ∧ y.lead = [] ∧ y.computeWait = false))

/-- The traps of units: the stop, the frame and the handler, and what the handler does with the unit: the statements above together. -/
def Obligations.TrapEntry : Prop := Spec.TrapStops ∧ Spec.TrapDelivery ∧ Spec.TrapResumption

/-- R49: the checks of a bundle, lone or paired, in their order, the C-slot before the A-slot within each: words that no table row has, another
engine's instruction, an instruction of supervisors in user mode, a field that must be 0, an operand that does not exist, and, of a paired
bundle, both slots writing one register, which names slot 1. The first that fails is the bundle's, with its slot. -/
def Spec.CheckOrder : Prop :=
  ∀ (c : DecodeCtx) (w0 w1 : W32),
    (decodeC c.ridge w0 w1 = none → checkBundle c w0 w1 = .error (.undefOpcode, 0)) ∧
    (∀ i r, w0.getLsbD 31 = true → decodeC c.ridge w0 w1 = some (i, r) →
      let checks : List (Bool × DecodeFail) :=
        [(engineOk c i, .wrongEngine), (privilegeOk c i, .privileged), (!r, .reservedField), (operandsOk c i, .badOperand)]
      checkBundle c w0 w1 = match checks.find? (fun e => !e.1) with | some (_, x) => .error (x, 0) | none => .ok ⟨i, none⟩) ∧
    (∀ i r, w0.getLsbD 31 = false → decodeC c.ridge w0 w1 = some (i, r) →
      (decodeA c.ridge w1 = none → checkBundle c w0 w1 = .error (.undefOpcode, 1)) ∧
      (∀ j q, decodeA c.ridge w1 = some (j, q) →
        let checks : List (Bool × DecodeFail × Nat) :=
          [(engineOk c i, .wrongEngine, 0), (engineOk c j, .wrongEngine, 1), (privilegeOk c i, .privileged, 0), (privilegeOk c j, .privileged, 1),
           (!r, .reservedField, 0), (!q, .reservedField, 1), (operandsOk c i, .badOperand, 0), (operandsOk c j, .badOperand, 1),
           (!bundleClash c.ridge i j, .badBundle, 1)]
        checkBundle c w0 w1 = match checks.find? (fun e => !e.1) with | some (_, x) => .error x | none => .ok ⟨i, some j⟩))

/-- R49, R56: two slots clash where the C-slot writes a register, other than register 0, that the A-slot writes: on a core a scalar and a lane
instruction with one destination; on a Ridge engine a scalar instruction never clashes with a lane instruction, which writes other
registers, while a load into a v-register does with one into the same. -/
def Spec.Clashes : Prop :=
  ∀ (op : AluOp) (d a b : Reg6) (w : Bool) (x y z : BitVec 8) (kb sat : Bool) (m : MemOp),
    bundleClash false (aluInstr op d a b w) (.vadd (.p x y z kb sat)) = decide (d.toNat ≠ 0 ∧ d.toNat = x.toNat) ∧
    bundleClash true (aluInstr op d a b w) (.vadd (.p x y z kb sat)) = false ∧
    bundleClash true (.ld m) (.vadd (.p x y z kb sat)) = decide (m.dk = false ∧ m.sz ≠ 3 ∧ m.d = x ∨ m.dk = false ∧ m.sz = 3 ∧ (m.d.toNat = x.toNat ∨ m.d.toNat + 1 = x.toNat))

/-- Bundles that fail a check of R49 are refused by the first check that fails: the statements above together. -/
def Obligations.DecodeTraps : Prop := Spec.CheckOrder ∧ Spec.Clashes

/-- R43 to R54: words written out from the encoding tables, and the instructions that they stand for. -/
def Obligations.DecodedWords : Prop :=
  decodeC false 0x02180201 0 = some (.sub 3 0 4 false, false) ∧
  decodeC false 0x08330740 0 = some (.li 6 0x30740, false) ∧
  decodeC false 0x1A000000 0 = some (.exit, false) ∧ decodeC false 0x9A000000 4 = some (.exitLone 4, false) ∧
  decodeC true 0x2008100C 0 = some (.ld { d := 4, b := 2, x := 1, sz := 2, dk := false }, false) ∧
  decodeC false 0x38000001 0 = some (.fenceSt, false) ∧
  decodeC false 0x3C288002 0 = some (.cpyw 5 4, false) ∧
  decodeC false 0xC428C380 3 = some (.sendLone 5 6 7 3, false) ∧
  decodeC true 0x46204100 0 = some (.acca 4 2 false true, false) ∧
  decodeC false 0x4C008105 0 = some (.csegLin 4 2, false) ∧
  decodeC false 0x4E384002 0 = some (.thit 7 2 0, false) ∧
  decodeC false 0x5430A001 0 = some (.lwait 6 5, false) ∧
  decodeC false 0x5C280121 0 = some (.crd 5 0x121, false) ∧
  decodeC false 0xDE204300 0x17 = some (.tlbw 4 2 6 0x17 0, false) ∧
  decodeA true 0xAD888000 = some (.mma 0x62 0x20 0 false, false) ∧
  decodeC false 0x74141618 0 = none

/-- R43 to R53: every well-formed C-class instruction, encoded and decoded again, is that instruction, with every operand. -/
def Obligations.ControlEncodings : Prop := ∀ i : Instr, aClass i = none → Spec.roundTrips i

/-- R46, R47, R54: every well-formed A-class instruction, paired or lone, encoded and decoded again, is that instruction, with every
operand. -/
def Obligations.LaneEncodings : Prop := ∀ i : Instr, (aClass i).isSome = true → Spec.roundTrips i

/-- R42 to R61: a unit that goes on next stands at a bundle boundary with nothing due, and finds a bundle at its PC that passes the checks: the step
is the meaning of the bundle's C-slot, or lone instruction, in the state in which the bundle is latched and the unit is current. The A-slot of a
thread's bundle, and the oldest of a wave's compute stream, follow in steps of their own. What a step adds around the meaning is the model's choice: who
goes next, by the agenda or in turn, and that an instruction which cannot go on takes no time (log entry 1); one tick for each that goes on (log entry 76). -/
def Spec.StepSlots : Prop :=
  ∀ (s : State) (a : Actor), s.actorReady a = true → s.clockReady a = true → s.outranked a = false →
    let u := a.unit
    let s1 : State := { s with cur := some u }
    let turn (t : State) := settledStep t a (t.noteIssue a)
    (∀ r : State, r.endDead = { s with agenda := .run a :: s.agenda } → step r = s.runActor a) ∧
    (∀ r : State, r.endDead = s → s.agenda = [] → autoStep s = none → s.nextActor = some a → step r = s.runActor a) ∧
    ((∀ w, a ≠ .compute w) → s.accessesOf u = [] → (s.com u).frec = [] → (s.com u).wait = .none → (s.com u).after = none →
      ∀ place w0 w1 b, (s.com u).bundle = none → (∀ t, u = .thread t → (s.thread t).slotBit = false) →
      (∀ w, u = .wave w → aClass b.ci ≠ none → (s.wave w).lead = [] ∧ (s.wave w).computeWait = false) →
      Spec.fetches s1 u place w0 w1 b →
      let t := Spec.latched s1 u place w0 w1 b
      s.runActor a = turn t (exec b.ci t)) ∧
    (∀ t b i, u = .thread t → s.accessesOf u = [] → (s.com u).frec = [] → (s.com u).wait = .none → (s.com u).after = none →
      (s.com u).bundle = some b → (s.thread t).slotBit = true → b.ai = some i → s.runActor a = turn s1 (exec i s1)) ∧
    (∀ w l rest, a = .compute w → (s.wave w).lead = l :: rest → s.runActor a = turn s1 (exec l.ai s1))

/-- What a step does beside the slots of units: the moves of the agenda, one at a time, after the threads of dead cores have ended. A step of the device or
of the host that the agenda orders is its instruction's meaning; time passes, an error arises, a core stops, a link goes up or down. After a slot that
has gone on, or whose instruction has begun and keeps it, its issue is noted and one tick passes; after one that is not ready, nothing does. These are the model's own (log entries 1, 76, 83, 107, 112). -/
def Spec.StepMoves : Prop :=
  ∀ (r s : State),
    (∀ i, r.endDead = { s with agenda := .event i :: s.agenda } → isEvent i = true → s.adentoth.st = 1 → step r = exec i { s with tried := [] }) ∧
    (∀ n, r.endDead = { s with agenda := .pass n :: s.agenda } → ∃ t, step r = .next t ∧ t.time = s.time + n ∧ t.mem = s.mem ∧ t.agenda = s.agenda) ∧
    (∀ place double cache, r.endDead = { s with agenda := .upset place double cache :: s.agenda } →
      ∃ t, step r = .next t ∧ t = { s with bad := t.bad, soft := t.soft, cacheErr := t.cacheErr } ∧ ∀ q, t.byteAt q = s.byteAt q) ∧
    (∀ p, r.endDead = { s with agenda := .stop p :: s.agenda } → step r = .next (s.modPosition p (fun q => { q with stuck := true }))) ∧
    (∀ p up, r.endDead = { s with agenda := .link p up :: s.agenda } → step r = .next { s with adentoth := s.adentoth.setLink p up }) ∧
    (∀ a (note : State → State) (t : State),
      (t.tried = s.tried → settledStep s a note (.next t) = .next { (note t).tick 1 with turn := s.portOf a, tried := [] }) ∧
      (t.tried ≠ s.tried → s.begins a t = true → settledStep s a note (.next t) =
        .next { (note (t.modCom a.unit (fun c => { c with issued := true }))).tick 1 with turn := s.portOf a, tried := [] }) ∧
      (t.tried ≠ s.tried → s.begins a t = false → settledStep s a note (.next t) = .next t))

/-- A step runs the decoded instruction, and the moves around it: the statements above together. -/
def Obligations.StepRunsBundle : Prop := Spec.StepSlots ∧ Spec.StepMoves

/-- R8, R382, R411, R448, R476: the machine right after a reset: no thread, wave, grid, job or access exists, memory is in its canonical form and no
word is empty; TVEC and SVEC are 0, GWAIT is 2,000 and no frame is taken; no context is loaded, no page is bound or holds an open record, no operation of CTXCTL
or WSCTL is under way. That Adentoth reports RUN (log entry 11) and that no thread or wave exists (log entry 23) are the model's choices. -/
def Obligations.ResetState : Prop :=
  let s := State.reset
  s.threads = [] ∧ s.waves = [] ∧ s.grids = [] ∧ s.jobs = [] ∧ s.accesses = [] ∧ s.memWf ∧ s.empty = [] ∧ s.adentoth.st = 1 ∧
  (∀ v, (s.vale v).tvec = 0 ∧ (s.vale v).svec = 0 ∧ (s.vale v).frames = [] ∧ (s.vale v).gwait = 2000) ∧
  (∀ c, (s.ctx c).loaded = false) ∧ (∀ fn n, (s.page fn n).bound = none ∧ (s.page fn n).opens = []) ∧
  (∀ d, (s.die d).wsOp = none ∧ (s.die d).ctxOp = none)

/-- R478: only a cold reset leaves HALTED: in a halted package, with no cold reset ordered, every step answers a next state, in which
the package is halted as before, and which differs from the state before only in the time that passes, in the answers to the host, which grow, and in what
comes from outside (`Spec.frozen`): every unit, register, memory byte, die, engine, context, job, request, waiter, walk, translation cache, empty bit and log
is as it was. That time still passes is the model's choice (log entry 112). -/
def Obligations.HaltedStays : Prop :=
  ∀ s : State, Spec.halted s → ∃ t, step s = .next t ∧ Spec.halted t ∧ Spec.frozen t = Spec.frozen s ∧ (∃ l, t.answers = s.answers ++ l) ∧
    (∀ p, { t.position p with stuck := false } = { s.position p with stuck := false }) ∧ s.time ≤ t.time ∧ t.adentoth.st = 3 ∧ t.adentoth.reason = s.adentoth.reason ∧ t.adentoth.src = s.adentoth.src ∧ t.mem = s.mem
end

