-- ==== Sys2Proof/Laws/Lists.lean ====
section
/-! SUPPORT. Laws of the keyed lists: a value put at a key is found there, and every other key keeps its value. -/

namespace Sys2Proof

variable {α : Type}

@[simp] theorem AList.find_put_self (l : AList α) (q : Nat) (v : α) : (l.put q v).find q = some v := by
  induction l with
  | nil => simp [AList.put, AList.find]
  | cons e t ih =>
    obtain ⟨k, w⟩ := e
    by_cases h : k = q <;> simp [AList.put, AList.find, h, ih]

@[simp] theorem AList.getD_put_self (l : AList α) (q : Nat) (v d : α) : (l.put q v).getD q d = v := by
  simp [AList.getD]

theorem AList.find_put_ne (l : AList α) (p q : Nat) (v : α) (h : p ≠ q) : (l.put q v).find p = l.find p := by
  induction l with
  | nil => simp [AList.put, AList.find, Ne.symm h]
  | cons e t ih =>
    obtain ⟨k, w⟩ := e
    by_cases g : k = q
    · subst g; simp [AList.put, AList.find, Ne.symm h]
    · simp [AList.put, AList.find, g, ih]

theorem AList.getD_put_ne (l : AList α) (p q : Nat) (v d : α) (h : p ≠ q) : (l.put q v).getD p d = l.getD p d := by
  simp [AList.getD, AList.find_put_ne l p q v h]

theorem AList.find_drop_ne (l : AList α) (p q : Nat) (h : p ≠ q) : (AList.drop l q).find p = l.find p := by
  induction l with
  | nil => rfl
  | cons e t ih =>
    obtain ⟨k, w⟩ := e
    by_cases g : k = q
    · subst g
      have hk : AList.drop (((k, w) :: t) : AList α) k = AList.drop t k := by simp [AList.drop]
      rw [hk, ih]; simp [AList.find, Ne.symm h]
    · have hk : AList.drop (((k, w) :: t) : AList α) q = (k, w) :: AList.drop t q := by simp [AList.drop, g]
      rw [hk]; simp only [AList.find, ih]

end Sys2Proof
end

