-- ==== Sys2Proof/Laws/State.lean ====
section
/-! SUPPORT. Laws of the state: one lemma for each field of each update, so that no proof unfolds a record update. -/

namespace Sys2Proof.Machine

/-! ### thread -/

@[simp] theorem setThread_threads (s : State) (i : Nat) (x : Thread) : (s.setThread i x).threads = s.threads.put i x := rfl
@[simp] theorem setThread_waves (s : State) (i : Nat) (x : Thread) : (s.setThread i x).waves = s.waves := rfl
@[simp] theorem setThread_blocks (s : State) (i : Nat) (x : Thread) : (s.setThread i x).blocks = s.blocks := rfl
@[simp] theorem setThread_grids (s : State) (i : Nat) (x : Thread) : (s.setThread i x).grids = s.grids := rfl
@[simp] theorem setThread_accesses (s : State) (i : Nat) (x : Thread) : (s.setThread i x).accesses = s.accesses := rfl
@[simp] theorem setThread_jobs (s : State) (i : Nat) (x : Thread) : (s.setThread i x).jobs = s.jobs := rfl
@[simp] theorem setThread_waiters (s : State) (i : Nat) (x : Thread) : (s.setThread i x).waiters = s.waiters := rfl
@[simp] theorem setThread_reqs (s : State) (i : Nat) (x : Thread) : (s.setThread i x).reqs = s.reqs := rfl
@[simp] theorem setThread_remotes (s : State) (i : Nat) (x : Thread) : (s.setThread i x).remotes = s.remotes := rfl
@[simp] theorem setThread_vales (s : State) (i : Nat) (x : Thread) : (s.setThread i x).vales = s.vales := rfl
@[simp] theorem setThread_positions (s : State) (i : Nat) (x : Thread) : (s.setThread i x).positions = s.positions := rfl
@[simp] theorem setThread_engines (s : State) (i : Nat) (x : Thread) : (s.setThread i x).engines = s.engines := rfl
@[simp] theorem setThread_copies (s : State) (i : Nat) (x : Thread) : (s.setThread i x).copies = s.copies := rfl
@[simp] theorem setThread_dies (s : State) (i : Nat) (x : Thread) : (s.setThread i x).dies = s.dies := rfl
@[simp] theorem setThread_ctxs (s : State) (i : Nat) (x : Thread) : (s.setThread i x).ctxs = s.ctxs := rfl
@[simp] theorem setThread_funcs (s : State) (i : Nat) (x : Thread) : (s.setThread i x).funcs = s.funcs := rfl
@[simp] theorem setThread_views (s : State) (i : Nat) (x : Thread) : (s.setThread i x).views = s.views := rfl
@[simp] theorem setThread_tcs (s : State) (i : Nat) (x : Thread) : (s.setThread i x).tcs = s.tcs := rfl
@[simp] theorem setThread_walks (s : State) (i : Nat) (x : Thread) : (s.setThread i x).walks = s.walks := rfl
@[simp] theorem setThread_faults (s : State) (i : Nat) (x : Thread) : (s.setThread i x).faults = s.faults := rfl
@[simp] theorem setThread_faultSeq (s : State) (i : Nat) (x : Thread) : (s.setThread i x).faultSeq = s.faultSeq := rfl
@[simp] theorem setThread_mem (s : State) (i : Nat) (x : Thread) : (s.setThread i x).mem = s.mem := rfl
@[simp] theorem setThread_empty (s : State) (i : Nat) (x : Thread) : (s.setThread i x).empty = s.empty := rfl
@[simp] theorem setThread_bad (s : State) (i : Nat) (x : Thread) : (s.setThread i x).bad = s.bad := rfl
@[simp] theorem setThread_soft (s : State) (i : Nat) (x : Thread) : (s.setThread i x).soft = s.soft := rfl
@[simp] theorem setThread_softLog (s : State) (i : Nat) (x : Thread) : (s.setThread i x).softLog = s.softLog := rfl
@[simp] theorem setThread_peermap (s : State) (i : Nat) (x : Thread) : (s.setThread i x).peermap = s.peermap := rfl
@[simp] theorem setThread_pctx (s : State) (i : Nat) (x : Thread) : (s.setThread i x).pctx = s.pctx := rfl
@[simp] theorem setThread_irqs (s : State) (i : Nat) (x : Thread) : (s.setThread i x).irqs = s.irqs := rfl
@[simp] theorem setThread_adentoth (s : State) (i : Nat) (x : Thread) : (s.setThread i x).adentoth = s.adentoth := rfl
@[simp] theorem setThread_saves (s : State) (i : Nat) (x : Thread) : (s.setThread i x).saves = s.saves := rfl
@[simp] theorem setThread_answers (s : State) (i : Nat) (x : Thread) : (s.setThread i x).answers = s.answers := rfl
@[simp] theorem setThread_time (s : State) (i : Nat) (x : Thread) : (s.setThread i x).time = s.time := rfl
@[simp] theorem setThread_cacheErr (s : State) (i : Nat) (x : Thread) : (s.setThread i x).cacheErr = s.cacheErr := rfl
@[simp] theorem setThread_tried (s : State) (i : Nat) (x : Thread) : (s.setThread i x).tried = s.tried := rfl
@[simp] theorem setThread_prefetches (s : State) (i : Nat) (x : Thread) : (s.setThread i x).prefetches = s.prefetches := rfl
@[simp] theorem setThread_acount (s : State) (i : Nat) (x : Thread) : (s.setThread i x).acount = s.acount := rfl
@[simp] theorem setThread_fcount (s : State) (i : Nat) (x : Thread) : (s.setThread i x).fcount = s.fcount := rfl
@[simp] theorem setThread_homes (s : State) (i : Nat) (x : Thread) : (s.setThread i x).homes = s.homes := rfl
@[simp] theorem setThread_hostHeld (s : State) (i : Nat) (x : Thread) : (s.setThread i x).hostHeld = s.hostHeld := rfl
@[simp] theorem setThread_turn (s : State) (i : Nat) (x : Thread) : (s.setThread i x).turn = s.turn := rfl
@[simp] theorem setThread_cur (s : State) (i : Nat) (x : Thread) : (s.setThread i x).cur = s.cur := rfl
@[simp] theorem setThread_agenda (s : State) (i : Nat) (x : Thread) : (s.setThread i x).agenda = s.agenda := rfl
@[simp] theorem setThread_choices (s : State) (i : Nat) (x : Thread) : (s.setThread i x).choices = s.choices := rfl
@[simp] theorem setThread_fresh (s : State) (i : Nat) (x : Thread) : (s.setThread i x).fresh = s.fresh := rfl
@[simp] theorem thread_setThread (s : State) (i : Nat) (x : Thread) : (s.setThread i x).thread i = x := by simp [State.thread]
theorem thread_setThread_ne (s : State) (i j : Nat) (x : Thread) (h : j ≠ i) : (s.setThread i x).thread j = s.thread j := by
  simp [State.thread, AList.getD_put_ne _ _ _ _ _ h]
@[simp] theorem modThread_eq (s : State) (i : Nat) (g : Thread → Thread) : s.modThread i g = s.setThread i (g (s.thread i)) := rfl

@[simp] theorem wave_setThread (s : State) (i j : Nat) (x : Thread) : (s.setThread i x).wave j = s.wave j := rfl
@[simp] theorem block_setThread (s : State) (i j : Nat) (x : Thread) : (s.setThread i x).block j = s.block j := rfl
@[simp] theorem grid_setThread (s : State) (i j : Nat) (x : Thread) : (s.setThread i x).grid j = s.grid j := rfl
@[simp] theorem vale_setThread (s : State) (i j : Nat) (x : Thread) : (s.setThread i x).vale j = s.vale j := rfl
@[simp] theorem engine_setThread (s : State) (i j : Nat) (x : Thread) : (s.setThread i x).engine j = s.engine j := rfl
@[simp] theorem copyEng_setThread (s : State) (i j : Nat) (x : Thread) : (s.setThread i x).copyEng j = s.copyEng j := rfl
@[simp] theorem die_setThread (s : State) (i j : Nat) (x : Thread) : (s.setThread i x).die j = s.die j := rfl
@[simp] theorem ctx_setThread (s : State) (i j : Nat) (x : Thread) : (s.setThread i x).ctx j = s.ctx j := rfl
@[simp] theorem func_setThread (s : State) (i j : Nat) (x : Thread) : (s.setThread i x).func j = s.func j := rfl
@[simp] theorem position_setThread (s : State) (i j : Nat) (x : Thread) : (s.setThread i x).position j = s.position j := rfl

/-! ### wave -/

@[simp] theorem setWave_threads (s : State) (i : Nat) (x : Wave) : (s.setWave i x).threads = s.threads := rfl
@[simp] theorem setWave_waves (s : State) (i : Nat) (x : Wave) : (s.setWave i x).waves = s.waves.put i x := rfl
@[simp] theorem setWave_blocks (s : State) (i : Nat) (x : Wave) : (s.setWave i x).blocks = s.blocks := rfl
@[simp] theorem setWave_grids (s : State) (i : Nat) (x : Wave) : (s.setWave i x).grids = s.grids := rfl
@[simp] theorem setWave_accesses (s : State) (i : Nat) (x : Wave) : (s.setWave i x).accesses = s.accesses := rfl
@[simp] theorem setWave_jobs (s : State) (i : Nat) (x : Wave) : (s.setWave i x).jobs = s.jobs := rfl
@[simp] theorem setWave_waiters (s : State) (i : Nat) (x : Wave) : (s.setWave i x).waiters = s.waiters := rfl
@[simp] theorem setWave_reqs (s : State) (i : Nat) (x : Wave) : (s.setWave i x).reqs = s.reqs := rfl
@[simp] theorem setWave_remotes (s : State) (i : Nat) (x : Wave) : (s.setWave i x).remotes = s.remotes := rfl
@[simp] theorem setWave_vales (s : State) (i : Nat) (x : Wave) : (s.setWave i x).vales = s.vales := rfl
@[simp] theorem setWave_positions (s : State) (i : Nat) (x : Wave) : (s.setWave i x).positions = s.positions := rfl
@[simp] theorem setWave_engines (s : State) (i : Nat) (x : Wave) : (s.setWave i x).engines = s.engines := rfl
@[simp] theorem setWave_copies (s : State) (i : Nat) (x : Wave) : (s.setWave i x).copies = s.copies := rfl
@[simp] theorem setWave_dies (s : State) (i : Nat) (x : Wave) : (s.setWave i x).dies = s.dies := rfl
@[simp] theorem setWave_ctxs (s : State) (i : Nat) (x : Wave) : (s.setWave i x).ctxs = s.ctxs := rfl
@[simp] theorem setWave_funcs (s : State) (i : Nat) (x : Wave) : (s.setWave i x).funcs = s.funcs := rfl
@[simp] theorem setWave_views (s : State) (i : Nat) (x : Wave) : (s.setWave i x).views = s.views := rfl
@[simp] theorem setWave_tcs (s : State) (i : Nat) (x : Wave) : (s.setWave i x).tcs = s.tcs := rfl
@[simp] theorem setWave_walks (s : State) (i : Nat) (x : Wave) : (s.setWave i x).walks = s.walks := rfl
@[simp] theorem setWave_faults (s : State) (i : Nat) (x : Wave) : (s.setWave i x).faults = s.faults := rfl
@[simp] theorem setWave_faultSeq (s : State) (i : Nat) (x : Wave) : (s.setWave i x).faultSeq = s.faultSeq := rfl
@[simp] theorem setWave_mem (s : State) (i : Nat) (x : Wave) : (s.setWave i x).mem = s.mem := rfl
@[simp] theorem setWave_empty (s : State) (i : Nat) (x : Wave) : (s.setWave i x).empty = s.empty := rfl
@[simp] theorem setWave_bad (s : State) (i : Nat) (x : Wave) : (s.setWave i x).bad = s.bad := rfl
@[simp] theorem setWave_soft (s : State) (i : Nat) (x : Wave) : (s.setWave i x).soft = s.soft := rfl
@[simp] theorem setWave_softLog (s : State) (i : Nat) (x : Wave) : (s.setWave i x).softLog = s.softLog := rfl
@[simp] theorem setWave_peermap (s : State) (i : Nat) (x : Wave) : (s.setWave i x).peermap = s.peermap := rfl
@[simp] theorem setWave_pctx (s : State) (i : Nat) (x : Wave) : (s.setWave i x).pctx = s.pctx := rfl
@[simp] theorem setWave_irqs (s : State) (i : Nat) (x : Wave) : (s.setWave i x).irqs = s.irqs := rfl
@[simp] theorem setWave_adentoth (s : State) (i : Nat) (x : Wave) : (s.setWave i x).adentoth = s.adentoth := rfl
@[simp] theorem setWave_saves (s : State) (i : Nat) (x : Wave) : (s.setWave i x).saves = s.saves := rfl
@[simp] theorem setWave_answers (s : State) (i : Nat) (x : Wave) : (s.setWave i x).answers = s.answers := rfl
@[simp] theorem setWave_time (s : State) (i : Nat) (x : Wave) : (s.setWave i x).time = s.time := rfl
@[simp] theorem setWave_cacheErr (s : State) (i : Nat) (x : Wave) : (s.setWave i x).cacheErr = s.cacheErr := rfl
@[simp] theorem setWave_tried (s : State) (i : Nat) (x : Wave) : (s.setWave i x).tried = s.tried := rfl
@[simp] theorem setWave_prefetches (s : State) (i : Nat) (x : Wave) : (s.setWave i x).prefetches = s.prefetches := rfl
@[simp] theorem setWave_acount (s : State) (i : Nat) (x : Wave) : (s.setWave i x).acount = s.acount := rfl
@[simp] theorem setWave_fcount (s : State) (i : Nat) (x : Wave) : (s.setWave i x).fcount = s.fcount := rfl
@[simp] theorem setWave_homes (s : State) (i : Nat) (x : Wave) : (s.setWave i x).homes = s.homes := rfl
@[simp] theorem setWave_hostHeld (s : State) (i : Nat) (x : Wave) : (s.setWave i x).hostHeld = s.hostHeld := rfl
@[simp] theorem setWave_turn (s : State) (i : Nat) (x : Wave) : (s.setWave i x).turn = s.turn := rfl
@[simp] theorem setWave_cur (s : State) (i : Nat) (x : Wave) : (s.setWave i x).cur = s.cur := rfl
@[simp] theorem setWave_agenda (s : State) (i : Nat) (x : Wave) : (s.setWave i x).agenda = s.agenda := rfl
@[simp] theorem setWave_choices (s : State) (i : Nat) (x : Wave) : (s.setWave i x).choices = s.choices := rfl
@[simp] theorem setWave_fresh (s : State) (i : Nat) (x : Wave) : (s.setWave i x).fresh = s.fresh := rfl
@[simp] theorem wave_setWave (s : State) (i : Nat) (x : Wave) : (s.setWave i x).wave i = x := by simp [State.wave]
theorem wave_setWave_ne (s : State) (i j : Nat) (x : Wave) (h : j ≠ i) : (s.setWave i x).wave j = s.wave j := by
  simp [State.wave, AList.getD_put_ne _ _ _ _ _ h]
@[simp] theorem modWave_eq (s : State) (i : Nat) (g : Wave → Wave) : s.modWave i g = s.setWave i (g (s.wave i)) := rfl

@[simp] theorem thread_setWave (s : State) (i j : Nat) (x : Wave) : (s.setWave i x).thread j = s.thread j := rfl
@[simp] theorem block_setWave (s : State) (i j : Nat) (x : Wave) : (s.setWave i x).block j = s.block j := rfl
@[simp] theorem grid_setWave (s : State) (i j : Nat) (x : Wave) : (s.setWave i x).grid j = s.grid j := rfl
@[simp] theorem vale_setWave (s : State) (i j : Nat) (x : Wave) : (s.setWave i x).vale j = s.vale j := rfl
@[simp] theorem engine_setWave (s : State) (i j : Nat) (x : Wave) : (s.setWave i x).engine j = s.engine j := rfl
@[simp] theorem copyEng_setWave (s : State) (i j : Nat) (x : Wave) : (s.setWave i x).copyEng j = s.copyEng j := rfl
@[simp] theorem die_setWave (s : State) (i j : Nat) (x : Wave) : (s.setWave i x).die j = s.die j := rfl
@[simp] theorem ctx_setWave (s : State) (i j : Nat) (x : Wave) : (s.setWave i x).ctx j = s.ctx j := rfl
@[simp] theorem func_setWave (s : State) (i j : Nat) (x : Wave) : (s.setWave i x).func j = s.func j := rfl
@[simp] theorem position_setWave (s : State) (i j : Nat) (x : Wave) : (s.setWave i x).position j = s.position j := rfl

/-! ### block -/

@[simp] theorem setBlock_threads (s : State) (i : Nat) (x : Block) : (s.setBlock i x).threads = s.threads := rfl
@[simp] theorem setBlock_waves (s : State) (i : Nat) (x : Block) : (s.setBlock i x).waves = s.waves := rfl
@[simp] theorem setBlock_blocks (s : State) (i : Nat) (x : Block) : (s.setBlock i x).blocks = s.blocks.put i x := rfl
@[simp] theorem setBlock_grids (s : State) (i : Nat) (x : Block) : (s.setBlock i x).grids = s.grids := rfl
@[simp] theorem setBlock_accesses (s : State) (i : Nat) (x : Block) : (s.setBlock i x).accesses = s.accesses := rfl
@[simp] theorem setBlock_jobs (s : State) (i : Nat) (x : Block) : (s.setBlock i x).jobs = s.jobs := rfl
@[simp] theorem setBlock_waiters (s : State) (i : Nat) (x : Block) : (s.setBlock i x).waiters = s.waiters := rfl
@[simp] theorem setBlock_reqs (s : State) (i : Nat) (x : Block) : (s.setBlock i x).reqs = s.reqs := rfl
@[simp] theorem setBlock_remotes (s : State) (i : Nat) (x : Block) : (s.setBlock i x).remotes = s.remotes := rfl
@[simp] theorem setBlock_vales (s : State) (i : Nat) (x : Block) : (s.setBlock i x).vales = s.vales := rfl
@[simp] theorem setBlock_positions (s : State) (i : Nat) (x : Block) : (s.setBlock i x).positions = s.positions := rfl
@[simp] theorem setBlock_engines (s : State) (i : Nat) (x : Block) : (s.setBlock i x).engines = s.engines := rfl
@[simp] theorem setBlock_copies (s : State) (i : Nat) (x : Block) : (s.setBlock i x).copies = s.copies := rfl
@[simp] theorem setBlock_dies (s : State) (i : Nat) (x : Block) : (s.setBlock i x).dies = s.dies := rfl
@[simp] theorem setBlock_ctxs (s : State) (i : Nat) (x : Block) : (s.setBlock i x).ctxs = s.ctxs := rfl
@[simp] theorem setBlock_funcs (s : State) (i : Nat) (x : Block) : (s.setBlock i x).funcs = s.funcs := rfl
@[simp] theorem setBlock_views (s : State) (i : Nat) (x : Block) : (s.setBlock i x).views = s.views := rfl
@[simp] theorem setBlock_tcs (s : State) (i : Nat) (x : Block) : (s.setBlock i x).tcs = s.tcs := rfl
@[simp] theorem setBlock_walks (s : State) (i : Nat) (x : Block) : (s.setBlock i x).walks = s.walks := rfl
@[simp] theorem setBlock_faults (s : State) (i : Nat) (x : Block) : (s.setBlock i x).faults = s.faults := rfl
@[simp] theorem setBlock_faultSeq (s : State) (i : Nat) (x : Block) : (s.setBlock i x).faultSeq = s.faultSeq := rfl
@[simp] theorem setBlock_mem (s : State) (i : Nat) (x : Block) : (s.setBlock i x).mem = s.mem := rfl
@[simp] theorem setBlock_empty (s : State) (i : Nat) (x : Block) : (s.setBlock i x).empty = s.empty := rfl
@[simp] theorem setBlock_bad (s : State) (i : Nat) (x : Block) : (s.setBlock i x).bad = s.bad := rfl
@[simp] theorem setBlock_soft (s : State) (i : Nat) (x : Block) : (s.setBlock i x).soft = s.soft := rfl
@[simp] theorem setBlock_softLog (s : State) (i : Nat) (x : Block) : (s.setBlock i x).softLog = s.softLog := rfl
@[simp] theorem setBlock_peermap (s : State) (i : Nat) (x : Block) : (s.setBlock i x).peermap = s.peermap := rfl
@[simp] theorem setBlock_pctx (s : State) (i : Nat) (x : Block) : (s.setBlock i x).pctx = s.pctx := rfl
@[simp] theorem setBlock_irqs (s : State) (i : Nat) (x : Block) : (s.setBlock i x).irqs = s.irqs := rfl
@[simp] theorem setBlock_adentoth (s : State) (i : Nat) (x : Block) : (s.setBlock i x).adentoth = s.adentoth := rfl
@[simp] theorem setBlock_saves (s : State) (i : Nat) (x : Block) : (s.setBlock i x).saves = s.saves := rfl
@[simp] theorem setBlock_answers (s : State) (i : Nat) (x : Block) : (s.setBlock i x).answers = s.answers := rfl
@[simp] theorem setBlock_time (s : State) (i : Nat) (x : Block) : (s.setBlock i x).time = s.time := rfl
@[simp] theorem setBlock_cacheErr (s : State) (i : Nat) (x : Block) : (s.setBlock i x).cacheErr = s.cacheErr := rfl
@[simp] theorem setBlock_tried (s : State) (i : Nat) (x : Block) : (s.setBlock i x).tried = s.tried := rfl
@[simp] theorem setBlock_prefetches (s : State) (i : Nat) (x : Block) : (s.setBlock i x).prefetches = s.prefetches := rfl
@[simp] theorem setBlock_acount (s : State) (i : Nat) (x : Block) : (s.setBlock i x).acount = s.acount := rfl
@[simp] theorem setBlock_fcount (s : State) (i : Nat) (x : Block) : (s.setBlock i x).fcount = s.fcount := rfl
@[simp] theorem setBlock_homes (s : State) (i : Nat) (x : Block) : (s.setBlock i x).homes = s.homes := rfl
@[simp] theorem setBlock_hostHeld (s : State) (i : Nat) (x : Block) : (s.setBlock i x).hostHeld = s.hostHeld := rfl
@[simp] theorem setBlock_turn (s : State) (i : Nat) (x : Block) : (s.setBlock i x).turn = s.turn := rfl
@[simp] theorem setBlock_cur (s : State) (i : Nat) (x : Block) : (s.setBlock i x).cur = s.cur := rfl
@[simp] theorem setBlock_agenda (s : State) (i : Nat) (x : Block) : (s.setBlock i x).agenda = s.agenda := rfl
@[simp] theorem setBlock_choices (s : State) (i : Nat) (x : Block) : (s.setBlock i x).choices = s.choices := rfl
@[simp] theorem setBlock_fresh (s : State) (i : Nat) (x : Block) : (s.setBlock i x).fresh = s.fresh := rfl
@[simp] theorem block_setBlock (s : State) (i : Nat) (x : Block) : (s.setBlock i x).block i = x := by simp [State.block]
theorem block_setBlock_ne (s : State) (i j : Nat) (x : Block) (h : j ≠ i) : (s.setBlock i x).block j = s.block j := by
  simp [State.block, AList.getD_put_ne _ _ _ _ _ h]
@[simp] theorem modBlock_eq (s : State) (i : Nat) (g : Block → Block) : s.modBlock i g = s.setBlock i (g (s.block i)) := rfl

@[simp] theorem thread_setBlock (s : State) (i j : Nat) (x : Block) : (s.setBlock i x).thread j = s.thread j := rfl
@[simp] theorem wave_setBlock (s : State) (i j : Nat) (x : Block) : (s.setBlock i x).wave j = s.wave j := rfl
@[simp] theorem grid_setBlock (s : State) (i j : Nat) (x : Block) : (s.setBlock i x).grid j = s.grid j := rfl
@[simp] theorem vale_setBlock (s : State) (i j : Nat) (x : Block) : (s.setBlock i x).vale j = s.vale j := rfl
@[simp] theorem engine_setBlock (s : State) (i j : Nat) (x : Block) : (s.setBlock i x).engine j = s.engine j := rfl
@[simp] theorem copyEng_setBlock (s : State) (i j : Nat) (x : Block) : (s.setBlock i x).copyEng j = s.copyEng j := rfl
@[simp] theorem die_setBlock (s : State) (i j : Nat) (x : Block) : (s.setBlock i x).die j = s.die j := rfl
@[simp] theorem ctx_setBlock (s : State) (i j : Nat) (x : Block) : (s.setBlock i x).ctx j = s.ctx j := rfl
@[simp] theorem func_setBlock (s : State) (i j : Nat) (x : Block) : (s.setBlock i x).func j = s.func j := rfl
@[simp] theorem position_setBlock (s : State) (i j : Nat) (x : Block) : (s.setBlock i x).position j = s.position j := rfl

/-! ### grid -/

@[simp] theorem setGrid_threads (s : State) (i : Nat) (x : Grid) : (s.setGrid i x).threads = s.threads := rfl
@[simp] theorem setGrid_waves (s : State) (i : Nat) (x : Grid) : (s.setGrid i x).waves = s.waves := rfl
@[simp] theorem setGrid_blocks (s : State) (i : Nat) (x : Grid) : (s.setGrid i x).blocks = s.blocks := rfl
@[simp] theorem setGrid_grids (s : State) (i : Nat) (x : Grid) : (s.setGrid i x).grids = s.grids.put i x := rfl
@[simp] theorem setGrid_accesses (s : State) (i : Nat) (x : Grid) : (s.setGrid i x).accesses = s.accesses := rfl
@[simp] theorem setGrid_jobs (s : State) (i : Nat) (x : Grid) : (s.setGrid i x).jobs = s.jobs := rfl
@[simp] theorem setGrid_waiters (s : State) (i : Nat) (x : Grid) : (s.setGrid i x).waiters = s.waiters := rfl
@[simp] theorem setGrid_reqs (s : State) (i : Nat) (x : Grid) : (s.setGrid i x).reqs = s.reqs := rfl
@[simp] theorem setGrid_remotes (s : State) (i : Nat) (x : Grid) : (s.setGrid i x).remotes = s.remotes := rfl
@[simp] theorem setGrid_vales (s : State) (i : Nat) (x : Grid) : (s.setGrid i x).vales = s.vales := rfl
@[simp] theorem setGrid_positions (s : State) (i : Nat) (x : Grid) : (s.setGrid i x).positions = s.positions := rfl
@[simp] theorem setGrid_engines (s : State) (i : Nat) (x : Grid) : (s.setGrid i x).engines = s.engines := rfl
@[simp] theorem setGrid_copies (s : State) (i : Nat) (x : Grid) : (s.setGrid i x).copies = s.copies := rfl
@[simp] theorem setGrid_dies (s : State) (i : Nat) (x : Grid) : (s.setGrid i x).dies = s.dies := rfl
@[simp] theorem setGrid_ctxs (s : State) (i : Nat) (x : Grid) : (s.setGrid i x).ctxs = s.ctxs := rfl
@[simp] theorem setGrid_funcs (s : State) (i : Nat) (x : Grid) : (s.setGrid i x).funcs = s.funcs := rfl
@[simp] theorem setGrid_views (s : State) (i : Nat) (x : Grid) : (s.setGrid i x).views = s.views := rfl
@[simp] theorem setGrid_tcs (s : State) (i : Nat) (x : Grid) : (s.setGrid i x).tcs = s.tcs := rfl
@[simp] theorem setGrid_walks (s : State) (i : Nat) (x : Grid) : (s.setGrid i x).walks = s.walks := rfl
@[simp] theorem setGrid_faults (s : State) (i : Nat) (x : Grid) : (s.setGrid i x).faults = s.faults := rfl
@[simp] theorem setGrid_faultSeq (s : State) (i : Nat) (x : Grid) : (s.setGrid i x).faultSeq = s.faultSeq := rfl
@[simp] theorem setGrid_mem (s : State) (i : Nat) (x : Grid) : (s.setGrid i x).mem = s.mem := rfl
@[simp] theorem setGrid_empty (s : State) (i : Nat) (x : Grid) : (s.setGrid i x).empty = s.empty := rfl
@[simp] theorem setGrid_bad (s : State) (i : Nat) (x : Grid) : (s.setGrid i x).bad = s.bad := rfl
@[simp] theorem setGrid_soft (s : State) (i : Nat) (x : Grid) : (s.setGrid i x).soft = s.soft := rfl
@[simp] theorem setGrid_softLog (s : State) (i : Nat) (x : Grid) : (s.setGrid i x).softLog = s.softLog := rfl
@[simp] theorem setGrid_peermap (s : State) (i : Nat) (x : Grid) : (s.setGrid i x).peermap = s.peermap := rfl
@[simp] theorem setGrid_pctx (s : State) (i : Nat) (x : Grid) : (s.setGrid i x).pctx = s.pctx := rfl
@[simp] theorem setGrid_irqs (s : State) (i : Nat) (x : Grid) : (s.setGrid i x).irqs = s.irqs := rfl
@[simp] theorem setGrid_adentoth (s : State) (i : Nat) (x : Grid) : (s.setGrid i x).adentoth = s.adentoth := rfl
@[simp] theorem setGrid_saves (s : State) (i : Nat) (x : Grid) : (s.setGrid i x).saves = s.saves := rfl
@[simp] theorem setGrid_answers (s : State) (i : Nat) (x : Grid) : (s.setGrid i x).answers = s.answers := rfl
@[simp] theorem setGrid_time (s : State) (i : Nat) (x : Grid) : (s.setGrid i x).time = s.time := rfl
@[simp] theorem setGrid_cacheErr (s : State) (i : Nat) (x : Grid) : (s.setGrid i x).cacheErr = s.cacheErr := rfl
@[simp] theorem setGrid_tried (s : State) (i : Nat) (x : Grid) : (s.setGrid i x).tried = s.tried := rfl
@[simp] theorem setGrid_prefetches (s : State) (i : Nat) (x : Grid) : (s.setGrid i x).prefetches = s.prefetches := rfl
@[simp] theorem setGrid_acount (s : State) (i : Nat) (x : Grid) : (s.setGrid i x).acount = s.acount := rfl
@[simp] theorem setGrid_fcount (s : State) (i : Nat) (x : Grid) : (s.setGrid i x).fcount = s.fcount := rfl
@[simp] theorem setGrid_homes (s : State) (i : Nat) (x : Grid) : (s.setGrid i x).homes = s.homes := rfl
@[simp] theorem setGrid_hostHeld (s : State) (i : Nat) (x : Grid) : (s.setGrid i x).hostHeld = s.hostHeld := rfl
@[simp] theorem setGrid_turn (s : State) (i : Nat) (x : Grid) : (s.setGrid i x).turn = s.turn := rfl
@[simp] theorem setGrid_cur (s : State) (i : Nat) (x : Grid) : (s.setGrid i x).cur = s.cur := rfl
@[simp] theorem setGrid_agenda (s : State) (i : Nat) (x : Grid) : (s.setGrid i x).agenda = s.agenda := rfl
@[simp] theorem setGrid_choices (s : State) (i : Nat) (x : Grid) : (s.setGrid i x).choices = s.choices := rfl
@[simp] theorem setGrid_fresh (s : State) (i : Nat) (x : Grid) : (s.setGrid i x).fresh = s.fresh := rfl
@[simp] theorem grid_setGrid (s : State) (i : Nat) (x : Grid) : (s.setGrid i x).grid i = x := by simp [State.grid]
theorem grid_setGrid_ne (s : State) (i j : Nat) (x : Grid) (h : j ≠ i) : (s.setGrid i x).grid j = s.grid j := by
  simp [State.grid, AList.getD_put_ne _ _ _ _ _ h]
@[simp] theorem modGrid_eq (s : State) (i : Nat) (g : Grid → Grid) : s.modGrid i g = s.setGrid i (g (s.grid i)) := rfl

@[simp] theorem thread_setGrid (s : State) (i j : Nat) (x : Grid) : (s.setGrid i x).thread j = s.thread j := rfl
@[simp] theorem wave_setGrid (s : State) (i j : Nat) (x : Grid) : (s.setGrid i x).wave j = s.wave j := rfl
@[simp] theorem block_setGrid (s : State) (i j : Nat) (x : Grid) : (s.setGrid i x).block j = s.block j := rfl
@[simp] theorem vale_setGrid (s : State) (i j : Nat) (x : Grid) : (s.setGrid i x).vale j = s.vale j := rfl
@[simp] theorem engine_setGrid (s : State) (i j : Nat) (x : Grid) : (s.setGrid i x).engine j = s.engine j := rfl
@[simp] theorem copyEng_setGrid (s : State) (i j : Nat) (x : Grid) : (s.setGrid i x).copyEng j = s.copyEng j := rfl
@[simp] theorem die_setGrid (s : State) (i j : Nat) (x : Grid) : (s.setGrid i x).die j = s.die j := rfl
@[simp] theorem ctx_setGrid (s : State) (i j : Nat) (x : Grid) : (s.setGrid i x).ctx j = s.ctx j := rfl
@[simp] theorem func_setGrid (s : State) (i j : Nat) (x : Grid) : (s.setGrid i x).func j = s.func j := rfl
@[simp] theorem position_setGrid (s : State) (i j : Nat) (x : Grid) : (s.setGrid i x).position j = s.position j := rfl

/-! ### vale -/

@[simp] theorem setVale_threads (s : State) (i : Nat) (x : Vale) : (s.setVale i x).threads = s.threads := rfl
@[simp] theorem setVale_waves (s : State) (i : Nat) (x : Vale) : (s.setVale i x).waves = s.waves := rfl
@[simp] theorem setVale_blocks (s : State) (i : Nat) (x : Vale) : (s.setVale i x).blocks = s.blocks := rfl
@[simp] theorem setVale_grids (s : State) (i : Nat) (x : Vale) : (s.setVale i x).grids = s.grids := rfl
@[simp] theorem setVale_accesses (s : State) (i : Nat) (x : Vale) : (s.setVale i x).accesses = s.accesses := rfl
@[simp] theorem setVale_jobs (s : State) (i : Nat) (x : Vale) : (s.setVale i x).jobs = s.jobs := rfl
@[simp] theorem setVale_waiters (s : State) (i : Nat) (x : Vale) : (s.setVale i x).waiters = s.waiters := rfl
@[simp] theorem setVale_reqs (s : State) (i : Nat) (x : Vale) : (s.setVale i x).reqs = s.reqs := rfl
@[simp] theorem setVale_remotes (s : State) (i : Nat) (x : Vale) : (s.setVale i x).remotes = s.remotes := rfl
@[simp] theorem setVale_vales (s : State) (i : Nat) (x : Vale) : (s.setVale i x).vales = s.vales.put i x := rfl
@[simp] theorem setVale_positions (s : State) (i : Nat) (x : Vale) : (s.setVale i x).positions = s.positions := rfl
@[simp] theorem setVale_engines (s : State) (i : Nat) (x : Vale) : (s.setVale i x).engines = s.engines := rfl
@[simp] theorem setVale_copies (s : State) (i : Nat) (x : Vale) : (s.setVale i x).copies = s.copies := rfl
@[simp] theorem setVale_dies (s : State) (i : Nat) (x : Vale) : (s.setVale i x).dies = s.dies := rfl
@[simp] theorem setVale_ctxs (s : State) (i : Nat) (x : Vale) : (s.setVale i x).ctxs = s.ctxs := rfl
@[simp] theorem setVale_funcs (s : State) (i : Nat) (x : Vale) : (s.setVale i x).funcs = s.funcs := rfl
@[simp] theorem setVale_views (s : State) (i : Nat) (x : Vale) : (s.setVale i x).views = s.views := rfl
@[simp] theorem setVale_tcs (s : State) (i : Nat) (x : Vale) : (s.setVale i x).tcs = s.tcs := rfl
@[simp] theorem setVale_walks (s : State) (i : Nat) (x : Vale) : (s.setVale i x).walks = s.walks := rfl
@[simp] theorem setVale_faults (s : State) (i : Nat) (x : Vale) : (s.setVale i x).faults = s.faults := rfl
@[simp] theorem setVale_faultSeq (s : State) (i : Nat) (x : Vale) : (s.setVale i x).faultSeq = s.faultSeq := rfl
@[simp] theorem setVale_mem (s : State) (i : Nat) (x : Vale) : (s.setVale i x).mem = s.mem := rfl
@[simp] theorem setVale_empty (s : State) (i : Nat) (x : Vale) : (s.setVale i x).empty = s.empty := rfl
@[simp] theorem setVale_bad (s : State) (i : Nat) (x : Vale) : (s.setVale i x).bad = s.bad := rfl
@[simp] theorem setVale_soft (s : State) (i : Nat) (x : Vale) : (s.setVale i x).soft = s.soft := rfl
@[simp] theorem setVale_softLog (s : State) (i : Nat) (x : Vale) : (s.setVale i x).softLog = s.softLog := rfl
@[simp] theorem setVale_peermap (s : State) (i : Nat) (x : Vale) : (s.setVale i x).peermap = s.peermap := rfl
@[simp] theorem setVale_pctx (s : State) (i : Nat) (x : Vale) : (s.setVale i x).pctx = s.pctx := rfl
@[simp] theorem setVale_irqs (s : State) (i : Nat) (x : Vale) : (s.setVale i x).irqs = s.irqs := rfl
@[simp] theorem setVale_adentoth (s : State) (i : Nat) (x : Vale) : (s.setVale i x).adentoth = s.adentoth := rfl
@[simp] theorem setVale_saves (s : State) (i : Nat) (x : Vale) : (s.setVale i x).saves = s.saves := rfl
@[simp] theorem setVale_answers (s : State) (i : Nat) (x : Vale) : (s.setVale i x).answers = s.answers := rfl
@[simp] theorem setVale_time (s : State) (i : Nat) (x : Vale) : (s.setVale i x).time = s.time := rfl
@[simp] theorem setVale_cacheErr (s : State) (i : Nat) (x : Vale) : (s.setVale i x).cacheErr = s.cacheErr := rfl
@[simp] theorem setVale_tried (s : State) (i : Nat) (x : Vale) : (s.setVale i x).tried = s.tried := rfl
@[simp] theorem setVale_prefetches (s : State) (i : Nat) (x : Vale) : (s.setVale i x).prefetches = s.prefetches := rfl
@[simp] theorem setVale_acount (s : State) (i : Nat) (x : Vale) : (s.setVale i x).acount = s.acount := rfl
@[simp] theorem setVale_fcount (s : State) (i : Nat) (x : Vale) : (s.setVale i x).fcount = s.fcount := rfl
@[simp] theorem setVale_homes (s : State) (i : Nat) (x : Vale) : (s.setVale i x).homes = s.homes := rfl
@[simp] theorem setVale_hostHeld (s : State) (i : Nat) (x : Vale) : (s.setVale i x).hostHeld = s.hostHeld := rfl
@[simp] theorem setVale_turn (s : State) (i : Nat) (x : Vale) : (s.setVale i x).turn = s.turn := rfl
@[simp] theorem setVale_cur (s : State) (i : Nat) (x : Vale) : (s.setVale i x).cur = s.cur := rfl
@[simp] theorem setVale_agenda (s : State) (i : Nat) (x : Vale) : (s.setVale i x).agenda = s.agenda := rfl
@[simp] theorem setVale_choices (s : State) (i : Nat) (x : Vale) : (s.setVale i x).choices = s.choices := rfl
@[simp] theorem setVale_fresh (s : State) (i : Nat) (x : Vale) : (s.setVale i x).fresh = s.fresh := rfl
@[simp] theorem vale_setVale (s : State) (i : Nat) (x : Vale) : (s.setVale i x).vale i = x := by simp [State.vale]
theorem vale_setVale_ne (s : State) (i j : Nat) (x : Vale) (h : j ≠ i) : (s.setVale i x).vale j = s.vale j := by
  simp [State.vale, AList.getD_put_ne _ _ _ _ _ h]
@[simp] theorem modVale_eq (s : State) (i : Nat) (g : Vale → Vale) : s.modVale i g = s.setVale i (g (s.vale i)) := rfl

@[simp] theorem thread_setVale (s : State) (i j : Nat) (x : Vale) : (s.setVale i x).thread j = s.thread j := rfl
@[simp] theorem wave_setVale (s : State) (i j : Nat) (x : Vale) : (s.setVale i x).wave j = s.wave j := rfl
@[simp] theorem block_setVale (s : State) (i j : Nat) (x : Vale) : (s.setVale i x).block j = s.block j := rfl
@[simp] theorem grid_setVale (s : State) (i j : Nat) (x : Vale) : (s.setVale i x).grid j = s.grid j := rfl
@[simp] theorem engine_setVale (s : State) (i j : Nat) (x : Vale) : (s.setVale i x).engine j = s.engine j := rfl
@[simp] theorem copyEng_setVale (s : State) (i j : Nat) (x : Vale) : (s.setVale i x).copyEng j = s.copyEng j := rfl
@[simp] theorem die_setVale (s : State) (i j : Nat) (x : Vale) : (s.setVale i x).die j = s.die j := rfl
@[simp] theorem ctx_setVale (s : State) (i j : Nat) (x : Vale) : (s.setVale i x).ctx j = s.ctx j := rfl
@[simp] theorem func_setVale (s : State) (i j : Nat) (x : Vale) : (s.setVale i x).func j = s.func j := rfl
@[simp] theorem position_setVale (s : State) (i j : Nat) (x : Vale) : (s.setVale i x).position j = s.position j := rfl

/-! ### engine -/

@[simp] theorem setEngine_threads (s : State) (i : Nat) (x : Engine) : (s.setEngine i x).threads = s.threads := rfl
@[simp] theorem setEngine_waves (s : State) (i : Nat) (x : Engine) : (s.setEngine i x).waves = s.waves := rfl
@[simp] theorem setEngine_blocks (s : State) (i : Nat) (x : Engine) : (s.setEngine i x).blocks = s.blocks := rfl
@[simp] theorem setEngine_grids (s : State) (i : Nat) (x : Engine) : (s.setEngine i x).grids = s.grids := rfl
@[simp] theorem setEngine_accesses (s : State) (i : Nat) (x : Engine) : (s.setEngine i x).accesses = s.accesses := rfl
@[simp] theorem setEngine_jobs (s : State) (i : Nat) (x : Engine) : (s.setEngine i x).jobs = s.jobs := rfl
@[simp] theorem setEngine_waiters (s : State) (i : Nat) (x : Engine) : (s.setEngine i x).waiters = s.waiters := rfl
@[simp] theorem setEngine_reqs (s : State) (i : Nat) (x : Engine) : (s.setEngine i x).reqs = s.reqs := rfl
@[simp] theorem setEngine_remotes (s : State) (i : Nat) (x : Engine) : (s.setEngine i x).remotes = s.remotes := rfl
@[simp] theorem setEngine_vales (s : State) (i : Nat) (x : Engine) : (s.setEngine i x).vales = s.vales := rfl
@[simp] theorem setEngine_positions (s : State) (i : Nat) (x : Engine) : (s.setEngine i x).positions = s.positions := rfl
@[simp] theorem setEngine_engines (s : State) (i : Nat) (x : Engine) : (s.setEngine i x).engines = s.engines.put i x := rfl
@[simp] theorem setEngine_copies (s : State) (i : Nat) (x : Engine) : (s.setEngine i x).copies = s.copies := rfl
@[simp] theorem setEngine_dies (s : State) (i : Nat) (x : Engine) : (s.setEngine i x).dies = s.dies := rfl
@[simp] theorem setEngine_ctxs (s : State) (i : Nat) (x : Engine) : (s.setEngine i x).ctxs = s.ctxs := rfl
@[simp] theorem setEngine_funcs (s : State) (i : Nat) (x : Engine) : (s.setEngine i x).funcs = s.funcs := rfl
@[simp] theorem setEngine_views (s : State) (i : Nat) (x : Engine) : (s.setEngine i x).views = s.views := rfl
@[simp] theorem setEngine_tcs (s : State) (i : Nat) (x : Engine) : (s.setEngine i x).tcs = s.tcs := rfl
@[simp] theorem setEngine_walks (s : State) (i : Nat) (x : Engine) : (s.setEngine i x).walks = s.walks := rfl
@[simp] theorem setEngine_faults (s : State) (i : Nat) (x : Engine) : (s.setEngine i x).faults = s.faults := rfl
@[simp] theorem setEngine_faultSeq (s : State) (i : Nat) (x : Engine) : (s.setEngine i x).faultSeq = s.faultSeq := rfl
@[simp] theorem setEngine_mem (s : State) (i : Nat) (x : Engine) : (s.setEngine i x).mem = s.mem := rfl
@[simp] theorem setEngine_empty (s : State) (i : Nat) (x : Engine) : (s.setEngine i x).empty = s.empty := rfl
@[simp] theorem setEngine_bad (s : State) (i : Nat) (x : Engine) : (s.setEngine i x).bad = s.bad := rfl
@[simp] theorem setEngine_soft (s : State) (i : Nat) (x : Engine) : (s.setEngine i x).soft = s.soft := rfl
@[simp] theorem setEngine_softLog (s : State) (i : Nat) (x : Engine) : (s.setEngine i x).softLog = s.softLog := rfl
@[simp] theorem setEngine_peermap (s : State) (i : Nat) (x : Engine) : (s.setEngine i x).peermap = s.peermap := rfl
@[simp] theorem setEngine_pctx (s : State) (i : Nat) (x : Engine) : (s.setEngine i x).pctx = s.pctx := rfl
@[simp] theorem setEngine_irqs (s : State) (i : Nat) (x : Engine) : (s.setEngine i x).irqs = s.irqs := rfl
@[simp] theorem setEngine_adentoth (s : State) (i : Nat) (x : Engine) : (s.setEngine i x).adentoth = s.adentoth := rfl
@[simp] theorem setEngine_saves (s : State) (i : Nat) (x : Engine) : (s.setEngine i x).saves = s.saves := rfl
@[simp] theorem setEngine_answers (s : State) (i : Nat) (x : Engine) : (s.setEngine i x).answers = s.answers := rfl
@[simp] theorem setEngine_time (s : State) (i : Nat) (x : Engine) : (s.setEngine i x).time = s.time := rfl
@[simp] theorem setEngine_cacheErr (s : State) (i : Nat) (x : Engine) : (s.setEngine i x).cacheErr = s.cacheErr := rfl
@[simp] theorem setEngine_tried (s : State) (i : Nat) (x : Engine) : (s.setEngine i x).tried = s.tried := rfl
@[simp] theorem setEngine_prefetches (s : State) (i : Nat) (x : Engine) : (s.setEngine i x).prefetches = s.prefetches := rfl
@[simp] theorem setEngine_acount (s : State) (i : Nat) (x : Engine) : (s.setEngine i x).acount = s.acount := rfl
@[simp] theorem setEngine_fcount (s : State) (i : Nat) (x : Engine) : (s.setEngine i x).fcount = s.fcount := rfl
@[simp] theorem setEngine_homes (s : State) (i : Nat) (x : Engine) : (s.setEngine i x).homes = s.homes := rfl
@[simp] theorem setEngine_hostHeld (s : State) (i : Nat) (x : Engine) : (s.setEngine i x).hostHeld = s.hostHeld := rfl
@[simp] theorem setEngine_turn (s : State) (i : Nat) (x : Engine) : (s.setEngine i x).turn = s.turn := rfl
@[simp] theorem setEngine_cur (s : State) (i : Nat) (x : Engine) : (s.setEngine i x).cur = s.cur := rfl
@[simp] theorem setEngine_agenda (s : State) (i : Nat) (x : Engine) : (s.setEngine i x).agenda = s.agenda := rfl
@[simp] theorem setEngine_choices (s : State) (i : Nat) (x : Engine) : (s.setEngine i x).choices = s.choices := rfl
@[simp] theorem setEngine_fresh (s : State) (i : Nat) (x : Engine) : (s.setEngine i x).fresh = s.fresh := rfl
@[simp] theorem engine_setEngine (s : State) (i : Nat) (x : Engine) : (s.setEngine i x).engine i = x := by simp [State.engine]
theorem engine_setEngine_ne (s : State) (i j : Nat) (x : Engine) (h : j ≠ i) : (s.setEngine i x).engine j = s.engine j := by
  simp [State.engine, AList.getD_put_ne _ _ _ _ _ h]
@[simp] theorem modEngine_eq (s : State) (i : Nat) (g : Engine → Engine) : s.modEngine i g = s.setEngine i (g (s.engine i)) := rfl

@[simp] theorem thread_setEngine (s : State) (i j : Nat) (x : Engine) : (s.setEngine i x).thread j = s.thread j := rfl
@[simp] theorem wave_setEngine (s : State) (i j : Nat) (x : Engine) : (s.setEngine i x).wave j = s.wave j := rfl
@[simp] theorem block_setEngine (s : State) (i j : Nat) (x : Engine) : (s.setEngine i x).block j = s.block j := rfl
@[simp] theorem grid_setEngine (s : State) (i j : Nat) (x : Engine) : (s.setEngine i x).grid j = s.grid j := rfl
@[simp] theorem vale_setEngine (s : State) (i j : Nat) (x : Engine) : (s.setEngine i x).vale j = s.vale j := rfl
@[simp] theorem copyEng_setEngine (s : State) (i j : Nat) (x : Engine) : (s.setEngine i x).copyEng j = s.copyEng j := rfl
@[simp] theorem die_setEngine (s : State) (i j : Nat) (x : Engine) : (s.setEngine i x).die j = s.die j := rfl
@[simp] theorem ctx_setEngine (s : State) (i j : Nat) (x : Engine) : (s.setEngine i x).ctx j = s.ctx j := rfl
@[simp] theorem func_setEngine (s : State) (i j : Nat) (x : Engine) : (s.setEngine i x).func j = s.func j := rfl
@[simp] theorem position_setEngine (s : State) (i j : Nat) (x : Engine) : (s.setEngine i x).position j = s.position j := rfl

/-! ### copyEng -/

@[simp] theorem setCopyEng_threads (s : State) (i : Nat) (x : CopyEngine) : (s.setCopyEng i x).threads = s.threads := rfl
@[simp] theorem setCopyEng_waves (s : State) (i : Nat) (x : CopyEngine) : (s.setCopyEng i x).waves = s.waves := rfl
@[simp] theorem setCopyEng_blocks (s : State) (i : Nat) (x : CopyEngine) : (s.setCopyEng i x).blocks = s.blocks := rfl
@[simp] theorem setCopyEng_grids (s : State) (i : Nat) (x : CopyEngine) : (s.setCopyEng i x).grids = s.grids := rfl
@[simp] theorem setCopyEng_accesses (s : State) (i : Nat) (x : CopyEngine) : (s.setCopyEng i x).accesses = s.accesses := rfl
@[simp] theorem setCopyEng_jobs (s : State) (i : Nat) (x : CopyEngine) : (s.setCopyEng i x).jobs = s.jobs := rfl
@[simp] theorem setCopyEng_waiters (s : State) (i : Nat) (x : CopyEngine) : (s.setCopyEng i x).waiters = s.waiters := rfl
@[simp] theorem setCopyEng_reqs (s : State) (i : Nat) (x : CopyEngine) : (s.setCopyEng i x).reqs = s.reqs := rfl
@[simp] theorem setCopyEng_remotes (s : State) (i : Nat) (x : CopyEngine) : (s.setCopyEng i x).remotes = s.remotes := rfl
@[simp] theorem setCopyEng_vales (s : State) (i : Nat) (x : CopyEngine) : (s.setCopyEng i x).vales = s.vales := rfl
@[simp] theorem setCopyEng_positions (s : State) (i : Nat) (x : CopyEngine) : (s.setCopyEng i x).positions = s.positions := rfl
@[simp] theorem setCopyEng_engines (s : State) (i : Nat) (x : CopyEngine) : (s.setCopyEng i x).engines = s.engines := rfl
@[simp] theorem setCopyEng_copies (s : State) (i : Nat) (x : CopyEngine) : (s.setCopyEng i x).copies = s.copies.put i x := rfl
@[simp] theorem setCopyEng_dies (s : State) (i : Nat) (x : CopyEngine) : (s.setCopyEng i x).dies = s.dies := rfl
@[simp] theorem setCopyEng_ctxs (s : State) (i : Nat) (x : CopyEngine) : (s.setCopyEng i x).ctxs = s.ctxs := rfl
@[simp] theorem setCopyEng_funcs (s : State) (i : Nat) (x : CopyEngine) : (s.setCopyEng i x).funcs = s.funcs := rfl
@[simp] theorem setCopyEng_views (s : State) (i : Nat) (x : CopyEngine) : (s.setCopyEng i x).views = s.views := rfl
@[simp] theorem setCopyEng_tcs (s : State) (i : Nat) (x : CopyEngine) : (s.setCopyEng i x).tcs = s.tcs := rfl
@[simp] theorem setCopyEng_walks (s : State) (i : Nat) (x : CopyEngine) : (s.setCopyEng i x).walks = s.walks := rfl
@[simp] theorem setCopyEng_faults (s : State) (i : Nat) (x : CopyEngine) : (s.setCopyEng i x).faults = s.faults := rfl
@[simp] theorem setCopyEng_faultSeq (s : State) (i : Nat) (x : CopyEngine) : (s.setCopyEng i x).faultSeq = s.faultSeq := rfl
@[simp] theorem setCopyEng_mem (s : State) (i : Nat) (x : CopyEngine) : (s.setCopyEng i x).mem = s.mem := rfl
@[simp] theorem setCopyEng_empty (s : State) (i : Nat) (x : CopyEngine) : (s.setCopyEng i x).empty = s.empty := rfl
@[simp] theorem setCopyEng_bad (s : State) (i : Nat) (x : CopyEngine) : (s.setCopyEng i x).bad = s.bad := rfl
@[simp] theorem setCopyEng_soft (s : State) (i : Nat) (x : CopyEngine) : (s.setCopyEng i x).soft = s.soft := rfl
@[simp] theorem setCopyEng_softLog (s : State) (i : Nat) (x : CopyEngine) : (s.setCopyEng i x).softLog = s.softLog := rfl
@[simp] theorem setCopyEng_peermap (s : State) (i : Nat) (x : CopyEngine) : (s.setCopyEng i x).peermap = s.peermap := rfl
@[simp] theorem setCopyEng_pctx (s : State) (i : Nat) (x : CopyEngine) : (s.setCopyEng i x).pctx = s.pctx := rfl
@[simp] theorem setCopyEng_irqs (s : State) (i : Nat) (x : CopyEngine) : (s.setCopyEng i x).irqs = s.irqs := rfl
@[simp] theorem setCopyEng_adentoth (s : State) (i : Nat) (x : CopyEngine) : (s.setCopyEng i x).adentoth = s.adentoth := rfl
@[simp] theorem setCopyEng_saves (s : State) (i : Nat) (x : CopyEngine) : (s.setCopyEng i x).saves = s.saves := rfl
@[simp] theorem setCopyEng_answers (s : State) (i : Nat) (x : CopyEngine) : (s.setCopyEng i x).answers = s.answers := rfl
@[simp] theorem setCopyEng_time (s : State) (i : Nat) (x : CopyEngine) : (s.setCopyEng i x).time = s.time := rfl
@[simp] theorem setCopyEng_cacheErr (s : State) (i : Nat) (x : CopyEngine) : (s.setCopyEng i x).cacheErr = s.cacheErr := rfl
@[simp] theorem setCopyEng_tried (s : State) (i : Nat) (x : CopyEngine) : (s.setCopyEng i x).tried = s.tried := rfl
@[simp] theorem setCopyEng_prefetches (s : State) (i : Nat) (x : CopyEngine) : (s.setCopyEng i x).prefetches = s.prefetches := rfl
@[simp] theorem setCopyEng_acount (s : State) (i : Nat) (x : CopyEngine) : (s.setCopyEng i x).acount = s.acount := rfl
@[simp] theorem setCopyEng_fcount (s : State) (i : Nat) (x : CopyEngine) : (s.setCopyEng i x).fcount = s.fcount := rfl
@[simp] theorem setCopyEng_homes (s : State) (i : Nat) (x : CopyEngine) : (s.setCopyEng i x).homes = s.homes := rfl
@[simp] theorem setCopyEng_hostHeld (s : State) (i : Nat) (x : CopyEngine) : (s.setCopyEng i x).hostHeld = s.hostHeld := rfl
@[simp] theorem setCopyEng_turn (s : State) (i : Nat) (x : CopyEngine) : (s.setCopyEng i x).turn = s.turn := rfl
@[simp] theorem setCopyEng_cur (s : State) (i : Nat) (x : CopyEngine) : (s.setCopyEng i x).cur = s.cur := rfl
@[simp] theorem setCopyEng_agenda (s : State) (i : Nat) (x : CopyEngine) : (s.setCopyEng i x).agenda = s.agenda := rfl
@[simp] theorem setCopyEng_choices (s : State) (i : Nat) (x : CopyEngine) : (s.setCopyEng i x).choices = s.choices := rfl
@[simp] theorem setCopyEng_fresh (s : State) (i : Nat) (x : CopyEngine) : (s.setCopyEng i x).fresh = s.fresh := rfl
@[simp] theorem copyEng_setCopyEng (s : State) (i : Nat) (x : CopyEngine) : (s.setCopyEng i x).copyEng i = x := by simp [State.copyEng]
theorem copyEng_setCopyEng_ne (s : State) (i j : Nat) (x : CopyEngine) (h : j ≠ i) : (s.setCopyEng i x).copyEng j = s.copyEng j := by
  simp [State.copyEng, AList.getD_put_ne _ _ _ _ _ h]
@[simp] theorem modCopyEng_eq (s : State) (i : Nat) (g : CopyEngine → CopyEngine) : s.modCopyEng i g = s.setCopyEng i (g (s.copyEng i)) := rfl

@[simp] theorem thread_setCopyEng (s : State) (i j : Nat) (x : CopyEngine) : (s.setCopyEng i x).thread j = s.thread j := rfl
@[simp] theorem wave_setCopyEng (s : State) (i j : Nat) (x : CopyEngine) : (s.setCopyEng i x).wave j = s.wave j := rfl
@[simp] theorem block_setCopyEng (s : State) (i j : Nat) (x : CopyEngine) : (s.setCopyEng i x).block j = s.block j := rfl
@[simp] theorem grid_setCopyEng (s : State) (i j : Nat) (x : CopyEngine) : (s.setCopyEng i x).grid j = s.grid j := rfl
@[simp] theorem vale_setCopyEng (s : State) (i j : Nat) (x : CopyEngine) : (s.setCopyEng i x).vale j = s.vale j := rfl
@[simp] theorem engine_setCopyEng (s : State) (i j : Nat) (x : CopyEngine) : (s.setCopyEng i x).engine j = s.engine j := rfl
@[simp] theorem die_setCopyEng (s : State) (i j : Nat) (x : CopyEngine) : (s.setCopyEng i x).die j = s.die j := rfl
@[simp] theorem ctx_setCopyEng (s : State) (i j : Nat) (x : CopyEngine) : (s.setCopyEng i x).ctx j = s.ctx j := rfl
@[simp] theorem func_setCopyEng (s : State) (i j : Nat) (x : CopyEngine) : (s.setCopyEng i x).func j = s.func j := rfl
@[simp] theorem position_setCopyEng (s : State) (i j : Nat) (x : CopyEngine) : (s.setCopyEng i x).position j = s.position j := rfl

/-! ### die -/

@[simp] theorem setDie_threads (s : State) (i : Nat) (x : Die) : (s.setDie i x).threads = s.threads := rfl
@[simp] theorem setDie_waves (s : State) (i : Nat) (x : Die) : (s.setDie i x).waves = s.waves := rfl
@[simp] theorem setDie_blocks (s : State) (i : Nat) (x : Die) : (s.setDie i x).blocks = s.blocks := rfl
@[simp] theorem setDie_grids (s : State) (i : Nat) (x : Die) : (s.setDie i x).grids = s.grids := rfl
@[simp] theorem setDie_accesses (s : State) (i : Nat) (x : Die) : (s.setDie i x).accesses = s.accesses := rfl
@[simp] theorem setDie_jobs (s : State) (i : Nat) (x : Die) : (s.setDie i x).jobs = s.jobs := rfl
@[simp] theorem setDie_waiters (s : State) (i : Nat) (x : Die) : (s.setDie i x).waiters = s.waiters := rfl
@[simp] theorem setDie_reqs (s : State) (i : Nat) (x : Die) : (s.setDie i x).reqs = s.reqs := rfl
@[simp] theorem setDie_remotes (s : State) (i : Nat) (x : Die) : (s.setDie i x).remotes = s.remotes := rfl
@[simp] theorem setDie_vales (s : State) (i : Nat) (x : Die) : (s.setDie i x).vales = s.vales := rfl
@[simp] theorem setDie_positions (s : State) (i : Nat) (x : Die) : (s.setDie i x).positions = s.positions := rfl
@[simp] theorem setDie_engines (s : State) (i : Nat) (x : Die) : (s.setDie i x).engines = s.engines := rfl
@[simp] theorem setDie_copies (s : State) (i : Nat) (x : Die) : (s.setDie i x).copies = s.copies := rfl
@[simp] theorem setDie_dies (s : State) (i : Nat) (x : Die) : (s.setDie i x).dies = s.dies.put i x := rfl
@[simp] theorem setDie_ctxs (s : State) (i : Nat) (x : Die) : (s.setDie i x).ctxs = s.ctxs := rfl
@[simp] theorem setDie_funcs (s : State) (i : Nat) (x : Die) : (s.setDie i x).funcs = s.funcs := rfl
@[simp] theorem setDie_views (s : State) (i : Nat) (x : Die) : (s.setDie i x).views = s.views := rfl
@[simp] theorem setDie_tcs (s : State) (i : Nat) (x : Die) : (s.setDie i x).tcs = s.tcs := rfl
@[simp] theorem setDie_walks (s : State) (i : Nat) (x : Die) : (s.setDie i x).walks = s.walks := rfl
@[simp] theorem setDie_faults (s : State) (i : Nat) (x : Die) : (s.setDie i x).faults = s.faults := rfl
@[simp] theorem setDie_faultSeq (s : State) (i : Nat) (x : Die) : (s.setDie i x).faultSeq = s.faultSeq := rfl
@[simp] theorem setDie_mem (s : State) (i : Nat) (x : Die) : (s.setDie i x).mem = s.mem := rfl
@[simp] theorem setDie_empty (s : State) (i : Nat) (x : Die) : (s.setDie i x).empty = s.empty := rfl
@[simp] theorem setDie_bad (s : State) (i : Nat) (x : Die) : (s.setDie i x).bad = s.bad := rfl
@[simp] theorem setDie_soft (s : State) (i : Nat) (x : Die) : (s.setDie i x).soft = s.soft := rfl
@[simp] theorem setDie_softLog (s : State) (i : Nat) (x : Die) : (s.setDie i x).softLog = s.softLog := rfl
@[simp] theorem setDie_peermap (s : State) (i : Nat) (x : Die) : (s.setDie i x).peermap = s.peermap := rfl
@[simp] theorem setDie_pctx (s : State) (i : Nat) (x : Die) : (s.setDie i x).pctx = s.pctx := rfl
@[simp] theorem setDie_irqs (s : State) (i : Nat) (x : Die) : (s.setDie i x).irqs = s.irqs := rfl
@[simp] theorem setDie_adentoth (s : State) (i : Nat) (x : Die) : (s.setDie i x).adentoth = s.adentoth := rfl
@[simp] theorem setDie_saves (s : State) (i : Nat) (x : Die) : (s.setDie i x).saves = s.saves := rfl
@[simp] theorem setDie_answers (s : State) (i : Nat) (x : Die) : (s.setDie i x).answers = s.answers := rfl
@[simp] theorem setDie_time (s : State) (i : Nat) (x : Die) : (s.setDie i x).time = s.time := rfl
@[simp] theorem setDie_cacheErr (s : State) (i : Nat) (x : Die) : (s.setDie i x).cacheErr = s.cacheErr := rfl
@[simp] theorem setDie_tried (s : State) (i : Nat) (x : Die) : (s.setDie i x).tried = s.tried := rfl
@[simp] theorem setDie_prefetches (s : State) (i : Nat) (x : Die) : (s.setDie i x).prefetches = s.prefetches := rfl
@[simp] theorem setDie_acount (s : State) (i : Nat) (x : Die) : (s.setDie i x).acount = s.acount := rfl
@[simp] theorem setDie_fcount (s : State) (i : Nat) (x : Die) : (s.setDie i x).fcount = s.fcount := rfl
@[simp] theorem setDie_homes (s : State) (i : Nat) (x : Die) : (s.setDie i x).homes = s.homes := rfl
@[simp] theorem setDie_hostHeld (s : State) (i : Nat) (x : Die) : (s.setDie i x).hostHeld = s.hostHeld := rfl
@[simp] theorem setDie_turn (s : State) (i : Nat) (x : Die) : (s.setDie i x).turn = s.turn := rfl
@[simp] theorem setDie_cur (s : State) (i : Nat) (x : Die) : (s.setDie i x).cur = s.cur := rfl
@[simp] theorem setDie_agenda (s : State) (i : Nat) (x : Die) : (s.setDie i x).agenda = s.agenda := rfl
@[simp] theorem setDie_choices (s : State) (i : Nat) (x : Die) : (s.setDie i x).choices = s.choices := rfl
@[simp] theorem setDie_fresh (s : State) (i : Nat) (x : Die) : (s.setDie i x).fresh = s.fresh := rfl
@[simp] theorem die_setDie (s : State) (i : Nat) (x : Die) : (s.setDie i x).die i = x := by simp [State.die]
theorem die_setDie_ne (s : State) (i j : Nat) (x : Die) (h : j ≠ i) : (s.setDie i x).die j = s.die j := by
  simp [State.die, AList.getD_put_ne _ _ _ _ _ h]
@[simp] theorem modDie_eq (s : State) (i : Nat) (g : Die → Die) : s.modDie i g = s.setDie i (g (s.die i)) := rfl

@[simp] theorem thread_setDie (s : State) (i j : Nat) (x : Die) : (s.setDie i x).thread j = s.thread j := rfl
@[simp] theorem wave_setDie (s : State) (i j : Nat) (x : Die) : (s.setDie i x).wave j = s.wave j := rfl
@[simp] theorem block_setDie (s : State) (i j : Nat) (x : Die) : (s.setDie i x).block j = s.block j := rfl
@[simp] theorem grid_setDie (s : State) (i j : Nat) (x : Die) : (s.setDie i x).grid j = s.grid j := rfl
@[simp] theorem vale_setDie (s : State) (i j : Nat) (x : Die) : (s.setDie i x).vale j = s.vale j := rfl
@[simp] theorem engine_setDie (s : State) (i j : Nat) (x : Die) : (s.setDie i x).engine j = s.engine j := rfl
@[simp] theorem copyEng_setDie (s : State) (i j : Nat) (x : Die) : (s.setDie i x).copyEng j = s.copyEng j := rfl
@[simp] theorem ctx_setDie (s : State) (i j : Nat) (x : Die) : (s.setDie i x).ctx j = s.ctx j := rfl
@[simp] theorem func_setDie (s : State) (i j : Nat) (x : Die) : (s.setDie i x).func j = s.func j := rfl
@[simp] theorem position_setDie (s : State) (i j : Nat) (x : Die) : (s.setDie i x).position j = s.position j := rfl

/-! ### ctx -/

@[simp] theorem setCtx_threads (s : State) (i : Nat) (x : Ctx) : (s.setCtx i x).threads = s.threads := rfl
@[simp] theorem setCtx_waves (s : State) (i : Nat) (x : Ctx) : (s.setCtx i x).waves = s.waves := rfl
@[simp] theorem setCtx_blocks (s : State) (i : Nat) (x : Ctx) : (s.setCtx i x).blocks = s.blocks := rfl
@[simp] theorem setCtx_grids (s : State) (i : Nat) (x : Ctx) : (s.setCtx i x).grids = s.grids := rfl
@[simp] theorem setCtx_accesses (s : State) (i : Nat) (x : Ctx) : (s.setCtx i x).accesses = s.accesses := rfl
@[simp] theorem setCtx_jobs (s : State) (i : Nat) (x : Ctx) : (s.setCtx i x).jobs = s.jobs := rfl
@[simp] theorem setCtx_waiters (s : State) (i : Nat) (x : Ctx) : (s.setCtx i x).waiters = s.waiters := rfl
@[simp] theorem setCtx_reqs (s : State) (i : Nat) (x : Ctx) : (s.setCtx i x).reqs = s.reqs := rfl
@[simp] theorem setCtx_remotes (s : State) (i : Nat) (x : Ctx) : (s.setCtx i x).remotes = s.remotes := rfl
@[simp] theorem setCtx_vales (s : State) (i : Nat) (x : Ctx) : (s.setCtx i x).vales = s.vales := rfl
@[simp] theorem setCtx_positions (s : State) (i : Nat) (x : Ctx) : (s.setCtx i x).positions = s.positions := rfl
@[simp] theorem setCtx_engines (s : State) (i : Nat) (x : Ctx) : (s.setCtx i x).engines = s.engines := rfl
@[simp] theorem setCtx_copies (s : State) (i : Nat) (x : Ctx) : (s.setCtx i x).copies = s.copies := rfl
@[simp] theorem setCtx_dies (s : State) (i : Nat) (x : Ctx) : (s.setCtx i x).dies = s.dies := rfl
@[simp] theorem setCtx_ctxs (s : State) (i : Nat) (x : Ctx) : (s.setCtx i x).ctxs = s.ctxs.put i x := rfl
@[simp] theorem setCtx_funcs (s : State) (i : Nat) (x : Ctx) : (s.setCtx i x).funcs = s.funcs := rfl
@[simp] theorem setCtx_views (s : State) (i : Nat) (x : Ctx) : (s.setCtx i x).views = s.views := rfl
@[simp] theorem setCtx_tcs (s : State) (i : Nat) (x : Ctx) : (s.setCtx i x).tcs = s.tcs := rfl
@[simp] theorem setCtx_walks (s : State) (i : Nat) (x : Ctx) : (s.setCtx i x).walks = s.walks := rfl
@[simp] theorem setCtx_faults (s : State) (i : Nat) (x : Ctx) : (s.setCtx i x).faults = s.faults := rfl
@[simp] theorem setCtx_faultSeq (s : State) (i : Nat) (x : Ctx) : (s.setCtx i x).faultSeq = s.faultSeq := rfl
@[simp] theorem setCtx_mem (s : State) (i : Nat) (x : Ctx) : (s.setCtx i x).mem = s.mem := rfl
@[simp] theorem setCtx_empty (s : State) (i : Nat) (x : Ctx) : (s.setCtx i x).empty = s.empty := rfl
@[simp] theorem setCtx_bad (s : State) (i : Nat) (x : Ctx) : (s.setCtx i x).bad = s.bad := rfl
@[simp] theorem setCtx_soft (s : State) (i : Nat) (x : Ctx) : (s.setCtx i x).soft = s.soft := rfl
@[simp] theorem setCtx_softLog (s : State) (i : Nat) (x : Ctx) : (s.setCtx i x).softLog = s.softLog := rfl
@[simp] theorem setCtx_peermap (s : State) (i : Nat) (x : Ctx) : (s.setCtx i x).peermap = s.peermap := rfl
@[simp] theorem setCtx_pctx (s : State) (i : Nat) (x : Ctx) : (s.setCtx i x).pctx = s.pctx := rfl
@[simp] theorem setCtx_irqs (s : State) (i : Nat) (x : Ctx) : (s.setCtx i x).irqs = s.irqs := rfl
@[simp] theorem setCtx_adentoth (s : State) (i : Nat) (x : Ctx) : (s.setCtx i x).adentoth = s.adentoth := rfl
@[simp] theorem setCtx_saves (s : State) (i : Nat) (x : Ctx) : (s.setCtx i x).saves = s.saves := rfl
@[simp] theorem setCtx_answers (s : State) (i : Nat) (x : Ctx) : (s.setCtx i x).answers = s.answers := rfl
@[simp] theorem setCtx_time (s : State) (i : Nat) (x : Ctx) : (s.setCtx i x).time = s.time := rfl
@[simp] theorem setCtx_cacheErr (s : State) (i : Nat) (x : Ctx) : (s.setCtx i x).cacheErr = s.cacheErr := rfl
@[simp] theorem setCtx_tried (s : State) (i : Nat) (x : Ctx) : (s.setCtx i x).tried = s.tried := rfl
@[simp] theorem setCtx_prefetches (s : State) (i : Nat) (x : Ctx) : (s.setCtx i x).prefetches = s.prefetches := rfl
@[simp] theorem setCtx_acount (s : State) (i : Nat) (x : Ctx) : (s.setCtx i x).acount = s.acount := rfl
@[simp] theorem setCtx_fcount (s : State) (i : Nat) (x : Ctx) : (s.setCtx i x).fcount = s.fcount := rfl
@[simp] theorem setCtx_homes (s : State) (i : Nat) (x : Ctx) : (s.setCtx i x).homes = s.homes := rfl
@[simp] theorem setCtx_hostHeld (s : State) (i : Nat) (x : Ctx) : (s.setCtx i x).hostHeld = s.hostHeld := rfl
@[simp] theorem setCtx_turn (s : State) (i : Nat) (x : Ctx) : (s.setCtx i x).turn = s.turn := rfl
@[simp] theorem setCtx_cur (s : State) (i : Nat) (x : Ctx) : (s.setCtx i x).cur = s.cur := rfl
@[simp] theorem setCtx_agenda (s : State) (i : Nat) (x : Ctx) : (s.setCtx i x).agenda = s.agenda := rfl
@[simp] theorem setCtx_choices (s : State) (i : Nat) (x : Ctx) : (s.setCtx i x).choices = s.choices := rfl
@[simp] theorem setCtx_fresh (s : State) (i : Nat) (x : Ctx) : (s.setCtx i x).fresh = s.fresh := rfl
@[simp] theorem ctx_setCtx (s : State) (i : Nat) (x : Ctx) : (s.setCtx i x).ctx i = x := by simp [State.ctx]
theorem ctx_setCtx_ne (s : State) (i j : Nat) (x : Ctx) (h : j ≠ i) : (s.setCtx i x).ctx j = s.ctx j := by
  simp [State.ctx, AList.getD_put_ne _ _ _ _ _ h]
@[simp] theorem modCtx_eq (s : State) (i : Nat) (g : Ctx → Ctx) : s.modCtx i g = s.setCtx i (g (s.ctx i)) := rfl

@[simp] theorem thread_setCtx (s : State) (i j : Nat) (x : Ctx) : (s.setCtx i x).thread j = s.thread j := rfl
@[simp] theorem wave_setCtx (s : State) (i j : Nat) (x : Ctx) : (s.setCtx i x).wave j = s.wave j := rfl
@[simp] theorem block_setCtx (s : State) (i j : Nat) (x : Ctx) : (s.setCtx i x).block j = s.block j := rfl
@[simp] theorem grid_setCtx (s : State) (i j : Nat) (x : Ctx) : (s.setCtx i x).grid j = s.grid j := rfl
@[simp] theorem vale_setCtx (s : State) (i j : Nat) (x : Ctx) : (s.setCtx i x).vale j = s.vale j := rfl
@[simp] theorem engine_setCtx (s : State) (i j : Nat) (x : Ctx) : (s.setCtx i x).engine j = s.engine j := rfl
@[simp] theorem copyEng_setCtx (s : State) (i j : Nat) (x : Ctx) : (s.setCtx i x).copyEng j = s.copyEng j := rfl
@[simp] theorem die_setCtx (s : State) (i j : Nat) (x : Ctx) : (s.setCtx i x).die j = s.die j := rfl
@[simp] theorem func_setCtx (s : State) (i j : Nat) (x : Ctx) : (s.setCtx i x).func j = s.func j := rfl
@[simp] theorem position_setCtx (s : State) (i j : Nat) (x : Ctx) : (s.setCtx i x).position j = s.position j := rfl

/-! ### func -/

@[simp] theorem setFunc_threads (s : State) (i : Nat) (x : Func) : (s.setFunc i x).threads = s.threads := rfl
@[simp] theorem setFunc_waves (s : State) (i : Nat) (x : Func) : (s.setFunc i x).waves = s.waves := rfl
@[simp] theorem setFunc_blocks (s : State) (i : Nat) (x : Func) : (s.setFunc i x).blocks = s.blocks := rfl
@[simp] theorem setFunc_grids (s : State) (i : Nat) (x : Func) : (s.setFunc i x).grids = s.grids := rfl
@[simp] theorem setFunc_accesses (s : State) (i : Nat) (x : Func) : (s.setFunc i x).accesses = s.accesses := rfl
@[simp] theorem setFunc_jobs (s : State) (i : Nat) (x : Func) : (s.setFunc i x).jobs = s.jobs := rfl
@[simp] theorem setFunc_waiters (s : State) (i : Nat) (x : Func) : (s.setFunc i x).waiters = s.waiters := rfl
@[simp] theorem setFunc_reqs (s : State) (i : Nat) (x : Func) : (s.setFunc i x).reqs = s.reqs := rfl
@[simp] theorem setFunc_remotes (s : State) (i : Nat) (x : Func) : (s.setFunc i x).remotes = s.remotes := rfl
@[simp] theorem setFunc_vales (s : State) (i : Nat) (x : Func) : (s.setFunc i x).vales = s.vales := rfl
@[simp] theorem setFunc_positions (s : State) (i : Nat) (x : Func) : (s.setFunc i x).positions = s.positions := rfl
@[simp] theorem setFunc_engines (s : State) (i : Nat) (x : Func) : (s.setFunc i x).engines = s.engines := rfl
@[simp] theorem setFunc_copies (s : State) (i : Nat) (x : Func) : (s.setFunc i x).copies = s.copies := rfl
@[simp] theorem setFunc_dies (s : State) (i : Nat) (x : Func) : (s.setFunc i x).dies = s.dies := rfl
@[simp] theorem setFunc_ctxs (s : State) (i : Nat) (x : Func) : (s.setFunc i x).ctxs = s.ctxs := rfl
@[simp] theorem setFunc_funcs (s : State) (i : Nat) (x : Func) : (s.setFunc i x).funcs = s.funcs.put i x := rfl
@[simp] theorem setFunc_views (s : State) (i : Nat) (x : Func) : (s.setFunc i x).views = s.views := rfl
@[simp] theorem setFunc_tcs (s : State) (i : Nat) (x : Func) : (s.setFunc i x).tcs = s.tcs := rfl
@[simp] theorem setFunc_walks (s : State) (i : Nat) (x : Func) : (s.setFunc i x).walks = s.walks := rfl
@[simp] theorem setFunc_faults (s : State) (i : Nat) (x : Func) : (s.setFunc i x).faults = s.faults := rfl
@[simp] theorem setFunc_faultSeq (s : State) (i : Nat) (x : Func) : (s.setFunc i x).faultSeq = s.faultSeq := rfl
@[simp] theorem setFunc_mem (s : State) (i : Nat) (x : Func) : (s.setFunc i x).mem = s.mem := rfl
@[simp] theorem setFunc_empty (s : State) (i : Nat) (x : Func) : (s.setFunc i x).empty = s.empty := rfl
@[simp] theorem setFunc_bad (s : State) (i : Nat) (x : Func) : (s.setFunc i x).bad = s.bad := rfl
@[simp] theorem setFunc_soft (s : State) (i : Nat) (x : Func) : (s.setFunc i x).soft = s.soft := rfl
@[simp] theorem setFunc_softLog (s : State) (i : Nat) (x : Func) : (s.setFunc i x).softLog = s.softLog := rfl
@[simp] theorem setFunc_peermap (s : State) (i : Nat) (x : Func) : (s.setFunc i x).peermap = s.peermap := rfl
@[simp] theorem setFunc_pctx (s : State) (i : Nat) (x : Func) : (s.setFunc i x).pctx = s.pctx := rfl
@[simp] theorem setFunc_irqs (s : State) (i : Nat) (x : Func) : (s.setFunc i x).irqs = s.irqs := rfl
@[simp] theorem setFunc_adentoth (s : State) (i : Nat) (x : Func) : (s.setFunc i x).adentoth = s.adentoth := rfl
@[simp] theorem setFunc_saves (s : State) (i : Nat) (x : Func) : (s.setFunc i x).saves = s.saves := rfl
@[simp] theorem setFunc_answers (s : State) (i : Nat) (x : Func) : (s.setFunc i x).answers = s.answers := rfl
@[simp] theorem setFunc_time (s : State) (i : Nat) (x : Func) : (s.setFunc i x).time = s.time := rfl
@[simp] theorem setFunc_cacheErr (s : State) (i : Nat) (x : Func) : (s.setFunc i x).cacheErr = s.cacheErr := rfl
@[simp] theorem setFunc_tried (s : State) (i : Nat) (x : Func) : (s.setFunc i x).tried = s.tried := rfl
@[simp] theorem setFunc_prefetches (s : State) (i : Nat) (x : Func) : (s.setFunc i x).prefetches = s.prefetches := rfl
@[simp] theorem setFunc_acount (s : State) (i : Nat) (x : Func) : (s.setFunc i x).acount = s.acount := rfl
@[simp] theorem setFunc_fcount (s : State) (i : Nat) (x : Func) : (s.setFunc i x).fcount = s.fcount := rfl
@[simp] theorem setFunc_homes (s : State) (i : Nat) (x : Func) : (s.setFunc i x).homes = s.homes := rfl
@[simp] theorem setFunc_hostHeld (s : State) (i : Nat) (x : Func) : (s.setFunc i x).hostHeld = s.hostHeld := rfl
@[simp] theorem setFunc_turn (s : State) (i : Nat) (x : Func) : (s.setFunc i x).turn = s.turn := rfl
@[simp] theorem setFunc_cur (s : State) (i : Nat) (x : Func) : (s.setFunc i x).cur = s.cur := rfl
@[simp] theorem setFunc_agenda (s : State) (i : Nat) (x : Func) : (s.setFunc i x).agenda = s.agenda := rfl
@[simp] theorem setFunc_choices (s : State) (i : Nat) (x : Func) : (s.setFunc i x).choices = s.choices := rfl
@[simp] theorem setFunc_fresh (s : State) (i : Nat) (x : Func) : (s.setFunc i x).fresh = s.fresh := rfl
@[simp] theorem func_setFunc (s : State) (i : Nat) (x : Func) : (s.setFunc i x).func i = x := by simp [State.func]
theorem func_setFunc_ne (s : State) (i j : Nat) (x : Func) (h : j ≠ i) : (s.setFunc i x).func j = s.func j := by
  simp [State.func, AList.getD_put_ne _ _ _ _ _ h]
@[simp] theorem modFunc_eq (s : State) (i : Nat) (g : Func → Func) : s.modFunc i g = s.setFunc i (g (s.func i)) := rfl

@[simp] theorem thread_setFunc (s : State) (i j : Nat) (x : Func) : (s.setFunc i x).thread j = s.thread j := rfl
@[simp] theorem wave_setFunc (s : State) (i j : Nat) (x : Func) : (s.setFunc i x).wave j = s.wave j := rfl
@[simp] theorem block_setFunc (s : State) (i j : Nat) (x : Func) : (s.setFunc i x).block j = s.block j := rfl
@[simp] theorem grid_setFunc (s : State) (i j : Nat) (x : Func) : (s.setFunc i x).grid j = s.grid j := rfl
@[simp] theorem vale_setFunc (s : State) (i j : Nat) (x : Func) : (s.setFunc i x).vale j = s.vale j := rfl
@[simp] theorem engine_setFunc (s : State) (i j : Nat) (x : Func) : (s.setFunc i x).engine j = s.engine j := rfl
@[simp] theorem copyEng_setFunc (s : State) (i j : Nat) (x : Func) : (s.setFunc i x).copyEng j = s.copyEng j := rfl
@[simp] theorem die_setFunc (s : State) (i j : Nat) (x : Func) : (s.setFunc i x).die j = s.die j := rfl
@[simp] theorem ctx_setFunc (s : State) (i j : Nat) (x : Func) : (s.setFunc i x).ctx j = s.ctx j := rfl
@[simp] theorem position_setFunc (s : State) (i j : Nat) (x : Func) : (s.setFunc i x).position j = s.position j := rfl

/-! ### position -/

@[simp] theorem setPosition_threads (s : State) (i : Nat) (x : Position) : (s.setPosition i x).threads = s.threads := rfl
@[simp] theorem setPosition_waves (s : State) (i : Nat) (x : Position) : (s.setPosition i x).waves = s.waves := rfl
@[simp] theorem setPosition_blocks (s : State) (i : Nat) (x : Position) : (s.setPosition i x).blocks = s.blocks := rfl
@[simp] theorem setPosition_grids (s : State) (i : Nat) (x : Position) : (s.setPosition i x).grids = s.grids := rfl
@[simp] theorem setPosition_accesses (s : State) (i : Nat) (x : Position) : (s.setPosition i x).accesses = s.accesses := rfl
@[simp] theorem setPosition_jobs (s : State) (i : Nat) (x : Position) : (s.setPosition i x).jobs = s.jobs := rfl
@[simp] theorem setPosition_waiters (s : State) (i : Nat) (x : Position) : (s.setPosition i x).waiters = s.waiters := rfl
@[simp] theorem setPosition_reqs (s : State) (i : Nat) (x : Position) : (s.setPosition i x).reqs = s.reqs := rfl
@[simp] theorem setPosition_remotes (s : State) (i : Nat) (x : Position) : (s.setPosition i x).remotes = s.remotes := rfl
@[simp] theorem setPosition_vales (s : State) (i : Nat) (x : Position) : (s.setPosition i x).vales = s.vales := rfl
@[simp] theorem setPosition_positions (s : State) (i : Nat) (x : Position) : (s.setPosition i x).positions = s.positions.put i x := rfl
@[simp] theorem setPosition_engines (s : State) (i : Nat) (x : Position) : (s.setPosition i x).engines = s.engines := rfl
@[simp] theorem setPosition_copies (s : State) (i : Nat) (x : Position) : (s.setPosition i x).copies = s.copies := rfl
@[simp] theorem setPosition_dies (s : State) (i : Nat) (x : Position) : (s.setPosition i x).dies = s.dies := rfl
@[simp] theorem setPosition_ctxs (s : State) (i : Nat) (x : Position) : (s.setPosition i x).ctxs = s.ctxs := rfl
@[simp] theorem setPosition_funcs (s : State) (i : Nat) (x : Position) : (s.setPosition i x).funcs = s.funcs := rfl
@[simp] theorem setPosition_views (s : State) (i : Nat) (x : Position) : (s.setPosition i x).views = s.views := rfl
@[simp] theorem setPosition_tcs (s : State) (i : Nat) (x : Position) : (s.setPosition i x).tcs = s.tcs := rfl
@[simp] theorem setPosition_walks (s : State) (i : Nat) (x : Position) : (s.setPosition i x).walks = s.walks := rfl
@[simp] theorem setPosition_faults (s : State) (i : Nat) (x : Position) : (s.setPosition i x).faults = s.faults := rfl
@[simp] theorem setPosition_faultSeq (s : State) (i : Nat) (x : Position) : (s.setPosition i x).faultSeq = s.faultSeq := rfl
@[simp] theorem setPosition_mem (s : State) (i : Nat) (x : Position) : (s.setPosition i x).mem = s.mem := rfl
@[simp] theorem setPosition_empty (s : State) (i : Nat) (x : Position) : (s.setPosition i x).empty = s.empty := rfl
@[simp] theorem setPosition_bad (s : State) (i : Nat) (x : Position) : (s.setPosition i x).bad = s.bad := rfl
@[simp] theorem setPosition_soft (s : State) (i : Nat) (x : Position) : (s.setPosition i x).soft = s.soft := rfl
@[simp] theorem setPosition_softLog (s : State) (i : Nat) (x : Position) : (s.setPosition i x).softLog = s.softLog := rfl
@[simp] theorem setPosition_peermap (s : State) (i : Nat) (x : Position) : (s.setPosition i x).peermap = s.peermap := rfl
@[simp] theorem setPosition_pctx (s : State) (i : Nat) (x : Position) : (s.setPosition i x).pctx = s.pctx := rfl
@[simp] theorem setPosition_irqs (s : State) (i : Nat) (x : Position) : (s.setPosition i x).irqs = s.irqs := rfl
@[simp] theorem setPosition_adentoth (s : State) (i : Nat) (x : Position) : (s.setPosition i x).adentoth = s.adentoth := rfl
@[simp] theorem setPosition_saves (s : State) (i : Nat) (x : Position) : (s.setPosition i x).saves = s.saves := rfl
@[simp] theorem setPosition_answers (s : State) (i : Nat) (x : Position) : (s.setPosition i x).answers = s.answers := rfl
@[simp] theorem setPosition_time (s : State) (i : Nat) (x : Position) : (s.setPosition i x).time = s.time := rfl
@[simp] theorem setPosition_cacheErr (s : State) (i : Nat) (x : Position) : (s.setPosition i x).cacheErr = s.cacheErr := rfl
@[simp] theorem setPosition_tried (s : State) (i : Nat) (x : Position) : (s.setPosition i x).tried = s.tried := rfl
@[simp] theorem setPosition_prefetches (s : State) (i : Nat) (x : Position) : (s.setPosition i x).prefetches = s.prefetches := rfl
@[simp] theorem setPosition_acount (s : State) (i : Nat) (x : Position) : (s.setPosition i x).acount = s.acount := rfl
@[simp] theorem setPosition_fcount (s : State) (i : Nat) (x : Position) : (s.setPosition i x).fcount = s.fcount := rfl
@[simp] theorem setPosition_homes (s : State) (i : Nat) (x : Position) : (s.setPosition i x).homes = s.homes := rfl
@[simp] theorem setPosition_hostHeld (s : State) (i : Nat) (x : Position) : (s.setPosition i x).hostHeld = s.hostHeld := rfl
@[simp] theorem setPosition_turn (s : State) (i : Nat) (x : Position) : (s.setPosition i x).turn = s.turn := rfl
@[simp] theorem setPosition_cur (s : State) (i : Nat) (x : Position) : (s.setPosition i x).cur = s.cur := rfl
@[simp] theorem setPosition_agenda (s : State) (i : Nat) (x : Position) : (s.setPosition i x).agenda = s.agenda := rfl
@[simp] theorem setPosition_choices (s : State) (i : Nat) (x : Position) : (s.setPosition i x).choices = s.choices := rfl
@[simp] theorem setPosition_fresh (s : State) (i : Nat) (x : Position) : (s.setPosition i x).fresh = s.fresh := rfl
@[simp] theorem position_setPosition (s : State) (i : Nat) (x : Position) : (s.setPosition i x).position i = x := by simp [State.position]
@[simp] theorem modPosition_eq (s : State) (i : Nat) (g : Position → Position) : s.modPosition i g = s.setPosition i (g (s.position i)) := rfl

@[simp] theorem thread_setPosition (s : State) (i j : Nat) (x : Position) : (s.setPosition i x).thread j = s.thread j := rfl
@[simp] theorem wave_setPosition (s : State) (i j : Nat) (x : Position) : (s.setPosition i x).wave j = s.wave j := rfl
@[simp] theorem block_setPosition (s : State) (i j : Nat) (x : Position) : (s.setPosition i x).block j = s.block j := rfl
@[simp] theorem grid_setPosition (s : State) (i j : Nat) (x : Position) : (s.setPosition i x).grid j = s.grid j := rfl
@[simp] theorem vale_setPosition (s : State) (i j : Nat) (x : Position) : (s.setPosition i x).vale j = s.vale j := rfl
@[simp] theorem engine_setPosition (s : State) (i j : Nat) (x : Position) : (s.setPosition i x).engine j = s.engine j := rfl
@[simp] theorem copyEng_setPosition (s : State) (i j : Nat) (x : Position) : (s.setPosition i x).copyEng j = s.copyEng j := rfl
@[simp] theorem die_setPosition (s : State) (i j : Nat) (x : Position) : (s.setPosition i x).die j = s.die j := rfl
@[simp] theorem ctx_setPosition (s : State) (i j : Nat) (x : Position) : (s.setPosition i x).ctx j = s.ctx j := rfl
@[simp] theorem func_setPosition (s : State) (i j : Nat) (x : Position) : (s.setPosition i x).func j = s.func j := rfl

/-! ### the shared part of a unit -/

@[simp] theorem setCom_blocks (s : State) (u : UnitId) (c : Common) : (s.setCom u c).blocks = s.blocks := by cases u <;> rfl
@[simp] theorem setReg_blocks (s : State) (u : UnitId) (n : Nat) (x : W64) : (s.setReg u n x).blocks = s.blocks := by cases u <;> rfl
@[simp] theorem setCom_grids (s : State) (u : UnitId) (c : Common) : (s.setCom u c).grids = s.grids := by cases u <;> rfl
@[simp] theorem setReg_grids (s : State) (u : UnitId) (n : Nat) (x : W64) : (s.setReg u n x).grids = s.grids := by cases u <;> rfl
@[simp] theorem setCom_accesses (s : State) (u : UnitId) (c : Common) : (s.setCom u c).accesses = s.accesses := by cases u <;> rfl
@[simp] theorem setReg_accesses (s : State) (u : UnitId) (n : Nat) (x : W64) : (s.setReg u n x).accesses = s.accesses := by cases u <;> rfl
@[simp] theorem setCom_jobs (s : State) (u : UnitId) (c : Common) : (s.setCom u c).jobs = s.jobs := by cases u <;> rfl
@[simp] theorem setReg_jobs (s : State) (u : UnitId) (n : Nat) (x : W64) : (s.setReg u n x).jobs = s.jobs := by cases u <;> rfl
@[simp] theorem setCom_waiters (s : State) (u : UnitId) (c : Common) : (s.setCom u c).waiters = s.waiters := by cases u <;> rfl
@[simp] theorem setReg_waiters (s : State) (u : UnitId) (n : Nat) (x : W64) : (s.setReg u n x).waiters = s.waiters := by cases u <;> rfl
@[simp] theorem setCom_reqs (s : State) (u : UnitId) (c : Common) : (s.setCom u c).reqs = s.reqs := by cases u <;> rfl
@[simp] theorem setReg_reqs (s : State) (u : UnitId) (n : Nat) (x : W64) : (s.setReg u n x).reqs = s.reqs := by cases u <;> rfl
@[simp] theorem setCom_remotes (s : State) (u : UnitId) (c : Common) : (s.setCom u c).remotes = s.remotes := by cases u <;> rfl
@[simp] theorem setReg_remotes (s : State) (u : UnitId) (n : Nat) (x : W64) : (s.setReg u n x).remotes = s.remotes := by cases u <;> rfl
@[simp] theorem setCom_vales (s : State) (u : UnitId) (c : Common) : (s.setCom u c).vales = s.vales := by cases u <;> rfl
@[simp] theorem setReg_vales (s : State) (u : UnitId) (n : Nat) (x : W64) : (s.setReg u n x).vales = s.vales := by cases u <;> rfl
@[simp] theorem setCom_positions (s : State) (u : UnitId) (c : Common) : (s.setCom u c).positions = s.positions := by cases u <;> rfl
@[simp] theorem setReg_positions (s : State) (u : UnitId) (n : Nat) (x : W64) : (s.setReg u n x).positions = s.positions := by cases u <;> rfl
@[simp] theorem setCom_engines (s : State) (u : UnitId) (c : Common) : (s.setCom u c).engines = s.engines := by cases u <;> rfl
@[simp] theorem setReg_engines (s : State) (u : UnitId) (n : Nat) (x : W64) : (s.setReg u n x).engines = s.engines := by cases u <;> rfl
@[simp] theorem setCom_copies (s : State) (u : UnitId) (c : Common) : (s.setCom u c).copies = s.copies := by cases u <;> rfl
@[simp] theorem setReg_copies (s : State) (u : UnitId) (n : Nat) (x : W64) : (s.setReg u n x).copies = s.copies := by cases u <;> rfl
@[simp] theorem setCom_dies (s : State) (u : UnitId) (c : Common) : (s.setCom u c).dies = s.dies := by cases u <;> rfl
@[simp] theorem setReg_dies (s : State) (u : UnitId) (n : Nat) (x : W64) : (s.setReg u n x).dies = s.dies := by cases u <;> rfl
@[simp] theorem setCom_ctxs (s : State) (u : UnitId) (c : Common) : (s.setCom u c).ctxs = s.ctxs := by cases u <;> rfl
@[simp] theorem setReg_ctxs (s : State) (u : UnitId) (n : Nat) (x : W64) : (s.setReg u n x).ctxs = s.ctxs := by cases u <;> rfl
@[simp] theorem setCom_funcs (s : State) (u : UnitId) (c : Common) : (s.setCom u c).funcs = s.funcs := by cases u <;> rfl
@[simp] theorem setReg_funcs (s : State) (u : UnitId) (n : Nat) (x : W64) : (s.setReg u n x).funcs = s.funcs := by cases u <;> rfl
@[simp] theorem setCom_views (s : State) (u : UnitId) (c : Common) : (s.setCom u c).views = s.views := by cases u <;> rfl
@[simp] theorem setReg_views (s : State) (u : UnitId) (n : Nat) (x : W64) : (s.setReg u n x).views = s.views := by cases u <;> rfl
@[simp] theorem setCom_tcs (s : State) (u : UnitId) (c : Common) : (s.setCom u c).tcs = s.tcs := by cases u <;> rfl
@[simp] theorem setReg_tcs (s : State) (u : UnitId) (n : Nat) (x : W64) : (s.setReg u n x).tcs = s.tcs := by cases u <;> rfl
@[simp] theorem setCom_walks (s : State) (u : UnitId) (c : Common) : (s.setCom u c).walks = s.walks := by cases u <;> rfl
@[simp] theorem setReg_walks (s : State) (u : UnitId) (n : Nat) (x : W64) : (s.setReg u n x).walks = s.walks := by cases u <;> rfl
@[simp] theorem setCom_faults (s : State) (u : UnitId) (c : Common) : (s.setCom u c).faults = s.faults := by cases u <;> rfl
@[simp] theorem setReg_faults (s : State) (u : UnitId) (n : Nat) (x : W64) : (s.setReg u n x).faults = s.faults := by cases u <;> rfl
@[simp] theorem setCom_faultSeq (s : State) (u : UnitId) (c : Common) : (s.setCom u c).faultSeq = s.faultSeq := by cases u <;> rfl
@[simp] theorem setReg_faultSeq (s : State) (u : UnitId) (n : Nat) (x : W64) : (s.setReg u n x).faultSeq = s.faultSeq := by cases u <;> rfl
@[simp] theorem setCom_mem (s : State) (u : UnitId) (c : Common) : (s.setCom u c).mem = s.mem := by cases u <;> rfl
@[simp] theorem setReg_mem (s : State) (u : UnitId) (n : Nat) (x : W64) : (s.setReg u n x).mem = s.mem := by cases u <;> rfl
@[simp] theorem setCom_empty (s : State) (u : UnitId) (c : Common) : (s.setCom u c).empty = s.empty := by cases u <;> rfl
@[simp] theorem setReg_empty (s : State) (u : UnitId) (n : Nat) (x : W64) : (s.setReg u n x).empty = s.empty := by cases u <;> rfl
@[simp] theorem setCom_bad (s : State) (u : UnitId) (c : Common) : (s.setCom u c).bad = s.bad := by cases u <;> rfl
@[simp] theorem setReg_bad (s : State) (u : UnitId) (n : Nat) (x : W64) : (s.setReg u n x).bad = s.bad := by cases u <;> rfl
@[simp] theorem setCom_soft (s : State) (u : UnitId) (c : Common) : (s.setCom u c).soft = s.soft := by cases u <;> rfl
@[simp] theorem setReg_soft (s : State) (u : UnitId) (n : Nat) (x : W64) : (s.setReg u n x).soft = s.soft := by cases u <;> rfl
@[simp] theorem setCom_softLog (s : State) (u : UnitId) (c : Common) : (s.setCom u c).softLog = s.softLog := by cases u <;> rfl
@[simp] theorem setReg_softLog (s : State) (u : UnitId) (n : Nat) (x : W64) : (s.setReg u n x).softLog = s.softLog := by cases u <;> rfl
@[simp] theorem setCom_peermap (s : State) (u : UnitId) (c : Common) : (s.setCom u c).peermap = s.peermap := by cases u <;> rfl
@[simp] theorem setReg_peermap (s : State) (u : UnitId) (n : Nat) (x : W64) : (s.setReg u n x).peermap = s.peermap := by cases u <;> rfl
@[simp] theorem setCom_pctx (s : State) (u : UnitId) (c : Common) : (s.setCom u c).pctx = s.pctx := by cases u <;> rfl
@[simp] theorem setReg_pctx (s : State) (u : UnitId) (n : Nat) (x : W64) : (s.setReg u n x).pctx = s.pctx := by cases u <;> rfl
@[simp] theorem setCom_irqs (s : State) (u : UnitId) (c : Common) : (s.setCom u c).irqs = s.irqs := by cases u <;> rfl
@[simp] theorem setReg_irqs (s : State) (u : UnitId) (n : Nat) (x : W64) : (s.setReg u n x).irqs = s.irqs := by cases u <;> rfl
@[simp] theorem setCom_adentoth (s : State) (u : UnitId) (c : Common) : (s.setCom u c).adentoth = s.adentoth := by cases u <;> rfl
@[simp] theorem setReg_adentoth (s : State) (u : UnitId) (n : Nat) (x : W64) : (s.setReg u n x).adentoth = s.adentoth := by cases u <;> rfl
@[simp] theorem setCom_saves (s : State) (u : UnitId) (c : Common) : (s.setCom u c).saves = s.saves := by cases u <;> rfl
@[simp] theorem setReg_saves (s : State) (u : UnitId) (n : Nat) (x : W64) : (s.setReg u n x).saves = s.saves := by cases u <;> rfl
@[simp] theorem setCom_answers (s : State) (u : UnitId) (c : Common) : (s.setCom u c).answers = s.answers := by cases u <;> rfl
@[simp] theorem setReg_answers (s : State) (u : UnitId) (n : Nat) (x : W64) : (s.setReg u n x).answers = s.answers := by cases u <;> rfl
@[simp] theorem setCom_time (s : State) (u : UnitId) (c : Common) : (s.setCom u c).time = s.time := by cases u <;> rfl
@[simp] theorem setCom_cacheErr (s : State) (u : UnitId) (c : Common) : (s.setCom u c).cacheErr = s.cacheErr := by cases u <;> rfl
@[simp] theorem setCom_tried (s : State) (u : UnitId) (c : Common) : (s.setCom u c).tried = s.tried := by cases u <;> rfl
@[simp] theorem setCom_prefetches (s : State) (u : UnitId) (c : Common) : (s.setCom u c).prefetches = s.prefetches := by cases u <;> rfl
@[simp] theorem setCom_acount (s : State) (u : UnitId) (c : Common) : (s.setCom u c).acount = s.acount := by cases u <;> rfl
@[simp] theorem setCom_fcount (s : State) (u : UnitId) (c : Common) : (s.setCom u c).fcount = s.fcount := by cases u <;> rfl
@[simp] theorem setCom_homes (s : State) (u : UnitId) (c : Common) : (s.setCom u c).homes = s.homes := by cases u <;> rfl
@[simp] theorem setCom_hostHeld (s : State) (u : UnitId) (c : Common) : (s.setCom u c).hostHeld = s.hostHeld := by cases u <;> rfl
@[simp] theorem setCom_turn (s : State) (u : UnitId) (c : Common) : (s.setCom u c).turn = s.turn := by cases u <;> rfl
@[simp] theorem setReg_time (s : State) (u : UnitId) (n : Nat) (x : W64) : (s.setReg u n x).time = s.time := by cases u <;> rfl
@[simp] theorem setReg_cacheErr (s : State) (u : UnitId) (n : Nat) (x : W64) : (s.setReg u n x).cacheErr = s.cacheErr := by cases u <;> rfl
@[simp] theorem setReg_tried (s : State) (u : UnitId) (n : Nat) (x : W64) : (s.setReg u n x).tried = s.tried := by cases u <;> rfl
@[simp] theorem setReg_prefetches (s : State) (u : UnitId) (n : Nat) (x : W64) : (s.setReg u n x).prefetches = s.prefetches := by cases u <;> rfl
@[simp] theorem setReg_acount (s : State) (u : UnitId) (n : Nat) (x : W64) : (s.setReg u n x).acount = s.acount := by cases u <;> rfl
@[simp] theorem setReg_fcount (s : State) (u : UnitId) (n : Nat) (x : W64) : (s.setReg u n x).fcount = s.fcount := by cases u <;> rfl
@[simp] theorem setReg_homes (s : State) (u : UnitId) (n : Nat) (x : W64) : (s.setReg u n x).homes = s.homes := by cases u <;> rfl
@[simp] theorem setReg_hostHeld (s : State) (u : UnitId) (n : Nat) (x : W64) : (s.setReg u n x).hostHeld = s.hostHeld := by cases u <;> rfl
@[simp] theorem setReg_turn (s : State) (u : UnitId) (n : Nat) (x : W64) : (s.setReg u n x).turn = s.turn := by cases u <;> rfl
@[simp] theorem setCom_cur (s : State) (u : UnitId) (c : Common) : (s.setCom u c).cur = s.cur := by cases u <;> rfl
@[simp] theorem setReg_cur (s : State) (u : UnitId) (n : Nat) (x : W64) : (s.setReg u n x).cur = s.cur := by cases u <;> rfl
@[simp] theorem setCom_agenda (s : State) (u : UnitId) (c : Common) : (s.setCom u c).agenda = s.agenda := by cases u <;> rfl
@[simp] theorem setReg_agenda (s : State) (u : UnitId) (n : Nat) (x : W64) : (s.setReg u n x).agenda = s.agenda := by cases u <;> rfl
@[simp] theorem setCom_choices (s : State) (u : UnitId) (c : Common) : (s.setCom u c).choices = s.choices := by cases u <;> rfl
@[simp] theorem setReg_choices (s : State) (u : UnitId) (n : Nat) (x : W64) : (s.setReg u n x).choices = s.choices := by cases u <;> rfl
@[simp] theorem setCom_fresh (s : State) (u : UnitId) (c : Common) : (s.setCom u c).fresh = s.fresh := by cases u <;> rfl
@[simp] theorem setReg_fresh (s : State) (u : UnitId) (n : Nat) (x : W64) : (s.setReg u n x).fresh = s.fresh := by cases u <;> rfl
@[simp] theorem com_setCom (s : State) (u : UnitId) (c : Common) : (s.setCom u c).com u = c := by
  cases u <;> simp [State.setCom, State.com]
@[simp] theorem modCom_eq (s : State) (u : UnitId) (g : Common → Common) : s.modCom u g = s.setCom u (g (s.com u)) := rfl
@[simp] theorem reg_setCom (s : State) (u v : UnitId) (c : Common) (n : Nat) : (s.setCom u c).reg v n = s.reg v n := by
  cases u with
  | thread i => cases v with
    | thread j =>
      by_cases h : j = i
      · subst h; simp [State.setCom, State.reg, Thread.reg]
      · simp [State.setCom, State.reg, thread_setThread_ne _ _ _ _ h]
    | wave j => simp [State.setCom, State.reg]
  | wave i => cases v with
    | thread j => simp [State.setCom, State.reg]
    | wave j =>
      by_cases h : j = i
      · subst h; simp [State.setCom, State.reg, Wave.kreg]
      · simp [State.setCom, State.reg, wave_setWave_ne _ _ _ _ h]
@[simp] theorem com_setReg (s : State) (u v : UnitId) (n : Nat) (x : W64) : (s.setReg u n x).com v = s.com v := by
  cases u with
  | thread i => cases v with
    | thread j =>
      by_cases h : j = i
      · subst h; simp [State.setReg, State.com, Thread.setReg]; split <;> rfl
      · simp [State.setReg, State.com, thread_setThread_ne _ _ _ _ h]
    | wave j => simp [State.setReg, State.com]
  | wave i => cases v with
    | thread j => simp [State.setReg, State.com]
    | wave j =>
      by_cases h : j = i
      · subst h; simp [State.setReg, State.com, Wave.setK]; split <;> rfl
      · simp [State.setReg, State.com, wave_setWave_ne _ _ _ _ h]

/-! ### registers that read as constants (R56) -/

@[simp] theorem reg_zero (s : State) (u : UnitId) : s.reg u 0 = 0 := by cases u <;> rfl
@[simp] theorem mask_zero (w : Wave) : w.mask 0 = BitVec.allOnes 64 := rfl
@[simp] theorem thread_setReg_zero (t : Thread) (x : W64) : t.setReg 0 x = t := rfl
@[simp] theorem wave_setK_zero (w : Wave) (x : W64) : w.setK 0 x = w := rfl
@[simp] theorem wave_setMask_zero (w : Wave) (x : Mask) : w.setMask 0 x = w := rfl
theorem thread_reg_setReg (t : Thread) (n : Nat) (x : W64) (h : n ≠ 0) (l : n < 16) : (t.setReg n x).reg n = x := by
  simp [Thread.setReg, Thread.reg, h, Vector.getD, l]
theorem thread_reg_setReg_ne (t : Thread) (m n : Nat) (x : W64) (h : m ≠ n) : (t.setReg n x).reg m = t.reg m := by
  unfold Thread.setReg Thread.reg; split
  · rfl
  · split
    · rfl
    · simp [Vector.getD, Ne.symm h]

end Sys2Proof.Machine
end

