-- ==== Sys2Proof/Laws/Steps.lean ====
section
/-! SUPPORT. What a slot of a unit that stands alone does: one lemma per frame of the meanings (runC, runA). -/

namespace Sys2Proof.Machine

theorem settle_quiet (s : State) (u : UnitId) (p : Access → Bool) (h : s.accessesOf u = []) : s.settle u p = (true, s) := by
  simp [State.settle, State.answered, h]

theorem heldRegs_clean (s : State) (u : UnitId) (use : RegUse) (h : (s.com u).frec = []) : s.heldRegs u use = false := by
  simp [State.heldRegs, h]

theorem waitRegs_alone (s : State) (u : UnitId) (use : RegUse) (h : s.accessesOf u = []) (g : (s.com u).frec = []) :
    s.waitRegs u use = (true, s) := by
  simp [State.waitRegs, settle_quiet s u _ h, heldRegs_clean s u use g]

theorem leadClash_empty (s : State) (u : UnitId) (use : RegUse) (h : ∀ w, u = .wave w → (s.wave w).lead = []) :
    s.leadClash u use = false := by
  cases u with
  | thread t => rfl
  | wave w => simp [State.leadClash, h w rfl, Wave.leadUses]

theorem leadFull_empty (s : State) (u : UnitId) (h : ∀ w, u = .wave w → (s.wave w).lead = []) : s.leadFull u = false := by
  cases u with
  | thread t => rfl
  | wave w => simp [State.leadFull, h w rfl]

theorem endFences_none (s : State) (u : UnitId) (h : (s.com u).fences = []) : s.endFences u = s := by
  simp [State.endFences, h]

theorem fenced_none (s : State) (u : UnitId) (i : Instr) (h : (s.com u).fences = []) : s.fenced u i = false := by
  unfold State.fenced
  split <;> simp [h]

/-- A C-slot of a unit that stands alone takes the effect of its instruction. -/
theorem stepC_alone (s : State) (u : UnitId) (i : Instr) (f : State → UnitId → Res) (h : Alone s u) :
    s.stepC u i f = (s.begun u).applyC u (s.noted u i) (f (s.begun u) u) := by
  unfold State.stepC
  rw [h.waits]
  simp only [endFences_none s u h.open_, waitRegs_alone s u _ h.quiet h.clean, leadClash_empty s u _ h.caughtUp,
    leadFull_empty s u h.caughtUp, fenced_none s u i h.open_]
  rfl

theorem runC_alone (s : State) (u : UnitId) (i : Instr) (f : State → UnitId → Res) (h : Alone s u) :
    runC s i f = .next ((s.begun u).applyC u (s.noted u i) (f (s.begun u) u)) := by
  simp [runC, h.current, h.running, stepC_alone s u i f h]

/-- An A-slot that waits for no register takes the effect of its instruction. -/
theorem runA_alone (s : State) (u : UnitId) (i : Instr) (f : State → UnitId → Res) (h : AloneA s u) :
    runA s i f = .next ((s.begunA u).applyA u (s.noted u i) (f (s.begunA u) u)) := by
  simp only [runA, h.current, h.running, if_true, State.stepA, waitRegs_alone s u _ h.quiet h.clean]
  cases u <;> rfl

/-! ### after the effect -/

@[simp] theorem pcOf_setCom (s : State) (u : UnitId) (c : Common) : (s.setCom u c).pcOf u = s.pcOf u := by
  cases u <;> simp [State.setCom, State.pcOf]

@[simp] theorem execOf_setCom (s : State) (u : UnitId) (c : Common) : (s.setCom u c).execOf u = s.execOf u := by
  cases u <;> simp [State.setCom, State.execOf]

@[simp] theorem pcOf_begun (s : State) (u : UnitId) : (s.begun u).pcOf u = s.pcOf u := pcOf_setCom s u _
@[simp] theorem execOf_begun (s : State) (u : UnitId) : (s.begun u).execOf u = s.execOf u := execOf_setCom s u _
@[simp] theorem reg_begun (s : State) (u : UnitId) (n : Nat) : (s.begun u).reg u n = s.reg u n := reg_setCom s u u _ n

/-- The instruction's effect is `t`: the slot is complete. -/
theorem runC_done {s : State} {u : UnitId} {i : Instr} {f : State → UnitId → Res} {t : State} (h : Alone s u)
    (g : f (s.begun u) u = .done t) : runC s i f = .next (s.afterC u i t) := by
  rw [runC_alone s u i f h, g]
  simp [State.applyC, State.afterC]

/-- The instruction transfers to `a`. -/
theorem runC_goto {s : State} {u : UnitId} {i : Instr} {f : State → UnitId → Res} {t : State} {a : W64} (h : Alone s u)
    (g : f (s.begun u) u = .goto t a) : runC s i f = .next (s.afterGo u i t a) := by
  rw [runC_alone s u i f h, g]
  simp [State.applyC, State.afterGo]

/-- The unit leaves its slot. -/
theorem runC_gone {s : State} {u : UnitId} {i : Instr} {f : State → UnitId → Res} {t : State} (h : Alone s u)
    (g : f (s.begun u) u = .gone t) : runC s i f = .next t := by
  rw [runC_alone s u i f h, g]; rfl

/-- The instruction traps. -/
theorem runC_trap {s : State} {u : UnitId} {i : Instr} {f : State → UnitId → Res} {t : State} {x : TrapInfo} (h : Alone s u)
    (g : f (s.begun u) u = .trap t x) : runC s i f = .next (t.takeTrap u x) := by
  rw [runC_alone s u i f h, g]; rfl

/-- The A-slot's effect is `t`: the slot is complete. -/
theorem runA_done {s : State} {u : UnitId} {i : Instr} {f : State → UnitId → Res} {t : State} (h : AloneA s u)
    (g : f (s.begunA u) u = .done t) : runA s i f = .next (s.afterA u i t) := by
  rw [runA_alone s u i f h, g]
  simp [State.applyA, State.afterA]

end Sys2Proof.Machine
end

