-- ==== Sys2Proof/Laws/Accesses.lean ====
section
/-! SUPPORT. What the shared operations of the memory instructions do for a unit that stands alone: one lemma each. -/

namespace Sys2Proof.Machine

@[simp] theorem accessesOf_setCom (s : State) (u v : UnitId) (c : Common) : (s.setCom u c).accessesOf v = s.accessesOf v := by
  simp [State.accessesOf]

theorem accessesOf_begun (s : State) (u : UnitId) (h : Alone s u) : (s.begun u).accessesOf u = [] := by
  simp [State.begun, h.quiet]

theorem com_begun (s : State) (u : UnitId) : (s.begun u).com u = { s.com u with body := (s.com u).rpt.act } := by
  simp [State.begun]

theorem heldAccess_begun (s : State) (u : UnitId) (h : Alone s u) : (s.begun u).heldAccess u = none := by
  simp [State.heldAccess, com_begun, h.waits]

/-- Lanes that pass the checks raise no trap. -/
theorem memCheck_pass (s : State) (u : UnitId) (sp : Space) (n : Nat) (eas : List (Nat × W64)) (r : Res)
    (h : ∀ e ∈ eas, s.laneCheck u sp n e.2 = none) : s.memCheck u sp n eas r = r := by
  have : eas.filterMap (fun e => (s.laneCheck u sp n e.2).map (fun c => (e.1, e.2, c))) = [] := by
    rw [List.filterMap_eq_nil_iff]; intro e he; simp [h e he]
  unfold State.memCheck
  rw [this]
  rfl

/-- With no access outstanding an instruction is sent at once. -/
theorem after_quiet (s : State) (u : UnitId) (need : Access → Bool) (f : State → Res) (h : s.accessesOf u = []) :
    s.after u need f = f s := by
  have hf : s.memFull u = false := by simp [State.memFull, h]; split <;> omega
  simp [State.after, settle_quiet s u need h, hf]

theorem holdAgain_first (s : State) (u : UnitId) (fin : State → State) (r : Res) (h : s.heldAccess u = none) :
    s.holdAgain u fin r = r := by
  simp [State.holdAgain, h]

theorem redoLanes_none (s : State) (u : UnitId) (ls : List Nat) (h : (s.com u).redo = none) : s.redoLanes u ls = ls := by
  simp [State.redoLanes, h]

/-- A holding access whose lanes are answered at once is finished. -/
theorem sendHold_answered (s : State) (u : UnitId) (a b : Access) (fin : State → State) (n : a.lanes ≠ [])
    (h : (s.issue a).2.access (s.issue a).1 = some b) (c : b.complete = true) (f : b.failed = false) :
    s.sendHold u a fin = .done (fin ((s.issue a).2.dropAccess (s.issue a).1)) := by
  have : a.lanes.isEmpty = false := by simpa using n
  simp [State.sendHold, this, h, c, f]

end Sys2Proof.Machine
end

