-- ==== Sys2Proof/Laws/Counters.lean ====
section
/-! SUPPORT. What counting changes: the counters of Vales and the interrupts of those that wrap, and no other field of the state. -/

namespace Sys2Proof.Machine

/-- The fields that counting leaves. -/
def State.CountsOnly (s t : State) : Prop := ∃ vs is, t = { s with vales := vs, irqs := is }

theorem State.CountsOnly.refl (s : State) : s.CountsOnly s := ⟨s.vales, s.irqs, rfl⟩

theorem State.CountsOnly.trans {s t r : State} (h : s.CountsOnly t) (k : t.CountsOnly r) : s.CountsOnly r := by
  obtain ⟨vs, is, rfl⟩ := h
  obtain ⟨ws, js, rfl⟩ := k
  exact ⟨ws, js, rfl⟩

theorem State.CountsOnly.foldl {α : Type} (f : State → α → State) (hf : ∀ (s : State) (a : α), s.CountsOnly (f s a)) (l : List α) (s : State) :
    s.CountsOnly (l.foldl f s) := by
  induction l generalizing s with
  | nil => exact .refl s
  | cons a l ih => exact (hf s a).trans (ih _)

/-- A counter that advances changes its Vale, and where it wraps it may interrupt. -/
theorem State.counterAdd_only (s : State) (v i n : Nat) : s.CountsOnly (s.counterAdd v i n) := by
  unfold counterAdd counterWraps
  dsimp only
  split
  · split
    · exact ⟨_, _, rfl⟩
    · exact ⟨_, s.irqs, rfl⟩
  · exact ⟨_, s.irqs, rfl⟩

/-- Events that are counted change nothing but the counters. -/
theorem State.countEvents_only (s : State) (v fn code n : Nat) : s.CountsOnly (s.countEvents v fn code n) := by
  unfold countEvents
  split
  · exact .refl s
  · refine .foldl _ (fun s i => ?_) _ s
    split
    · exact s.counterAdd_only v i n
    · exact .refl s

/-- The cycles that are counted as time passes change nothing but the counters. -/
theorem State.countCycles_only (s : State) (n : Nat) : s.CountsOnly (s.countCycles n) := by
  unfold countCycles
  split
  · exact .refl s
  · refine .foldl _ (fun t v => ?_) _ s
    split
    · exact .refl t
    · refine .foldl _ (fun t fn => ?_) _ t
      split
      · exact t.countEvents_only v fn 0x001 n
      · exact .refl t

/-- What time changes beside the counters. -/
theorem State.tick_only (s : State) (n : Nat) : (s.passTime n).CountsOnly (s.tick n) := State.countCycles_only _ _

/-- Nothing is counted while the dies do not run. -/
theorem State.tick_stopped (s : State) (n : Nat) (h : s.adentoth.st ≠ 1) : s.tick n = s.passTime n := by
  have h : (s.passTime n).adentoth.st ≠ 1 := h
  unfold tick countCycles
  simp [h]

end Sys2Proof.Machine
end

