-- ==== Sys2Proof/Laws/Ends.lean ====
section
/-! SUPPORT. What the end of a unit, or of every thread of a core, changes of a Vale: what waits there for the unit, and nothing else. -/

namespace Sys2Proof.Machine

/-- A Vale but for what waits in it for units: its mailboxes' and its bins' waiters, frames and traps. -/
def Vale.Keeps (x y : Vale) : Prop := ∃ a b c d, y = { x with mailWait := a, binWait := b, frames := c, traps := d }

theorem Vale.Keeps.refl (x : Vale) : x.Keeps x := ⟨_, _, _, _, rfl⟩

theorem Vale.Keeps.trans {x y z : Vale} (h : x.Keeps y) (k : y.Keeps z) : x.Keeps z := by
  obtain ⟨_, _, _, _, rfl⟩ := h
  obtain ⟨_, _, _, _, rfl⟩ := k
  exact ⟨_, _, _, _, rfl⟩

/-- Every Vale is kept so. -/
structure State.KeepsVales (s t : State) : Prop where
  vale : ∀ v, (s.vale v).Keeps (t.vale v)

theorem State.KeepsVales.refl (s : State) : s.KeepsVales s := ⟨fun _ => .refl _⟩

theorem State.KeepsVales.of_eq {s t : State} (h : t.vales = s.vales) : s.KeepsVales t := ⟨fun v => by
  simp only [State.vale, h]; exact .refl _⟩

theorem State.KeepsVales.trans {s t r : State} (h : s.KeepsVales t) (k : t.KeepsVales r) : s.KeepsVales r :=
  ⟨fun v => (h.vale v).trans (k.vale v)⟩

theorem State.KeepsVales.foldl {α : Type} (f : State → α → State) (hf : ∀ (s : State) (a : α), s.KeepsVales (f s a)) (l : List α) (s : State) :
    s.KeepsVales (l.foldl f s) := by
  induction l generalizing s with
  | nil => exact .refl s
  | cons a l ih => exact (hf s a).trans (ih _)

theorem State.forget_vales (s : State) (u : UnitId) : s.KeepsVales (s.forget u) := ⟨fun v => by
  simp only [State.vale, State.forget, AList.getD]
  induction s.vales with
  | nil => exact .refl _
  | cons e t ih =>
    by_cases h : e.1 = v
    · simp only [List.map_cons, AList.find, h, if_true]; exact ⟨_, _, _, _, rfl⟩
    · simpa only [List.map_cons, AList.find, h, if_false] using ih⟩

theorem State.gridEnd_vales (s : State) (g : Option Nat) (code : W32) (killed : Bool) : (s.gridEnd g code killed).vales = s.vales := by
  cases g <;> rfl

theorem State.memberEnd_vales (s : State) (b : Option Nat) (u : UnitId) : (s.memberEnd b u).vales = s.vales := by
  unfold memberEnd
  split
  · rfl
  · split
    · rfl
    · dsimp only
      split <;> rfl

theorem State.returnLaunch_vales (s : State) (u : UnitId) : (s.returnLaunch u).vales = s.vales := by
  unfold returnLaunch
  split
  · cases u <;> rfl
  · rfl

theorem State.leaves_vales (s : State) (b : Option Nat) (u : UnitId) : s.KeepsVales (((s.memberEnd b u).returnLaunch u).forget u) :=
  .trans (.of_eq ((returnLaunch_vales ..).trans (memberEnd_vales ..))) (forget_vales ..)

theorem State.endThread_vales (s : State) (u : Nat) (code : W32) (killed : Bool) : s.KeepsVales (s.endThread u code killed) := by
  unfold endThread
  dsimp only
  refine .trans (t := match (s.thread u).task with
    | some k => (s.gridEnd (s.thread u).c.grid code killed).setRun k.pos k.type
        (((s.gridEnd (s.thread u).c.grid code killed).vec k.pos k.type).run - 1)
    | none => s.gridEnd (s.thread u).c.grid code killed) (.of_eq ?_) (.trans (leaves_vales _ (s.thread u).c.block (.thread u)) (.of_eq rfl))
  split <;> exact gridEnd_vales ..

theorem State.modWave_vales (s : State) (w : Nat) (g : Wave → Wave) : (s.modWave w g).vales = s.vales := rfl

theorem State.endLanes_vales (s : State) (w : Nat) (m : Mask) (code : W32) (killed : Bool) : s.KeepsVales (s.endLanes w m code killed) := by
  unfold endLanes
  exact .trans (.foldl (fun s (e : Nat × Nat) => s.endThread e.2 code killed) (fun s e => s.endThread_vales e.2 code killed) _ s)
    (.of_eq (modWave_vales ..))

theorem State.endWave_vales (s : State) (w : Nat) (code : W32) (killed : Bool) : s.KeepsVales (s.endWave w code killed) := by
  unfold endWave
  dsimp only
  generalize h : s.endLanes w (BitVec.allOnes 64) code killed = t
  have k : s.KeepsVales t := h ▸ s.endLanes_vales ..
  exact k.trans (.trans (.of_eq (gridEnd_vales ..)) (.trans (leaves_vales _ _ (.wave w)) (.of_eq rfl)))

/-- A unit that ends leaves every Vale as it was, but for what waits in it for the unit. -/
theorem State.endUnit_vales (s : State) (u : UnitId) (code : W32) (killed : Bool) : s.KeepsVales (s.endUnit u code killed) := by
  cases u
  · exact s.endThread_vales ..
  · exact s.endWave_vales ..

/-- So does a core whose threads end. -/
theorem State.killCore_vales (s : State) (p : Nat) : s.KeepsVales (s.killCore p) := by
  unfold killCore
  exact .foldl _ (fun s t => s.endThread_vales t 0 true) _ s

end Sys2Proof.Machine
end

