-- ==== Sys2Proof/Laws/Memory.lean ====
section
/-! SUPPORT. Laws of memory: every operation on the list of cells keeps its canonical form; a byte that is written is read back, and
every other byte reads as before. -/

namespace Sys2Proof.Machine

theorem memAbove_mono {a c : Nat} {l : List Host.Cell} (h : a ≤ c) (g : memAbove c l = true) : memAbove a l = true := by
  cases l with
  | nil => rfl
  | cons e t =>
    obtain ⟨k, x⟩ := e
    simp only [memAbove, Bool.and_eq_true, decide_eq_true_eq] at g ⊢
    exact ⟨⟨by omega, g.1.2⟩, g.2⟩

theorem wf_of_above {a : Nat} {l : List Host.Cell} (g : memAbove a l = true) : Memory.wf l = true := by
  cases l with
  | nil => rfl
  | cons e t =>
    obtain ⟨k, x⟩ := e
    simp only [memAbove, Memory.wf, Bool.and_eq_true, decide_eq_true_eq] at g ⊢
    exact ⟨g.1.2, g.2⟩

theorem memPut_above (l : List Host.Cell) (c a : Nat) (b : Byte) (h : c < a) (g : memAbove c l = true) :
    memAbove c (memPut l a b) = true := by
  induction l generalizing c with
  | nil => by_cases hb : b = unlisted <;> simp [memPut, memAbove, hb, h]
  | cons e t ih =>
    obtain ⟨k, x⟩ := e
    simp only [memAbove, Bool.and_eq_true, decide_eq_true_eq] at g
    obtain ⟨⟨g1, g2⟩, g3⟩ := g
    simp only [memPut]
    split
    · split
      · simp only [memAbove, Bool.and_eq_true, decide_eq_true_eq]; exact ⟨⟨g1, g2⟩, g3⟩
      · rename_i h1 h2
        simp only [memAbove, Bool.and_eq_true, decide_eq_true_eq, bne_iff_ne, ne_eq]
        exact ⟨⟨h, h2⟩, ⟨h1, by simpa using g2⟩, g3⟩
    · split
      · rename_i h1 h2; subst h2
        split
        · exact memAbove_mono (Nat.le_of_lt g1) g3
        · rename_i h3; simp only [memAbove, Bool.and_eq_true, decide_eq_true_eq, bne_iff_ne, ne_eq]; exact ⟨⟨g1, h3⟩, g3⟩
      · simp only [memAbove, Bool.and_eq_true, decide_eq_true_eq]
        exact ⟨⟨g1, g2⟩, ih k (by omega) g3⟩

/-- A write keeps the canonical form. -/
theorem memPut_wf (l : List Host.Cell) (a : Nat) (b : Byte) (g : Memory.wf l = true) : Memory.wf (memPut l a b) = true := by
  cases l with
  | nil => by_cases hb : b = unlisted <;> simp [memPut, Memory.wf, memAbove, hb]
  | cons e t =>
    obtain ⟨k, x⟩ := e
    simp only [Memory.wf, Bool.and_eq_true, bne_iff_ne, ne_eq] at g
    simp only [memPut]
    split
    · split
      · simpa [Memory.wf] using g
      · rename_i h1 h2
        simp only [Memory.wf, memAbove, Bool.and_eq_true, decide_eq_true_eq, bne_iff_ne, ne_eq]
        exact ⟨h2, ⟨h1, g.1⟩, g.2⟩
    · split
      · rename_i h1 h2; subst h2
        split
        · exact wf_of_above g.2
        · rename_i h3; simp only [Memory.wf, Bool.and_eq_true, bne_iff_ne, ne_eq]; exact ⟨h3, g.2⟩
      · simp only [Memory.wf, Bool.and_eq_true, bne_iff_ne, ne_eq]
        exact ⟨g.1, memPut_above t k a b (by omega) g.2⟩

theorem memFind_of_above {l : List Host.Cell} {c a : Nat} (h : a ≤ c) (g : memAbove c l = true) : memFind l a = unlisted := by
  induction l generalizing c with
  | nil => rfl
  | cons e t ih =>
    obtain ⟨k, x⟩ := e
    simp only [memAbove, Bool.and_eq_true, decide_eq_true_eq] at g
    have : ¬ k = a := by omega
    simp only [memFind, this, if_false]
    exact ih (by omega) g.2

theorem memFind_memPut_above (l : List Host.Cell) (a : Nat) (b : Byte) (q c : Nat) (g : memAbove c l = true) :
    memFind (memPut l a b) q = if q = a then b else memFind l q := by
  induction l generalizing c with
  | nil =>
    simp only [memPut]; split
    · rename_i h; subst h; by_cases hq : q = a <;> simp [memFind, hq]
    · by_cases hq : q = a
      · subst hq; simp [memFind]
      · simp [memFind, hq, Ne.symm hq]
  | cons e t ih =>
    obtain ⟨k, x⟩ := e
    simp only [memAbove, Bool.and_eq_true, decide_eq_true_eq] at g
    have g3 := g.2
    simp only [memPut]
    split
    · rename_i h1
      split
      · rename_i h2; subst h2
        by_cases hq : q = a
        · subst hq; have hk : ¬ k = q := by omega
          simp only [memFind, hk, if_false, if_true]
          exact memFind_of_above (Nat.le_of_lt h1) g3
        · simp [hq]
      · by_cases hq : q = a
        · subst hq; simp [memFind]
        · simp [memFind, hq, Ne.symm hq]
    · split
      · rename_i h1 h2; subst h2
        split
        · rename_i h3; subst h3
          by_cases hq : q = a
          · subst hq; simp only [if_true]; exact memFind_of_above (Nat.le_refl _) g3
          · simp [memFind, hq, Ne.symm hq]
        · by_cases hq : q = a
          · subst hq; simp [memFind]
          · simp [memFind, hq, Ne.symm hq]
      · rename_i h1 h2
        simp only [memFind]
        by_cases hk : k = q
        · subst hk; simp [Ne.symm h2]
        · simp only [hk, if_false]; exact ih k g3

/-- A byte reads as it was written last. -/
theorem memFind_memPut (l : List Host.Cell) (a : Nat) (b : Byte) (q : Nat) (g : Memory.wf l = true) :
    memFind (memPut l a b) q = if q = a then b else memFind l q := by
  cases l with
  | nil => exact memFind_memPut_above [] a b q 0 rfl
  | cons e t =>
    obtain ⟨k, x⟩ := e
    simp only [Memory.wf, Bool.and_eq_true] at g
    by_cases h0 : 0 < k
    · exact memFind_memPut_above _ a b q 0 (by simp [memAbove, h0, g.1, g.2])
    · have : k = 0 := by omega
      subst this
      simp only [memPut, Nat.not_lt_zero, if_false]
      split
      · rename_i h; subst h
        split
        · rename_i h3; subst h3
          by_cases hq : q = 0
          · subst hq; simp only [if_true]; exact memFind_of_above (Nat.le_refl _) g.2
          · simp [memFind, hq, Ne.symm hq]
        · by_cases hq : q = 0
          · subst hq; simp [memFind]
          · simp [memFind, hq, Ne.symm hq]
      · rename_i h
        simp only [memFind]
        by_cases hk : 0 = q
        · subst hk; simp [Ne.symm h]
        · simp only [hk, if_false]; exact memFind_memPut_above t a b q 0 g.2

theorem filter_wf (p : Host.Cell → Bool) (l : List Host.Cell) (g : Memory.wf l = true) : Memory.wf (l.filter p) = true := by
  have above : ∀ (l : List Host.Cell) (c : Nat), memAbove c l = true → memAbove c (l.filter p) = true := by
    intro l
    induction l with
    | nil => intro c _; rfl
    | cons e t ih =>
      obtain ⟨k, x⟩ := e
      intro c g
      simp only [memAbove, Bool.and_eq_true, decide_eq_true_eq] at g
      by_cases h : p (k, x) = true
      · simp only [List.filter_cons, h, if_true, memAbove, Bool.and_eq_true, decide_eq_true_eq]
        exact ⟨g.1, ih k g.2⟩
      · simp only [List.filter_cons, h]
        exact memAbove_mono (Nat.le_of_lt g.1.1) (ih k g.2)
  cases l with
  | nil => rfl
  | cons e t =>
    obtain ⟨k, x⟩ := e
    simp only [Memory.wf, Bool.and_eq_true] at g
    by_cases h : p (k, x) = true
    · simp only [List.filter_cons, h, if_true, Memory.wf, Bool.and_eq_true]; exact ⟨g.1, above t k g.2⟩
    · simp only [List.filter_cons, h]; exact wf_of_above (above t k g.2)

theorem overlay_wf (a m : List Host.Cell) (g : Memory.wf m = true) : Memory.wf (overlay a m) = true := by
  induction a with
  | nil => exact g
  | cons e t ih => obtain ⟨k, x⟩ := e; exact memPut_wf _ _ _ ih

@[simp] theorem rawPut_mem (s : State) (a : Nat) (b : Byte) : (s.rawPut a b).mem = memPut s.mem a b := rfl

theorem rawPut_wf (s : State) (a : Nat) (b : Byte) (g : Memory.wf s.mem = true) : Memory.wf (s.rawPut a b).mem = true := memPut_wf _ _ _ g
theorem putByte_wf (s : State) (a : Nat) (b : Byte) (g : Memory.wf s.mem = true) : Memory.wf (s.putByte a b).mem = true :=
  rawPut_wf _ _ _ g

theorem rawPutBytes_wf (l : List Byte) (s : State) (a : Nat) (g : Memory.wf s.mem = true) : Memory.wf (s.rawPutBytes a l).mem = true := by
  induction l generalizing s a with
  | nil => exact g
  | cons b t ih => exact ih _ _ (rawPut_wf s a b g)

theorem putBytes_wf (l : List Byte) (s : State) (a : Nat) (g : Memory.wf s.mem = true) : Memory.wf (s.putBytes a l).mem = true := by
  induction l generalizing s a with
  | nil => exact g
  | cons b t ih => exact ih _ _ (putByte_wf s a b g)

theorem wr_wf (s : State) (a n x : Nat) (g : Memory.wf s.mem = true) : Memory.wf (s.wr a n x).mem = true := putBytes_wf _ _ _ g

theorem byteAt_rawPut (s : State) (a : Nat) (b : Byte) (q : Nat) (g : Memory.wf s.mem = true) :
    (s.rawPut a b).byteAt q = if q = a then b else s.byteAt q := memFind_memPut _ _ _ _ g

/-- Bytes written at `a` leave every byte below and above them alone. -/
theorem byteAt_rawPutBytes_ne (l : List Byte) (s : State) (a q : Nat) (g : Memory.wf s.mem = true) (h : q < a ∨ a + l.length ≤ q) :
    (s.rawPutBytes a l).byteAt q = s.byteAt q := by
  induction l generalizing s a with
  | nil => rfl
  | cons b t ih =>
    simp only [List.length_cons] at h
    rw [State.rawPutBytes, ih _ _ (rawPut_wf s a b g) (by omega), byteAt_rawPut _ _ _ _ g, if_neg (by omega)]

theorem byteAt_putBytes_ne (l : List Byte) (s : State) (a q : Nat) (g : Memory.wf s.mem = true) (h : q < a ∨ a + l.length ≤ q) :
    (s.putBytes a l).byteAt q = s.byteAt q := by
  induction l generalizing s a with
  | nil => rfl
  | cons b t ih =>
    simp only [List.length_cons] at h
    rw [State.putBytes, ih _ _ (putByte_wf s a b g) (by omega), State.putByte, byteAt_rawPut _ _ _ _ g, if_neg (by omega)]

theorem bytesLE_length (n x : Nat) : (bytesLE n x).length = n := by
  induction n generalizing x with
  | zero => rfl
  | succ n ih => simp [bytesLE, ih]

/-- A hit changes the order of the cache's entries alone. -/
theorem useEntry_spec (s : State) (sp : Space) (c va : Nat) : ∃ l, s.useEntry sp c va = { s with tcs := l } := by
  unfold State.useEntry
  split
  · exact ⟨s.tcs, rfl⟩
  · split
    · exact ⟨_, rfl⟩
    · exact ⟨s.tcs, rfl⟩
@[simp] theorem useEntry_mem (s : State) (sp : Space) (c va : Nat) : (s.useEntry sp c va).mem = s.mem := by
  obtain ⟨l, h⟩ := useEntry_spec s sp c va
  rw [h]

/-- What is kept of a cache's entries was there before. -/
theorem mem_keepRecent (cache n : Nat) (l : List TcEntry) (e : TcEntry) (h : e ∈ keepRecent cache n l) : e ∈ l := by
  induction l generalizing n with
  | nil => simp [keepRecent] at h
  | cons x t ih =>
    unfold keepRecent at h
    split at h
    · split at h
      · exact List.mem_cons_of_mem _ (ih _ h)
      · rcases List.mem_cons.mp h with h | h
        · exact h ▸ List.mem_cons_self
        · exact List.mem_cons_of_mem _ (ih _ h)
    · rcases List.mem_cons.mp h with h | h
      · exact h ▸ List.mem_cons_self
      · exact List.mem_cons_of_mem _ (ih _ h)

end Sys2Proof.Machine
end

