-- ==== Sys2Proof/Laws/PerInstr.lean ====
section
/-! SUPPORT. Laws of every instruction as syntax, one lemma for each constructor. Family LBit: L, bit 31 of word 0, is 0 in a paired C-slot and 1
in a lone bundle (R43), for every encoded word. -/

namespace Sys2Proof.Laws

open Sys2Proof

/-- L of encoded words (R43). -/
def lBit : Enc → Prop
  | .c w0 => w0.getLsbD 31 = false
  | .a _ => True
  | .lone w0 _ => w0.getLsbD 31 = true

/-- The statement of the family: the words that an instruction is encoded in have the right L. -/
def LBit.Statement (i : Instr) : Prop := ∀ e, encode i = some e → lBit e

/-- What the words of an instruction are said to be. -/
theorem lBit_some {x e : Enc} (h : some x = some e) (g : lBit x) : lBit e := Option.some.inj h ▸ g

theorem lBit_cr {c : BitVec 6} {d a b : Reg6} {m : BitVec 7} : (encCR 0 c d a b m).getLsbD 31 = false := by
  unfold encCR
  repeat rw [BitVec.getLsbD_append]
  simp
theorem lBit_ln {c : BitVec 6} {d a b : Reg6} {m : BitVec 7} : (encCR 1 c d a b m).getLsbD 31 = true := by
  unfold encCR
  repeat rw [BitVec.getLsbD_append]
  simp
theorem lBit_ci {l : BitVec 1} {c : BitVec 6} {d a : Reg6} {m : BitVec 13} : (encCI l c d a m).getLsbD 31 = l.getLsbD 0 := by
  unfold encCI
  repeat rw [BitVec.getLsbD_append]
  simp
theorem lBit_cl {l : BitVec 1} {c : BitVec 6} {d : Reg6} {m : BitVec 19} : (encCL l c d m).getLsbD 31 = l.getLsbD 0 := by
  unfold encCL
  repeat rw [BitVec.getLsbD_append]
  simp
theorem lBit_cb {l : BitVec 1} {c : BitVec 6} {k : BitVec 3} {a b : Reg6} {m : BitVec 10} : (encCB l c k a b m).getLsbD 31 = l.getLsbD 0 := by
  unfold encCB
  repeat rw [BitVec.getLsbD_append]
  simp
theorem lBit_cj {c : BitVec 6} {m : BitVec 25} : (encCJ c m).getLsbD 31 = false := by
  unfold encCJ
  repeat rw [BitVec.getLsbD_append]
  simp
theorem lBit_cm {l : BitVec 1} {c : BitVec 6} {m : MemOp} : (encCM l c m).getLsbD 31 = l.getLsbD 0 := by
  unfold encCM
  repeat rw [BitVec.getLsbD_append]
  simp

/-- A memory word, paired or lone. -/
theorem lBit_mem {c : BitVec 6} {m : MemOp} {x : Option MemExt} : lBit (encMem c m x) := by
  cases x
  · exact lBit_cm
  · exact lBit_cm

/-- An A-class word, paired or lone. -/
theorem lBit_form {i : Instr} {n : Nat} {f : AForm}
    (h : encode i = (match f with | .p d a b kb x => some (.a (encAR (BitVec.ofNat 6 n) d a b kb x)) | .l g => some (encLA (BitVec.ofNat 6 n) g))) :
    LBit.Statement i := by
  intro e g
  cases f <;> rw [h] at g <;> refine lBit_some g ?_
  · trivial
  · show BitVec.getLsbD _ 31 = true
    repeat rw [BitVec.getLsbD_append]
    simp

theorem LBit.nopC (lone : Bool) : LBit.Statement (.nopC lone) := by
  cases lone
  · exact fun _ h => lBit_some h lBit_cr
  · exact fun _ h => lBit_some h lBit_ln
theorem LBit.nopA : LBit.Statement (.nopA) := fun _ h => lBit_some h trivial
theorem LBit.add (d a b : Reg6) (w : Bool) : LBit.Statement (.add d a b w) := fun _ h => lBit_some h lBit_cr
theorem LBit.sub (d a b : Reg6) (w : Bool) : LBit.Statement (.sub d a b w) := fun _ h => lBit_some h lBit_cr
theorem LBit.and (d a b : Reg6) (w : Bool) : LBit.Statement (.and d a b w) := fun _ h => lBit_some h lBit_cr
theorem LBit.or (d a b : Reg6) (w : Bool) : LBit.Statement (.or d a b w) := fun _ h => lBit_some h lBit_cr
theorem LBit.xor (d a b : Reg6) (w : Bool) : LBit.Statement (.xor d a b w) := fun _ h => lBit_some h lBit_cr
theorem LBit.andn (d a b : Reg6) (w : Bool) : LBit.Statement (.andn d a b w) := fun _ h => lBit_some h lBit_cr
theorem LBit.shl (d a b : Reg6) (w : Bool) : LBit.Statement (.shl d a b w) := fun _ h => lBit_some h lBit_cr
theorem LBit.shr (d a b : Reg6) (w : Bool) : LBit.Statement (.shr d a b w) := fun _ h => lBit_some h lBit_cr
theorem LBit.sra (d a b : Reg6) (w : Bool) : LBit.Statement (.sra d a b w) := fun _ h => lBit_some h lBit_cr
theorem LBit.rot (d a b : Reg6) (w : Bool) : LBit.Statement (.rot d a b w) := fun _ h => lBit_some h lBit_cr
theorem LBit.shladd1 (d a b : Reg6) (w : Bool) : LBit.Statement (.shladd1 d a b w) := fun _ h => lBit_some h lBit_cr
theorem LBit.shladd2 (d a b : Reg6) (w : Bool) : LBit.Statement (.shladd2 d a b w) := fun _ h => lBit_some h lBit_cr
theorem LBit.shladd3 (d a b : Reg6) (w : Bool) : LBit.Statement (.shladd3 d a b w) := fun _ h => lBit_some h lBit_cr
theorem LBit.shladd4 (d a b : Reg6) (w : Bool) : LBit.Statement (.shladd4 d a b w) := fun _ h => lBit_some h lBit_cr
theorem LBit.min (d a b : Reg6) (w : Bool) : LBit.Statement (.min d a b w) := fun _ h => lBit_some h lBit_cr
theorem LBit.max (d a b : Reg6) (w : Bool) : LBit.Statement (.max d a b w) := fun _ h => lBit_some h lBit_cr
theorem LBit.minn (d a b : Reg6) (w : Bool) : LBit.Statement (.minn d a b w) := fun _ h => lBit_some h lBit_cr
theorem LBit.maxn (d a b : Reg6) (w : Bool) : LBit.Statement (.maxn d a b w) := fun _ h => lBit_some h lBit_cr
theorem LBit.slt (d a b : Reg6) (w : Bool) : LBit.Statement (.slt d a b w) := fun _ h => lBit_some h lBit_cr
theorem LBit.sltn (d a b : Reg6) (w : Bool) : LBit.Statement (.sltn d a b w) := fun _ h => lBit_some h lBit_cr
theorem LBit.seq (d a b : Reg6) (w : Bool) : LBit.Statement (.seq d a b w) := fun _ h => lBit_some h lBit_cr
theorem LBit.sel (d a b : Reg6) : LBit.Statement (.sel d a b) := fun _ h => lBit_some h lBit_cr
theorem LBit.clz (d a : Reg6) (w : Bool) : LBit.Statement (.clz d a w) := fun _ h => lBit_some h lBit_cr
theorem LBit.ctz (d a : Reg6) (w : Bool) : LBit.Statement (.ctz d a w) := fun _ h => lBit_some h lBit_cr
theorem LBit.popc (d a : Reg6) (w : Bool) : LBit.Statement (.popc d a w) := fun _ h => lBit_some h lBit_cr
theorem LBit.brev (d a : Reg6) (w : Bool) : LBit.Statement (.brev d a w) := fun _ h => lBit_some h lBit_cr
theorem LBit.bswp (d a : Reg6) (w : Bool) : LBit.Statement (.bswp d a w) := fun _ h => lBit_some h lBit_cr
theorem LBit.aluImmediateLone (op : AluOp) (d a : Reg6) (w : Bool) (imm : W32) : LBit.Statement (.aluImmediateLone op d a w imm) := fun _ h => lBit_some h lBit_ln
theorem LBit.mul (d a b : Reg6) (w : Bool) : LBit.Statement (.mul d a b w) := fun _ h => lBit_some h lBit_cr
theorem LBit.mulh (d a b : Reg6) (w : Bool) : LBit.Statement (.mulh d a b w) := fun _ h => lBit_some h lBit_cr
theorem LBit.mulhn (d a b : Reg6) (w : Bool) : LBit.Statement (.mulhn d a b w) := fun _ h => lBit_some h lBit_cr
theorem LBit.div (d a b : Reg6) (w : Bool) : LBit.Statement (.div d a b w) := fun _ h => lBit_some h lBit_cr
theorem LBit.divn (d a b : Reg6) (w : Bool) : LBit.Statement (.divn d a b w) := fun _ h => lBit_some h lBit_cr
theorem LBit.rem (d a b : Reg6) (w : Bool) : LBit.Statement (.rem d a b w) := fun _ h => lBit_some h lBit_cr
theorem LBit.remn (d a b : Reg6) (w : Bool) : LBit.Statement (.remn d a b w) := fun _ h => lBit_some h lBit_cr
theorem LBit.addi (d a : Reg6) (imm : BitVec 13) : LBit.Statement (.addi d a imm) := fun _ h => lBit_some h lBit_ci
theorem LBit.addiLone (d a : Reg6) (imm : W32) : LBit.Statement (.addiLone d a imm) := fun _ h => lBit_some h lBit_ci
theorem LBit.li (d : Reg6) (imm : BitVec 19) : LBit.Statement (.li d imm) := fun _ h => lBit_some h lBit_cl
theorem LBit.liLone (d : Reg6) (imm : W32) : LBit.Statement (.liLone d imm) := fun _ h => lBit_some h lBit_cl
theorem LBit.lih (d : Reg6) (imm : BitVec 19) : LBit.Statement (.lih d imm) := fun _ h => lBit_some h lBit_cl
theorem LBit.lihLone (d : Reg6) (imm : W32) : LBit.Statement (.lihLone d imm) := fun _ h => lBit_some h lBit_cl
theorem LBit.bext (d a : Reg6) (sx : Bool) (lenm1 pos : BitVec 6) : LBit.Statement (.bext d a sx lenm1 pos) := fun _ h => lBit_some h lBit_ln
theorem LBit.bins (d a : Reg6) (lenm1 pos : BitVec 6) : LBit.Statement (.bins d a lenm1 pos) := fun _ h => lBit_some h lBit_ln
theorem LBit.b (off : BitVec 25) : LBit.Statement (.b off) := fun _ h => lBit_some h lBit_cj
theorem LBit.call (off : BitVec 25) : LBit.Statement (.call off) := fun _ h => lBit_some h lBit_cj
theorem LBit.bc (c : Cond) (a b : Reg6) (off : BitVec 10) : LBit.Statement (.bc c a b off) := fun _ h => lBit_some h lBit_cb
theorem LBit.bcLone (c : Cond) (a b : Reg6) (off : W32) : LBit.Statement (.bcLone c a b off) := fun _ h => lBit_some h lBit_cb
theorem LBit.jmp (d a : Reg6) : LBit.Statement (.jmp d a) := fun _ h => lBit_some h lBit_cr
theorem LBit.ret (a : Reg6) : LBit.Statement (.ret a) := fun _ h => lBit_some h lBit_cr
theorem LBit.rptx : LBit.Statement (.rptx) := fun _ h => lBit_some h lBit_cr
theorem LBit.rpt (a lenm1 : Reg6) : LBit.Statement (.rpt a lenm1) := fun _ h => lBit_some h lBit_cr
theorem LBit.rptLone (lenm1 : Reg6) (cnt : W32) : LBit.Statement (.rptLone lenm1 cnt) := fun _ h => lBit_some h lBit_ln
theorem LBit.exit : LBit.Statement (.exit) := fun _ h => lBit_some h lBit_cr
theorem LBit.exitLone (code : W32) : LBit.Statement (.exitLone code) := fun _ h => lBit_some h lBit_ln
theorem LBit.yield (a : Reg6) : LBit.Statement (.yield a) := fun _ h => lBit_some h lBit_cr
theorem LBit.yieldLone (a : Reg6) (off : W32) : LBit.Statement (.yieldLone a off) := fun _ h => lBit_some h lBit_ln
theorem LBit.bkpt : LBit.Statement (.bkpt) := fun _ h => lBit_some h lBit_cr
theorem LBit.bkptLone (tag : W32) : LBit.Statement (.bkptLone tag) := fun _ h => lBit_some h lBit_ln
theorem LBit.passRidge (b : Reg6) (tmpl : BitVec 4) (off : W32) : LBit.Statement (.passRidge b tmpl off) := fun _ h => lBit_some h lBit_ln
theorem LBit.passSpur (tmpl : BitVec 4) (off : W32) : LBit.Statement (.passSpur tmpl off) := fun _ h => lBit_some h lBit_ln
theorem LBit.passFlush (tmpl : BitVec 4) (off : W32) : LBit.Statement (.passFlush tmpl off) := fun _ h => lBit_some h lBit_ln
theorem LBit.brv (m : BitVec 3) (b : Reg6) : LBit.Statement (.brv m b) := fun _ h => lBit_some h lBit_cr
theorem LBit.brvLone (m : BitVec 3) (off : W32) : LBit.Statement (.brvLone m off) := fun _ h => lBit_some h lBit_ln
theorem LBit.elsev (b : Reg6) : LBit.Statement (.elsev b) := fun _ h => lBit_some h lBit_cr
theorem LBit.elsevLone (off : W32) : LBit.Statement (.elsevLone off) := fun _ h => lBit_some h lBit_ln
theorem LBit.joinv (lone : Bool) : LBit.Statement (.joinv lone) := by
  cases lone
  · exact fun _ h => lBit_some h lBit_cr
  · exact fun _ h => lBit_some h lBit_ln
theorem LBit.waitr (d a : Reg6) : LBit.Statement (.waitr d a) := fun _ h => lBit_some h lBit_cr
theorem LBit.waitrLone (d : Reg6) (limit : W32) : LBit.Statement (.waitrLone d limit) := fun _ h => lBit_some h lBit_ln
theorem LBit.ld (m : MemOp) : LBit.Statement (.ld m) := fun _ h => lBit_some h lBit_mem
theorem LBit.st (m : MemOp) : LBit.Statement (.st m) := fun _ h => lBit_some h lBit_mem
theorem LBit.ldq (m : MemOp) : LBit.Statement (.ldq m) := fun _ h => lBit_some h lBit_mem
theorem LBit.lds (m : MemOp) : LBit.Statement (.lds m) := fun _ h => lBit_some h lBit_mem
theorem LBit.sts (m : MemOp) : LBit.Statement (.sts m) := fun _ h => lBit_some h lBit_mem
theorem LBit.lda (m : MemOp) : LBit.Statement (.lda m) := fun _ h => lBit_some h lBit_mem
theorem LBit.stl (m : MemOp) : LBit.Statement (.stl m) := fun _ h => lBit_some h lBit_mem
theorem LBit.ldsync (m : MemOp) : LBit.Statement (.ldsync m) := fun _ h => lBit_some h lBit_mem
theorem LBit.stf (m : MemOp) : LBit.Statement (.stf m) := fun _ h => lBit_some h lBit_mem
theorem LBit.memoryLoneForm (k : MemKind) (m : MemOp) (e : MemExt) : LBit.Statement (.memoryLoneForm k m e) := fun _ h => lBit_some h lBit_mem
theorem LBit.atom (m : MemOp) (e : MemExt) : LBit.Statement (.atom m e) := fun _ h => lBit_some h lBit_mem
theorem LBit.amsg (m : MemOp) (e : MemExt) : LBit.Statement (.amsg m e) := fun _ h => lBit_some h lBit_mem
theorem LBit.pf (m : MemOp) (e : Option MemExt) : LBit.Statement (.pf m e) := fun _ h => lBit_some h lBit_mem
theorem LBit.cwb (m : MemOp) (e : Option MemExt) : LBit.Statement (.cwb m e) := fun _ h => lBit_some h lBit_mem
theorem LBit.cinv (m : MemOp) (e : Option MemExt) : LBit.Statement (.cinv m e) := fun _ h => lBit_some h lBit_mem
theorem LBit.fence : LBit.Statement (.fence) := fun _ h => lBit_some h lBit_cr
theorem LBit.fenceSt : LBit.Statement (.fenceSt) := fun _ h => lBit_some h lBit_cr
theorem LBit.hist (m : MemOp) (e : Option MemExt) : LBit.Statement (.hist m e) := fun _ h => lBit_some h lBit_mem
theorem LBit.cpyj (d a : Reg6) : LBit.Statement (.cpyj d a) := fun _ h => lBit_some h lBit_cr
theorem LBit.cpyjLone (d a b : Reg6) (words : BitVec 28) : LBit.Statement (.cpyjLone d a b words) := fun _ h => lBit_some h lBit_ln
theorem LBit.cpyq (d a : Reg6) : LBit.Statement (.cpyq d a) := fun _ h => lBit_some h lBit_cr
theorem LBit.cpyw (d a : Reg6) : LBit.Statement (.cpyw d a) := fun _ h => lBit_some h lBit_cr
theorem LBit.gath (m : MemOp) (e : MemExt) : LBit.Statement (.gath m e) := fun _ h => lBit_some h lBit_mem
theorem LBit.scat (m : MemOp) (e : MemExt) : LBit.Statement (.scat m e) := fun _ h => lBit_some h lBit_mem
theorem LBit.tload (d a b : Reg6) (doff : W32) : LBit.Statement (.tload d a b doff) := fun _ h => lBit_some h lBit_ln
theorem LBit.send (d a b : Reg6) : LBit.Statement (.send d a b) := fun _ h => lBit_some h lBit_cr
theorem LBit.sendLone (d a b : Reg6) (nw : BitVec 3) : LBit.Statement (.sendLone d a b nw) := fun _ h => lBit_some h lBit_ln
theorem LBit.recv (d a b : Reg6) : LBit.Statement (.recv d a b) := fun _ h => lBit_some h lBit_cr
theorem LBit.mbw (d a b : Reg6) : LBit.Statement (.mbw d a b) := fun _ h => lBit_some h lBit_cr
theorem LBit.mbr (d a : Reg6) : LBit.Statement (.mbr d a) := fun _ h => lBit_some h lBit_cr
theorem LBit.acca (d : Reg6) (t : BitVec 4) (mode w : Bool) : LBit.Statement (.acca d t mode w) := fun _ h => lBit_some h lBit_cr
theorem LBit.accf (t : BitVec 4) : LBit.Statement (.accf t) := fun _ h => lBit_some h lBit_cr
theorem LBit.accz (t : BitVec 4) : LBit.Statement (.accz t) := fun _ h => lBit_some h lBit_cr
theorem LBit.accsv (t : BitVec 4) (b : Reg6) : LBit.Statement (.accsv t b) := fun _ h => lBit_some h lBit_cr
theorem LBit.accsvLone (t : BitVec 4) (b : Reg6) (spad : Bool) : LBit.Statement (.accsvLone t b spad) := fun _ h => lBit_some h lBit_ln
theorem LBit.accld (d : Reg6) (t : BitVec 4) (b : Reg6) : LBit.Statement (.accld d t b) := fun _ h => lBit_some h lBit_cr
theorem LBit.accldLone (d : Reg6) (t : BitVec 4) (b : Reg6) (spad : Bool) : LBit.Statement (.accldLone d t b spad) := fun _ h => lBit_some h lBit_ln
theorem LBit.bldq (ring : Bool) (quad : BitVec 2) (slot : BitVec 5) (b : Reg6) (x : BitVec 8) (e : Option MemExt) : LBit.Statement (.bldq ring quad slot b x e) := fun _ h => lBit_some h lBit_mem
theorem LBit.yset (y : BitVec 3) (a : Reg6) (pitch step : W16) : LBit.Statement (.yset y a pitch step) := fun _ h => lBit_some h lBit_ln
theorem LBit.cview (a b : Reg6) : LBit.Statement (.cview a b) := fun _ h => lBit_some h lBit_cr
theorem LBit.cviewLone (a : Reg6) (countm1 : BitVec 7) (vt : Bool) : LBit.Statement (.cviewLone a countm1 vt) := fun _ h => lBit_some h lBit_ln
theorem LBit.ctile (d b : Reg6) : LBit.Statement (.ctile d b) := fun _ h => lBit_some h lBit_cr
theorem LBit.csegLin (a b : Reg6) : LBit.Statement (.csegLin a b) := fun _ h => lBit_some h lBit_cr
theorem LBit.csegQuad (a b : Reg6) : LBit.Statement (.csegQuad a b) := fun _ h => lBit_some h lBit_cr
theorem LBit.csegCub (a b : Reg6) : LBit.Statement (.csegCub a b) := fun _ h => lBit_some h lBit_cr
theorem LBit.ctri (a b : Reg6) : LBit.Statement (.ctri a b) := fun _ h => lBit_some h lBit_cr
theorem LBit.ctriFrag (a b : Reg6) : LBit.Statement (.ctriFrag a b) := fun _ h => lBit_some h lBit_cr
theorem LBit.cfill (d a b : Reg6) : LBit.Statement (.cfill d a b) := fun _ h => lBit_some h lBit_cr
theorem LBit.cfillLone (d b : Reg6) (opts : BitVec 3) : LBit.Statement (.cfillLone d b opts) := fun _ h => lBit_some h lBit_ln
theorem LBit.cclose (d b : Reg6) : LBit.Statement (.cclose d b) := fun _ h => lBit_some h lBit_cr
theorem LBit.trace (d a b : Reg6) : LBit.Statement (.trace d a b) := fun _ h => lBit_some h lBit_cr
theorem LBit.traceRidge (tmpl pipe : BitVec 4) (off : W32) : LBit.Statement (.traceRidge tmpl pipe off) := fun _ h => lBit_some h lBit_ln
theorem LBit.tnext (d a : Reg6) : LBit.Statement (.tnext d a) := fun _ h => lBit_some h lBit_cr
theorem LBit.thit (d a b : Reg6) : LBit.Statement (.thit d a b) := fun _ h => lBit_some h lBit_cr
theorem LBit.tign (a : Reg6) : LBit.Statement (.tign a) := fun _ h => lBit_some h lBit_cr
theorem LBit.tterm (d a : Reg6) : LBit.Statement (.tterm d a) := fun _ h => lBit_some h lBit_cr
theorem LBit.repack (d : Reg6) (tmpl : BitVec 4) (off : W32) : LBit.Statement (.repack d tmpl off) := fun _ h => lBit_some h lBit_ln
theorem LBit.bar (n : BitVec 4) (b : Reg6) : LBit.Statement (.bar n b) := fun _ h => lBit_some h lBit_cr
theorem LBit.barLone (n : BitVec 4) (cnt : W32) : LBit.Statement (.barLone n cnt) := fun _ h => lBit_some h lBit_ln
theorem LBit.bara (d : Reg6) (n : BitVec 4) (b : Reg6) : LBit.Statement (.bara d n b) := fun _ h => lBit_some h lBit_cr
theorem LBit.baraLone (d : Reg6) (n : BitVec 4) (cnt : W32) : LBit.Statement (.baraLone d n cnt) := fun _ h => lBit_some h lBit_ln
theorem LBit.barw (n : BitVec 4) (b : Reg6) : LBit.Statement (.barw n b) := fun _ h => lBit_some h lBit_cr
theorem LBit.launch (d a : Reg6) : LBit.Statement (.launch d a) := fun _ h => lBit_some h lBit_cr
theorem LBit.lwait (d a : Reg6) : LBit.Statement (.lwait d a) := fun _ h => lBit_some h lBit_cr
theorem LBit.lwaitLone (d a : Reg6) (limit : W32) : LBit.Statement (.lwaitLone d a limit) := fun _ h => lBit_some h lBit_ln
theorem LBit.rangeSet (a : Reg6) : LBit.Statement (.rangeSet a) := fun _ h => lBit_some h lBit_cr
theorem LBit.rangeNext (d b : Reg6) : LBit.Statement (.rangeNext d b) := fun _ h => lBit_some h lBit_cr
theorem LBit.rangeNextLone (d : Reg6) (cnt : W32) : LBit.Statement (.rangeNextLone d cnt) := fun _ h => lBit_some h lBit_ln
theorem LBit.steal (d b : Reg6) : LBit.Statement (.steal d b) := fun _ h => lBit_some h lBit_cr
theorem LBit.stealLone (d : Reg6) (probes : BitVec 8) : LBit.Statement (.stealLone d probes) := fun _ h => lBit_some h lBit_ln
theorem LBit.rangeGet (d : Reg6) : LBit.Statement (.rangeGet d) := fun _ h => lBit_some h lBit_cr
theorem LBit.task (d a b : Reg6) : LBit.Statement (.task d a b) := fun _ h => lBit_some h lBit_cr
theorem LBit.tend (a : Reg6) : LBit.Statement (.tend a) := fun _ h => lBit_some h lBit_cr
theorem LBit.sleep (d a b : Reg6) : LBit.Statement (.sleep d a b) := fun _ h => lBit_some h lBit_cr
theorem LBit.sleepLone (d a b : Reg6) (limit : W32) : LBit.Statement (.sleepLone d a b limit) := fun _ h => lBit_some h lBit_ln
theorem LBit.wake (d a b : Reg6) : LBit.Statement (.wake d a b) := fun _ h => lBit_some h lBit_cr
theorem LBit.wakeLone (d a : Reg6) (cnt : W32) : LBit.Statement (.wakeLone d a cnt) := fun _ h => lBit_some h lBit_ln
theorem LBit.prio (d a : Reg6) : LBit.Statement (.prio d a) := fun _ h => lBit_some h lBit_cr
theorem LBit.prioLone (d : Reg6) (level : BitVec 2) : LBit.Statement (.prioLone d level) := fun _ h => lBit_some h lBit_ln
theorem LBit.trap : LBit.Statement (.trap) := fun _ h => lBit_some h lBit_cr
theorem LBit.trapLone (code : W32) : LBit.Statement (.trapLone code) := fun _ h => lBit_some h lBit_ln
theorem LBit.svc : LBit.Statement (.svc) := fun _ h => lBit_some h lBit_cr
theorem LBit.svcLone (num : W32) : LBit.Statement (.svcLone num) := fun _ h => lBit_some h lBit_ln
theorem LBit.sret : LBit.Statement (.sret) := fun _ h => lBit_some h lBit_cr
theorem LBit.eret (lone : Bool) (a : Reg6) : LBit.Statement (.eret lone a) := by
  cases lone
  · exact fun _ h => lBit_some h lBit_cr
  · exact fun _ h => lBit_some h lBit_ln
theorem LBit.eretRedirect (a b : Reg6) : LBit.Statement (.eretRedirect a b) := fun _ h => lBit_some h lBit_ln
theorem LBit.eretKill (a : Reg6) : LBit.Statement (.eretKill a) := fun _ h => lBit_some h lBit_ln
theorem LBit.crd (d : Reg6) (num : BitVec 12) : LBit.Statement (.crd d num) := fun _ h => lBit_some h lBit_ci
theorem LBit.cwr (a : Reg6) (num : BitVec 12) : LBit.Statement (.cwr a num) := fun _ h => lBit_some h lBit_ci
theorem LBit.tlbw (d a b : Reg6) (req : W16) (size : BitVec 2) : LBit.Statement (.tlbw d a b req size) := fun _ h => lBit_some h lBit_ln
theorem LBit.tlbiPage (d a : Reg6) : LBit.Statement (.tlbiPage d a) := fun _ h => lBit_some h lBit_ln
theorem LBit.tlbiCtx (d a : Reg6) : LBit.Statement (.tlbiCtx d a) := fun _ h => lBit_some h lBit_ln
theorem LBit.tlbiFunc (d a : Reg6) : LBit.Statement (.tlbiFunc d a) := fun _ h => lBit_some h lBit_ln
theorem LBit.gstop (lone : Bool) (d a : Reg6) : LBit.Statement (.gstop lone d a) := by
  cases lone
  · exact fun _ h => lBit_some h lBit_cr
  · exact fun _ h => lBit_some h lBit_ln
theorem LBit.gstopGo (d a : Reg6) : LBit.Statement (.gstopGo d a) := fun _ h => lBit_some h lBit_ln
theorem LBit.pmr (d a b : Reg6) : LBit.Statement (.pmr d a b) := fun _ h => lBit_some h lBit_cr
theorem LBit.tsr (d : Reg6) : LBit.Statement (.tsr d) := fun _ h => lBit_some h lBit_cr
theorem LBit.wfi (d : Reg6) : LBit.Statement (.wfi d) := fun _ h => lBit_some h lBit_cr
theorem LBit.wfiLone (d : Reg6) (limit : W32) : LBit.Statement (.wfiLone d limit) := fun _ h => lBit_some h lBit_ln
theorem LBit.vadd (f : AForm) : LBit.Statement (.vadd f) := lBit_form (f := f) (by cases f <;> rfl)
theorem LBit.vsub (f : AForm) : LBit.Statement (.vsub f) := lBit_form (f := f) (by cases f <;> rfl)
theorem LBit.vmul (f : AForm) : LBit.Statement (.vmul f) := lBit_form (f := f) (by cases f <;> rfl)
theorem LBit.vmulh (f : AForm) : LBit.Statement (.vmulh f) := lBit_form (f := f) (by cases f <;> rfl)
theorem LBit.vmad (f : AForm) : LBit.Statement (.vmad f) := lBit_form (f := f) (by cases f <;> rfl)
theorem LBit.vmin (f : AForm) : LBit.Statement (.vmin f) := lBit_form (f := f) (by cases f <;> rfl)
theorem LBit.vmax (f : AForm) : LBit.Statement (.vmax f) := lBit_form (f := f) (by cases f <;> rfl)
theorem LBit.vand (f : AForm) : LBit.Statement (.vand f) := lBit_form (f := f) (by cases f <;> rfl)
theorem LBit.vor (f : AForm) : LBit.Statement (.vor f) := lBit_form (f := f) (by cases f <;> rfl)
theorem LBit.vxor (f : AForm) : LBit.Statement (.vxor f) := lBit_form (f := f) (by cases f <;> rfl)
theorem LBit.vshl (f : AForm) : LBit.Statement (.vshl f) := lBit_form (f := f) (by cases f <;> rfl)
theorem LBit.vshr (f : AForm) : LBit.Statement (.vshr f) := lBit_form (f := f) (by cases f <;> rfl)
theorem LBit.vsra (f : AForm) : LBit.Statement (.vsra f) := lBit_form (f := f) (by cases f <;> rfl)
theorem LBit.vpopc (f : AForm) : LBit.Statement (.vpopc f) := lBit_form (f := f) (by cases f <;> rfl)
theorem LBit.vclz (f : AForm) : LBit.Statement (.vclz f) := lBit_form (f := f) (by cases f <;> rfl)
theorem LBit.vbrev (f : AForm) : LBit.Statement (.vbrev f) := lBit_form (f := f) (by cases f <;> rfl)
theorem LBit.vsel (f : LA) : LBit.Statement (.vsel f) := lBit_form (f := .l f) rfl
theorem LBit.vcmp (f : LA) : LBit.Statement (.vcmp f) := lBit_form (f := .l f) rfl
theorem LBit.vmov (f : AForm) : LBit.Statement (.vmov f) := lBit_form (f := f) (by cases f <;> rfl)
theorem LBit.vmovk (f : AForm) : LBit.Statement (.vmovk f) := lBit_form (f := f) (by cases f <;> rfl)
theorem LBit.fadd (f : AForm) : LBit.Statement (.fadd f) := lBit_form (f := f) (by cases f <;> rfl)
theorem LBit.fsub (f : AForm) : LBit.Statement (.fsub f) := lBit_form (f := f) (by cases f <;> rfl)
theorem LBit.fmul (f : AForm) : LBit.Statement (.fmul f) := lBit_form (f := f) (by cases f <;> rfl)
theorem LBit.ffma (f : LA) : LBit.Statement (.ffma f) := lBit_form (f := .l f) rfl
theorem LBit.fmin (f : AForm) : LBit.Statement (.fmin f) := lBit_form (f := f) (by cases f <;> rfl)
theorem LBit.fmax (f : AForm) : LBit.Statement (.fmax f) := lBit_form (f := f) (by cases f <;> rfl)
theorem LBit.fcmp (f : LA) : LBit.Statement (.fcmp f) := lBit_form (f := .l f) rfl
theorem LBit.fclass (f : AForm) : LBit.Statement (.fclass f) := lBit_form (f := f) (by cases f <;> rfl)
theorem LBit.frcp (f : AForm) : LBit.Statement (.frcp f) := lBit_form (f := f) (by cases f <;> rfl)
theorem LBit.frsq (f : AForm) : LBit.Statement (.frsq f) := lBit_form (f := f) (by cases f <;> rfl)
theorem LBit.fsqrt (f : AForm) : LBit.Statement (.fsqrt f) := lBit_form (f := f) (by cases f <;> rfl)
theorem LBit.fexp2 (f : AForm) : LBit.Statement (.fexp2 f) := lBit_form (f := f) (by cases f <;> rfl)
theorem LBit.flog2 (f : AForm) : LBit.Statement (.flog2 f) := lBit_form (f := f) (by cases f <;> rfl)
theorem LBit.fsin (f : AForm) : LBit.Statement (.fsin f) := lBit_form (f := f) (by cases f <;> rfl)
theorem LBit.fcos (f : AForm) : LBit.Statement (.fcos f) := lBit_form (f := f) (by cases f <;> rfl)
theorem LBit.ftanh (f : AForm) : LBit.Statement (.ftanh f) := lBit_form (f := f) (by cases f <;> rfl)
theorem LBit.dot2 (f : AForm) : LBit.Statement (.dot2 f) := lBit_form (f := f) (by cases f <;> rfl)
theorem LBit.dot4 (f : AForm) : LBit.Statement (.dot4 f) := lBit_form (f := f) (by cases f <;> rfl)
theorem LBit.dot8 (f : AForm) : LBit.Statement (.dot8 f) := lBit_form (f := f) (by cases f <;> rfl)
theorem LBit.shfl (f : AForm) : LBit.Statement (.shfl f) := lBit_form (f := f) (by cases f <;> rfl)
theorem LBit.shflx (f : AForm) : LBit.Statement (.shflx f) := lBit_form (f := f) (by cases f <;> rfl)
theorem LBit.bcst (f : AForm) : LBit.Statement (.bcst f) := lBit_form (f := f) (by cases f <;> rfl)
theorem LBit.scan (f : AForm) : LBit.Statement (.scan f) := lBit_form (f := f) (by cases f <;> rfl)
theorem LBit.redu (f : AForm) : LBit.Statement (.redu f) := lBit_form (f := f) (by cases f <;> rfl)
theorem LBit.vote (f : AForm) : LBit.Statement (.vote f) := lBit_form (f := f) (by cases f <;> rfl)
theorem LBit.mand (f : AForm) : LBit.Statement (.mand f) := lBit_form (f := f) (by cases f <;> rfl)
theorem LBit.mor (f : AForm) : LBit.Statement (.mor f) := lBit_form (f := f) (by cases f <;> rfl)
theorem LBit.mxor (f : AForm) : LBit.Statement (.mxor f) := lBit_form (f := f) (by cases f <;> rfl)
theorem LBit.mnot (f : AForm) : LBit.Statement (.mnot f) := lBit_form (f := f) (by cases f <;> rfl)
theorem LBit.mpopc (f : AForm) : LBit.Statement (.mpopc f) := lBit_form (f := f) (by cases f <;> rfl)
theorem LBit.mfind (f : AForm) : LBit.Statement (.mfind f) := lBit_form (f := f) (by cases f <;> rfl)
theorem LBit.phlx (f : AForm) : LBit.Statement (.phlx f) := lBit_form (f := f) (by cases f <;> rfl)
theorem LBit.cvt (f : LA) : LBit.Statement (.cvt f) := lBit_form (f := .l f) rfl
theorem LBit.cvtsc (f : LA) : LBit.Statement (.cvtsc f) := lBit_form (f := .l f) rfl
theorem LBit.pack (f : LA) : LBit.Statement (.pack f) := lBit_form (f := .l f) rfl
theorem LBit.unpack (f : LA) : LBit.Statement (.unpack f) := lBit_form (f := .l f) rfl
theorem LBit.mma (d a b : BitVec 8) (kb : Bool) : LBit.Statement (.mma d a b kb) := fun _ h => lBit_some h trivial
theorem LBit.mmas (d a b : BitVec 8) (kb : Bool) : LBit.Statement (.mmas d a b kb) := fun _ h => lBit_some h trivial
theorem LBit.mmax (d a b : BitVec 8) (kb : Bool) : LBit.Statement (.mmax d a b kb) := fun _ h => lBit_some h trivial
theorem LBit.mmaLone (k : MmaKind) (f : LA) : LBit.Statement (.mmaLone k f) := by cases k <;> exact lBit_form (f := .l f) rfl
theorem LBit.accrd (f : AForm) : LBit.Statement (.accrd f) := lBit_form (f := f) (by cases f <;> rfl)
theorem LBit.accwr (f : AForm) : LBit.Statement (.accwr f) := lBit_form (f := f) (by cases f <;> rfl)
theorem LBit.keyx (f : AForm) : LBit.Statement (.keyx f) := lBit_form (f := f) (by cases f <;> rfl)
theorem LBit.digit (f : AForm) : LBit.Statement (.digit f) := lBit_form (f := f) (by cases f <;> rfl)
theorem LBit.matchEq (f : AForm) : LBit.Statement (.matchEq f) := lBit_form (f := f) (by cases f <;> rfl)
theorem LBit.rank (f : AForm) : LBit.Statement (.rank f) := lBit_form (f := f) (by cases f <;> rfl)
theorem LBit.cmpx (f : AForm) : LBit.Statement (.cmpx f) := lBit_form (f := f) (by cases f <;> rfl)
theorem LBit.expd (f : AForm) : LBit.Statement (.expd f) := lBit_form (f := f) (by cases f <;> rfl)
theorem LBit.bmrg (f : AForm) : LBit.Statement (.bmrg f) := lBit_form (f := f) (by cases f <;> rfl)
theorem LBit.isect (f : AForm) : LBit.Statement (.isect f) := lBit_form (f := f) (by cases f <;> rfl)
theorem LBit.interp (f : AForm) : LBit.Statement (.interp f) := lBit_form (f := f) (by cases f <;> rfl)
theorem LBit.waitrTimeout (w : Nat) : LBit.Statement (.waitrTimeout w) := fun _ h => nomatch h
theorem LBit.serviceGroupReturn (w : Nat) (lane : Nat) : LBit.Statement (.serviceGroupReturn w lane) := fun _ h => nomatch h
theorem LBit.memoryAnswer (acc lane : Nat) : LBit.Statement (.memoryAnswer acc lane) := fun _ h => nomatch h
theorem LBit.ldsyncRetry (acc lane : Nat) : LBit.Statement (.ldsyncRetry acc lane) := fun _ h => nomatch h
theorem LBit.copyJobStart (engine : Nat) : LBit.Statement (.copyJobStart engine) := fun _ h => nomatch h
theorem LBit.copyJobCompletion (job : Nat) : LBit.Statement (.copyJobCompletion job) := fun _ h => nomatch h
theorem LBit.copyJobFaultResume (job : Nat) : LBit.Statement (.copyJobFaultResume job) := fun _ h => nomatch h
theorem LBit.messageArrival (msg : Nat) : LBit.Statement (.messageArrival msg) := fun _ h => nomatch h
theorem LBit.overflowMove (pos : Nat) : LBit.Statement (.overflowMove pos) := fun _ h => nomatch h
theorem LBit.taskStart (pos slot : Nat) : LBit.Statement (.taskStart pos slot) := fun _ h => nomatch h
theorem LBit.contourMessage (msg : Nat) : LBit.Statement (.contourMessage msg) := fun _ h => nomatch h
theorem LBit.contourResolve (msg : Nat) : LBit.Statement (.contourResolve msg) := fun _ h => nomatch h
theorem LBit.lwaitRecheck (u : UnitId) : LBit.Statement (.lwaitRecheck u) := fun _ h => nomatch h
theorem LBit.launchqGrant (die : Nat) : LBit.Statement (.launchqGrant die) := fun _ h => nomatch h
theorem LBit.sleepTimeout (u : UnitId) : LBit.Statement (.sleepTimeout u) := fun _ h => nomatch h
theorem LBit.wfiWake (u : Nat) : LBit.Statement (.wfiWake u) := fun _ h => nomatch h
theorem LBit.matrixStep (w : Nat) : LBit.Statement (.matrixStep w) := fun _ h => nomatch h
theorem LBit.queueDeadlock (w : Nat) : LBit.Statement (.queueDeadlock w) := fun _ h => nomatch h
theorem LBit.bundleFetch (u : UnitId) : LBit.Statement (.bundleFetch u) := fun _ h => nomatch h
theorem LBit.inboxSlotGrant (pos : Nat) : LBit.Statement (.inboxSlotGrant pos) := fun _ h => nomatch h
theorem LBit.binTimeout (vale bin : Nat) : LBit.Statement (.binTimeout vale bin) := fun _ h => nomatch h
theorem LBit.wavePlacement (vale bin : Nat) : LBit.Statement (.wavePlacement vale bin) := fun _ h => nomatch h
theorem LBit.threadReturn (u : Nat) : LBit.Statement (.threadReturn u) := fun _ h => nomatch h
theorem LBit.trapDelivery (vale : Nat) : LBit.Statement (.trapDelivery vale) := fun _ h => nomatch h
theorem LBit.translationMiss (acc lane : Nat) : LBit.Statement (.translationMiss acc lane) := fun _ h => nomatch h
theorem LBit.faultMessageRetry (entry : Nat) : LBit.Statement (.faultMessageRetry entry) := fun _ h => nomatch h
theorem LBit.parkWaitEnd (u : UnitId) : LBit.Statement (.parkWaitEnd u) := fun _ h => nomatch h
theorem LBit.parklimExpiry (blk : Nat) : LBit.Statement (.parklimExpiry blk) := fun _ h => nomatch h
theorem LBit.blockSwapOut (blk : Nat) : LBit.Statement (.blockSwapOut blk) := fun _ h => nomatch h
theorem LBit.swapImageComplete (blk : Nat) : LBit.Statement (.swapImageComplete blk) := fun _ h => nomatch h
theorem LBit.blockReadmission (blk : Nat) : LBit.Statement (.blockReadmission blk) := fun _ h => nomatch h
theorem LBit.blockAdmission (die : Nat) : LBit.Statement (.blockAdmission die) := fun _ h => nomatch h
theorem LBit.bypassLimit (die : Nat) : LBit.Statement (.bypassLimit die) := fun _ h => nomatch h
theorem LBit.gridReady (g : Nat) : LBit.Statement (.gridReady g) := fun _ h => nomatch h
theorem LBit.dependencePoll (g : Nat) : LBit.Statement (.dependencePoll g) := fun _ h => nomatch h
theorem LBit.gridRetire (g : Nat) : LBit.Statement (.gridRetire g) := fun _ h => nomatch h
theorem LBit.valeOffline (vale : Nat) : LBit.Statement (.valeOffline vale) := fun _ h => nomatch h
theorem LBit.powerGate (eng : Nat) : LBit.Statement (.powerGate eng) := fun _ h => nomatch h
theorem LBit.snoop (eng ctx : Nat) (va : W64) : LBit.Statement (.snoop eng ctx va) := fun _ h => nomatch h
theorem LBit.operatingPointChange (aMHz fMHz : Nat) : LBit.Statement (.operatingPointChange aMHz fMHz) := fun _ h => nomatch h
theorem LBit.powerLimitExceeded : LBit.Statement (.powerLimitExceeded) := fun _ h => nomatch h
theorem LBit.heartbeat (pos : Nat) : LBit.Statement (.heartbeat pos) := fun _ h => nomatch h
theorem LBit.positionDead (pos : Nat) : LBit.Statement (.positionDead pos) := fun _ h => nomatch h
theorem LBit.hbmScrub (stack : Nat) : LBit.Statement (.hbmScrub stack) := fun _ h => nomatch h
theorem LBit.cmapWrite (vale : Nat) (val : W64) : LBit.Statement (.cmapWrite vale val) := fun _ h => nomatch h
theorem LBit.positionAbsent (pos : Nat) : LBit.Statement (.positionAbsent pos) := fun _ h => nomatch h
theorem LBit.ctxctlLoad (ctx : Nat) : LBit.Statement (.ctxctlLoad ctx) := fun _ h => nomatch h
theorem LBit.ctxctlTeardown (ctx : Nat) : LBit.Statement (.ctxctlTeardown ctx) := fun _ h => nomatch h
theorem LBit.tdwaitTimeout (ctx : Nat) : LBit.Statement (.tdwaitTimeout ctx) := fun _ h => nomatch h
theorem LBit.lateTraffic (write : Bool) (fn src : Nat) (addr : W64) : LBit.Statement (.lateTraffic write fn src addr) := fun _ h => nomatch h
theorem LBit.worldSwitch (die : Nat) (val : W64) : LBit.Statement (.worldSwitch die val) := fun _ h => nomatch h
theorem LBit.trplWrite (vale n : Nat) (val : W64) : LBit.Statement (.trplWrite vale n val) := fun _ h => nomatch h
theorem LBit.pmselWrite (vale n : Nat) (val : W64) : LBit.Statement (.pmselWrite vale n val) := fun _ h => nomatch h
theorem LBit.counterOverflow (vale n : Nat) : LBit.Statement (.counterOverflow vale n) := fun _ h => nomatch h
theorem LBit.inboxOverflowWrite (pos : Nat) (size : Bool) (val : W64) : LBit.Statement (.inboxOverflowWrite pos size val) := fun _ h => nomatch h
theorem LBit.registerWrite (space : RegSpace) (num : Nat) (val : W64) : LBit.Statement (.registerWrite space num val) := fun _ h => nomatch h
theorem LBit.submit (fn page offset : Nat) (words : List W64) : LBit.Statement (.submit fn page offset words) := fun _ h => nomatch h
theorem LBit.submitPostedWrite (fn page : Nat) : LBit.Statement (.submitPostedWrite fn page) := fun _ h => nomatch h
theorem LBit.workRecordLaunch (fn page : Nat) : LBit.Statement (.workRecordLaunch fn page) := fun _ h => nomatch h
theorem LBit.completionWrite (fn page : Nat) : LBit.Statement (.completionWrite fn page) := fun _ h => nomatch h
theorem LBit.crheadWrite (fn page : Nat) (val : W32) : LBit.Statement (.crheadWrite fn page val) := fun _ h => nomatch h
theorem LBit.crbaseWrite (fn page : Nat) (val : W64) : LBit.Statement (.crbaseWrite fn page val) := fun _ h => nomatch h
theorem LBit.functionLevelReset (fn : Nat) : LBit.Statement (.functionLevelReset fn) := fun _ h => nomatch h
theorem LBit.hostCxlAccess (fn : Nat) (op : RemoteOp) (va : W64) : LBit.Statement (.hostCxlAccess fn op va) := fun _ h => nomatch h
theorem LBit.hfwaitExpiry (req : Nat) : LBit.Statement (.hfwaitExpiry req) := fun _ h => nomatch h
theorem LBit.peerRequest (port : Nat) (op : RemoteOp) (va : W64) : LBit.Statement (.peerRequest port op va) := fun _ h => nomatch h
theorem LBit.linkLaneRepair (die port : Nat) : LBit.Statement (.linkLaneRepair die port) := fun _ h => nomatch h
theorem LBit.linkRetrainFailure (die port : Nat) : LBit.Statement (.linkRetrainFailure die port) := fun _ h => nomatch h
theorem LBit.errorLogEntry (cause src fn sev : Nat) (addr detail : W64) : LBit.Statement (.errorLogEntry cause src fn sev addr detail) := fun _ h => nomatch h
theorem LBit.eltailWrite (fn : Nat) (val : W32) : LBit.Statement (.eltailWrite fn val) := fun _ h => nomatch h
theorem LBit.fatalHalt (reason src : Nat) : LBit.Statement (.fatalHalt reason src) := fun _ h => nomatch h
theorem LBit.coldReset : LBit.Statement (.coldReset) := fun _ h => nomatch h
theorem LBit.admgo : LBit.Statement (.admgo) := fun _ h => nomatch h
theorem LBit.attestationRequest (fn : Nat) (nonce : List Byte) : LBit.Statement (.attestationRequest fn nonce) := fun _ h => nomatch h
theorem LBit.engineWrite (job word : Nat) : LBit.Statement (.engineWrite job word) := fun _ h => nomatch h
theorem LBit.pointOfPerformance (acc lane : Nat) : LBit.Statement (.pointOfPerformance acc lane) := fun _ h => nomatch h
theorem LBit.warmReset : LBit.Statement (.warmReset) := fun _ h => nomatch h
theorem LBit.stealRequest (req : Nat) : LBit.Statement (.stealRequest req) := fun _ h => nomatch h
theorem LBit.tileOpen (req : Nat) : LBit.Statement (.tileOpen req) := fun _ h => nomatch h
theorem LBit.tileClose (req : Nat) : LBit.Statement (.tileClose req) := fun _ h => nomatch h
theorem LBit.viewTableUpdate (req : Nat) : LBit.Statement (.viewTableUpdate req) := fun _ h => nomatch h
theorem LBit.forwardedCompletion (acc lane : Nat) : LBit.Statement (.forwardedCompletion acc lane) := fun _ h => nomatch h

end Sys2Proof.Laws
end

