-- ==== Sys2Proof/Tests/Slice0.lean ====
section
/-! SUPPORT. The model's own tests: ill-formed terms that WellFormed refuses, words of the spec's worked examples and what they decode to, results
of single steps against values worked out from the rules, and, for every statement with hypotheses, a state and operands that meet them
(witness_<statement>). -/

set_option Elab.async false

namespace Sys2Proof.Tests

open Sys2Proof Sys2Proof.Machine

/-! ## Small states -/

/-- A spur thread in slot 0 of position 3, with s1 = 5, s2 = −1, s3 = 0x20000, s4 = 0x30010. -/
def th : Thread :=
  { loc := .slot 3 0, home := some (3, 0), tid := 0x0030000000000001, pc := 0x10000
    regs := ((((Vector.replicate 16 0).set 1 5).set 2 0xFFFFFFFFFFFFFFFF).set 3 0x20000).set 4 0x30010 }
def tU : UnitId := .thread 1
/-- A page of 64 KiB, mapped with every permission, in every cache. -/
def page (va pa : Nat) : TcEntry := { cache := none, ctx := 0, gen := 0, va := va, size := 16, entry := openEntry pa }
/-- The machine with that thread alone, and two mapped pages. -/
def tS : State :=
  { State.reset with
    cur := some tU, threads := [(1, th)], ctxs := [(0, { loaded := true })], tcs := [page 0x20000 0x20000, page 0x30000 0x30000], fresh := 10 }

/-- A wave of 64 lanes, with k1 = 5, k2 = −1, k3 = 0x20000, m1 = 0xF, and lane l of v1 and v2 holding l. -/
def wv : Wave :=
  { nv := 64, apc := 0x10000, exec := BitVec.allOnes 64, live := BitVec.allOnes 64
    k := ((((Vector.replicate 64 0).set 1 5).set 2 0xFFFFFFFFFFFFFFFF).set 3 0x20000).set 4 0x30010
    m := (Vector.replicate 8 0).set 1 0xF
    v := [(1, Lanes.gen (fun l => BitVec.ofNat 32 l)), (2, Lanes.gen (fun l => BitVec.ofNat 32 l))] }
def wU : UnitId := .wave 1
def wS : State :=
  { State.reset with
    cur := some wU, waves := [(1, wv)], ctxs := [(0, { loaded := true })], tcs := [page 0x20000 0x20000, page 0x30000 0x30000], fresh := 10 }

theorem alone_thread {s : State} {t : Nat}
    (h : s.cur = some (.thread t) ∧ s.ready (.thread t) = true ∧ (s.com (.thread t)).wait = .none ∧ (s.com (.thread t)).frec = [] ∧
      s.accessesOf (.thread t) = [] ∧ (s.com (.thread t)).after = none ∧ (s.com (.thread t)).fences = [] ∧
      (s.com (.thread t)).stepping = false) : Alone s (.thread t) :=
  ⟨h.1, h.2.1, h.2.2.1, h.2.2.2.1, h.2.2.2.2.1, h.2.2.2.2.2.1, h.2.2.2.2.2.2.1, h.2.2.2.2.2.2.2, fun _ e => UnitId.noConfusion e⟩

theorem alone_wave {s : State} {w : Nat}
    (h : s.cur = some (.wave w) ∧ s.ready (.wave w) = true ∧ (s.com (.wave w)).wait = .none ∧ (s.com (.wave w)).frec = [] ∧
      s.accessesOf (.wave w) = [] ∧ (s.com (.wave w)).after = none ∧ (s.com (.wave w)).fences = [] ∧ (s.com (.wave w)).stepping = false ∧
      (s.wave w).lead = []) : Alone s (.wave w) :=
  ⟨h.1, h.2.1, h.2.2.1, h.2.2.2.1, h.2.2.2.2.1, h.2.2.2.2.2.1, h.2.2.2.2.2.2.1, h.2.2.2.2.2.2.2.1,
    fun _ e => by injection e with e; subst e; exact h.2.2.2.2.2.2.2.2⟩

/-- A read that succeeds, and what it gives. -/
def okTest {ε α β : Type} (e : Except ε (α × β)) (p : α → β → Bool) : Bool :=
  match e with
  | .ok x => p x.1 x.2
  | .error _ => false
theorem ok_of {ε α β : Type} {e : Except ε (α × β)} (p : α → β → Prop) [∀ a b, Decidable (p a b)]
    (h : okTest e (fun a b => decide (p a b)) = true) : ∃ a b, e = .ok (a, b) ∧ p a b := by
  cases e with
  | error _ => cases h
  | ok x => exact ⟨x.1, x.2, rfl, of_decide_eq_true h⟩

/-- A value that is there. -/
theorem some_of {α : Type} {e : Option α} (p : α → Prop) [∀ a, Decidable (p a)]
    (h : (match e with | some x => decide (p x) | none => false) = true) : ∃ a, e = some a ∧ p a := by
  cases e with
  | none => cases h
  | some x => exact ⟨x, rfl, of_decide_eq_true h⟩

/-- A holding access that is answered at once. -/
theorem answers_of {s : State} {a : Access}
    (h : (match (s.issue a).2.access (s.issue a).1 with | some b => b.complete && !b.failed | none => false) = true) :
    Spec.answersAtOnce s a := by
  refine .inr ?_
  revert h
  generalize (s.issue a).2.access (s.issue a).1 = e
  intro h
  cases e with
  | none => cases h
  | some b => simp only [Bool.and_eq_true, Bool.not_eq_true'] at h; exact ⟨b, rfl, h.1, h.2⟩

theorem tS_alone : Alone tS tU := alone_thread (by decide)
theorem wS_alone : Alone wS wU := alone_wave (by decide)
theorem tS_aloneA : AloneA tS tU := ⟨rfl, rfl, rfl, rfl⟩
theorem wS_aloneA : AloneA wS wU := ⟨rfl, rfl, rfl, rfl⟩

/-! ## WellFormed: one ill-formed term for each check (R49, R85, R203, R208, R216, R219, R220, R253, R290) -/

def mem1 : MemOp := { d := 4, b := 2, x := 1, sz := 2, dk := false }
def ext1 : MemExt := { xs := false, msel := 0, md := 0, off := 0 }

theorem wf_sel_has_no_32_bit_form : Instr.wf false (.aluImmediateLone .sel 3 4 true 1) = false := by decide
theorem wf_thread_single_access : Instr.wf false (.ld { mem1 with dk := true }) = false := by decide
theorem wf_lone_mod_bits : Instr.wf true (.memoryLoneForm .ld mem1 { ext1 with md := 0x80 }) = false := by decide
theorem wf_atomic_width : Instr.wf true (.atom { mem1 with sz := 0 } ext1) = false := by decide
theorem wf_active_message_width : Instr.wf true (.amsg { mem1 with sz := 1 } ext1) = false := by decide
theorem wf_prefetch_d : Instr.wf true (.pf { mem1 with d := 1 } none) = false := by decide
theorem wf_writeback_d : Instr.wf true (.cwb { mem1 with d := 0 } none) = false := by decide
theorem wf_invalidate_d : Instr.wf true (.cinv { mem1 with d := 0 } none) = false := by decide
theorem wf_histogram_mod : Instr.wf true (.hist mem1 (some { ext1 with md := 0x10 })) = false := by decide
theorem wf_gather_scratchpad_on_a_core : Instr.wf false (.gath mem1 { ext1 with md := 1 }) = false := by decide
theorem wf_bldq_ring_slot : Instr.wf true (.bldq true 0 3 2 0 none) = false := by decide
theorem wf_lane_selector : Instr.wf true (.vpopc (.p 4 1 1 false false)) = false := by decide
def la1 : LA :=
  { d := 4, a := 1, b := 2, c := 0, kb := false, ka := false, kc := false, kd := false
    ty := 8, rm := 0, sat := false, msel := 0, md := 0 }
theorem wf_lane_type : Instr.wf true (.fadd (.l la1)) = false := by decide
theorem wf_accepts : Instr.wf true (.ld mem1) = true ∧ Instr.wf false (.add 3 4 5 true) = true ∧ Instr.wf false (.exitLone 4) = true := by decide

/-! ## Words of the spec and what they decode to (R43 to R54 and the class chapters) -/

theorem word_scalar : decodeC false 0x02180201 0 = some (.sub 3 0 4 false, false) ∧ decodeC false 0x08330740 0 = some (.li 6 0x30740, false) := by
  decide
theorem word_control : decodeC false 0x1A000000 0 = some (.exit, false) ∧ decodeC false 0x9A000000 4 = some (.exitLone 4, false) := by decide
theorem word_memory :
    decodeC true 0x2008100C 0 = some (.ld mem1, false) ∧ decodeC false 0x38000001 0 = some (.fenceSt, false) ∧
    decodeC true 0xB20A100C 0 = some (.atom { d := 5, b := 2, x := 1, sz := 2, dk := false } ext1, false) := by decide
theorem word_lone_load :
    decodeC true 0xA00A0807 0x10 = some (.memoryLoneForm .ld { d := 5, b := 1, x := 0, sz := 3, dk := true } { ext1 with off := 0x10 }, false) := by
  decide
theorem word_copy : decodeC false 0x3C288002 0 = some (.cpyw 5 4, false) ∧ decodeC false 0xBC204180 0x1000 = some (.cpyjLone 4 2 3 0x1000, false) := by
  decide
theorem word_message : decodeC false 0xC428C380 3 = some (.sendLone 5 6 7 3, false) := by decide
theorem word_matrix :
    decodeC true 0x46204100 0 = some (.acca 4 2 false true, false) ∧ decodeA true 0xAD888000 = some (.mma 0x62 0x20 0 false, false) := by decide
theorem word_contour : decodeC false 0x4C008105 0 = some (.csegLin 4 2, false) ∧ decodeC false 0x4C00C106 0 = some (.csegQuad 6 2, false) := by decide
theorem word_ray :
    decodeC false 0x4E204180 0 = some (.trace 4 2 3, false) ∧ decodeC false 0x4E384002 0 = some (.thit 7 2 0, false) ∧
    decodeC true 0xCE002000 0 = some (.traceRidge 0 1 0, false) := by decide
theorem word_sync : decodeC false 0x54202000 0 = some (.launch 4 1, false) ∧ decodeC false 0x5430A001 0 = some (.lwait 6 5, false) := by decide
theorem word_system :
    decodeC false 0x5C280121 0 = some (.crd 5 0x121, false) ∧ decodeC false 0xDE204300 0x17 = some (.tlbw 4 2 6 0x17 0, false) ∧
    decodeC false 0x5E204183 0 = some (.pmr 4 2 3, false) := by decide
theorem word_lane : decodeA true 0x4480001E = some (.vmov (.p 0x20 0 7 true false), false) := by decide
theorem word_unassigned : decodeC false 0x74141618 0 = none ∧ decodeA true 0xF0000000 = none := by decide
theorem bundle_checks :
    checkBundle ⟨false, false, 0⟩ 0x00080000 0xF0000000 = .error (.undefOpcode, 1) ∧
    checkBundle ⟨false, false, 0⟩ 0xDE204300 0x17 = .error (.privileged, 0) ∧
    checkBundle ⟨false, false, 0⟩ 0x46204100 0 = .error (.wrongEngine, 0) := by decide
theorem row_word : decodeTableWord 32 0x38000001 = some .fenceSt := by decide

/-! ## Witnesses: scalar and control -/

theorem witness_RegisterFiles : ∀ t, tU = .thread t → (3 : Reg6).toNat < 16 ∧ (15 : Reg6).toNat < 16 := by intros; decide
theorem witness_ScalarResults : Spec.plain .rot = true ∧ Alone tS tU := ⟨rfl, tS_alone⟩
theorem witness_ScalarDivisions : Spec.divides .rem = true ∧ Alone wS wU := ⟨rfl, wS_alone⟩
theorem witness_ScalarForms :
    Alone tS tU ∧ Spec.plain .sub = true ∧ Spec.divides .div = true ∧ Spec.unaryD (.clz 5 1 true) true (tS.reg tU 1) = some 29 :=
  ⟨tS_alone, rfl, rfl, by decide⟩

/-- A state whose repeat buffer is active at the last bundle of its body. -/
def tSRpt : State := tS.modCom tU (fun c => { c with rpt := { act := true, lenm1 := 3, pos := 3, rc := 2 } })
theorem tSRpt_alone : Alone tSRpt tU := alone_thread (by decide)

theorem witness_TransfersAndRepeats :
    Alone tS tU ∧ Spec.onePath tS tU ∧ Spec.reachable (Spec.relative tS tU (BitVec.signExtend 64 (0x1FFFFFF : BitVec 25))) ∧
    (tS.com tU).rpt.act = false ∧ Spec.holds .lt (tS.reg tU 2) (tS.reg tU 1) ∧ ¬ Spec.holds .ltn (tS.reg tU 2) (tS.reg tU 1) ∧
    Spec.reachable (tS.reg tU 3) ∧ tS.reg tU 3 &&& 7 = 0 ∧
    (tS.reg tU 1).extractLsb' 0 32 ≠ (0 : W32) ∧ (tS.reg tU 0).extractLsb' 0 32 = (0 : W32) ∧
    Alone tSRpt tU ∧ (tSRpt.com tU).rpt.act = true := by
  refine ⟨tS_alone, ?_, ?_, rfl, ?_, ?_, ?_, ?_, ?_, ?_, tSRpt_alone, rfl⟩
  · intro w h; cases h
  all_goals first | rfl | decide | (unfold Spec.reachable Spec.relative; decide) | (unfold Spec.reachable; decide) | (unfold Spec.holds; decide)

/-- Lanes 0 to 3 of the wave on the true path of a split; the others are pending at 0x20000. -/
def wSplit : State :=
  wS.modWave 1 (fun x => { x with exec := 0xF, stack := [{ outer := BitVec.allOnes 64, pend := 0xFFFFFFFFFFFFFFF0, ppc := 0x20000, jpc := 0 }] })
theorem wSplit_alone : Alone wSplit wU := alone_wave (by decide)
/-- The same wave on the false path: no lane is pending. -/
def wLast : State :=
  wS.modWave 1 (fun x => { x with exec := 0xF, stack := [{ outer := BitVec.allOnes 64, pend := 0, ppc := 0x20000, jpc := 0 }] })
/-- The last path of a split whose other lanes are away on a service call. -/
def wAway : State :=
  wS.modWave 1 (fun x => { x with
    exec := 0xF, absent := 0xFF0, groups := [{ lanes := 0xFF0, pc := 0x10008, depth := 1 }]
    stack := [{ outer := 0xFFF, pend := 0, ppc := 0x20000, jpc := 0x10008 }] })
/-- The wave after its lanes have gone by EXIT (R111). -/
def gone (s : State) : Wave :=
  let s0 := s.begun wU
  let t := ((s0.gridEnd (s.wave 1).c.grid 0 false).endLanes 1 ((s0.gridEnd (s.wave 1).c.grid 0 false).wave 1).exec 0 false).dropExec 1
  let x := t.wave 1
  { x with c := { x.c with rpt := { x.c.rpt with act := false } } }

theorem witness_EndsAndSuspensions :
    Alone tS tU ∧ (tS.com tU).rpt.act = false ∧ Spec.reachable (tS.pcOf tU + 8) ∧
    Spec.reachable (Spec.relative tS tU ((0xFFFFE001 : W32).signExtend 64)) ∧
    Alone wS wU ∧ (wS.wave 1).leak = none ∧ (gone wS).over = true ∧
    Alone wSplit wU ∧ (wSplit.wave 1).leak = none ∧ (gone wSplit).over = false ∧ ((gone wSplit).select 0).2 = true ∧
    Alone wAway wU ∧ (wAway.wave 1).leak = none ∧ (gone wAway).over = false ∧ ((gone wAway).select 0).2 = false := by
  refine ⟨tS_alone, rfl, ?_, ?_, wS_alone, ?_, ?_, wSplit_alone, ?_, ?_, ?_, alone_wave (by decide), ?_, ?_, ?_⟩ <;>
    first | decide +kernel | (unfold Spec.reachable Spec.relative; decide +kernel) | (unfold Spec.reachable; decide +kernel)

theorem witness_Divergence :
    (Alone wS wU ∧ (wS.com wU).rpt.act = false ∧ (wS.wave 1).stack.length < 32 ∧
      ((wS.begun wU).wave 1).exec &&& ((wS.begun wU).wave 1).mask 1 ≠ 0 ∧ Spec.reachable (wS.reg wU 3) ∧ wS.reg wU 3 &&& 7 = 0) ∧
    (Alone wSplit wU ∧ ∃ top rest, ((wSplit.begun wU).wave 1).stack = top :: rest ∧ top.pend ≠ 0) ∧
    (Alone wLast wU ∧ ∃ top rest, ((wLast.begun wU).wave 1).stack = top :: rest ∧ top.pend = 0 ∧
      ((wLast.begun wU).wave 1).missing { top with jpc := ((wLast.begun wU).wave 1).apc } (rest.length + 1) = 0) := by
  refine ⟨⟨wS_alone, ?_, ?_, ?_, ?_, ?_⟩, ⟨wSplit_alone, _, _, rfl, ?_⟩, alone_wave (by decide), _, _, rfl, ?_, ?_⟩ <;>
    first | decide +kernel | (unfold Spec.reachable; decide +kernel)

/-- A block of a wave, with a scratchpad of 8 KiB, 36 banks and 4 B slots. -/
def blk : Block :=
  { ridge := true, grid := none, num := 0, bsize := 1, nv := 64, scr := 8192, acc := 36, nb := 4, members := [wU], eng := some 0 }
def wB : State :=
  { wS.modWave 1 (fun x => { x with c := { x.c with block := some 7 }, t := [(2, { int := false, wide := false, elems := [(0, 5)], flags := 0 })] })
    with blocks := [(7, blk)] }
theorem wB_alone : Alone wB wU := alone_wave (by decide)
/-- A load of a word in the scratchpad, one lane, at k4 for a wave, s4 for a thread (64-bit). -/
def mW : MemOp := { d := 5, b := 3, x := 0, sz := 3, dk := true }
def mT : MemOp := { d := 5, b := 3, x := 0, sz := 3, dk := false }
/-- A vector access of all lanes at k3 + 0. -/
def mV : MemOp := { d := 5, b := 3, x := 0, sz := 2, dk := false }
def mQ : MemOp := { mV with d := 0x41 }

theorem passes_of {s : State} {u : UnitId} {sp : Space} {f : MemForm} {k : Nat}
    (h : (Spec.addresses s u f).all (fun e => s.laneCheck u sp (szBytes f.m.sz) e.2 k == none) = true) : Spec.passes s u sp f k := by
  intro e he
  exact eq_of_beq (List.all_eq_true.mp h e he)

theorem witness_LoadsIssue :
    (Alone tS tU ∧ Spec.passes (tS.begun tU) tU (Spec.space (tS.begun tU) tU false) (Spec.form tU mT none) 0) ∧
    (Alone wB wU ∧ Spec.passes (wB.begun wU) wU (Spec.space (wB.begun wU) wU false) (Spec.form wU mV (some ext1)) 0 ∧
      Spec.passes (wB.begun wU) wU (Spec.space (wB.begun wU) wU true) (Spec.form wU { mV with b := 0 } none) 0) ∧
    (Alone wS wU ∧ Spec.passes (wS.begun wU) wU ((wS.begun wU).spaceOf wU) (Spec.form wU mQ none) 0 ∧
      (((wS.begun wU).wave 1).lq.getD (mQ.d.toNat - 0x40) []).length + (if mQ.sz = 3 then 2 else 1) ≤ 8) := by
  refine ⟨⟨tS_alone, passes_of ?_⟩, ⟨wB_alone, passes_of ?_, passes_of ?_⟩, wS_alone, passes_of ?_, ?_⟩ <;> decide +kernel

theorem is_some {α : Type} {e : Option α} (h : e.isSome = true) : ∃ a, e = some a := by
  cases e with
  | none => cases h
  | some x => exact ⟨x, rfl⟩

theorem witness_StoresIssue :
    (∃ d, Alone tS tU ∧ Spec.passes (tS.begun tU) tU (Spec.space (tS.begun tU) tU false) (Spec.form tU mT none) 1 ∧
      (tS.begun tU).storeData tU (Spec.form tU mT none) = some d) ∧
    (∃ d, Alone wB wU ∧ Spec.passes (wB.begun wU) wU (Spec.space (wB.begun wU) wU true) (Spec.form wU { mV with b := 0 } (some ext1)) 1 ∧
      (wB.begun wU).storeData wU (Spec.form wU { mV with b := 0 } (some ext1)) = some d) := by
  refine ⟨?_, ?_⟩
  · obtain ⟨d, h⟩ := is_some (e := (tS.begun tU).storeData tU (Spec.form tU mT none)) (by decide +kernel)
    exact ⟨d, tS_alone, passes_of (by decide +kernel), h⟩
  · obtain ⟨d, h⟩ := is_some (e := (wB.begun wU).storeData wU (Spec.form wU { mV with b := 0 } (some ext1))) (by decide +kernel)
    exact ⟨d, wB_alone, passes_of (by decide +kernel), h⟩

theorem witness_HoldingAccesses :
    (Alone tS tU ∧ (tS.com tU).redo = none ∧ (tS.begun tU).inTask tU = false ∧
      Spec.passes (tS.begun tU) tU ((tS.begun tU).spaceOf tU) (Spec.form tU mT none) 0 ∧
      Spec.answersAtOnce (tS.begun tU) (Spec.loadOf (tS.begun tU) tU mT none ((tS.begun tU).spaceOf tU) (.load false)
        (memDest tU (Spec.form tU mT none)) true) ∧
      Spec.answersAtOnce (tS.begun tU) (Spec.loadOf (tS.begun tU) tU mT none ((tS.begun tU).spaceOf tU) (.sync false false)
        (memDest tU (Spec.form tU mT none)) true)) ∧
    (∃ d, (tS.begun tU).storeData tU (Spec.form tU mT none) = some d ∧
      let ls := (Spec.storeOf (tS.begun tU) tU mT none ((tS.begun tU).spaceOf tU) .storeFull true d).lanes
      Spec.answersAtOnce ((tS.begun tU).noteStores tU ls)
        (((tS.begun tU).noteStores tU ls).memAccess tU ((tS.begun tU).spaceOf tU) .storeFull (szBytes mT.sz) .none true false ls)) := by
  refine ⟨⟨tS_alone, rfl, rfl, passes_of (by decide +kernel), answers_of (by decide +kernel), answers_of (by decide +kernel)⟩, ?_⟩
  refine ⟨fun l => (tS.begun tU).memReg tU (Spec.form tU mT none) 5 true l, rfl, answers_of (by decide +kernel)⟩

/-- ATOM.ADD of 64 bits; with NR set it is posted. -/
def extA (nr : Bool) : MemExt := { ext1 with md := if nr then 0x80 else 0 }
theorem witness_AtomicsAndHistograms :
    (Alone tS tU ∧ (tS.com tU).redo = none ∧ Spec.passes (tS.begun tU) tU ((tS.begun tU).spaceOf tU) (Spec.formX tU mT (some (extA false))) 3 ∧
      (let ls := Spec.atomLanes (tS.begun tU) tU mT (extA false)
       Spec.answersAtOnce ((tS.begun tU).noteStores tU ls) ((tS.begun tU).memAccess tU ((tS.begun tU).spaceOf tU)
        (.atom 0 false false) 8 (memDest tU (Spec.formX tU mT (some (extA false)))) true false ls))) ∧
    ((extA true).md.getLsbD 7 = true ∧ bitsOf (extA true).md 5 4 = 0 ∧
      Spec.passes (tS.begun tU) tU ((tS.begun tU).spaceOf tU) (Spec.formX tU mT (some (extA true))) 3) ∧
    (Alone wB wU ∧ Spec.passes (wB.begun wU) wU (Spec.space (wB.begun wU) wU false) (Spec.form wU mV none) 3) := by
  refine ⟨⟨tS_alone, rfl, passes_of ?_, answers_of ?_⟩, ⟨rfl, rfl, passes_of ?_⟩, wB_alone, passes_of ?_⟩ <;> decide +kernel

theorem checks_of {s : State} {u : UnitId} {sp : Space} {n : Nat} {l : List (Nat × W64)}
    (h : l.all (fun e => s.laneCheck u sp n e.2 == none) = true) : ∀ e ∈ l, s.laneCheck u sp n e.2 = none :=
  fun e he => eq_of_beq (List.all_eq_true.mp h e he)

/-- A store of the wave that waits for a walk, and one that waits for memory; with the second, a FENCE.ST or a FENCE that waits for it. -/
def out (st : LaneSt) : Access :=
  { id := 4, unit := wU, op := .store, bytes := 8, dest := .none, space := .virt, ctx := 0, gen := 0, pos := 3, holding := false,
    acquire := false, w0 := 0, w1 := 0, pc := 0, lanes := [{ lane := 0, ea := 0x50000, st := st }] }
def wOut (st : LaneSt) (fs : List Fence) : State :=
  { wS.modWave 1 (fun x => { x with c := { x.c with fences := fs } }) with accesses := [out st] }
theorem goesOn (st : LaneSt) (fs : List Fence) : Spec.GoesOn (wOut st fs) wU := by
  refine ⟨rfl, rfl, rfl, rfl, rfl, rfl, ?_⟩
  intro w h; cases h; rfl
theorem witness_CachesAndFences :
    (Alone tS tU ∧ Alone wB wU ∧ mV.sz ≠ 3 ∧
      ∀ x ∈ Spec.extentLanes (wB.begun wU) wU mV none, (wB.begun wU).laneCheck wU ((wB.begun wU).spaceOf wU) 1 x.2 = none) ∧
    (Spec.GoesOn (wOut .walk []) wU ∧ ((wOut .walk []).com wU).fences = [] ∧
      (∃ a ∈ (((wOut .walk []).begun wU).settle wU (fun _ => true)).2.accessesOf wU, a.op.isWrite = true ∧ a.complete = false)) ∧
    (Spec.GoesOn (wOut .perf []) wU ∧
      ∀ a ∈ (((wOut .perf []).begun wU).settle wU (fun _ => true)).2.accessesOf wU, a.complete = true) ∧
    (∀ full, let s := wOut .walk [⟨[4], full⟩]
      Spec.GoesOn s wU ∧ (∃ a ∈ s.accessesOf wU, a.id ∈ [4] ∧ a.complete = false) ∧ (s.begun wU).memFull wU = false ∧
      (∀ i ∈ [Instr.ld mV, .st mV], ∀ a ∈ s.accessesOf wU, regsMeet a.regs ((s.useOf wU i).reads ++ (s.useOf wU i).writes) = false) ∧
      Spec.passes (s.begun wU) wU ((s.begun wU).spaceOf wU) (Spec.form wU mV none) 0) := by
  refine ⟨⟨tS_alone, wB_alone, by decide, checks_of (by decide +kernel)⟩, ⟨goesOn .., rfl, by decide +kernel⟩, ⟨goesOn .., by decide +kernel⟩, ?_⟩
  intro full
  refine ⟨goesOn .., ?_, ?_, ?_, passes_of ?_⟩ <;> cases full <;> decide +kernel

theorem witness_CopyJobs :
    (Alone tS tU ∧ tS.reg tU 3 &&& 7 = 0 ∧ ∃ ws t, (tS.begun tU).record tU (tS.reg tU 3) 4 = .ok (ws, t) ∧
      (t.accessesOf tU = [] ∧ (Spec.copyRec ws).check = none ∧ (t.jobsOf (t.jobEngine tU)).length < 64 ∧ t.jobs.length < 16)) ∧
    (let c : CopyRec := { src := tS.reg tU 4, dst := tS.reg tU 3, rowlen := 8 * (2 : BitVec 28).toNat, rows := 1, sstride := 0, dstride := 0 }
     (tS.reg tU 4).toNat % 8 = 0 → c.check = none ∧ ((tS.begun tU).jobsOf ((tS.begun tU).jobEngine tU)).length < 64) ∧
    ((tS.begun tU).inTask tU = false ∧ (tS.begun tU).jobStatus ((tS.begun tU).jobEngine tU) ((tS.reg tU 1).toNat % 2 ^ 16) tU ≠ 0) ∧
    (∃ ws t, (tS.reg tU 3).toNat % 128 = 0 ∧ (tS.begun tU).record tU (tS.reg tU 3) 16 = .ok (ws, t) ∧
      (t.accessesOf tU = [] ∧ (layoutOf ws).check false (t.unitScr tU) 0 = none ∧ (t.jobsOf (t.jobEngine tU)).length < 64 ∧ t.jobs.length < 16)) := by
  refine ⟨⟨tS_alone, by decide +kernel, ok_of _ (by decide +kernel)⟩, ?_, ⟨by decide +kernel, by decide +kernel⟩, ?_⟩
  · decide +kernel
  · obtain ⟨ws, t, h, g⟩ := ok_of (e := (tS.begun tU).record tU (tS.reg tU 3) 16)
      (fun ws t => t.accessesOf tU = [] ∧ (layoutOf ws).check false (t.unitScr tU) 0 = none ∧ (t.jobsOf (t.jobEngine tU)).length < 64 ∧ t.jobs.length < 16)
      (by decide +kernel)
    exact ⟨ws, t, by decide +kernel, h, g⟩

/-- GATH and SCAT to 0x30010 from the addresses of s3. -/
def mG : MemOp := { d := 4, b := 3, x := 0, sz := 3, dk := false }
def gathBegun : State :=
  (((tS.begun tU).setWait tU .none).addJob tU (Spec.gathBlock (tS.begun tU) tU ext1) .gath
    (gathMoves false (ext1.md.getLsbD 0) (szBytes mG.sz) ((tS.begun tU).gathLanes tU mG ext1)) false).2
def scatBegun : State := (tS.begun tU).setWait tU .none
theorem witness_GatherScatter :
    Alone tS tU ∧ (tS.com tU).redo = none ∧ Spec.gathers (tS.begun tU) tU mG ext1 true ∧ Spec.gathers (tS.begun tU) tU mG ext1 false ∧
    Spec.jobRoom (tS.begun tU) tU none .gath (gathMoves false false 8 ((tS.begun tU).gathLanes tU mG ext1)) ∧
    Spec.answersAtOnce scatBegun (Spec.requests scatBegun tU mG ext1 true) ∧
    Spec.jobRoom (Spec.answered scatBegun (Spec.requests scatBegun tU mG ext1 true)) tU none .scat
      (gathMoves true false 8 ((tS.begun tU).gathLanes tU mG ext1)) ∧
    (tS.begun tU).gathJob tU = none ∧ Spec.answersAtOnce gathBegun (Spec.requests gathBegun tU mG ext1 false) ∧
    ∃ k j, (Spec.answered gathBegun (Spec.requests gathBegun tU mG ext1 false)).gathJob tU = some k ∧
      (Spec.answered gathBegun (Spec.requests gathBegun tU mG ext1 false)).jobs.find k = some j := by
  refine ⟨tS_alone, rfl, ?_, ?_, ?_, answers_of (by decide +kernel), ?_, by decide +kernel, answers_of (by decide +kernel), ?_⟩
  · unfold Spec.gathers; decide +kernel
  · unfold Spec.gathers; decide +kernel
  · unfold Spec.jobRoom; decide +kernel
  · unfold Spec.jobRoom; decide +kernel
  · refine ⟨10, ?_⟩
    obtain ⟨j, h⟩ := is_some (e := (Spec.answered gathBegun (Spec.requests gathBegun tU mG ext1 false)).jobs.find 10) (by decide +kernel)
    exact ⟨j, by decide +kernel, h⟩

/-- The thread with s5 in the bank of position 1 and s6 = 0x105, mail in word 5 of Vale 0, and a message of type 5 at position 5. -/
def tM : State :=
  { tS with
    threads := [(1, { th with regs := (th.regs.set 5 (BitVec.ofNat 64 (windowAddr 1 0))).set 6 0x105 })]
    vales := [(0, { ({} : Vale) with mail := [(5, { val := 9, full := true })] })]
    positions := [(5, { ({} : Position) with inbox := [{ id := 1, pos := 5, words := [5, 6, 7, 8, 9, 10, 11, 0x105], ctx := 0 }] })]
    mem := (tS.rawPut (bankPlace 5 0x3E000) 5).mem }
theorem tM_alone : Alone tM tU := alone_thread (by decide +kernel)
def mA : MemOp := { d := 5, b := 5, x := 0, sz := 3, dk := false }
theorem witness_MessagesAndMailboxes :
    Alone tM tU ∧ (tM.com tU).redo = none ∧
    (∀ x ∈ Spec.addresses (tM.begun tU) tU (Spec.formX tU mA (some ext1)), (tM.begun tU).amsgCheck tU (szBytes mA.sz) x.2 = none) ∧
    Spec.answersAtOnce (tM.begun tU) (Spec.messages (tM.begun tU) tU mA ext1) ∧
    (tM.reg tU 6).toNat / 256 % 4096 < 3072 ∧
    Spec.inPartition (tM.begun tU) tU ((tM.begun tU).unitVale tU) ∧
    (((tM.begun tU).vec ((tM.reg tU 1).toNat % 32) ((tM.reg tU 1).toNat % 256)).limit = 0 ∧
      ((tM.begun tU).oldestOf ((tM.reg tU 1).toNat % 32) ((tM.reg tU 1).toNat % 256)).isSome = true) ∧
    (tM.begun tU).oldestOf ((tM.reg tU 2).toNat % 32) ((tM.reg tU 2).toNat % 256) = none ∧
    ((tM.reg tU 6).toNat / 256 % 128 < 96 ∧ Spec.inPartition (tM.begun tU) tU 1 ∧
      (((tM.begun tU).vale 1).mail.getD 5 {}).full = false) ∧
    ((tM.reg tU 1).toNat / 256 % 128 = 0 ∧ Spec.inPartition (tM.begun tU) tU 0 ∧
      (((tM.begun tU).vale 0).mail.getD ((tM.reg tU 1).toNat % 256) {}).full = true) := by
  refine ⟨tM_alone, by decide +kernel, by decide +kernel, answers_of (by decide +kernel), by decide +kernel, ?_, by decide +kernel, by decide +kernel, ⟨by decide +kernel, ?_, by decide +kernel⟩,
    by decide +kernel, ?_, by decide +kernel⟩ <;> (unfold Spec.inPartition; decide +kernel)

theorem next_of {o : Host.Outcome State Fault Refusal} (h : (match o with | .next _ => true | _ => false) = true) : ∃ t, o = .next t := by
  cases o with
  | next t => exact ⟨t, rfl⟩
  | fault _ => cases h
  | refused _ => cases h

/-- Lane forms: D = v4, A = v1, B = v2; on a thread D = s4, A = s1, B = s2. -/
def fP : AForm := .p 4 1 2 false false

theorem witness_LaneIntegersAndBits :
    (AloneA wS wU ∧ ∃ a b c t t', (wS.begunA wU).laneSources wU (toLA 0x01 fP) {} = some (a, b, c, t) ∧
      flagsOver (laneList wU ((wS.begunA wU).active wU 0))
        (fun l => (Spec.ints (toLA 0x01 fP) (fun x y _ => x + y) a b c ((wS.begunA wU).active wU 0) l).2) &&& ((wS.begunA wU).com wU).fpctl = 0 ∧
      t.laneDst wU (toLA 0x01 fP).kd (toLA 0x01 fP).d ((wS.begunA wU).active wU 0)
        (fun l => (Spec.ints (toLA 0x01 fP) (fun x y _ => x + y) a b c ((wS.begunA wU).active wU 0) l).1) = some t') ∧
    (AloneA tS tU ∧ ∃ a b c t t', (tS.begunA tU).laneSources tU (toLA 0x08 fP) {} = some (a, b, c, t) ∧
      flagsOver (laneList tU ((tS.begunA tU).active tU 0)) (fun _ => (0 : FFlags)) &&& ((tS.begunA tU).com tU).fpctl = 0 ∧
      t.laneDst tU (toLA 0x08 fP).kd (toLA 0x08 fP).d ((tS.begunA tU).active tU 0) (fun l => a l &&& b l) = some t') :=
  ⟨⟨wS_aloneA, _, _, _, _, _, rfl, by decide +kernel, rfl⟩, tS_aloneA, _, _, _, _, _, rfl, by decide +kernel, rfl⟩

theorem witness_LaneFloats :
    (AloneA wS wU ∧ ∃ a b c t t', (wS.begunA wU).laneSources wU (toLA 0x13 fP) {} = some (a, b, c, t) ∧
      flagsOver (laneList wU ((wS.begunA wU).active wU 0))
        (fun l => (Spec.floats (toLA 0x13 fP) (fun x y _ => fpAdd fmtF32 0 false x y) a b c ((wS.begunA wU).active wU 0) l).2)
          &&& ((wS.begunA wU).com wU).fpctl = 0 ∧
      t.laneDst wU (toLA 0x13 fP).kd (toLA 0x13 fP).d ((wS.begunA wU).active wU 0)
        (fun l => (Spec.floats (toLA 0x13 fP) (fun x y _ => fpAdd fmtF32 0 false x y) a b c ((wS.begunA wU).active wU 0) l).1) = some t') ∧
    (∃ a b c t, (wS.begunA wU).laneSources wU (toLA 0x37 fP) { a := false, b := false } = some (a, b, c, t)) :=
  ⟨⟨wS_aloneA, _, _, _, _, _, rfl, by decide +kernel, rfl⟩, _, _, _, _, rfl⟩

/-- The wave with every trap of a flag enabled, infinity in v1 and minus infinity in v2: FADD gives NV. -/
def wF : State :=
  wS.modWave 1 (fun x => { x with
    c := { x.c with fpctl := 0x3F }, v := [(1, Lanes.gen (fun _ => 0x7F800000)), (2, Lanes.gen (fun _ => 0xFF800000))] })
/-- The wave with every trap enabled, a tile whose flags hold NV, and the largest integer in v1 and v2: an addition with SAT gives SI. -/
def wI : State :=
  wS.modWave 1 (fun x => { x with
    c := { x.c with fpctl := 0x3F, block := some 7 }, v := [(1, Lanes.gen (fun _ => 0x7FFFFFFF)), (2, Lanes.gen (fun _ => 0x7FFFFFFF))],
    t := [(2, { int := false, wide := false, elems := [], flags := fNV })] })
/-- A float comparison of v1 and v2: LT. -/
def laF : LA := { la1 with ty := 0, md := 2 }
theorem witness_LaneFlagTraps :
    (AloneA wF wU ∧ ∃ a b c t, (wF.begunA wU).laneSources wU (toLA 0x13 fP) {} = some (a, b, c, t) ∧
      flagsOver (laneList wU ((wF.begunA wU).active wU 0))
        (fun l => (Spec.floats (toLA 0x13 fP) (fun x y _ => fpAdd fmtF32 0 false x y) a b c ((wF.begunA wU).active wU 0) l).2)
          &&& ((wF.begunA wU).com wU).fpctl ≠ 0) ∧
    (AloneA wI wU ∧ ∃ a b c t, let g := toLA 0x01 (.p 4 1 2 false true)
      (wI.begunA wU).laneSources wU g {} = some (a, b, c, t) ∧
      flagsOver (laneList wU ((wI.begunA wU).active wU 0)) (fun l => (Spec.ints g (fun x y _ => x + y) a b c ((wI.begunA wU).active wU 0) l).2)
          &&& ((wI.begunA wU).com wU).fpctl ≠ 0) ∧
    (∃ a b c t, (wI.begunA wU).laneSources wU laF {} = some (a, b, c, t) ∧
      flagsOver (Mask.lanes ((wI.begunA wU).active wU 0)) (fun l => (fpCmp fmtF32 2 (a l).toNat (b l).toNat).2) &&& ((wI.begunA wU).com wU).fpctl ≠ 0) ∧
    (∃ x, Spec.tileIs (wI.begunA wU) 1 2 x ∧ 16 * 1 < Spec.columns x.wide ∧ x.flags &&& ((wI.begunA wU).com wU).fpctl ≠ 0) :=
  ⟨⟨⟨rfl, rfl, rfl, rfl⟩, _, _, _, _, rfl, by decide +kernel⟩, ⟨⟨rfl, rfl, rfl, rfl⟩, _, _, _, _, rfl, by decide +kernel⟩,
    ⟨_, _, _, _, rfl, by decide +kernel⟩, _, ⟨by decide +kernel, rfl⟩, by decide +kernel, by decide +kernel⟩

/-- The hypotheses of the frame of one lane form. -/
def framed (s : State) (u : UnitId) (e : Instr × LA × LaneSrcs × Spec.LaneFn) : Prop :=
  let act := (s.begunA u).active u e.2.1.msel
  ∃ a b c t t' t'', (s.begunA u).laneSources u e.2.1 e.2.2.1 = some (a, b, c, t) ∧
    flagsOver (laneList u act) (fun l => (e.2.2.2 a b c act l).2) &&& ((s.begunA u).com u).fpctl = 0 ∧
    t.laneDst u e.2.1.kd e.2.1.d act (fun l => (e.2.2.2 a b c act l).1) = some t' ∧ exec e.1 s = .next t''
/-- VADD on the wave and on the thread, VSEL on the wave, a comparison of integers, and the instructions of a thread that write registers. -/
theorem witness_LaneFrame :
    (AloneA wS wU ∧ AloneA tS tU ∧ (wS.com wU).after = none ∧ (wS.com wU).stepping = false ∧ (tS.com tU).after = none ∧ (tS.com tU).stepping = false) ∧
    (∃ e ∈ Spec.laneForms fP la1, framed wS wU e) ∧ (∃ e ∈ Spec.laneForms fP la1, framed tS tU e) ∧
    (∃ e ∈ Spec.waveForms (wS.begunA wU) 1 fP la1, framed wS wU e) ∧
    (∃ e ∈ Spec.writers fP la1, e.1 ≠ .fcmp la1 ∧ (e.1 ≠ .redu fP ∨ (toLA 0x23 fP).md.toNat % 8 < 6) ∧ ∃ t, exec e.1 wS = .next t) ∧
    (∃ t, exec (.phlx fP) tS = .next t) ∧ (∃ t, exec (.pack la1) tS = .next t) ∧ ∃ t, exec (.unpack la1) tS = .next t := by
  obtain ⟨p, hp⟩ := next_of (o := exec (.vadd fP) wS) (by decide +kernel)
  obtain ⟨q, hq⟩ := next_of (o := exec (.vadd fP) tS) (by decide +kernel)
  obtain ⟨r, hr⟩ := next_of (o := exec (.vsel la1) wS) (by decide +kernel)
  exact ⟨⟨wS_aloneA, tS_aloneA, rfl, rfl, rfl, rfl⟩, ⟨_, .head _, _, _, _, _, _, p, rfl, by decide +kernel, rfl, hp⟩,
    ⟨_, .head _, _, _, _, _, _, q, rfl, by decide +kernel, rfl, hq⟩, ⟨_, .head _, _, _, _, _, _, r, rfl, by decide +kernel, rfl, hr⟩,
    ⟨_, .head _, by simp, .inl (by simp), next_of (by decide +kernel)⟩, next_of (by decide +kernel),
    next_of (by decide +kernel), next_of (by decide +kernel)⟩

/-- Formats, values and codes of every kind that the statements on rounding and on float operations speak of: a NaN, an infinity, a finite value
whose rounding is inexact; numbers in order; an operand of a special function with an exact result, and one without. -/
theorem witness_FloatRounding :
    Spec.format 0 ∈ Spec.formats ++ [Spec.accumulator] ∧ Spec.accumulator ∈ Spec.formats ++ [Spec.accumulator] ∧ (0 : Nat) < 3 := by
  refine ⟨.head _, List.mem_append_right _ (.head _), by decide⟩
theorem witness_FloatArithmetic :
    Spec.format 0 ∈ Spec.formats.take 3 ∧ (0x7F800000 : Nat) < 2 ^ (1 + (Spec.format 0).fmt.e + (Spec.format 0).fmt.m) ∧
    (Spec.read (Spec.format 0).fmt 0x7FC00000).isNan = true ∧ (Spec.read (Spec.format 0).fmt 0x3F800000).isNan = false ∧
    (1 : BitVec 4) = 1 ∧ Spec.specials 0 (Spec.read (Spec.format 0).fmt 0) ≠ none ∧ 0x40400000 < 2 ^ tyWidth (BitVec.ofNat 4 0) := by
  refine ⟨.head _, by decide, by decide, by decide, rfl, ?_, by decide⟩
  simp [Spec.specials, Spec.read, Spec.format, Spec.formats, Spec.signed]

theorem nx_uf (c : Prop) [Decidable c] : (fNX ||| if c then fUF else 0).getLsbD 2 = false := by split <;> decide
theorem overflow_free {fn ty a n d : Nat} {neg : Bool}
    (hv : (fmtOf (BitVec.ofNat 4 ty)).value a = .fin neg n d) (he : specialEdge fn (fmtOf (BitVec.ofNat 4 ty)) (.fin neg n d) = none)
    (hx : specialExact fn (fmtOf (BitVec.ofNat 4 ty)) neg n d = none) (h2 : (fn == 2) = false)
    (h7 : (fn == 7 && (decide (n * 2 ^ 12 < d) || decide (10 * d ≤ n))) = false)
    (hn : (roundTo (fmtOf (BitVec.ofNat 4 ty)) 0 false (specialApprox fn neg n d)).2.getLsbD 2 = false) :
    (fpSpecial fn ty 0 false a).2.getLsbD 2 = false := by
  simp only [Bool.and_or_distrib_left, Bool.or_eq_false_iff] at h7
  simp only [fpSpecial, hv, he, h2, hx, h7.1, h7.2, hn, Bool.false_eq_true, if_false]
  exact nx_uf _

/-- The argument 3/8 is no exact case of a special function. -/
theorem witness_SpecialFunctions : ∀ fn ∈ [1, 3, 4, 5, 6, 7],
    0x3EC00000 < 2 ^ tyWidth (BitVec.ofNat 4 0) ∧ Spec.specials fn (Spec.read (Spec.format 0).fmt 0x3EC00000) = none ∧
    Spec.exactly fn (Spec.format 0).fmt (Spec.read (Spec.format 0).fmt 0x3EC00000).value = none ∧
    (fpSpecial fn 0 0 false 0x3EC00000).2.getLsbD 2 = false ∧ ∃ z : ℝ, Spec.exactIs fn ((Spec.read (Spec.format 0).fmt 0x3EC00000).value : ℚ) z := by
  have hr : Spec.read (Spec.format 0).fmt 0x3EC00000 = .real false (3 / 8) := by
    simp [Spec.read, Spec.format, Spec.formats, Spec.signed]; norm_num
  have hl : Int.log 2 |(3 / 8 : ℚ)| = -2 := by
    rw [abs_of_pos (by norm_num)]
    have a := (Int.zpow_le_iff_le_log (b := 2) (x := -2) (by norm_num) (r := (3 / 8 : ℚ)) (by norm_num)).mp (by norm_num)
    have b := (Int.lt_zpow_iff_log_lt (b := 2) (x := -1) (by norm_num) (r := (3 / 8 : ℚ)) (by norm_num)).mp (by norm_num)
    omega
  have hf : ∀ fn ∈ [1, 3, 4, 5, 6, 7], (fpSpecial fn 0 0 false 0x3EC00000).2.getLsbD 2 = false := by
    intro fn h
    fin_cases h <;> exact overflow_free (n := 3 * 2 ^ 22) (d := 2 ^ 25) (neg := false) (by decide +kernel) (by decide +kernel) (by decide +kernel) rfl
      (by decide +kernel) (by decide +kernel)
  intro fn h
  refine ⟨by decide, ?_, ?_, hf fn h, ?_⟩
  · rw [hr]; fin_cases h <;> norm_num [Spec.specials]
  · rw [hr]
    simp only [Spec.Num.value, Spec.exactly, hl]
    fin_cases h <;> norm_num
  · fin_cases h <;> exact ⟨_, rfl⟩

theorem witness_LaneExchange :
    AloneA wS wU ∧
    (∃ a t t', (wS.begunA wU).laneSrc wU false 1 = some (a, t) ∧
      Spec.uniformly (wS.begunA wU) t wU (toLA 0x21 fP) ((a 2).zeroExtend 64) (a 2) = some t') ∧
    (∃ a t, (wS.begunA wU).laneSrc wU (toLA 0x23 fP).ka (toLA 0x23 fP).a = some (a, t) ∧
      let res := Spec.prefixes (toLA 0x23 fP) a ((wS.begunA wU).active wU 0)
      flagsOver (List.range res.length) (fun i => ((res[i]?).map (fun e => e.2.2.2)).getD 0) &&& ((wS.begunA wU).com wU).fpctl = 0) :=
  ⟨wS_aloneA, ⟨_, _, _, rfl, rfl⟩, _, _, rfl, by decide +kernel⟩

theorem witness_MasksAndRandom :
    AloneA wS wU ∧ AloneA tS tU ∧
    (∃ a b c t, (wS.begunA wU).laneSources wU (toLA 0x10 (.l la1)) {} = some (a, b, c, t) ∧
      flagsOver (Mask.lanes ((wS.begunA wU).active wU 0)) (fun _ => (0 : FFlags)) &&& ((wS.begunA wU).com wU).fpctl = 0) ∧
    (∃ a b t t', (wS.begunA wU).pairSrc 1 false 1 = some (a, t) ∧ t.pairSrc 1 false 2 = some (b, t')) :=
  ⟨wS_aloneA, tS_aloneA, ⟨_, _, _, _, rfl, by decide +kernel⟩, _, _, _, _, rfl, rfl⟩

theorem witness_Conversions :
    AloneA wS wU ∧ AloneA tS tU ∧
    (∃ a b c t, (wS.begunA wU).laneSources wU la1 { b := false } = some (a, b, c, t)) ∧
    (∃ a t t', (wS.begunA wU).laneSrc wU false 1 = some (a, t) ∧
      t.laneDst wU false 4 ((wS.begunA wU).active wU 0) (fun l => a l) = some t') ∧
    (∃ a t, (tS.begunA tU).laneSrc tU false 1 = some (a, t)) ∧
    (let f : LA := { la1 with ty := 4, md := 1 }
     3 ≤ f.ty.toNat ∧ f.ty.toNat < 8 ∧ f.md.toNat % 16 < 3) ∧ (254 : Nat) < 255 :=
  ⟨wS_aloneA, tS_aloneA, ⟨_, _, _, _, rfl⟩, ⟨_, _, _, rfl, rfl⟩, ⟨_, _, rfl⟩, by decide, by decide⟩

theorem witness_KeysAndLists :
    AloneA wS wU ∧ (∃ a t, (wS.begunA wU).laneSrc wU false 1 = some (a, t)) ∧
    (∃ p q c t, (wS.begunA wU).laneSources wU (toLA 0x36 fP) {} = some (p, q, c, t)) ∧
    ((2 : BitVec 4).toNat < 3 ∧ 0xFF80 < 2 ^ tyWidth 2 ∧ (Spec.sourceOf 2 false 0x3F80).isNan = false) :=
  ⟨wS_aloneA, ⟨_, _, rfl⟩, ⟨_, _, _, _, rfl⟩, by decide, by decide, by decide⟩

theorem image_of {s : State} {u : UnitId} {sp : Space} {a : W64} {n k : Nat}
    (h : (a.toNat % 64 == 0 && (List.range n).all (fun i => s.laneCheck u sp 8 (a + BitVec.ofNat 64 (8 * i)) k == none)) = true) :
    Spec.imagePasses s u sp a n k := by
  simp only [Bool.and_eq_true, beq_iff_eq, List.all_eq_true, List.mem_range] at h
  exact h

theorem witness_Tiles :
    Alone wB wU ∧ Spec.tileFits (wB.begun wU) 1 3 true ∧ (((wB.begun wU).wave 1).t.find 2).isSome = true ∧
    (((wS.begun wU).wave 1).t.find 2 = none ∧ ¬ Spec.tileFits (wS.begun wU) 1 2 false) ∧
    ((wB.begun wU).wave 1).tileBusy 2 = false ∧
    (∃ x, Spec.tileIs (wB.begun wU) 1 2 x ∧
      Spec.imagePasses (wB.begun wU) wU (Spec.space (wB.begun wU) wU false) (wB.reg wU 3) (8 + 96 * Spec.columns x.wide) 1) ∧
    (∃ ws s1, ((wB.begun wU).wave 1).t.find 3 = none ∧
      Spec.wordsPass (wB.begun wU) wU (Spec.space (wB.begun wU) wU false) (wB.reg wU 3) 8 0 ∧
      (wB.begun wU).readHead wU (Spec.space (wB.begun wU) wU false) (wB.reg wU 3) = .ok (ws, s1) ∧ Spec.headOk ws ∧
      Spec.imagePasses s1 wU (Spec.space (wB.begun wU) wU false) (wB.reg wU 3) (8 + 96 * Spec.columns (Spec.headTile (ws.getD 0 0)).wide) 0 ∧
      Spec.tileFits s1 1 3 (Spec.headTile (ws.getD 0 0)).wide) := by
  refine ⟨wB_alone, ⟨by decide +kernel, 7, by decide +kernel, by decide +kernel⟩, by decide +kernel, ⟨by decide +kernel, ?_⟩, by decide +kernel,
    ⟨_, ⟨by decide +kernel, rfl⟩, image_of (by decide +kernel)⟩, ?_⟩
  · rintro ⟨-, b, h, -⟩
    cases h
  · obtain ⟨ws, s1, h, h1, h2, h3, h4⟩ := ok_of (e := (wB.begun wU).readHead wU (Spec.space (wB.begun wU) wU false) (wB.reg wU 3))
      (fun ws s1 => (ws.all (· == 0)) = true ∧ (Spec.headTile (ws.getD 0 0)).wide = false ∧
        ((wB.reg wU 3).toNat % 64 == 0 && (List.range 3080).all (fun i =>
          s1.laneCheck wU (Spec.space (wB.begun wU) wU false) 8 (wB.reg wU 3 + BitVec.ofNat 64 (8 * i)) == none)) = true ∧
        ((s1.wave 1).t.find 3 = none ∧ (s1.wave 1).c.block = some 7 ∧ Spec.banks false ≤ s1.freeBanks 7)) (by decide +kernel)
    refine ⟨ws, s1, by decide +kernel, (image_of (by decide +kernel)).2, h, ⟨?_, ?_⟩, ?_, ?_⟩
    · cases ws with
      | nil => decide
      | cons y t => simp only [List.all_cons, Bool.and_eq_true, beq_iff_eq] at h1; simp [h1.1]
    · intro x hx
      exact eq_of_beq (List.all_eq_true.mp h1 x (List.mem_of_mem_drop hx))
    · rw [h2]; exact image_of h3
    · rw [h2]; exact ⟨h4.1, 7, h4.2.1, h4.2.2⟩

/-- A step of FP8 rows, or of bytes, on tile 2; a wave that has issued it. -/
def mStep (ty : BitVec 4) : MatStep :=
  { tile := 2, fmtA := ty, fmtB := ty, active := 1, rows := [List.replicate 32 0x38], metadata := [], sa := [[0x7F]], slots := [0], srcB := 0, xvalB := 0x7F }
def wMat : State := wB.modWave 1 (fun x => { x with steps := [mStep 3] })
theorem witness_MatrixElements : ∀ e ∈ [((false, 3) : Bool × BitVec 4), (true, 8)],
    e.1 = decide (8 ≤ (mStep e.2).fmtA.toNat) ∧ (mStep e.2).fmtA = (mStep e.2).fmtB ∧
      (∀ r ∈ (mStep e.2).rows, ∀ c ∈ r, c < 2 ^ tyWidth (mStep e.2).fmtA) ∧ (mStep e.2).active.getLsbD 0 = true := by
  decide

theorem witness_MatrixOperands :
    Alone wB wU ∧ AloneA wB wU ∧
    (let s0 := wB.begun wU
     let a : W64 := s0.memEa wU (memForm true false { d := 0, b := 0, x := 0, sz := 3, dk := true } none) 0
     fmtAccepted (s0.wave 1).mfb = true ∧ (1 : BitVec 5).toNat < s0.slotsOf 1 ∧ (s0.wave 1).nm1 < s0.slotsOf 1 ∧ (s0.wave 1).slotBusy 1 = false ∧
      (s0.wave 1).slotBusy (s0.wave 1).lp = false ∧ (s0.wave 1).lp < s0.slotsOf 1 ∧ a.toNat % 16 = 0 ∧
      ∀ k < 8 * tyWidth (s0.wave 1).mfb + 2, s0.laneCheck wU (s0.spadSpace wU) 8 (a + BitVec.ofNat 64 (8 * k)) = none) ∧
    (∃ x, Spec.tileIs (wB.begunA wU) 1 2 x ∧ 16 * 1 < Spec.columns x.wide ∧
      (x.flags ||| flagsOver (Mask.lanes ((wB.begunA wU).active wU 0))
        (fun l => (Spec.readout x (toLA 0x2E (.p 4 0x62 1 false false)) 1 l).foldl (fun m r => m ||| r.2) 0)) &&&
          ((wB.begunA wU).com wU).fpctl = 0 ∧ ¬ (x.int = true ∧ tyFloat 8 = true)) :=
  ⟨wB_alone, ⟨rfl, rfl, rfl, rfl⟩, by decide +kernel, _, ⟨by decide +kernel, rfl⟩, by decide +kernel, by decide +kernel, by decide +kernel⟩

theorem witness_MatrixIssue :
    AloneA wB wU ∧ (((wB.begunA wU).wave 1).steps.filter (fun t => !t.half)).length < 4 ∧
    (wB.begunA wU).mmaCheck 1 .mma (toLA 0x2B (.p 0x62 0x20 0 false false)) true = none ∧
    spadCheck ((wB.begunA wU).unitScr wU) 8 (Spec.pieces (wB.begunA wU) 1 .mma (toLA 0x2B (.p 0x62 0x20 0 false false)) [] {}) = none ∧
    (wB.begunA wU).mmaCheck 1 .mma (toLA 0x2B (.p 0x62 0 0x51 true false)) true = none ∧
    spadCheck ((wB.begunA wU).unitScr wU) 8
      (Spec.pieces (wB.begunA wU) 1 .mma (toLA 0x2B (.p 0x62 0 0x51 true false)) [((wB.begunA wU).wave 1).stream 1] {}) = none :=
  ⟨⟨rfl, rfl, rfl, rfl⟩, by decide +kernel, by decide +kernel, by decide +kernel, by decide +kernel, by decide +kernel⟩

/-- A thread at equipped position 3 whose partition is Vale 0 alone, with a tile record at s3 that names view 0 and target 0, of one
tile each way, at 0x30000; its view 0 takes every point to the origin. -/
def tC : State :=
  { tS with
    vales := (0, { ({} : Vale) with ctgtb := 0x30000, ctNslot := 4 }) :: (List.range 95).map (fun i => (i + 1, { ({} : Vale) with func := 1 }))
    views := [(viewIndex 3 0 0, List.replicate 15 0 ++ [0x3F800000] ++ List.replicate 4 0)]
    mem := [(0x20010, 1), (0x30008, 1), (0x3000A, 1)] }
theorem tC_equipped : Spec.Equipped tC 1 := ⟨alone_thread (by decide +kernel), by decide +kernel, by decide +kernel, by decide +kernel⟩

/-- What the statements on the record ask for: it is in order, no access is left over, no projection fails, and its owners answer. -/
def tileGood (ws vs : List W64) (t : State) : Bool :=
  let r := tileRec ws vs
  let x := t.issue (t.viewAccess tU r.t .tileOpen r.mask true)
  !recordBad ws vs r && r.mask == [0] && t.accessesOf tU == [] && (t.com tU).redo.isNone && r.shader == 0 && (t.rangeFails tU r [0, 0]).isNone
    && match x.2.access x.1 with
      | some b => b.complete && !b.failed && (x.2.com tU).redo.isNone
      | none => false

theorem tC_tile : ∃ s1 r, Spec.tileAt (tC.begun tU) tU 3 s1 r ∧ r.mask = [0] ∧ s1.accessesOf tU = [] ∧ (s1.com tU).redo = none ∧ r.shader = 0 ∧
    s1.rangeFails tU r [0, 0] = none ∧ ∃ b s2, Spec.ownersAnswer s1 tU (s1.viewAccess tU r.t .tileOpen r.mask true) b s2 := by
  obtain ⟨ws, s1, h, k⟩ := ok_of (e := (tC.begun tU).record tU ((tC.begun tU).reg tU 3) 4)
    (fun ws s1 => okTest (s1.recordMore tU (s1.targetAddr tU (bitsOf (ws.getD 0 0) 39 32)) 4)
      (fun vs t => decide (tileGood ws vs t = true)) = true) (by decide +kernel)
  obtain ⟨vs, t, g, k⟩ := ok_of (fun vs t => tileGood ws vs t = true) k
  simp only [tileGood, Bool.and_eq_true, Bool.not_eq_true', beq_iff_eq, Option.isNone_iff_eq_none] at k
  obtain ⟨⟨⟨⟨⟨⟨k0, k1⟩, k2⟩, k3⟩, k4⟩, k5⟩, k6⟩ := k
  refine ⟨t, tileRec ws vs, ⟨by decide +kernel, ws, s1, vs, h, g, rfl, k0⟩, k1, k2, k3, k4, k5, ?_⟩
  revert k6
  generalize hx : (t.issue (t.viewAccess tU (tileRec ws vs).t .tileOpen (tileRec ws vs).mask true)).2.access
    (t.issue (t.viewAccess tU (tileRec ws vs).t .tileOpen (tileRec ws vs).mask true)).1 = x
  intro k6
  cases x with
  | none => cases k6
  | some b =>
    simp only [Bool.and_eq_true, Bool.not_eq_true', Option.isNone_iff_eq_none] at k6
    exact ⟨b, _, hx, k6.1.1, k6.1.2, k6.2, rfl⟩

/-- CVIEW's image at s3: one entry, for the eight units of the partition. -/
def viewGood (ws : List W64) (s1 : State) : Bool :=
  let live := (s1.equippedList (s1.unitFunc tU)).filter (fun p => !s1.posDead p)
  let a := s1.memAccess tU .virt (.contour ⟨0, 0, 0, 0, 0⟩ (.view (viewEntries ws 1))) 8 .none true false
    (live.map (fun p => { lane := p, ea := BitVec.ofNat 64 (windowAddr p 0) }))
  let x := s1.issue a
  decide (live.length = 8) && match x.2.access x.1 with
    | some b => b.complete && !b.failed
    | none => false

theorem witness_ContourInstructions :
    Spec.Equipped tC 1 ∧ (∃ s1 r, Spec.tileAt (tC.begun tU) tU 3 s1 r ∧ r.mask ≠ [] ∧ Spec.shaderAt s1 tU true r.shader s1 16 0 ∧
      s1.rangeFails tU r [0, 0] = none ∧ ∃ b s2, Spec.ownersAnswer s1 tU (s1.viewAccess tU r.t .tileOpen r.mask true) b s2) ∧
    (∃ ws s1, (tC.begun tU).record tU (tC.reg tU 3) 10 = .ok (ws, s1) ∧ viewGood ws s1 = true) := by
  obtain ⟨s1, r, h, h1, h2, h3, h4, h5, b, s2, h6⟩ := tC_tile
  exact ⟨tC_equipped, ⟨s1, r, h, by rw [h1]; decide, .inl ⟨.inr h4, rfl, rfl, rfl⟩, h5, b, s2, h6⟩, ok_of _ (by decide +kernel)⟩

/-- The thread at position 2, which has no Contour or Traverse unit: the nearest is at position 3. -/
def tP : State := { tS with threads := [(1, { th with loc := .slot 2 0 })] }
theorem witness_EquippedMoves :
    Alone tP tU ∧ (tP.thread 1).sup = false ∧ isEquipped (tP.thread 1).pos = false ∧ (tP.begun tU).equippedFor (tP.thread 1).pos = some 3 :=
  ⟨alone_thread (by decide +kernel), by decide +kernel, by decide +kernel, by decide +kernel⟩

/-! ## Witnesses: walks, passes, synchronisation -/

def canWrite (s : State) (u : UnitId) (l : List (W64 × W64)) : Bool :=
  l.all (fun e => !s.badAddr u e.1 1 && (s.writeNow u e.1 []).isSome) && (s.asksWord u l).1.isNone
theorem writable_of {s : State} {u : UnitId} {l : List (W64 × W64)} (h : canWrite s u l = true) : Spec.writable s u l := by
  simp only [canWrite, Bool.and_eq_true, List.all_eq_true, Bool.not_eq_true', Option.isNone_iff_eq_none] at h
  exact h

/-- A thread at an equipped position, with template 0 of at most 4 levels, and a ray record at s3. -/
def tRay (walk : Bool) (cells : List Host.Cell) : State :=
  { tS with vales := [(0, { ({} : Vale) with trpl := [(0, 0x20)] })], threads := [(1, { th with c := { walk := walk } })], mem := cells }
/-- A ray without a direction; a ray along x; a record in PHASE 1 with an empty stack, and with the root at 0x30000 on it. -/
def tVoid : State := tRay false []
def tGo : State := tRay false [(0x20012, 0x80), (0x20013, 0x3F)]
def tEnd : State := tRay true [(0x20059, 0x20)]
def tNode : State := tRay true [(0x20058, 1), (0x20059, 0x20), (0x20082, 3), (0x20087, 0x40)]
theorem ray_equipped (walk : Bool) (cells : List Host.Cell) : Spec.Equipped (tRay walk cells) 1 := by
  cases walk <;> exact ⟨alone_thread ⟨rfl, rfl, rfl, rfl, rfl, rfl, rfl, rfl⟩, rfl, rfl, rfl⟩

theorem ray_at {s : State} (p : Ray → State → Bool)
    (h : okTest ((s.begun tU).readWords tU (s.reg tU 3) 14) (fun ws t => p (rayOf ws) t) = true)
    (g : (decide ((s.reg tU 3).toNat % 128 = 0) && decide ((s.reg tU 3).toNat + 0x47F < 2 ^ 55) && !(s.begun tU).badAddr tU (s.reg tU 3)) = true) :
    ∃ s1 r, Spec.rayAt (s.begun tU) tU (s.reg tU 3) 0 s1 r ∧ p r s1 = true := by
  obtain ⟨ws, t, h, k⟩ := ok_of (fun ws t => p (rayOf ws) t = true)
    (h := by simpa using h)
  simp only [Bool.and_eq_true, decide_eq_true_eq, Bool.not_eq_true'] at g
  exact ⟨t, rayOf ws, ⟨g.1.1, g.1.2, g.2, by decide, ws, h, rfl⟩, k⟩

def rayBegun (r : Ray) : Ray := r.begin 0 0 1
theorem witness_RayInstructions :
    (Spec.Equipped tVoid 1 ∧ (tVoid.com tU).walk = false ∧ ∃ s1 r, Spec.rayAt (tVoid.begun tU) tU (tVoid.reg tU 3) 0 s1 r ∧
      (Spec.traceable r 0 (((tVoid.begun tU).vale 0).pipe 0) ∧ 1 ≤ pipeMaxd (((tVoid.begun tU).vale 0).pipe 0) ∧ (rayBegun r).void = true ∧
        Spec.writable s1 tU (beginWrites (tVoid.reg tU 3) (rayBegun r)))) ∧
    (Spec.Equipped tGo 1 ∧ (tGo.com tU).walk = false ∧ ∃ s1 r, Spec.rayAt (tGo.begun tU) tU (tGo.reg tU 3) 0 s1 r ∧
      (Spec.traceable r 0 (((tGo.begun tU).vale 0).pipe 0) ∧ (rayBegun r).void = false ∧
        Spec.writable s1 tU (beginWrites (tGo.reg tU 3) (rayBegun r)))) ∧
    (Spec.Equipped tEnd 1 ∧ (tEnd.com tU).walk = true ∧ ∃ s1 r, Spec.rayAt (tEnd.begun tU) tU (tEnd.reg tU 3) 0 s1 r ∧ r.st.phase = 1 ∧
      ∃ n status es s3, (s1.modCom tU (fun c => { c with walk := true })).walkStep tU (tEnd.reg tU 3) r = .ok ((.ret n status, es), s3)) ∧
    (Spec.Equipped tNode 1 ∧ (tNode.com tU).walk = true ∧ ∃ s1 r, Spec.rayAt (tNode.begun tU) tU (tNode.reg tU 3) 0 s1 r ∧ r.st.phase = 1 ∧
      ∃ n es s3, (s1.modCom tU (fun c => { c with walk := true })).walkStep tU (tNode.reg tU 3) r = .ok ((.next n, es), s3)) := by
  refine ⟨⟨ray_equipped _ _, rfl, ?_⟩, ⟨ray_equipped _ _, rfl, ?_⟩, ⟨ray_equipped _ _, rfl, ?_⟩, ray_equipped _ _, rfl, ?_⟩
  · obtain ⟨s1, r, h, k⟩ := ray_at (s := tVoid) (fun r t => (r.root &&& ~~~(0x7FFFFFFFFFFF80 : W64) == 0) && decide (r.flags.toNat < 16) && (rayBegun r).void &&
      canWrite t tU (beginWrites (tVoid.reg tU 3) (rayBegun r))) (by decide +kernel) (by decide +kernel)
    simp only [Bool.and_eq_true, beq_iff_eq, decide_eq_true_eq] at k
    exact ⟨s1, r, h, ⟨by decide +kernel, by decide, by decide, k.1.1.1, k.1.1.2⟩, by decide +kernel, k.1.2, writable_of k.2⟩
  · obtain ⟨s1, r, h, k⟩ := ray_at (s := tGo) (fun r t => (r.root &&& ~~~(0x7FFFFFFFFFFF80 : W64) == 0) && decide (r.flags.toNat < 16) && !(rayBegun r).void &&
      canWrite t tU (beginWrites (tGo.reg tU 3) (rayBegun r))) (by decide +kernel) (by decide +kernel)
    simp only [Bool.and_eq_true, beq_iff_eq, decide_eq_true_eq, Bool.not_eq_true'] at k
    exact ⟨s1, r, h, ⟨by decide +kernel, by decide, by decide, k.1.1.1, k.1.1.2⟩, k.1.2, writable_of k.2⟩
  · obtain ⟨s1, r, h, k⟩ := ray_at (s := tEnd) (fun r t => r.st.phase == 1 &&
      okTest ((t.modCom tU (fun c => { c with walk := true })).walkStep tU (tEnd.reg tU 3) r)
        (fun x _ => match x.1 with | .ret .. => true | .next _ => false)) (by decide +kernel) (by decide +kernel)
    simp only [Bool.and_eq_true, beq_iff_eq] at k
    obtain ⟨⟨x, es⟩, s3, hx, k⟩ := ok_of (fun (x : WalkOut × List (W64 × W64)) (_ : State) => (match x.1 with | .ret .. => true | .next _ => false) = true)
      (h := by simpa using k.2)
    cases x with
    | next n => cases k
    | ret n st => exact ⟨s1, r, h, by simp_all, n, st, es, s3, hx⟩
  · obtain ⟨s1, r, h, k⟩ := ray_at (s := tNode) (fun r t => r.st.phase == 1 &&
      okTest ((t.modCom tU (fun c => { c with walk := true })).walkStep tU (tNode.reg tU 3) r)
        (fun x _ => match x.1 with | .ret .. => false | .next _ => true)) (by decide +kernel) (by decide +kernel)
    simp only [Bool.and_eq_true, beq_iff_eq] at k
    obtain ⟨⟨x, es⟩, s3, hx, g⟩ := ok_of (fun (x : WalkOut × List (W64 × W64)) (_ : State) => (match x.1 with | .ret .. => false | .next _ => true) = true)
      (h := by simpa using k.2)
    cases x with
    | next n => exact ⟨s1, r, h, k.1, n, es, s3, hx⟩
    | ret n st => cases g

/-- The wave at 0x20000, with one lane, that of thread 2 whose home is position 3, and templates' pipes; its target is 0x20040. -/
def wPass (cells : List Host.Cell) (nv : Nat) : State :=
  { wS.modWave 1 (fun x => { x with apc := 0x20000, exec := 1, live := 1, nv := nv, lanes := [(0, 2)] }) with
    threads := [(2, { ({} : Thread) with loc := .lane 1 0, home := some (3, 0) })]
    vales := [(0, { ({} : Vale) with trpl := [(0, 0x20)] })]
    mem := cells }
/-- A header for threads, and one for waves of 16 registers, 64 bytes below the target. -/
def wSpur : State := wPass [(0x20007, 0x80)] 64
def wRidge : State := wPass [(0x20000, 1), (0x20002, 0x10), (0x20007, 0x80)] 64
def tRidge : State :=
  { tS with threads := [(1, { th with pc := 0x20000 })], mem := [(0x20000, 1), (0x20002, 0x10), (0x20007, 0x80)] }

/-- What a PASS asks for after its header is read. -/
def leaves (w : Bool) (s : State) : Bool :=
  s.accessesOf wU == [] && (s.wave 1).lead.isEmpty && (s.wave 1).leak.isNone && (w || s.lanesHaveHome 1) && s.binTurn 0 wU

theorem witness_Passes :
    (Alone wSpur wU ∧ Spec.reachable (Spec.relative wSpur wU ((8 : W32).signExtend 64)) ∧ (wSpur.com wU).rpt.act = false ∧
      wSpur.isSup wU = false ∧ pipeMaxd (((wSpur.begun wU).vale 0).pipe 0) ≠ 0 ∧
      Mask.lanes (((wSpur.begun wU)).wave 1).exec ≠ [] ∧ ((wSpur.begun wU).equippedFor 3).isSome = true ∧
      ∃ h s1, (wSpur.begun wU).readHeader wU false (Spec.relative wSpur wU ((8 : W32).signExtend 64)) = .ok (h, s1) ∧ leaves false s1 = true) ∧
    (Alone wRidge wU ∧ keyRetpos ((wRidge.begun wU).lreg 1 0 1) ≠ some 0 ∧
      ∃ h s1, (wRidge.begun wU).readHeader wU true (Spec.relative wRidge wU ((8 : W32).signExtend 64)) = .ok (h, s1) ∧ leaves true s1 = true) ∧
    (Alone tRidge tU ∧ (tRidge.thread 1).sup = false ∧ keyRetpos (((tRidge.thread 1).reg 1).extractLsb' 0 32) ≠ some 0 ∧
      ∃ h s1, (tRidge.begun tU).readHeader tU true (Spec.relative tRidge tU ((8 : W32).signExtend 64)) = .ok (h, s1) ∧
        (s1.accessesOf tU = [] ∧ s1.binTurn (s1.unitVale tU) tU = true)) := by
  refine ⟨⟨alone_wave (by decide +kernel), ?_, rfl, rfl, by decide +kernel, by decide +kernel, by decide +kernel, ok_of _ (by decide +kernel)⟩,
    ⟨alone_wave (by decide +kernel), by decide +kernel, ok_of _ (by decide +kernel)⟩,
    alone_thread (by decide +kernel), rfl, by decide +kernel, ok_of _ (by decide +kernel)⟩
  unfold Spec.reachable Spec.relative
  decide +kernel

/-- The wave in a block of one, and in a block of two whose other member has not arrived. -/
def wTwo : State := { wB with blocks := [(7, { blk with members := [wU, .wave 2], bsize := 2, bars := [(1, { ph := 5 })] })] }
theorem witness_Barriers :
    (Alone wB wU ∧ Spec.memberOf (wB.begun wU) wU 7 ∧ ∃ p x, Spec.arrival (wB.begun wU) 7 0 1 = some (p, x) ∧ x.ph ≠ p) ∧
    (Alone wTwo wU ∧ Spec.memberOf (wTwo.begun wU) wU 7 ∧ (∃ p x, Spec.arrival (wTwo.begun wU) 7 0 0 = some (p, x) ∧ x.ph = p) ∧
      (1 ≤ (((wTwo.begun wU).bar 7 1).ph - 2).toNat ∧ (((wTwo.begun wU).bar 7 1).ph - 2).toNat ≤ 2 ^ 31) ∧
      ¬ (1 ≤ (((wTwo.begun wU).bar 7 1).ph - 5).toNat ∧ (((wTwo.begun wU).bar 7 1).ph - 5).toNat ≤ 2 ^ 31)) := by
  refine ⟨⟨wB_alone, ⟨rfl, by decide +kernel, ?_⟩, _, _, rfl, by decide +kernel⟩, alone_wave (by decide +kernel), ⟨rfl, by decide +kernel, ?_⟩,
    ⟨_, _, rfl, by decide +kernel⟩, by decide +kernel, by decide +kernel⟩
  · intro w h; cases h; exact ⟨by decide +kernel, by decide +kernel⟩
  · intro w h; cases h; exact ⟨by decide +kernel, by decide +kernel⟩

/-- Two threads of one grid: the first has nothing left, the second three indices. -/
def tSteal : State :=
  { tS with
    grids := []
    threads := [(1, { th with c := { grid := some 3 } }), (2, { th with loc := .slot 4 0, home := some (4, 0), c := { grid := some 3, lo := 4, hi := 7 } })] }
theorem witness_RangesAndPriorities :
    (Alone tSteal tU ∧ ¬ (tSteal.com tU).lo.toNat < (tSteal.com tU).hi.toNat ∧ ((tSteal.begun tU).choose 2).1 = 0 ∧
      (((tSteal.begun tU).choose 2).2.probeAll tU (((tSteal.begun tU).victims tU).take 8)).isSome = true) ∧
    (Alone tS tU ∧ ((tS.begun tU).choose 2).1 = 0 ∧ ((tS.begun tU).choose 2).2.probeAll tU (((tS.begun tU).victims tU).take 8) = none) ∧
    (let s := tS.modCom tU (fun c => { c with hi := 1 })
     Alone s tU ∧ (s.com tU).lo.toNat < (s.com tU).hi.toNat) :=
  ⟨⟨alone_thread (by decide +kernel), by decide +kernel, by decide +kernel, by decide +kernel⟩, ⟨tS_alone, by decide +kernel, by decide +kernel⟩,
    alone_thread (by decide +kernel), by decide +kernel⟩
theorem witness_StealSplits :
    tSteal.unitExists (.thread 2) = true ∧ tSteal.unitExists tU = true ∧ tU ≠ .thread 2 ∧
      2 ≤ ((tSteal.com (.thread 2)).hi - (tSteal.com (.thread 2)).lo).toNat := by decide +kernel

/-- A launch record at s3: one block of one thread, without arguments. -/
def tLaunch : State := { tS with mem := [(0x20038, 1), (0x20040, 1)] }
theorem word_at {s : State} {u : UnitId} {a : W64} {n place : Nat}
    (h : ((s.laneCheck u (s.spaceOf u) 8 a).isNone && !s.badRead place n &&
      (match xlat s (s.spaceOf u) (s.unitCtx u) (s.ctx (s.unitCtx u)).gen (s.unitPos u) 0 a.toNat with
        | .ok p _ _ => p == place | _ => false)) = true) : Spec.wordAt s u a n place := by
  simp only [Bool.and_eq_true, Bool.not_eq_true', Option.isNone_iff_eq_none] at h
  refine ⟨h.1.1, ?_, h.1.2⟩
  revert h
  generalize xlat s (s.spaceOf u) (s.unitCtx u) (s.ctx (s.unitCtx u)).gen (s.unitPos u) 0 a.toNat = x
  intro h
  cases x with
  | ok p c g => exact ⟨c, g, by rw [eq_of_beq h.2]⟩
  | fault _ => cases h.2
  | error => cases h.2
  | miss _ => cases h.2

theorem witness_Launches :
    (Alone tLaunch tU ∧ ∃ ws t, (tLaunch.begun tU).launchDepth tU < 11 ∧ (tLaunch.reg tU 3).toNat % 128 = 0 ∧ (tLaunch.reg tU 3).toNat < 2 ^ 55 ∧
      (tLaunch.com tU).granted = none ∧ (tLaunch.begun tU).bestLaunch ((tLaunch.begun tU).unitDie tU) = none ∧
      ((tLaunch.begun tU).die ((tLaunch.begun tU).unitDie tU)).freeFor ((tLaunch.begun tU).launchDepth tU) = some true ∧
      ((((tLaunch.begun tU).takeEntry tU ((tLaunch.begun tU).launchDepth tU) true).setWait tU .none).l1Acquire tU).record tU (tLaunch.reg tU 3) 16
        = .ok (ws, t) ∧ t.launchCheck (t.unitFunc tU) (t.unitDie tU) (launchRec ws) = none) ∧
    (Alone tS tU ∧ (tS.begun tU).inTask tU = false ∧ (tS.reg tU 3).toNat % 64 = 0 ∧ Spec.wordAt (tS.begun tU) tU (tS.reg tU 3) 16 0x20000 ∧
      (tS.begun tU).rd 0x20000 8 = 0 ∧ (tS.begun tU).limitPassed tU = false ∧
      ((tS.begun tU).modCom tU (fun c => { c with until_ := some 0 })).limitPassed tU = true) ∧
    (Alone tGo tU ∧ (tGo.begun tU).rd 0x20010 8 ≠ 0) := by
  refine ⟨⟨alone_thread (by decide +kernel), ?_⟩, ⟨tS_alone, rfl, by decide +kernel, word_at (by decide +kernel), by decide +kernel, by decide +kernel,
    by decide +kernel⟩, alone_thread (by decide +kernel), by decide +kernel⟩
  obtain ⟨ws, t, h, k⟩ := ok_of
    (e := ((((tLaunch.begun tU).takeEntry tU ((tLaunch.begun tU).launchDepth tU) true).setWait tU .none).l1Acquire tU).record tU (tLaunch.reg tU 3) 16)
    (fun ws t => t.launchCheck (t.unitFunc tU) (t.unitDie tU) (launchRec ws) = none) (by decide +kernel)
  exact ⟨ws, t, by decide +kernel, by decide +kernel, by decide +kernel, rfl, by decide +kernel, by decide +kernel, h, k⟩

theorem witness_SleepAndWake :
    Alone tS tU ∧ (tS.begun tU).inTask tU = false ∧ Spec.wordAt (tS.begun tU) tU (tS.reg tU 3) 8 0x20000 ∧
    BitVec.ofNat 64 ((tS.begun tU).rd 0x20000 8) = tS.reg tU 0 ∧ BitVec.ofNat 64 ((tS.begun tU).rd 0x20000 8) ≠ tS.reg tU 1 ∧
    ((tS.begun tU).l1Acquire tU).accessesOf tU = [] ∧ ((tS.begun tU).l1Acquire tU).heldAccess tU = none ∧
    (tS.begun tU).laneCheck tU ((tS.begun tU).spaceOf tU) 8 (tS.reg tU 3) = none ∧
    Spec.wordAt ((tS.begun tU).l1Acquire tU) tU (tS.reg tU 3) 0 0x20000 :=
  ⟨tS_alone, rfl, word_at (by decide +kernel), by decide +kernel, by decide +kernel, by decide +kernel, by decide +kernel, by decide +kernel,
    word_at (by decide +kernel)⟩

theorem one_answer {s : State} {a : Access}
    (h : (match (s.issue a).2.access (s.issue a).1 with | some b => b.complete && !b.failed | none => false) = true) :
    ∃ x t, Spec.oneAnswer s a x t := by
  revert h
  generalize hx : (s.issue a).2.access (s.issue a).1 = e
  intro h
  cases e with
  | none => cases h
  | some b => simp only [Bool.and_eq_true, Bool.not_eq_true'] at h; exact ⟨_, _, b, hx, h.1, h.2, rfl, rfl⟩

/-- The thread with s6 = 0x20000 as the join word of a TASK whose message words are s4 to s6, and s5 = position 1. -/
def tTask : State := { tS with threads := [(1, { th with regs := (th.regs.set 5 0x100).set 6 0x20000 })] }
def joined : State := (tTask.begun tU).issue (Spec.joins (tTask.begun tU) tU 0x20000 false) |> fun r => r.2.dropAccess r.1
theorem witness_Tasks :
    (Alone tTask tU ∧ (tTask.com tU).redo = none ∧ tTask.reg tU (4 + 2) ≠ 0 ∧ (tTask.reg tU 5).toNat / 256 % 4096 < 3072 ∧
      (tTask.begun tU).laneCheck tU ((tTask.begun tU).spaceOf tU) 8 (tTask.reg tU 6) = none ∧
      (∃ x s1, Spec.oneAnswer (tTask.begun tU) (Spec.joins (tTask.begun tU) tU (tTask.reg tU 6) false) x s1) ∧
      ∃ y t, Spec.oneAnswer joined (Spec.taskMessage joined tU 7 5 4) y t) ∧
    (tTask.reg tU (7 + 2) = 0 ∧ ∃ y t, Spec.oneAnswer (tTask.begun tU) (Spec.taskMessage (tTask.begun tU) tU 8 5 7) y t) ∧
    (∃ x s1, Spec.oneAnswer (tTask.begun tU) (Spec.joins (tTask.begun tU) tU (tTask.reg tU 6) true) x s1) ∧ tTask.reg tU 0 = 0 ∧
    (Alone wS wU ∧ ((wS.begun wU).wave 1).leak = none) := by
  refine ⟨⟨alone_thread (by decide +kernel), rfl, by decide +kernel, by decide +kernel, by decide +kernel, one_answer (by decide +kernel),
    one_answer (by decide +kernel)⟩, ⟨by decide +kernel, one_answer (by decide +kernel)⟩, one_answer (by decide +kernel), rfl, wS_alone, by decide +kernel⟩

/-! ## Witnesses: the system class and the steps of the device -/

/-- The thread with SVEC set, in a service call, with frame 2 of its Vale holding thread 5, whose frame's address is in s1. -/
def tSys : State :=
  { tS with
    threads := [(1, { th with svc := some { unit := .thread 5, lane := none, pos := 3, cls := 0, homeSlot := true, ret := 0 }
                              regs := th.regs.set 1 (BitVec.ofNat 64 (windowAddr 0 0x3C200)) }), (5, { ({} : Thread) with loc := .frame 0 2 })]
    vales := [(0, { ({} : Vale) with svec := 0x40, frames := [(2, .thread 5)] })] }
theorem tSys_alone : Alone tSys tU := alone_thread (by decide +kernel)
/-- A wave no lane of which executes. -/
def wNone : State := wS.modWave 1 (fun x => { x with exec := 0 })
theorem witness_CallsAndReturns :
    Alone tSys tU ∧ tSys.isSup tU = false ∧ (tSys.com tU).rpt.act = false ∧ ((tSys.begun tU).vale ((tSys.begun tU).unitVale tU)).svec &&& 0x7FFFFFFFFFFFC0 ≠ 0 ∧
    (tSys.thread 1).svc.isSome = true ∧
    (∃ f x, (tSys.begun tU).frameAt ((tSys.begun tU).unitVale tU) (tSys.reg tU 1) = some (f, x)) ∧ (tSys.reg tU 3).toNat % 8 = 0 ∧
    (Alone wNone wU ∧ wNone.isSup wU = false ∧ (wNone.wave 1).exec = 0) :=
  ⟨tSys_alone, rfl, rfl, by decide +kernel, rfl, ⟨_, _, rfl⟩, by decide +kernel, alone_wave (by decide +kernel), rfl, rfl⟩

theorem witness_ControlRegisters :
    Alone tS tU ∧ Spec.mayReach (tS.begun tU) tU false 0x120 ∧ Spec.mayReach (tS.begun tU) tU true 0 ∧
    ((tS.begun tU).writeControl tU 0 (tS.reg tU 1)).unitExists tU = true ∧
    Spec.mayReach (tS.begun tU) tU true 0x220 ∧ ((tS.begun tU).writeControl tU 0x220 8).unitExists tU = false ∧ tS.unitPos tU < Config.vales * 32 :=
  ⟨tS_alone, ⟨by decide, rfl⟩, ⟨by decide, rfl⟩, by decide +kernel, ⟨.inr (by decide +kernel), rfl⟩, by decide +kernel, by decide +kernel⟩

/-- The thread alone in its partition, which is not halted; and a state in which it is. -/
def tHalt : State := { tS with funcs := [(0, { halted := true })] }
def tEvent : State := { tS with threads := [(1, { th with event := true })] }
/-- Two threads of the partition: the other has not stopped. -/
def tOther : State :=
  { tS with threads := [(1, th), (2, { th with loc := .slot 4 0, home := some (4, 0), c := { bundle := some ⟨.nopC false, none⟩ }, slotBit := true })] }
def stopped (s : State) : State := ((s.begun tU).modFunc 0 (fun f => { f with halted := true, issuer := some tU })).haltStep 0 (fun _ => true) (some tU)
theorem witness_SystemOperations :
    Alone tS tU ∧ Spec.leafOk (tS.reg tU 0) (tS.reg tU 0) 0 ∧ Spec.mayName (tS.begun tU) tU 0 ∧
    ((tS.begun tU).func 0).halted = false ∧ (stopped tS).haltDone 0 (fun _ => true) (some tU) = true ∧
    (Alone tOther tU ∧ (stopped tOther).haltDone 0 (fun _ => true) (some tU) = false) ∧
    (tHalt.cur = some tU ∧ ((tHalt.begun tU).func 0).halted = true) ∧ (tS.faults = []) ∧
    (tS.thread 1).event = false ∧ (Alone tEvent tU ∧ (tEvent.thread 1).event = true) := by
  refine ⟨tS_alone, ?_, .inl (by decide +kernel), rfl, by decide +kernel, ⟨alone_thread (by decide +kernel), by decide +kernel⟩, ⟨rfl, rfl⟩, rfl, rfl,
    alone_thread (by decide +kernel), rfl⟩
  unfold Spec.leafOk
  decide +kernel

/-- A lane in each of the states that a step asks about, of a load in flight. -/
def acc (op : AccOp) (st : LaneSt) : Access :=
  { id := 4, unit := tU, op := op, bytes := 8, dest := .none, space := .virt, ctx := 0, gen := 0, pos := 3, holding := false,
    acquire := false, w0 := 0, w1 := 0, pc := 0, lanes := [{ lane := 0, ea := 0x20000, st := st }] }
def tAcc (op : AccOp) (st : LaneSt) : State := { tS with accesses := [acc op st], waiters := [{ key := 0x20000, unit := tU, lane := some (4, 0) }] }
/-- Copy engine 0 with job 6 waiting to start; a steal of thread 1 under way. -/
def tQueue : State :=
  { tSteal with
    jobs := [(6, { eng := 0, id := 1, owner := tU, ctx := 0, gen := 0, func := 0, blk := none, kind := .copy, moves := [], waitTok := some 7 })]
    reqs := [(1, .steal tU [] 5), (2, .steal tU [.thread 2] 5), (3, .steal (.thread 2) [tU] 5), (4, .steal (.thread 2) [tU, tU] 5)] }
theorem witness_AccessSteps :
    (∃ a l, (tAcc (.load false) .pend).access 4 = some a ∧ a.lane 0 = some l ∧ l.st = .pend ∧ (tAcc (.load false) .pend).mayPerform a l = true) ∧
    (∃ w, (tAcc (.sync false false) .waiting).waiters.find? (fun x => x.lane == some (4, 0)) = some w ∧
      (tAcc (.sync false false) .waiting).wordEmpty w.key = false ∧ (tAcc (.sync false false) .waiting).marked 0 0x20000 w.key = false) ∧
    (∃ k, tQueue.startable 0 = some k) ∧ tQueue.startable 1 = none ∧ (∃ j, tQueue.jobs.find 6 = some j ∧ j.waitTok = some 7) ∧
    tQueue.reqs.find 1 = some (.steal tU [] 5) ∧ (tQueue.stealFrom tU (.thread 2)).isSome = true ∧ tQueue.stealFrom (.thread 2) tU = none := by
  refine ⟨⟨_, _, rfl, rfl, rfl, by decide +kernel⟩, ⟨_, rfl, by decide +kernel, by decide +kernel⟩, ⟨6, by decide +kernel⟩, by decide +kernel,
    ⟨_, rfl, rfl⟩, rfl, by decide +kernel, by decide +kernel⟩

/-- A task's message of an enabled type at position 5, and a walk of die 0. -/
def msg : Msg := { id := 1, pos := 5, words := [7, 0, 0, 0, 0, 0, 0, 0], ctx := 0 }
def tInbox : State :=
  { tS with positions := [(5, { ({} : Position) with inbox := [msg] })], mem := [(vecPlace 5 7, 1), (vecPlace 5 7 + 5, 8), (bankPlace 5 0x3E000, 7)]
            reqs := [(8, .frags 0 0 0x40 16 0 [.frag 1 2 3 4 5 6] none)] }
def tContour : State := { tS with accesses := [acc (.contour ⟨0, 0, 0, 0, 0⟩ .tileOpen) .pend] }
theorem witness_MessageSteps :
    (∃ a, (tAcc (.send [7]) .pend).access 4 = some a ∧ ((∃ ws, a.op = .send ws) ∨ ∃ ty, a.op = .amsg ty)) ∧
    (tInbox.walkFor 5 0 = none ∧ tInbox.taskFor 5 0 = some msg) ∧ (tInbox.walkFor 6 0 = none ∧ tInbox.taskFor 6 0 = none) ∧
    (∃ a l, tContour.access 4 = some a ∧ a.op.isContour = true ∧ a.lanes.find? (fun l => l.st == .pend && tContour.mayPerform a l) = some l) ∧
    (∃ t, tInbox.access 8 = none ∧ tInbox.fragEnter 8 = some t) ∧ (tInbox.access 9 = none ∧ tInbox.fragEnter 9 = none) := by
  refine ⟨⟨_, rfl, .inl ⟨_, rfl⟩⟩, ⟨by decide +kernel, by decide +kernel⟩, ⟨by decide +kernel, by decide +kernel⟩, ⟨_, _, rfl, rfl, rfl⟩, ?_, rfl, rfl⟩
  obtain ⟨t, h⟩ := is_some (e := tInbox.fragEnter 8) (by decide +kernel)
  exact ⟨t, rfl, h⟩

/-- A wave whose WAITR has waited for its limit. -/
def wWait : State :=
  { wS.modWave 1 (fun x => { x with
      exec := 0, absent := 0xF0, c := { x.c with wait := .waitr 5 1 },
      stack := [{ outer := 0xFF, pend := 0, ppc := 0, jpc := 0x10000, since := some 0 }] }) with acount := 100000 }
/-- Threads in SLEEP and WFI; two messages of traps and faults; a LAUNCH that waits for an entry; a thread in the inbox of position 3. -/
def tWaits : State :=
  { tS with
    time := 300000
    threads := [(1, { th with c := { wait := .sleep 5, until_ := some 7 } }), (2, { th with c := { wait := .wfi 5 none }, event := true }),
      (3, { th with c := { wait := .wfi 5 (some 9) } }), (4, { th with c := { wait := .launchq 1 } }), (5, { th with loc := .inbox 3 0 1, home := none }),
      (6, { th with loc := .trapWait 0 })]
    vales := [(0, { ({} : Vale) with tvec := 0x40, traps := [{ unit := .thread 6, info := { cause := .misaligned }, time := 0, slotBit := false }] })]
    dies := [(0, { ({} : Die) with launchq := [.thread 4] })]
    faults := [{ die := 0, idx := 0, seq := 1, ctx := 0, page := 2, gen := 0, kinds := 1, va := 0x20000, sub := false, src := 0 }] }
theorem witness_UnitSteps :
    (let r := (wMat.settle wU (fun a => match a.dest with | .slot .. => true | _ => false)).2
     r.stepReady 1 = true ∧ (∃ st rest x, (r.wave 1).steps = st :: rest ∧ (r.wave 1).t.find st.tile = some x) ∧ (r.choose 257).1 = 0) ∧
    (∃ d, wWait.waitrOver 1 = some d) ∧ wS.waitrOver 1 = none ∧ (tWaits.com tU).wait = .sleep 5 ∧ (tWaits.thread 2).c.wait = .wfi 5 none ∧
    (tWaits.thread 2).event = true ∧ ((tWaits.thread 3).c.wait = .wfi 5 (some 9) ∧ (tWaits.thread 3).event = false ∧ 9 ≤ tWaits.time) ∧
    (tWaits.bestLaunch 0).isSome = true ∧ tWaits.bestLaunch 1 = none ∧ (tWaits.slotWaiter 3).isSome = true ∧ tWaits.slotWaiter 4 = none ∧
    (tWaits.deliverTrap 0).isSome = true ∧ tWaits.deliverTrap 1 = none ∧ (tWaits.faultDue 0).isSome = true ∧
    tWaits.faultDue 0xFFFF = none := by
  refine ⟨⟨by decide +kernel, ⟨_, _, _, rfl, rfl⟩, by decide +kernel⟩, ⟨5, ?_⟩, ?_, ?_, ?_, ?_, ?_, ?_, ?_, ?_, ?_, ?_, ?_, ?_, ?_⟩ <;> decide +kernel

/-- A spur grid that can be admitted on die 0, whose dependence failed or has not been read, and a bin with a thread that has waited. -/
def gr : Grid :=
  { die := 0, serial := 1, ctx := 0, entry := 0x20000, args := 0, cpl := 0, deps := [], nblk := 1, bsize := 1, ridge := false, regs := 0, scr := 0,
    acc := 0, prio := 0, order := false, fpctl := 0, vmask := 0, depth := 0, parent := none, prev := none, page := none, pool := some true }
def tGrids : State :=
  { tS with
    time := 300000
    grids := [(1, { gr with ready := some 0 }), (2, { gr with deps := [(0x20000, 5)] }), (3, { gr with deps := [(0x20000, 5)], pw := { failed := true } })]
    blocks := [(1, { blk with swap := .prk, parkTime := some 0 }), (2, { blk with swap := .out }), (3, { blk with swap := .inn })]
    vales := [(0, { ({} : Vale) with bins :=
      [(0, { target := 0x40, tmpl := 0, ctx := 0, fpctl := 0, frag := false, nv := 16, scr := 0, entries := [{ key := 0, arrival := 0, body := .thread 2 }], oldest := 0 }),
       (1, { target := 0x40, tmpl := 0, ctx := 0, fpctl := 0, frag := false, nv := 16, scr := 0, entries := [{ key := 0, arrival := 0, body := .thread 2 }], oldest := 0,
             closed := some 1 })] })] }
/-- A block of a parked wave on an engine that is leaving, and a block in its image that comes back. -/
def wSwap : State :=
  { wB with engines := [(0, { ({} : Engine) with leaving := true })] }
def wBack : State :=
  { wB with blocks := [(7, { blk with swap := .rdy, eng := none })] }
theorem witness_GridAndBlockSteps :
    (tGrids.pollDue 2 (tGrids.grid 2) = true ∧ (tGrids.grid 2).pw.failed = false) ∧
    (tGrids.pollDue 3 (tGrids.grid 3) = true ∧ (tGrids.grid 3).pw.failed = true) ∧ tGrids.pollDue 1 (tGrids.grid 1) = false ∧
    (∃ h e passed, tGrids.nextCand 0 = some (.fresh h, e, passed)) ∧ tGrids.nextCand 1 = none ∧
    (∃ x k, (tGrids.vale 0).bins.find 0 = some x ∧ tGrids.blocks.find 1 = some k ∧ x.closed = none) ∧
    (∃ x e, (tGrids.vale 0).bins.find 1 = some x ∧ x.closed.isSome = true ∧ tGrids.stoppedOn (tGrids.ctxFunc x.ctx) 0 = false ∧ tGrids.binEngine 0 x = some e) ∧
    (∃ k, tGrids.blocks.find 2 = some k ∧ k.swap = .out) ∧ (∃ k, tGrids.blocks.find 3 = some k ∧ k.swap = .inn) ∧
    (∃ k e, wSwap.blocks.find 7 = some k ∧ wSwap.swapDue 7 k = true ∧ wSwap.swapFirst 7 k = true ∧ k.eng = some e) ∧
    (∃ e passed, wBack.nextCand 0 = some (.back 7, e, passed)) := by
  exact ⟨⟨by decide +kernel, rfl⟩, ⟨by decide +kernel, rfl⟩, by decide +kernel, ⟨1, 1, [], by decide +kernel⟩, by decide +kernel, ⟨_, _, rfl, rfl, rfl⟩,
    ⟨_, 0, rfl, rfl, by decide +kernel, by decide +kernel⟩, ⟨_, rfl, rfl⟩, ⟨_, rfl, rfl⟩, ⟨_, 0, rfl, by decide +kernel, by decide +kernel, rfl⟩,
    0, [], by decide +kernel⟩

/-- Die 0 with a LOAD of context 3 and die 1 with a teardown of context 4 under way, die 2 with a world switch. -/
def tCtl : State :=
  { tS with
    dies := [(0, { ({} : Die) with ctxOp := some (1, 3) }), (1, { ({} : Die) with ctxOp := some (2, 4) }), (2, { ({} : Die) with wsOp := some 0x10000001 })]
    ctxs := [(0, { loaded := true }), (4, { loaded := true, teardown := some 0 })] }
theorem witness_ContextAndRegisterSteps :
    tCtl.ctlDie 1 3 = some 0 ∧ (tCtl.ctx 3).teardown = none ∧ tCtl.ctlDie 2 4 = some 1 ∧ (tCtl.ctx 4).teardown = some 0 ∧
    (∀ e, tCtl.ctlDie 1 5 ≠ some e) ∧ (∀ e, tCtl.ctlDie 2 5 ≠ some e) ∧ (tCtl.die 2).wsOp = some 0x10000001 ∧ (tCtl.die 3).wsOp = none ∧
    ((0x800 : W64).toNat / 2 ^ 12 % 2 ^ 9 ≤ 256 ∧ (0x800 : W64).toNat / 2 ^ 12 % 2 ^ 9 % 8 = 0) ∧ (0x1000 : W64).toNat / 2 ^ 12 % 2 ^ 9 % 8 ≠ 0 := by
  refine ⟨by decide, rfl, by decide, rfl, ?_, ?_, rfl, rfl, by decide, by decide⟩
  · intro e h; have : tCtl.ctlDie 1 5 = none := by decide
    rw [this] at h; cases h
  · intro e h; have : tCtl.ctlDie 2 5 = none := by decide
    rw [this] at h; cases h

/-- Position 1 dead, position 2 late; Vale 1 offline. -/
def tHealth : State :=
  { tS with time := 50000, vales := [(0, { ({} : Vale) with dead := 2, record := 2 }), (1, { ({} : Vale) with offline := true })] }
theorem witness_HealthSteps :
    tHealth.posDead 1 = true ∧ (tHealth.posDead 2 = false ∧ (tHealth.position 2).beatAt + 4 * (tHealth.vale 0).hbper.toNat ≤ tHealth.time) ∧
    (tHealth.vale 1).offline = true ∧ (tHealth.vale 0).offline = false ∧ 400 < tHealth.adentoth.aMHz ∧ (0x0B < 256 ∧ 5 < 65536 ∧ 1 < 16 ∧ 1 < 3) ∧
    -- a write that maps spare A to the dead position 1, and one that names position 3, which lives
    ((tHealth.vale 0).dead.getLsbD (((0x2100000000 : W64).extractLsb' 32 5).toNat) = true ∧
      (tHealth.vale 0).dead.getLsbD (((0x2300000000 : W64).extractLsb' 32 5).toNat) = false) := by
  decide +kernel

/-- A page bound to queue 2 of die 0, which is on, with a work record that waits to be read and one that is complete; and a host access that is held. -/
def tPage : State :=
  { tS with
    time := 300000
    dies := [(0, { ({} : Die) with lqcfg := [(2, 0x1004)] })]
    funcs := [(1, { ({} : Func) with pages :=
      [(0, { ({} : Page) with bound := some (0, 2, 0), opens := [{ hseq := 1, op := 0, lrec := 0, user := 0 }],
                              completions := [{ hseq := 0, op := 0, lrec := 0, user := 0, done := some (1, 0) }] }),
       (1, { ({} : Page) with bound := some (0, 3, 0) })] })]
    remotes := [{ id := 4, func := 1, op := .read 8, va := 0x20000, until_ := some 9, peer := none, pw := { tok := some 5 } }] }
/-- The record of a SUBMIT that fits an empty page. -/
def rec16 : List W64 := 2 :: List.replicate 15 0
theorem witness_SubmissionAndRemoteSteps :
    (tS.page 0 0).bound = none ∧ (tPage.page 1 0).bound = some (0, 2, 0) ∧ tPage.queueOn 1 0 2 = true ∧ tPage.queueOn 1 0 3 = false ∧
    rec16.length = 16 ∧ Spec.recordFits { (tPage.page 1 0) with submitSeq := 1 } rec16 ∧
    (∃ r, tPage.nextRecord 1 0 = some r) ∧ tPage.nextRecord 1 1 = none ∧ (∃ r, tPage.nextCompletion 1 0 = some r) ∧
    tPage.nextCompletion 1 1 = none ∧ (∃ x, tPage.remoteLate 4 = some x) ∧ tPage.remoteLate 5 = none := by
  refine ⟨rfl, rfl, ?_, ?_, rfl, ?_, is_some ?_, ?_, is_some ?_, ?_, is_some ?_, ?_⟩ <;>
    first | decide +kernel | (unfold Spec.recordFits; decide +kernel)

/-- A position with a message in its overflow region and one without; dies with and without an operation; Vales of one partition and of another. -/
theorem witness_RegisterWrites :
    (tInbox.position 6).overflow = [] ∧ ((tInbox.modPosition 6 (fun q => { q with overflow := [msg] })).position 6).overflow ≠ [] ∧
    (tCtl.die 0).ctxOp ≠ none ∧ (tCtl.die 3).ctxOp = none ∧ (0x100 : W64).extractLsb' 8 2 = 1 ∧ (tCtl.die 2).wsOp ≠ none ∧ (tCtl.die 3).wsOp = none ∧
    (tC.vale 1).func ≠ (tC.vale 0).func := by
  refine ⟨rfl, by decide +kernel, by decide +kernel, rfl, by decide,
    by decide +kernel, rfl, by decide +kernel⟩

theorem witness_RegisterReads :
    (∃ r rest, (tPage.page 1 0).opens = r :: rest) ∧ (tPage.page 1 1).opens = [] ∧
    (∃ ws, ((tPage.modPage 1 0 (fun p => { p with history := [(63, [1, 2, 3, 4])] })).page 1 0).history.find 63 = some ws) ∧
    tPage.adentoth.st < 16 ∧ tPage.adentoth.reason < 256 ∧ tPage.adentoth.src < 65536 :=
  ⟨⟨_, _, rfl⟩, rfl, ⟨_, rfl⟩, by decide, by decide, by decide⟩

theorem witness_TimePasses :
    tS.unitExists tU = true ∧ wS.unitExists wU = true ∧ wS.waitrPaused 1 = false ∧ tHalt.limitPaused tU = true ∧ tS.limitPaused tU = false := by
  decide +kernel

/-- Whether an image passes rests on SHA-512 and ECDSA, which have no body here (log entry 7): only a failing image can be written out. -/
theorem witness_PackageSteps :
    imageFails State.reset.coldState.adentoth [] = some none ∧ (5 : Nat) < 65536 ∧
      ({ State.reset with adentoth := { State.reset.adentoth with st := 2 } } : State).adentoth.st = 2 := by decide +kernel

/-! ## Witnesses: frames, traps, decoding, steps -/

theorem witness_RegisterFrame :
    Alone tS tU ∧ (∃ t, exec (.add 3 1 2 false) tS = .next t) ∧ Spec.divides .add = false ∧ ∃ t, exec (.divn 3 1 2 true) tS = .next t :=
  ⟨tS_alone, next_of (by decide +kernel), rfl, next_of (by decide +kernel)⟩

def tAnswer (a : Access) : State := { tS with accesses := [a] }
theorem witness_MemoryEffects :
    (State.memWf tGo ∧ Spec.writesPlace .store = true ∧ Spec.writesPlace (.load false) = false ∧ ∀ k, k < 8 → storeMask (0x20000 + k) = 0xFF) ∧
    (∀ op ∈ [AccOp.atom 7 true false, .load true],
      (∃ b x, ((tAcc op .pend).effect (acc op .pend) { lane := 0, ea := 0x20000 } 0x20000 2 4096).access 4 = some b ∧ b.lane 0 = some x) ∧
        (acc op .pend).bytes = 8 ∧ (tAcc op .pend).unitEng (acc op .pend).unit = none) ∧
    (wOut .pend []).effClass ((wOut .pend []).unitEng wU) 0 0x50000 2 = 2 ∧
    (let a := { acc (.load false) .perf with dest := .reg 5 }
     (tAnswer a).access a.id = some a ∧ a.lane 0 = some { lane := 0, ea := 0x20000, st := .perf }) ∧
    ∀ d ∈ [Dest.reg 5, .vreg 9 true], (let a := { acc (.load false) .perf with unit := wU, dest := d }
      (tAnswer a).access a.id = some a ∧ a.lane 0 = some { lane := 0, ea := 0x20000, st := .perf }) := by
  refine ⟨⟨by unfold State.memWf; decide +kernel, by decide +kernel⟩, ?_, by decide +kernel, ⟨rfl, rfl⟩, ?_⟩
  · intro op h
    fin_cases h <;> exact ⟨⟨_, _, rfl, rfl⟩, rfl, rfl⟩
  · intro d h
    fin_cases h <;> exact ⟨rfl, rfl⟩

theorem mapped_of {s : State} {a : Access}
    (h : a.lanes.all (fun l => match xlat s a.space a.ctx a.gen a.pos a.op.kind l.ea.toNat with | .ok _ cls _ => cls != 3 | _ => false) = true) :
    Spec.mapped s a := by
  intro l hl
  have k := List.all_eq_true.mp h l hl
  revert k
  generalize xlat s a.space a.ctx a.gen a.pos a.op.kind l.ea.toNat = x
  intro k
  cases x with
  | ok place cls grain => exact ⟨place, cls, grain, rfl, fun _ => by simpa using k⟩
  | fault _ => cases k
  | error => cases k
  | miss _ => cases k
/-- A byte that a store leaves: that below the least place. -/
theorem outside_of {s : State} {a : Access} {q : Nat}
    (h : a.lanes.all (fun l => match xlat s a.space a.ctx a.gen a.pos a.op.kind l.ea.toNat with | .ok place _ _ => decide (q < place) | _ => true) = true) :
    Spec.outside s a q := by
  intro l hl place cls grain hx
  have k := List.all_eq_true.mp h l hl
  rw [hx] at k
  exact .inl (by simpa using k)
/-- The hypotheses of the frame of one store. -/
def storing (s : State) (u : UnitId) (i : Instr) (a : Access) : Prop :=
  Spec.mapped (s.begun u) a ∧ (∃ t, exec i s = .next t) ∧ ∃ q, Spec.outside (s.begun u) a q
theorem storing_of {s : State} {u : UnitId} {i : Instr} {a : Access}
    (h : a.lanes.all (fun l => match xlat (s.begun u) a.space a.ctx a.gen a.pos a.op.kind l.ea.toNat with
      | .ok place cls _ => cls != 3 && decide (0x100 < place) | _ => false) = true)
    (k : (match exec i s with | .next _ => true | _ => false) = true) : storing s u i a := by
  refine ⟨mapped_of (List.all_eq_true.mpr fun l hl => ?_), next_of k, 0x100, outside_of (List.all_eq_true.mpr fun l hl => ?_)⟩ <;>
    · have g := List.all_eq_true.mp h l hl
      revert g
      generalize xlat (s.begun u) a.space a.ctx a.gen a.pos a.op.kind l.ea.toNat = x
      intro g
      cases x <;> simp_all

theorem witness_StoreFrame :
    (Alone tS tU ∧ tS.memWf ∧ tS.soft = [] ∧ tS.bad = []) ∧ (Alone wB wU ∧ wB.memWf ∧ wB.soft = [] ∧ wB.bad = []) ∧
    (∃ d, Spec.passes (tS.begun tU) tU (Spec.space (tS.begun tU) tU false) (Spec.form tU mT none) 1 ∧
      (tS.begun tU).storeData tU (Spec.form tU mT none) = some d ∧
      storing tS tU (.st mT) (Spec.storeOf (tS.begun tU) tU mT none (Spec.space (tS.begun tU) tU false) .store false d)) ∧
    (∃ d, Spec.passes (wB.begun wU) wU (Spec.space (wB.begun wU) wU false) (Spec.form wU mV none) 1 ∧
      (wB.begun wU).storeData wU (Spec.form wU mV none) = some d ∧
      storing wB wU (.st mV) (Spec.storeOf (wB.begun wU) wU mV none (Spec.space (wB.begun wU) wU false) .store false d)) ∧
    (Spec.passes (tS.begun tU) tU ((tS.begun tU).spaceOf tU) (Spec.formX tU mT (some (extA false))) 3 ∧
      storing tS tU (.atom mT (extA false)) (Spec.atomOf (tS.begun tU) tU mT (extA false) true)) ∧
    (Spec.passes (wB.begun wU) wU (Spec.histOf (wB.begun wU) wU mV none).space (Spec.form wU mV none) 3 ∧
      storing wB wU (.hist mV none) (Spec.histOf (wB.begun wU) wU mV none)) ∧
    (∃ x, Spec.tileIs (wB.begun wU) 1 2 x ∧
      Spec.imagePasses (wB.begun wU) wU (Spec.space (wB.begun wU) wU false) (wB.reg wU 3) (8 + 96 * Spec.columns x.wide) 1 ∧
      storing wB wU (.accsv 2 3) (Spec.imageStores (wB.begun wU) wU (Spec.space (wB.begun wU) wU false) (wB.reg wU 3) 2 x)) := by
  refine ⟨⟨tS_alone, by unfold State.memWf; decide, rfl, rfl⟩, ⟨wB_alone, by unfold State.memWf; decide, rfl, rfl⟩,
    ⟨fun l => (tS.begun tU).memReg tU (Spec.form tU mT none) 5 true l, passes_of (by decide +kernel), rfl,
      storing_of (by decide +kernel) (by decide +kernel)⟩, ?_,
    ⟨passes_of (by decide +kernel), storing_of (by decide +kernel) (by decide +kernel)⟩,
    ⟨passes_of (by decide +kernel), storing_of (by decide +kernel) (by decide +kernel)⟩,
    ⟨_, ⟨by decide +kernel, rfl⟩, image_of (by decide +kernel), storing_of (by decide +kernel) (by decide +kernel)⟩⟩
  exact ⟨fun l => (wB.begun wU).memReg wU (Spec.form wU mV none) 5 false l, passes_of (by decide +kernel), rfl,
    storing_of (by decide +kernel) (by decide +kernel)⟩

/-- The thread and the wave with an odd address in register 3. -/
def tOdd : State := { tS with threads := [(1, { th with regs := th.regs.set 3 0x20001 })] }
def wOdd : State := wB.modWave 1 (fun x => { x with k := x.k.set 3 0x20001 })
theorem fails_of {s : State} {u : UnitId} {sp : Space} {n k : Nat} {eas : List (Nat × W64)}
    (h : (eas.filter (fun e => (Spec.cause s u sp n k e.2).isSome)).isEmpty = false) :
    ∃ l a rest c, eas.filter (fun e => (Spec.cause s u sp n k e.2).isSome) = (l, a) :: rest ∧ Spec.cause s u sp n k a = some c := by
  generalize hx : eas.filter (fun e => (Spec.cause s u sp n k e.2).isSome) = x at h
  cases x with
  | nil => cases h
  | cons e rest =>
    have he : e ∈ eas.filter (fun e => (Spec.cause s u sp n k e.2).isSome) := by rw [hx]; exact .head _
    obtain ⟨c, hc⟩ := Option.isSome_iff_exists.mp (List.mem_filter.mp he).2
    exact ⟨e.1, e.2, rest, c, rfl, hc⟩
theorem witness_AlignmentTraps :
    (Alone tOdd tU ∧ (tOdd.com tU).redo = none ∧ (tOdd.begun tU).inTask tU = false ∧
      ∃ l a rest c, (Spec.addresses (tOdd.begun tU) tU (Spec.form tU mT none)).filter (fun e =>
        (Spec.cause (tOdd.begun tU) tU (Spec.space (tOdd.begun tU) tU false) (szBytes mT.sz) 0 e.2).isSome) = (l, a) :: rest ∧
        Spec.cause (tOdd.begun tU) tU (Spec.space (tOdd.begun tU) tU false) (szBytes mT.sz) 0 a = some c) ∧
    (Alone wOdd wU ∧ (wOdd.com wU).redo = none ∧
      (∃ l a rest c, (Spec.addresses (wOdd.begun wU) wU (Spec.formX wU mV (some (extA false)))).filter (fun e =>
        (Spec.cause (wOdd.begun wU) wU ((wOdd.begun wU).spaceOf wU) (szBytes mV.sz) 3 e.2).isSome) = (l, a) :: rest ∧
        Spec.cause (wOdd.begun wU) wU ((wOdd.begun wU).spaceOf wU) (szBytes mV.sz) 3 a = some c) ∧
      ∃ l a rest c, (Spec.addresses (wOdd.begun wU) wU (Spec.form wU mV none)).filter (fun e =>
        (Spec.cause (wOdd.begun wU) wU (Spec.space (wOdd.begun wU) wU true) (szBytes mV.sz) 1 e.2).isSome) = (l, a) :: rest ∧
        Spec.cause (wOdd.begun wU) wU (Spec.space (wOdd.begun wU) wU true) (szBytes mV.sz) 1 a = some c) :=
  ⟨⟨alone_thread (by decide +kernel), rfl, by decide +kernel, fails_of (by decide +kernel)⟩, alone_wave (by decide +kernel), rfl,
    fails_of (by decide +kernel), fails_of (by decide +kernel)⟩

/-- The wave that waits in a SLEEP. -/
def wSleep : State := wS.modWave 1 (fun x => { x with c := { x.c with wait := .sleep 5 } })
theorem witness_TrapEntry :
    (tS.isSup tU = false ∧ tS.trapQuiet tU = true) ∧ ((tAcc (.load false) .pend).isSup tU = false ∧
      (tAcc (.load false) .pend).trapQuiet tU = false) ∧
    (wSleep.isSup wU = false ∧ wSleep.trapQuiet wU = true) ∧ ((wOut .perf []).isSup wU = false ∧ (wOut .perf []).trapQuiet wU = false) ∧
    (∃ m rest, (tWaits.vale 0).traps = m :: rest ∧ before m.arr (tWaits.entryOrder 0 0) = true ∧ (tWaits.vale 0).tvec &&& 0x7FFFFFFFFFFFC0 ≠ 0 ∧ tWaits.posDead 0 = false ∧
      freeIndex (tWaits.vale 0).frames.keys 32 = some 0 ∧ tWaits.freeSlots 0 0 ≠ [] ∧ tWaits.inboxThreads 0 0 false = [] ∧ tWaits.memWf) ∧
    (let s := { tWaits with vales := [(0, { tWaits.vale 0 with tvec := 0 })] }
     ∃ m rest, (s.vale 0).traps = m :: rest ∧ (s.vale 0).tvec &&& 0x7FFFFFFFFFFFC0 = 0) ∧
    (tSys.accessesOf (.thread 5) = [] ∧ (tSys.com (.thread 5)).frec = [] ∧ ∀ id, (tSys.com (.thread 5)).under ≠ .hold id) ∧
    (wSleep.accessesOf wU = [] ∧ (wSleep.com wU).frec = [] ∧ ∀ id, (wSleep.com wU).under ≠ .hold id) :=
  ⟨⟨rfl, by decide +kernel⟩, ⟨rfl, by decide +kernel⟩, ⟨rfl, by decide +kernel⟩, ⟨rfl, by decide +kernel⟩,
    ⟨_, _, rfl, by decide +kernel, by decide +kernel, by decide +kernel, by decide +kernel, by decide +kernel, by decide +kernel, by unfold State.memWf; decide⟩,
    ⟨_, _, rfl, by decide +kernel⟩, ⟨rfl, rfl, fun id h => Wait.noConfusion h⟩, rfl, rfl, fun id h => Wait.noConfusion h⟩

/-- A lone bundle for each outcome of the checks of R49 on a spur in user mode: no row; BLDQ; TLBW; EXIT with a field that must be 0; an
addition to s20; EXIT with its code. Then SUB s3 paired with no row of an A-slot, and with VADD s3. -/
theorem witness_DecodeTraps :
    decodeC false 0xF4000000 0 = none ∧
    (∃ x, decodeC false 0xC8001006 0x00100000 = some x ∧ engineOk ⟨false, false, 0⟩ x.1 = false) ∧
    (∃ x, decodeC false 0xDE204300 0x17 = some x ∧ (engineOk ⟨false, false, 0⟩ x.1 = true ∧ privilegeOk ⟨false, false, 0⟩ x.1 = false)) ∧
    (∃ x, decodeC false 0x9A000400 4 = some x ∧ (engineOk ⟨false, false, 0⟩ x.1 = true ∧ privilegeOk ⟨false, false, 0⟩ x.1 = true ∧ x.2 = true)) ∧
    (∃ x, decodeC false 0x86A00000 4 = some x ∧ (engineOk ⟨false, false, 0⟩ x.1 = true ∧ privilegeOk ⟨false, false, 0⟩ x.1 = true ∧ x.2 = false ∧
      operandsOk ⟨false, false, 0⟩ x.1 = false)) ∧
    (∃ x, decodeC false 0x9A000000 4 = some x ∧ (engineOk ⟨false, false, 0⟩ x.1 = true ∧ privilegeOk ⟨false, false, 0⟩ x.1 = true ∧ x.2 = false ∧
      operandsOk ⟨false, false, 0⟩ x.1 = true)) ∧
    (decodeC false 0x02180201 0 = some (.sub 3 0 4 false, false) ∧ decodeA false 0xF0000000 = none) ∧
    (∃ j, decodeA false 0x040C0408 = some j ∧ bundleClash false (.sub 3 0 4 false) j.1 = true) :=
  ⟨by decide, some_of _ (by decide), some_of _ (by decide), some_of _ (by decide), some_of _ (by decide), some_of _ (by decide), by decide,
    some_of _ (by decide)⟩

theorem witness_ControlEncodings :
    aClass (.exitLone 4) = none ∧ Instr.wf false (.exitLone 4) = true ∧ (encode (.exitLone 4)).isSome = true := by decide
theorem witness_LaneEncodings :
    (aClass (.fadd fP)).isSome = true ∧ Instr.wf true (.fadd fP) = true ∧ (encode (.fadd fP)).isSome = true := by decide

/-- The thread and the wave at a bundle EXIT (0x1A000000, 0). -/
def tFetch : State := { tS with threads := [(1, { th with pc := 0x20000 })], mem := [(0x20003, 0x1A)] }
def tLatched : State := { tS with threads := [(1, { th with slotBit := true, c := { bundle := some ⟨.nopC false, some .nopA⟩ } })] }
def wLead : State := wS.modWave 1 (fun x => { x with lead := [{ pc := 0x10000, ai := .nopA, exec := 1, words := (0, 0) }] })
theorem witness_StepRunsBundle :
    (tFetch.actorReady (.thread 1) = true ∧ tFetch.clockReady (.thread 1) = true ∧ tFetch.outranked (.thread 1) = false ∧ tFetch.agenda = [] ∧ autoStep tFetch = none ∧ tFetch.nextActor = some (.thread 1) ∧
      tFetch.accessesOf tU = [] ∧ (tFetch.com tU).frec = [] ∧ (tFetch.com tU).wait = .none ∧ (tFetch.com tU).after = none ∧
      (tFetch.com tU).bundle = none ∧ (tFetch.thread 1).slotBit = false) ∧
    Spec.fetches { tFetch with cur := some tU } tU 0x20000 0x1A000000 0 ⟨.exit, some .nopA⟩ ∧
    (tLatched.actorReady (.thread 1) = true ∧ tLatched.clockReady (.thread 1) = true ∧ tLatched.outranked (.thread 1) = false ∧ (tLatched.com tU).bundle = some ⟨.nopC false, some .nopA⟩ ∧ (tLatched.thread 1).slotBit = true) ∧
    (wLead.actorReady (.compute 1) = true ∧ wLead.outranked (.compute 1) = false ∧ (wLead.wave 1).lead = [{ pc := 0x10000, ai := .nopA, exec := 1, words := (0, 0) }]) := by
  refine ⟨⟨by decide +kernel, by decide +kernel, by decide +kernel, rfl, ?_, by decide +kernel, rfl, rfl, rfl, rfl, rfl, rfl⟩, ⟨by decide +kernel, by decide +kernel, by decide +kernel,
    ⟨2, 32, by decide +kernel, by decide +kernel, by decide +kernel, by decide +kernel⟩, by decide +kernel⟩,
    ⟨by decide +kernel, by decide +kernel, by decide +kernel, rfl, rfl⟩, by decide +kernel, by decide +kernel, rfl⟩
  decide +kernel

/-- A running package whose physical function has a ring of 64 entries, `n` of them taken. -/
def ringed (n : W32) : State :=
  { State.reset with adentoth := { State.reset.adentoth with st := 1 }, funcs := [(0, { ({} : Func) with ellog2 := 6, elhead := n })] }
theorem witness_FatalHalts :
    State.reset.adentoth.st ≠ 3 ∧ (0x12 : Nat) = 0x12 ∧ (5 : Nat) < 65536 ∧ (ringed 0).adentoth.st = 1 ∧ ((ringed 0).func 0).ellog2 = 6 ∧
    (((ringed 0).func 0).elhead - ((ringed 0).func 0).eltail).toNat ≠ 2 ^ 6 ∧
    (((ringed 64).func 0).elhead - ((ringed 64).func 0).eltail).toNat = 2 ^ 6 :=
  ⟨by decide, rfl, by decide, rfl, rfl, by decide, rfl⟩
theorem witness_HaltedStays : Spec.halted { State.reset with adentoth := { State.reset.adentoth with st := 3 } } := ⟨rfl, by intro h; cases h⟩

/-! ## Single steps, against values worked out by hand from the rules -/

/-- Register `n` after instruction `i`. -/
def after (s : State) (u : UnitId) (i : Instr) (n : Nat) : Option W64 :=
  match exec i s with
  | .next t => some (t.reg u n)
  | _ => none
/-- Register v4 of lane `l` after instruction `i`. -/
def laneAfter (s : State) (i : Instr) (l : Nat) : Option W32 :=
  match exec i s with
  | .next t => some (t.lreg 1 l 4)
  | _ => none

/-- R87: 5 + (2^64 - 1) = 4 modulo 2^64. -/
theorem test_add_wraps : after tS tU (.add 5 1 2 false) 5 = some 4 := by decide +kernel
/-- R84: the 32-bit form sign-extends: 0 - 5. -/
theorem test_sub_word : after tS tU (.sub 5 0 1 true) 5 = some 0xFFFFFFFFFFFFFFFB := by decide +kernel
/-- R56: register 0 stays 0. -/
theorem test_add_s0 : after tS tU (.add 0 1 1 false) 0 = some 0 := by decide +kernel
/-- R94: a quotient by 0 is the greatest number of the dividend's sign; a remainder by 0 is the dividend. -/
theorem test_div_zero : after tS tU (.div 5 1 0 false) 5 = some 0x7FFFFFFFFFFFFFFF ∧ after tS tU (.rem 5 2 0 true) 5 = some 0xFFFFFFFFFFFFFFFF := by
  decide +kernel
/-- R93: the high half of (2^64 - 1) · 5 is 4; of -1 · 5 it is -1. -/
theorem test_mulh : after tS tU (.mulhn 5 2 1 false) 5 = some 4 ∧ after tS tU (.mulh 5 2 1 false) 5 = some 0xFFFFFFFFFFFFFFFF := by decide +kernel
/-- R98: bits 5 to 4 of 0x30010 are 01, with the sign -1 for bit 4 alone. -/
theorem test_bext : after tS tU (.bext 5 4 false 1 4) 5 = some 1 ∧ after tS tU (.bext 5 4 true 0 4) 5 = some 0xFFFFFFFFFFFFFFFF := by decide +kernel
/-- R96: 5 has 61 leading zeros. -/
theorem test_clz : after tS tU (.clz 5 1 false) 5 = some 61 := by decide +kernel
/-- R97: LIH writes the upper half and keeps the lower. -/
theorem test_lih : after tS tU (.lihLone 3 0x12) 3 = some 0x1200020000 := by decide +kernel
/-- R173: lane l holds l + l. -/
theorem test_vadd : laneAfter wS (.vadd fP) 63 = some 126 := by decide +kernel
/-- R177: 1.0 + 1.0 = 2.0; infinity minus infinity is the NaN 0x7FC00000. -/
def wOne : State :=
  wS.modWave 1 (fun x => { x with v := [(1, Lanes.gen (fun _ => 0x3F800000)), (2, Lanes.gen (fun _ => 0x3F800000))] })
theorem test_fadd : laneAfter wOne (.fadd fP) 7 = some 0x40000000 := by decide +kernel
theorem test_fadd_nan :
    laneAfter (wF.modWave 1 (fun x => { x with c := { x.c with fpctl := 0 } })) (.fadd fP) 7 = some 0x7FC00000 := by decide +kernel
/-- R182: the square root of 1.0 is 1.0. -/
theorem test_fsqrt : laneAfter wOne (.fsqrt (.p 4 1 0 false false)) 3 = some 0x3F800000 := by decide +kernel
/-- R191: Philox 4x32-10 of counter 0 and key 0: the vector of its authors, first word 0x6627e8d5. -/
theorem test_philox : (philox 0 0).1 = 0x6627E8D5 := by decide +kernel
/-- R210: a store of 64 bits lies in memory in little-endian order. -/
theorem test_store :
    (match exec (.st mT) { tS with threads := [(1, { th with regs := th.regs.set 5 0x0102 })] } with
      | .next t => some (t.byteAt 0x20000, t.byteAt 0x20001, t.byteAt 0x20008)
      | _ => none) = some (2, 1, 0) := by decide +kernel
/-- R102: an offset counts bundles of 8 bytes from the transfer itself. -/
theorem test_branch : (match exec (.b 3) tS with | .next t => some (t.pcOf tU) | _ => none) = some 0x10018 := by decide +kernel
/-- R412: the PC of a trap is that of its bundle. -/
theorem test_trap : (match exec (.ld mT) tOdd with | .next t => some (t.pcOf tU, (t.com tU).wait) | _ => none) = some (0x10000, .trap) := by decide +kernel

end Sys2Proof.Tests
end

section
open Sys2Proof Sys2Proof.Machine

namespace Sys2Proof.Machine

/-! ### Magnitudes of codes (R142) -/

/-- The number that a code without its sign stands for: the codes from one power of two to the next, and the subnormal ones with
those of the first, lie on one grid. -/
def Fmt.mag (f : Fmt) (c : Nat) : ℚ :=
  ((c - (c / 2 ^ f.m - 1) * 2 ^ f.m : ℕ) : ℚ) * 2 ^ (((c / 2 ^ f.m - 1 : ℕ) : ℤ) + (1 - f.bias - f.m))

/-- On the grid of exponent `k` the code of `r` steps stands for `r` steps, a carry to the next exponent included. -/
theorem Fmt.mag_grid (f : Fmt) (k r : Nat) (h : k = 0 ∨ 2 ^ f.m ≤ r) (hr : r ≤ 2 ^ (f.m + 1)) :
    f.mag (k * 2 ^ f.m + r) = r * 2 ^ ((k : ℤ) + (1 - f.bias - f.m)) := by
  have hp : 0 < 2 ^ f.m := Nat.two_pow_pos _
  rw [Nat.pow_succ] at hr
  unfold Fmt.mag
  have hdiv : (k * 2 ^ f.m + r) / 2 ^ f.m = k + r / 2 ^ f.m := by
    rw [Nat.add_comm, Nat.add_mul_div_right _ _ hp, Nat.add_comm]
  rw [hdiv]
  rcases Nat.lt_or_ge r (2 ^ f.m) with h1 | h1
  · obtain rfl : k = 0 := by omega
    simp [Nat.div_eq_of_lt h1]
  rcases Nat.lt_or_ge r (2 ^ f.m * 2) with h2 | h2
  · have : r / 2 ^ f.m = 1 := Nat.div_eq_of_lt_le (by omega) (by omega)
    simp [this]
  · have hr2 : r = 2 ^ f.m * 2 := by omega
    have h3 : r / 2 ^ f.m = 2 := by rw [hr2, Nat.mul_div_cancel_left _ hp]
    have h4 : k * 2 ^ f.m + r - (k + 2 - 1) * 2 ^ f.m = 2 ^ f.m := by
      have : (k + 2 - 1) * 2 ^ f.m = k * 2 ^ f.m + 2 ^ f.m := by rw [show k + 2 - 1 = k + 1 by omega, Nat.succ_mul]
      omega
    have h5 : ((k + 2 - 1 : ℕ) : ℤ) + (1 - f.bias - f.m) = ((k : ℤ) + (1 - f.bias - f.m)) + 1 := by
      push_cast [show k + 2 - 1 = k + 1 by omega]; ring
    rw [h3, h4, h5, zpow_add_one₀ (by norm_num), hr2]
    push_cast
    ring

/-- Every code lies on such a grid. -/
theorem Fmt.exists_grid (f : Fmt) (c : Nat) :
    ∃ k r, c = k * 2 ^ f.m + r ∧ (k = 0 ∨ 2 ^ f.m ≤ r) ∧ r + 1 ≤ 2 ^ (f.m + 1) := by
  have hp : 0 < 2 ^ f.m := Nat.two_pow_pos _
  have hc := Nat.div_add_mod c (2 ^ f.m)
  have hm := Nat.mod_lt c hp
  rw [Nat.mul_comm] at hc
  rw [Nat.pow_succ]
  generalize hq : c / 2 ^ f.m = q at hc
  cases q with
  | zero => exact ⟨0, c, by simp, .inl rfl, by omega⟩
  | succ q =>
    rw [Nat.succ_mul] at hc
    exact ⟨q, 2 ^ f.m + c % 2 ^ f.m, by omega, .inr (by omega), by omega⟩

theorem Fmt.mag_strictMono (f : Fmt) : StrictMono f.mag := by
  refine strictMono_nat_of_lt_succ fun c => ?_
  obtain ⟨k, r, rfl, hk, hr⟩ := f.exists_grid c
  rw [Nat.add_assoc, f.mag_grid k r hk (by omega), f.mag_grid k (r + 1) (by omega) hr]
  have hu : (0 : ℚ) < 2 ^ ((k : ℤ) + (1 - f.bias - f.m)) := by positivity
  push_cast
  nlinarith

theorem Fmt.mag_nonneg (f : Fmt) (c : Nat) : 0 ≤ f.mag c := by unfold Fmt.mag; positivity

@[simp] theorem Fmt.mag_zero (f : Fmt) : f.mag 0 = 0 := by simp [Fmt.mag]

/-- The code of the least normal number. -/
theorem Fmt.mag_normal (f : Fmt) : f.mag (2 ^ f.m) = 2 ^ (1 - (f.bias : ℤ)) := by
  have h := f.mag_grid 0 (2 ^ f.m) (.inl rfl) (Nat.pow_le_pow_right (by norm_num) (by omega))
  simp only [Nat.zero_mul, Nat.zero_add] at h
  rw [h]
  push_cast
  rw [← zpow_natCast, ← zpow_add₀ (by norm_num)]
  congr 1
  ring

/-! ### The grid that a rounding mode chooses on (R147) -/

/-- The choice between the neighbours `k` and `k + 1` steps, `φ` above the lower. -/
theorem choose_between {u φ x : ℚ} {k : ℤ} (rm : Nat) (hu : 0 < u) (h0 : 0 < φ) (h1 : φ < 1) (hx : x = (k + φ) * u) :
    Spec.choose rm u x = (match rm with
      | 0 => if 2 * φ < 1 then k else if 1 < 2 * φ then k + 1 else if k % 2 = 0 then k else k + 1
      | 1 => if x < 0 then k + 1 else k
      | 2 => k + 1
      | 3 => k
      | _ => if k % 2 = 0 then k + 1 else k : ℤ) * u := by
  have hfloor : ⌊x / u⌋ = k := by
    rw [hx, mul_div_cancel_right₀ _ hu.ne', Int.floor_eq_iff]
    constructor <;> linarith
  have hlo : ¬ ((k : ℚ) * u = x) := by rw [hx]; nlinarith
  have hlow : x - k * u < (k + 1) * u - x ↔ 2 * φ < 1 := by
    rw [hx]; constructor <;> intro h <;> nlinarith
  have hhigh : (k + 1) * u - x < x - k * u ↔ 1 < 2 * φ := by
    rw [hx]; constructor <;> intro h <;> nlinarith
  simp only [Spec.choose, hfloor, if_neg hlo, hlow, hhigh]
  split
  · split_ifs <;> push_cast <;> rfl
  · split_ifs <;> push_cast <;> rfl
  · push_cast; rfl
  · rfl
  · split_ifs <;> push_cast <;> rfl

theorem choose_exact {u : ℚ} (rm : Nat) (k : ℤ) (hu : 0 < u) : Spec.choose rm u (k * u) = k * u := by
  simp [Spec.choose, mul_div_cancel_right₀ _ hu.ne']

/-- The model's rounding of a magnitude to whole steps chooses the number that RM names. -/
theorem choose_signed (rm : Nat) (neg : Bool) (n d : Nat) (u : ℚ) (hd : 0 < d) (hu : 0 < u) :
    Spec.choose rm u (Spec.signed neg ((n : ℚ) / d * u)) = Spec.signed neg (roundMag rm neg (n / d) (n % d) d * u) := by
  have hdq : (0 : ℚ) < d := by exact_mod_cast hd
  have hn : (n : ℚ) / d = (n / d : ℕ) + ((n % d : ℕ) : ℚ) / d := by
    rw [div_eq_iff hdq.ne', add_mul, div_mul_cancel₀ _ hdq.ne']
    exact_mod_cast (Nat.div_add_mod' n d).symm
  have hlt := Nat.mod_lt n hd
  generalize n % d = r at hn hlt ⊢
  generalize n / d = t at hn ⊢
  rw [hn]
  rcases Nat.eq_zero_or_pos r with rfl | hr
  · simp only [roundMag, if_true]
    cases neg
    · simpa [Spec.signed] using choose_exact rm (t : ℤ) hu
    · simpa [Spec.signed] using choose_exact rm (-(t : ℤ)) hu
  have hrq : (0 : ℚ) < r := by exact_mod_cast hr
  have h0 : 0 < (r : ℚ) / d := by positivity
  have h1 : (r : ℚ) / d < 1 := by rw [div_lt_one hdq]; exact_mod_cast hlt
  have hlow : 2 * ((r : ℚ) / d) < 1 ↔ 2 * r < d := by
    rw [← mul_div_assoc, div_lt_one hdq]; exact_mod_cast Iff.rfl
  have hhigh : 1 < 2 * ((r : ℚ) / d) ↔ d < 2 * r := by
    rw [← mul_div_assoc, one_lt_div hdq]; exact_mod_cast Iff.rfl
  have ht : (0 : ℚ) ≤ t := by positivity
  have hr0 : r ≠ 0 := by omega
  have hodd : (t % 2 = 1) = ¬ (t % 2 = 0) := by apply propext; omega
  cases neg with
  | false =>
    have hx : ¬ (((t : ℚ) + r / d) * u < 0) := not_lt.mpr (by positivity)
    rw [Spec.signed, if_neg (by simp), choose_between (k := t) rm hu h0 h1 (by push_cast; rfl)]
    have hpar : ((t : ℤ) % 2 = 0) = (t % 2 = 0) := by apply propext; omega
    simp only [Spec.signed, roundMag, hr0, hx, hlow, hhigh, hpar, if_false, Bool.false_eq_true]
    split
    · split_ifs <;> push_cast <;> rfl
    · push_cast; rfl
    · push_cast; rfl
    · push_cast; rfl
    · simp only [hodd, ite_not]; split_ifs <;> push_cast <;> rfl
  | true =>
    have hx : -(((t : ℚ) + r / d) * u) < 0 := by rw [neg_lt_zero]; positivity
    rw [Spec.signed, if_pos rfl, choose_between (k := -(t + 1 : ℤ)) (φ := 1 - r / d) rm hu (by linarith) (by linarith)
      (by push_cast; ring)]
    have hlow' : 2 * (1 - (r : ℚ) / d) < 1 ↔ d < 2 * r := by rw [← hhigh]; constructor <;> intro h <;> linarith
    have hhigh' : 1 < 2 * (1 - (r : ℚ) / d) ↔ 2 * r < d := by rw [← hlow]; constructor <;> intro h <;> linarith
    have hpar : (-((t : ℤ) + 1) % 2 = 0) = (t % 2 = 1) := by apply propext; omega
    simp only [Spec.signed, roundMag, hr0, hx, hlow', hhigh', hpar, if_false, if_true]
    split
    · rcases lt_trichotomy (2 * r) d with h | h | h
      · simp only [h, h.not_gt, if_true, if_false]; push_cast; ring
      · simp only [h, lt_irrefl, hodd, if_false, ite_not]; split_ifs <;> push_cast <;> ring
      · simp only [h, h.not_gt, if_true, if_false]; push_cast; ring
    · push_cast; ring
    · push_cast; ring
    · push_cast; ring
    · split_ifs <;> push_cast <;> ring

end Sys2Proof.Machine
end

section
open Sys2Proof Sys2Proof.Machine

namespace Sys2Proof.Machine

theorem two_zpow_of_nonneg {k : ℤ} (h : 0 ≤ k) : (2 : ℚ) ^ k = ((2 ^ k.toNat : ℕ) : ℚ) := by
  obtain ⟨a, rfl⟩ := Int.eq_ofNat_of_zero_le h
  simp

theorem two_zpow_of_neg {k : ℤ} (h : ¬ 0 ≤ k) : (2 : ℚ) ^ k = 1 / ((2 ^ (-k).toNat : ℕ) : ℚ) := by
  rw [← two_zpow_of_nonneg (by omega), zpow_neg, one_div, inv_inv]

/-- The exponent of a positive fraction is that of R147. -/
theorem log2Frac_eq (n d : Nat) (hn : 0 < n) (hd : 0 < d) : log2Frac n d = Int.log 2 ((n : ℚ) / d) := by
  have hnq : (0 : ℚ) < n := by exact_mod_cast hn
  have hdq : (0 : ℚ) < d := by exact_mod_cast hd
  have hpos : 0 < (n : ℚ) / d := div_pos hnq hdq
  have bounds : ∀ a : Nat, 0 < a → (2 : ℚ) ^ (Nat.log2 a : ℤ) ≤ a ∧ (a : ℚ) < 2 ^ ((Nat.log2 a : ℤ) + 1) := fun a ha =>
    ⟨by exact_mod_cast Nat.log2_self_le ha.ne', by exact_mod_cast Nat.lt_log2_self⟩
  obtain ⟨n1, n2⟩ := bounds n hn
  obtain ⟨d1, d2⟩ := bounds d hd
  set k : ℤ := (Nat.log2 n : ℤ) - Nat.log2 d with hk
  have hup : (n : ℚ) / d < 2 ^ (k + 1) := by
    rw [div_lt_iff₀ hdq]
    calc (n : ℚ) < 2 ^ ((Nat.log2 n : ℤ) + 1) := n2
      _ = 2 ^ (k + 1) * 2 ^ (Nat.log2 d : ℤ) := by rw [← zpow_add₀ (by norm_num)]; congr 1; omega
      _ ≤ 2 ^ (k + 1) * d := by gcongr
  have hdown : 2 ^ (k - 1) ≤ (n : ℚ) / d := by
    rw [le_div_iff₀ hdq]
    calc (2 : ℚ) ^ (k - 1) * d ≤ 2 ^ (k - 1) * 2 ^ ((Nat.log2 d : ℤ) + 1) := by gcongr
      _ = 2 ^ (Nat.log2 n : ℤ) := by rw [← zpow_add₀ (by norm_num)]; congr 1; omega
      _ ≤ n := n1
  have hle : (if 0 ≤ k then decide (d * 2 ^ k.toNat ≤ n) else decide (d ≤ n * 2 ^ (-k).toNat)) = true ↔ (2 : ℚ) ^ k ≤ (n : ℚ) / d := by
    rw [le_div_iff₀ hdq]
    split
    next h => rw [two_zpow_of_nonneg h, decide_eq_true_iff, mul_comm d]; exact_mod_cast Iff.rfl
    next h =>
      rw [two_zpow_of_neg h, decide_eq_true_iff, one_div, inv_mul_le_iff₀ (by positivity), mul_comm n]
      exact_mod_cast Iff.rfl
  have hlog1 := (Int.lt_zpow_iff_log_lt (b := 2) (by norm_num) hpos).mp (by exact_mod_cast hup)
  have hlog2 := (Int.zpow_le_iff_le_log (b := 2) (by norm_num) hpos).mp (by exact_mod_cast hdown)
  have hlog3 := Int.zpow_le_iff_le_log (b := 2) (x := k) (by norm_num) hpos
  simp only [log2Frac, ← hk, hle]
  split
  next h => have := hlog3.mp (by exact_mod_cast h); omega
  next h => have := mt hlog3.mpr (by exact_mod_cast h); omega

/-- A fraction in units of `2^q` is one of naturals. -/
theorem scaled_fraction (n d : Nat) (q : ℤ) (hd : 0 < d) :
    0 < (if 0 ≤ q then d * 2 ^ q.toNat else d) ∧
      (n : ℚ) / d = ((if 0 ≤ q then n else n * 2 ^ (-q).toNat : ℕ) : ℚ) / ((if 0 ≤ q then d * 2 ^ q.toNat else d : ℕ) : ℚ) * 2 ^ q := by
  have hdq : (d : ℚ) ≠ 0 := by exact_mod_cast hd.ne'
  split
  next h =>
    refine ⟨by positivity, ?_⟩
    rw [two_zpow_of_nonneg h]
    push_cast
    field_simp
  next h =>
    refine ⟨hd, ?_⟩
    rw [two_zpow_of_neg h]
    push_cast
    field_simp

theorem roundMag_bounds (rm : Nat) (neg : Bool) (t r d : Nat) : t ≤ roundMag rm neg t r d ∧ roundMag rm neg t r d ≤ t + 1 := by
  unfold roundMag
  split
  · omega
  · split
    · split_ifs <;> omega
    · omega
    · split_ifs <;> omega
    · split_ifs <;> omega
    · split_ifs <;> omega

theorem roundMag_zero (rm : Nat) (neg : Bool) (t d : Nat) : roundMag rm neg t 0 d = t := by simp [roundMag]

/-! ### Formats -/

/-- What the tables of R142, R143 and R145 have in common: fields for an exponent and a fraction, and the MaxFinite and
NaNOf that the model's codes stand for. -/
structure Regular (F : Spec.Format) : Prop where
  frac : 0 < F.fmt.m
  expo : 0 < F.fmt.e
  max : F.max = F.fmt.mag F.fmt.maxCode
  nan : F.nan = F.fmt.nanOf

theorem regular_accumulator : Regular Spec.accumulator := by
  refine ⟨by decide, by decide, ?_, by decide⟩
  have h : (2 : ℚ) ^ 2047 = 2 ^ 83 * 2 ^ 1964 := by rw [← pow_add]
  norm_num [Spec.accumulator, Fmt.mag, Fmt.maxCode]
  rw [h]
  generalize (2 : ℚ) ^ 1964 = x
  ring

theorem regular_formats : ∀ F ∈ Spec.formats ++ [Spec.accumulator], Regular F := by
  intro F hF
  rw [List.mem_append, List.mem_singleton] at hF
  rcases hF with hF | rfl
  · simp only [Spec.formats, List.mem_cons, List.not_mem_nil, or_false] at hF
    rcases hF with rfl | rfl | rfl | rfl | rfl | rfl | rfl | rfl <;>
      exact ⟨by decide, by decide, by norm_num [Fmt.mag, Fmt.maxCode], by decide⟩
  · exact regular_accumulator

theorem Fmt.signBit_add_lt (f : Fmt) (neg : Bool) (c : Nat) (h : c < 2 ^ (f.e + f.m)) : f.signBit neg + c < 2 ^ (1 + f.e + f.m) := by
  have : 2 ^ (1 + f.e + f.m) = 2 * 2 ^ (f.e + f.m) := by rw [Nat.add_assoc, Nat.pow_add]
  cases neg <;> simp only [Fmt.signBit, if_true, Bool.false_eq_true, if_false] <;> omega

/-- The fields of a code: its fraction, exponent and sign. -/
theorem Fmt.fields (f : Fmt) (neg : Bool) (c : Nat) (h : c < 2 ^ (f.e + f.m)) :
    (f.signBit neg + c) % 2 ^ f.m = c % 2 ^ f.m ∧ (f.signBit neg + c) / 2 ^ f.m % 2 ^ f.e = c / 2 ^ f.m ∧
      (decide ((f.signBit neg + c) / 2 ^ (f.m + f.e) % 2 = 1)) = neg := by
  have hp : 0 < 2 ^ f.m := Nat.two_pow_pos _
  have hsplit : 2 ^ (f.e + f.m) = 2 ^ f.e * 2 ^ f.m := Nat.pow_add ..
  have hc : c / 2 ^ f.m < 2 ^ f.e := Nat.div_lt_of_lt_mul (by rwa [Nat.mul_comm, ← hsplit])
  rw [Nat.add_comm f.m f.e]
  cases neg with
  | false => simp [Fmt.signBit, Nat.mod_eq_of_lt hc, Nat.div_eq_of_lt h]
  | true =>
    simp only [Fmt.signBit, if_true]
    refine ⟨?_, ?_, ?_⟩
    · rw [hsplit, Nat.mul_add_mod_self_right]
    · rw [hsplit, Nat.add_comm, Nat.add_mul_div_right _ _ hp, Nat.add_mod_right, Nat.mod_eq_of_lt hc]
    · rw [Nat.add_comm, Nat.add_div_right _ (Nat.two_pow_pos _), Nat.div_eq_of_lt h]
      rfl

theorem Fmt.maxCode_lt (f : Fmt) : f.maxCode < 2 ^ (f.e + f.m) := by
  have h1 : 2 ^ f.m ≤ 2 ^ f.e * 2 ^ f.m := Nat.le_mul_of_pos_left _ (Nat.two_pow_pos _)
  have h2 : 0 < 2 ^ f.m := Nat.two_pow_pos _
  rw [Nat.pow_add, Fmt.maxCode, Nat.sub_mul, Nat.one_mul, Nat.pow_add]
  split_ifs <;> omega

/-- The codes up to MaxFinite's are those of no infinity and no NaN. -/
theorem Fmt.not_top (f : Fmt) (c : Nat) (hm : 0 < f.m) (he : 0 < f.e) (h : c ≤ f.maxCode) :
    ¬ (f.infs = true ∧ c / 2 ^ f.m = 2 ^ f.e - 1) ∧
      ¬ (f.nan8 = true ∧ c / 2 ^ f.m = 2 ^ f.e - 1 ∧ c % 2 ^ f.m = 2 ^ f.m - 1) := by
  have hp : 0 < 2 ^ f.m := Nat.two_pow_pos _
  have he2 : 2 ≤ 2 ^ f.e := Nat.le_self_pow (by omega) 2
  have hm2 : 2 ≤ 2 ^ f.m := Nat.le_self_pow (by omega) 2
  have hdm := Nat.div_add_mod c (2 ^ f.m)
  have hmul : 2 ^ f.m ≤ (2 ^ f.e - 1) * 2 ^ f.m := Nat.le_mul_of_pos_left _ (by omega)
  have hall : (2 ^ f.e - 1) * 2 ^ f.m + 2 ^ f.m = 2 ^ (f.e + f.m) := by
    rw [← Nat.succ_mul, Nat.pow_add]; congr 1; omega
  unfold Fmt.maxCode at h
  constructor
  · rintro ⟨hi, hx⟩
    rw [hx, Nat.mul_comm] at hdm
    rw [if_pos hi] at h
    omega
  · rintro ⟨hi, hx, hf⟩
    rw [hx, Nat.mul_comm, hf] at hdm
    rw [if_pos hi] at h
    split_ifs at h <;> omega

/-- A code up to MaxFinite's is read as a number. -/
theorem read_finite (f : Fmt) (neg : Bool) (c : Nat) (hm : 0 < f.m) (he : 0 < f.e) (h : c ≤ f.maxCode) :
    Spec.read f (f.signBit neg + c) = .real neg (Spec.signed neg (f.mag c)) := by
  obtain ⟨h1, h2, h3⟩ := f.fields neg c (h.trans_lt f.maxCode_lt)
  obtain ⟨t1, t2⟩ := f.not_top c hm he h
  have hdm := Nat.div_add_mod' c (2 ^ f.m)
  have hpow : ((2 : ℚ) ^ f.m) ≠ 0 := by positivity
  simp only [Spec.read, h1, h2, h3, if_neg t1, if_neg t2]
  generalize c % 2 ^ f.m = r at hdm ⊢
  unfold Fmt.mag
  generalize c / 2 ^ f.m = q at hdm ⊢
  cases q with
  | zero =>
    obtain rfl : r = c := by omega
    simp only [if_true, Nat.zero_sub, Nat.zero_mul, Nat.sub_zero, Nat.cast_zero, zero_add]
    rw [zpow_sub₀ (by norm_num) _ (f.m : ℤ), zpow_natCast, mul_div_assoc', div_mul_eq_mul_div]
  | succ q =>
    have hc : c - q * 2 ^ f.m = 2 ^ f.m + r := by rw [Nat.succ_mul] at hdm; omega
    simp only [Nat.add_eq_zero_iff, one_ne_zero, and_false, if_false, Nat.add_sub_cancel, hc]
    rw [show ((q : ℤ) + (1 - f.bias - f.m)) = (((q + 1 : ℕ) : ℤ) - f.bias) - f.m by push_cast; ring,
      zpow_sub₀ (by norm_num) _ (f.m : ℤ), zpow_natCast]
    congr 2
    push_cast
    field_simp

theorem Fmt.infCode_lt (f : Fmt) : f.infCode < 2 ^ (f.e + f.m) := by
  rw [Fmt.infCode, Nat.pow_add]
  exact Nat.mul_lt_mul_of_pos_right (Nat.sub_lt (Nat.two_pow_pos _) one_pos) (Nat.two_pow_pos _)

theorem read_infinity (f : Fmt) (neg : Bool) (hi : f.infs = true) :
    Spec.read f (f.signBit neg + f.infCode) = .inf neg := by
  have hp : 0 < 2 ^ f.m := Nat.two_pow_pos _
  obtain ⟨h1, h2, h3⟩ := f.fields neg f.infCode f.infCode_lt
  have hfrac : f.infCode % 2 ^ f.m = 0 := Nat.mul_mod_left ..
  have hexp : f.infCode / 2 ^ f.m = 2 ^ f.e - 1 := Nat.mul_div_cancel _ hp
  simp only [Spec.read, h1, h2, h3, hi, hfrac, hexp, and_self, if_true]

theorem Fmt.nanOf_pos (f : Fmt) (hm : 0 < f.m) (h : f.hasNan = true) : 0 < f.nanOf := by
  have he2 : 2 ≤ 2 ^ (f.e + f.m) := Nat.le_self_pow (by omega) 2
  have hm2 : 0 < 2 ^ (f.m - 1) := Nat.two_pow_pos _
  simp only [Fmt.hasNan, Bool.or_eq_true] at h
  unfold Fmt.nanOf
  split_ifs with h1 h2
  · omega
  · omega
  · exact absurd h (by simp [h1, h2])

/-- NaNOf of a format with a NaN is a quiet one. -/
theorem read_nanOf (f : Fmt) (hm : 0 < f.m) (h : f.hasNan = true) :
    Spec.read f f.nanOf = .nan false ∧ f.nanOf < 2 ^ (f.e + f.m) := by
  have hp : 0 < 2 ^ f.m := Nat.two_pow_pos _
  have he1 : 0 < 2 ^ f.e := Nat.two_pow_pos _
  have hhalf : 2 ^ (f.m - 1) + 2 ^ (f.m - 1) = 2 ^ f.m := by rw [← Nat.two_mul, ← Nat.pow_succ']; congr 1; omega
  have hpos : 0 < 2 ^ (f.m - 1) := Nat.two_pow_pos _
  have hall : (2 ^ f.e - 1) * 2 ^ f.m + 2 ^ f.m = 2 ^ (f.e + f.m) := by
    rw [← Nat.succ_mul, Nat.pow_add]; congr 1; omega
  -- both kinds of NaN stand at the top exponent
  have top : ∀ r, r < 2 ^ f.m → f.nanOf = (2 ^ f.e - 1) * 2 ^ f.m + r →
      f.nanOf < 2 ^ (f.e + f.m) ∧ f.nanOf % 2 ^ f.m = r ∧ f.nanOf / 2 ^ f.m % 2 ^ f.e = 2 ^ f.e - 1 := by
    intro r hr hc
    refine ⟨by omega, ?_, ?_⟩
    · rw [hc, Nat.mul_add_mod_self_right, Nat.mod_eq_of_lt hr]
    · rw [hc, Nat.add_comm, Nat.add_mul_div_right _ _ hp, Nat.div_eq_of_lt hr, Nat.zero_add, Nat.mod_eq_of_lt (by omega)]
  simp only [Fmt.hasNan, Bool.or_eq_true] at h
  by_cases hi : f.infs = true
  · obtain ⟨h1, h2, h3⟩ := top (2 ^ (f.m - 1)) (by omega) (by simp [Fmt.nanOf, hi])
    exact ⟨by simp [Spec.read, h2, h3, hi], h1⟩
  · have h8 : f.nan8 = true := h.resolve_left hi
    obtain ⟨h1, h2, h3⟩ := top (2 ^ f.m - 1) (by omega) (by simp only [Fmt.nanOf, hi, h8, if_true, if_false, Bool.false_eq_true]; omega)
    exact ⟨by simp [Spec.read, h2, h3, hi, h8], h1⟩

/-- RoundTo of a NaN (R148). -/
theorem roundTo_nan (F : Spec.Format) (hF : Regular F) (rm : Nat) (sat s : Bool) :
    Spec.rounds F rm sat (.nan s) (roundTo F.fmt rm sat (.nan s)) := by
  cases h : F.fmt.hasNan with
  | true =>
    obtain ⟨hr, hlt⟩ := read_nanOf F.fmt hF.frac h
    have h0 := (F.fmt.nanOf_pos hF.frac h).ne'
    refine ⟨?_, by simp [roundTo, Spec.rounding, hF.nan, hr, h0, h], fun _ => hF.nan.symm⟩
    simpa [roundTo, Fmt.signBit] using F.fmt.signBit_add_lt false _ hlt
  | false =>
    obtain ⟨hi, h8⟩ : F.fmt.infs = false ∧ F.fmt.nan8 = false := by simpa [Fmt.hasNan] using h
    have h0 : F.fmt.nanOf = 0 := by simp [Fmt.nanOf, hi, h8]
    have hread := read_finite F.fmt false 0 hF.frac hF.expo (Nat.zero_le _)
    simp only [Fmt.signBit, Bool.false_eq_true, if_false, Nat.add_zero, Fmt.mag_zero, Spec.signed] at hread
    exact ⟨by simp [roundTo, h0], by simp [roundTo, Spec.rounding, hF.nan, h0, h, hread], fun _ => hF.nan.symm⟩

/-- RoundTo of an infinity (R148). -/
theorem roundTo_inf (F : Spec.Format) (hF : Regular F) (rm : Nat) (sat neg : Bool) :
    Spec.rounds F rm sat (.inf neg) (roundTo F.fmt rm sat (.inf neg)) := by
  cases hi : F.fmt.infs with
  | true =>
    exact ⟨by simpa [roundTo, hi] using F.fmt.signBit_add_lt neg _ F.fmt.infCode_lt,
      by simp [roundTo, Spec.rounding, hi, read_infinity F.fmt neg hi], fun h => by cases h⟩
  | false =>
    exact ⟨by simpa [roundTo, hi] using F.fmt.signBit_add_lt neg _ F.fmt.maxCode_lt,
      by simp [roundTo, Spec.rounding, hi, read_finite F.fmt neg _ hF.frac hF.expo le_rfl, hF.max], fun h => by cases h⟩

/-- When an overflow gives an infinity, and else MaxFinite (R148). -/
theorem Fmt.overflow_eq (f : Fmt) (rm : Nat) (neg sat : Bool) :
    f.overflow rm neg sat = f.signBit neg +
      if f.infs = true ∧ sat = false ∧ (rm = 0 ∨ (rm = 2 ∧ neg = false) ∨ (rm = 3 ∧ neg = true)) then f.infCode else f.maxCode := by
  rcases rm with _ | _ | _ | _ | rm <;> simp [Fmt.overflow, and_assoc, and_comm (a := sat = false)]

theorem read_overflow (F : Spec.Format) (hF : Regular F) (rm : Nat) (neg sat : Bool) :
    F.fmt.overflow rm neg sat < 2 ^ (1 + F.fmt.e + F.fmt.m) ∧
    Spec.read F.fmt (F.fmt.overflow rm neg sat) =
      if F.fmt.infs = true ∧ sat = false ∧ (rm = 0 ∨ (rm = 2 ∧ neg = false) ∨ (rm = 3 ∧ neg = true)) then .inf neg
      else .real neg (Spec.signed neg F.max) := by
  rw [Fmt.overflow_eq]
  split_ifs with h
  · exact ⟨F.fmt.signBit_add_lt neg _ F.fmt.infCode_lt, read_infinity F.fmt neg h.1⟩
  · rw [hF.max]
    exact ⟨F.fmt.signBit_add_lt neg _ F.fmt.maxCode_lt, read_finite F.fmt neg _ hF.frac hF.expo le_rfl⟩

theorem abs_signed (neg : Bool) (x : ℚ) : |Spec.signed neg x| = |x| := by cases neg <;> simp [Spec.signed]

theorem signed_zero (neg : Bool) : Spec.signed neg 0 = 0 := by cases neg <;> simp [Spec.signed]

theorem signed_inj (neg : Bool) (x y : ℚ) : Spec.signed neg x = Spec.signed neg y ↔ x = y := by cases neg <;> simp [Spec.signed]

/-- The exponent of a step of the grid at a fraction (R147). -/
def Fmt.step (f : Fmt) (n d : Nat) : ℤ := max (log2Frac n d) (1 - (f.bias : ℤ)) - f.m

/-- A fraction in steps of the grid, as numerator and denominator. -/
def Fmt.gridNum (f : Fmt) (n d : Nat) : Nat := if 0 ≤ f.step n d then n else n * 2 ^ (-f.step n d).toNat
def Fmt.gridDen (f : Fmt) (n d : Nat) : Nat := if 0 ≤ f.step n d then d * 2 ^ (f.step n d).toNat else d

/-- The steps that RM chooses for a fraction. -/
def Fmt.steps (f : Fmt) (rm : Nat) (neg : Bool) (n d : Nat) : Nat :=
  roundMag rm neg (f.gridNum n d / f.gridDen n d) (f.gridNum n d % f.gridDen n d) (f.gridDen n d)

/-- The code of those steps: the grid's exponent field, with the steps added. -/
def Fmt.stepsCode (f : Fmt) (rm : Nat) (neg : Bool) (n d : Nat) : Nat :=
  (f.step n d + f.m + f.bias - 1).toNat * 2 ^ f.m + f.steps rm neg n d

theorem Fmt.grid_spec (f : Fmt) (n d : Nat) (hd : 0 < d) :
    0 < f.gridDen n d ∧ (n : ℚ) / d = (f.gridNum n d : ℚ) / f.gridDen n d * 2 ^ f.step n d := scaled_fraction n d (f.step n d) hd

/-- RoundTo of a fraction, in the terms of its grid. -/
theorem roundTo_eq (f : Fmt) (rm : Nat) (sat neg : Bool) (n d : Nat) (hn : n ≠ 0) :
    roundTo f rm sat (.fin neg n d) =
      if f.maxCode < f.stepsCode rm neg n d then (f.overflow rm neg sat, fOF ||| fNX)
      else (f.signBit neg + f.stepsCode rm neg n d,
        if f.gridNum n d % f.gridDen n d = 0 then 0 else if f.stepsCode rm neg n d < 2 ^ f.m then fUF ||| fNX else fNX) := by
  have hflags : ∀ (e u : Prop) [Decidable e] [Decidable u],
      ((if (decide e) then 0 else fNX) ||| (if !(decide e) && decide u then fUF else 0) : FFlags) =
        if e then 0 else if u then fUF ||| fNX else fNX := by
    intro e u _ _
    by_cases he : e <;> by_cases hu : u <;> simp [he, hu]; rfl
  simp only [roundTo, if_neg hn]
  rw [← hflags]
  rfl

section
variable (F : Spec.Format) (rm : Nat) (neg : Bool) (n d : Nat)

theorem spacing_eq (hn : 0 < n) (hd : 0 < d) :
    Spec.spacing F.fmt (Spec.signed neg ((n : ℚ) / d)) = 2 ^ F.fmt.step n d := by
  have hpos : 0 < (n : ℚ) / d := div_pos (by exact_mod_cast hn) (by exact_mod_cast hd)
  rw [Spec.spacing, abs_signed, abs_of_pos hpos, Fmt.step, log2Frac_eq n d hn hd]

/-- The steps are the choice of R147. -/
theorem choose_steps (hd : 0 < d) :
    Spec.choose rm (2 ^ F.fmt.step n d) (Spec.signed neg ((n : ℚ) / d)) = Spec.signed neg (F.fmt.steps rm neg n d * 2 ^ F.fmt.step n d) := by
  obtain ⟨hg, hnd⟩ := F.fmt.grid_spec n d hd
  rw [hnd]
  exact choose_signed rm neg _ _ _ hg (by positivity)

/-- The steps are the value itself where nothing is left over. -/
theorem steps_exact (hd : 0 < d) :
    (F.fmt.steps rm neg n d : ℚ) * 2 ^ F.fmt.step n d = (n : ℚ) / d ↔ F.fmt.gridNum n d % F.fmt.gridDen n d = 0 := by
  obtain ⟨hg, hnd⟩ := F.fmt.grid_spec n d hd
  have hgq : (0 : ℚ) < F.fmt.gridDen n d := by exact_mod_cast hg
  rw [hnd, mul_left_inj' (by positivity), eq_div_iff hgq.ne']
  constructor
  · intro h
    have h : F.fmt.steps rm neg n d * F.fmt.gridDen n d = F.fmt.gridNum n d := by exact_mod_cast h
    rw [← h, Nat.mul_mod_left]
  · intro h
    rw [Fmt.steps, h, roundMag_zero]
    exact_mod_cast Nat.div_mul_cancel (Nat.dvd_of_mod_eq_zero h)

/-- The steps keep to the grid of their exponent, or carry to the next. -/
theorem steps_bounds (hn : 0 < n) (hd : 0 < d) :
    ((F.fmt.step n d + F.fmt.m + F.fmt.bias - 1).toNat = 0 ∨ 2 ^ F.fmt.m ≤ F.fmt.steps rm neg n d) ∧
      F.fmt.steps rm neg n d ≤ 2 ^ (F.fmt.m + 1) := by
  have hpos : 0 < (n : ℚ) / d := div_pos (by exact_mod_cast hn) (by exact_mod_cast hd)
  obtain ⟨hg, hnd⟩ := F.fmt.grid_spec n d hd
  have hgq : (0 : ℚ) < F.fmt.gridDen n d := by exact_mod_cast hg
  have hu : (0 : ℚ) < 2 ^ F.fmt.step n d := by positivity
  have hL := log2Frac_eq n d hn hd
  have h1 : (2 : ℚ) ^ log2Frac n d ≤ (n : ℚ) / d := by rw [hL]; exact_mod_cast Int.zpow_log_le_self (b := 2) (by norm_num) hpos
  have h2 : (n : ℚ) / d < 2 ^ (log2Frac n d + 1) := by
    rw [hL]; exact_mod_cast Int.lt_zpow_succ_log_self (b := 2) (by norm_num) ((n : ℚ) / d)
  have hstep : F.fmt.step n d = max (log2Frac n d) (1 - (F.fmt.bias : ℤ)) - F.fmt.m := rfl
  obtain ⟨low, high⟩ := roundMag_bounds rm neg (F.fmt.gridNum n d / F.fmt.gridDen n d) (F.fmt.gridNum n d % F.fmt.gridDen n d) (F.fmt.gridDen n d)
  constructor
  · rcases Nat.eq_zero_or_pos (F.fmt.step n d + F.fmt.m + F.fmt.bias - 1).toNat with hk | hk
    · exact .inl hk
    · refine .inr (le_trans ?_ low)
      rw [Nat.le_div_iff_mul_le hg]
      have : (2 : ℚ) ^ F.fmt.m * 2 ^ F.fmt.step n d ≤ (F.fmt.gridNum n d : ℚ) / F.fmt.gridDen n d * 2 ^ F.fmt.step n d := by
        rw [← hnd, ← zpow_natCast, ← zpow_add₀ (by norm_num), show (F.fmt.m : ℤ) + F.fmt.step n d = log2Frac n d by omega]
        exact h1
      have := le_of_mul_le_mul_right this hu
      rw [le_div_iff₀ hgq] at this
      exact_mod_cast this
  · refine high.trans (Nat.succ_le_of_lt ?_)
    rw [Nat.div_lt_iff_lt_mul hg]
    have : (F.fmt.gridNum n d : ℚ) / F.fmt.gridDen n d * 2 ^ F.fmt.step n d < 2 ^ (F.fmt.m + 1) * 2 ^ F.fmt.step n d := by
      rw [← hnd, ← zpow_natCast, ← zpow_add₀ (by norm_num)]
      exact h2.trans_le (zpow_le_zpow_right₀ (by norm_num) (by push_cast; omega))
    have := lt_of_mul_lt_mul_right this hu.le
    rw [div_lt_iff₀ hgq] at this
    exact_mod_cast this

/-- The code of the steps stands for them. -/
theorem mag_stepsCode (hn : 0 < n) (hd : 0 < d) :
    F.fmt.mag (F.fmt.stepsCode rm neg n d) = F.fmt.steps rm neg n d * 2 ^ F.fmt.step n d := by
  obtain ⟨h1, h2⟩ := steps_bounds F rm neg n d hn hd
  have hq : ((F.fmt.step n d + F.fmt.m + F.fmt.bias - 1).toNat : ℤ) + (1 - F.fmt.bias - F.fmt.m) = F.fmt.step n d := by
    have : F.fmt.step n d = max (log2Frac n d) (1 - (F.fmt.bias : ℤ)) - F.fmt.m := rfl
    omega
  rw [Fmt.stepsCode, F.fmt.mag_grid _ _ h1 h2, hq]

end

/-- RoundTo of a number (R147 to R149): the code of the steps that RM chooses on the grid of its exponent, or an overflow. -/
theorem roundTo_fin (F : Spec.Format) (hF : Regular F) (rm : Nat) (sat neg : Bool) (n d : Nat) (hd : 0 < d) :
    Spec.rounds F rm sat (Spec.numOf (.fin neg n d)) (roundTo F.fmt rm sat (.fin neg n d)) := by
  have hdq : (0 : ℚ) < d := by exact_mod_cast hd
  rcases Nat.eq_zero_or_pos n with rfl | hn
  · have hread := read_finite F.fmt neg 0 hF.frac hF.expo (Nat.zero_le _)
    simp only [Nat.add_zero, Fmt.mag_zero] at hread
    refine ⟨by simpa [roundTo] using F.fmt.signBit_add_lt neg 0 (Nat.two_pow_pos _), ?_, fun h => by cases h⟩
    simp [roundTo, Spec.numOf, Spec.rounding, hread, signed_zero]
  have hx : Spec.signed neg ((n : ℚ) / d) ≠ 0 := by
    have : (n : ℚ) / d ≠ 0 := (div_pos (by exact_mod_cast hn) hdq).ne'
    cases neg <;> simpa [Spec.signed] using this
  have hmag := mag_stepsCode F rm neg n d hn hd
  have hmono := F.fmt.mag_strictMono
  have habs : |Spec.signed neg (F.fmt.mag (F.fmt.stepsCode rm neg n d))| = F.fmt.mag (F.fmt.stepsCode rm neg n d) := by
    rw [abs_signed, abs_of_nonneg (F.fmt.mag_nonneg _)]
  have hround : Spec.rounding F rm sat (Spec.numOf (.fin neg n d)) =
      if F.fmt.maxCode < F.fmt.stepsCode rm neg n d then
        (if F.fmt.infs = true ∧ sat = false ∧ (rm = 0 ∨ (rm = 2 ∧ neg = false) ∨ (rm = 3 ∧ neg = true)) then .inf neg
          else .real neg (Spec.signed neg F.max), fOF ||| fNX)
      else (.real neg (Spec.signed neg (F.fmt.mag (F.fmt.stepsCode rm neg n d))),
        if F.fmt.gridNum n d % F.fmt.gridDen n d = 0 then 0 else if F.fmt.stepsCode rm neg n d < 2 ^ F.fmt.m then fUF ||| fNX else fNX) := by
    simp only [Spec.numOf, Spec.rounding, if_neg hx, spacing_eq F neg n d hn hd, choose_steps F rm neg n d hd, ← hmag, habs, signed_inj]
    rw [hF.max, ← F.fmt.mag_normal]
    simp only [hmono.lt_iff_lt]
    simp only [hmag, steps_exact F rm neg n d hd]
  rw [Spec.rounds, hround, roundTo_eq F.fmt rm sat neg n d hn.ne']
  by_cases hover : F.fmt.maxCode < F.fmt.stepsCode rm neg n d
  · obtain ⟨hlt, hread⟩ := read_overflow F hF rm neg sat
    rw [if_pos hover, if_pos hover]
    exact ⟨hlt, by rw [hread], fun h => by cases h⟩
  · rw [if_neg hover, if_neg hover]
    refine ⟨F.fmt.signBit_add_lt neg _ ((not_lt.mp hover).trans_lt F.fmt.maxCode_lt), ?_, fun h => by cases h⟩
    rw [read_finite F.fmt neg _ hF.frac hF.expo (not_lt.mp hover)]

/-- RoundTo of any exact value (R68, R147 to R149). -/
theorem roundTo_rounds (F : Spec.Format) (hF : Regular F) (rm : Nat) (sat : Bool) (v : FVal) (hv : 0 < v.den) :
    Spec.rounds F rm sat (Spec.numOf v) (roundTo F.fmt rm sat v) := by
  cases v with
  | nan s => exact roundTo_nan F hF rm sat s
  | inf neg => exact roundTo_inf F hF rm sat neg
  | fin neg n d => exact roundTo_fin F hF rm sat neg n d hv

theorem numOf_scaled (neg : Bool) (c : Nat) (k : ℤ) : Spec.numOf (scaled neg c k) = .real neg (Spec.signed neg (c * 2 ^ k)) := by
  unfold scaled
  split
  next h => rw [Spec.numOf, two_zpow_of_nonneg h]; push_cast; rw [div_one]
  next h => rw [Spec.numOf, two_zpow_of_neg h, ← mul_div_assoc, mul_one]

/-- The model reads a code as the tables of R142 and R143 do. -/
theorem numOf_value (f : Fmt) (c : Nat) : Spec.numOf (f.value c) = Spec.read f c := by
  have hneg : (c / 2 ^ (f.m + f.e) % 2 == 1) = decide (c / 2 ^ (f.m + f.e) % 2 = 1) := rfl
  have hpow : ((2 : ℚ) ^ f.m) ≠ 0 := by positivity
  simp only [Fmt.value, Spec.read, hneg, Bool.and_eq_true, beq_iff_eq, and_assoc]
  split_ifs
  · rfl
  · rfl
  · rfl
  · rw [numOf_scaled, zpow_sub₀ (by norm_num) _ (f.m : ℤ), zpow_natCast, mul_div_assoc', div_mul_eq_mul_div]
  · rw [numOf_scaled, zpow_sub₀ (by norm_num) _ (f.m : ℤ), zpow_natCast]
    congr 2
    push_cast
    field_simp

theorem scaled_den_pos (neg : Bool) (c : Nat) (k : ℤ) : 0 < (scaled neg c k).den := by
  unfold scaled
  split
  · exact one_pos
  · exact Nat.two_pow_pos _

theorem value_den_pos (f : Fmt) (c : Nat) : 0 < (f.value c).den := by
  unfold Fmt.value
  dsimp only
  split_ifs
  · exact one_pos
  · exact one_pos
  · exact one_pos
  · exact scaled_den_pos ..
  · exact scaled_den_pos ..

end Sys2Proof.Machine
end

section
open Sys2Proof Sys2Proof.Machine

namespace Sys2Proof.Machine

/-! ### Exact sums (R177) -/

@[simp] theorem numOf_isNan (v : FVal) : (Spec.numOf v).isNan = v.isNan := by cases v <;> rfl
@[simp] theorem numOf_signalling (v : FVal) : (Spec.numOf v).signalling = v.isSig := by cases v <;> rfl
@[simp] theorem numOf_negative (v : FVal) : (Spec.numOf v).negative = v.sign := by cases v <;> rfl

theorem numOf_value_eq (v : FVal) : (Spec.numOf v).value = (v.signedNum : ℚ) / v.den := by
  cases v with
  | nan s => simp [Spec.numOf, Spec.Num.value, FVal.signedNum]
  | inf neg => simp [Spec.numOf, Spec.Num.value, FVal.signedNum]
  | fin neg n d => cases neg <;> simp [Spec.numOf, Spec.Num.value, FVal.signedNum, FVal.den, Spec.signed, neg_div]

theorem numOf_isZero (v : FVal) (h : 0 < v.den) : (Spec.numOf v).isZero = v.isZero := by
  cases v with
  | nan s => rfl
  | inf neg => rfl
  | fin neg n d =>
    have hd : (d : ℚ) ≠ 0 := by exact_mod_cast h.ne'
    cases neg <;> simp [Spec.numOf, Spec.Num.isZero, FVal.isZero, Spec.signed, hd, beq_eq_decide]

theorem numOf_eq_inf (v : FVal) (b : Bool) : Spec.numOf v = .inf b ↔ v = .inf b := by
  cases v <;> simp [Spec.numOf]

/-- The infinities among the addends, by their signs. -/
def infSigns (l : List FVal) : List Bool := l.filterMap (fun t => match t with | .inf n => some n | _ => none)

theorem mem_infSigns (l : List FVal) (b : Bool) : b ∈ infSigns l ↔ .inf b ∈ l.map Spec.numOf := by
  simp only [infSigns, List.mem_filterMap, List.mem_map, numOf_eq_inf]
  refine exists_congr fun v => and_congr_right fun _ => ?_
  cases v <;> simp

/-- The common denominator of a sum, and its numerator. -/
def sumDen (l : List FVal) : Nat := l.foldl (fun a t => a * t.den) 1
def sumNum (l : List FVal) : Int := l.foldl (fun a t => a + t.signedNum * ((sumDen l / t.den : Nat) : Int)) 0

theorem sumDen_eq (l : List FVal) : sumDen l = (l.map FVal.den).prod := by
  rw [sumDen, List.prod_eq_foldl, List.foldl_map]

theorem sumDen_pos (l : List FVal) (h : ∀ t ∈ l, 0 < t.den) : 0 < sumDen l := by
  rw [sumDen_eq]
  exact List.prod_pos (by simpa using h)

theorem sum_values (l : List FVal) (h : ∀ t ∈ l, 0 < t.den) :
    ((l.map Spec.numOf).map Spec.Num.value).sum = (sumNum l : ℚ) / sumDen l := by
  have hD : (sumDen l : ℚ) ≠ 0 := by exact_mod_cast (sumDen_pos l h).ne'
  have hdvd : ∀ t ∈ l, t.den ∣ sumDen l := fun t ht => by
    rw [sumDen_eq]; exact List.dvd_prod (List.mem_map_of_mem ht)
  have hnum : (sumNum l : ℚ) = (l.map (fun t => (t.signedNum : ℚ) / t.den * sumDen l)).sum := by
    rw [sumNum]
    generalize sumDen l = D at hdvd ⊢
    have key : ∀ (m : List FVal) (a : ℤ), (∀ t ∈ m, t ∈ l) →
        ((m.foldl (fun a t => a + t.signedNum * ((D / t.den : Nat) : Int)) a : ℤ) : ℚ) =
          a + (m.map (fun t => (t.signedNum : ℚ) / t.den * D)).sum := by
      intro m
      induction m with
      | nil => intro a _; simp
      | cons t m ih =>
        intro a hm
        have ht := hm t List.mem_cons_self
        have hd : (t.den : ℚ) ≠ 0 := by exact_mod_cast (h t ht).ne'
        have step : ((t.signedNum * ((D / t.den : Nat) : Int) : ℤ) : ℚ) = (t.signedNum : ℚ) / t.den * D := by
          rw [Int.cast_mul, Int.cast_natCast, Nat.cast_div (hdvd t ht) hd]; ring
        rw [List.foldl_cons, ih _ (fun u hu => hm u (List.mem_cons_of_mem _ hu)), List.map_cons, List.sum_cons, Int.cast_add, step, add_assoc]
    simpa using key l 0 (fun t ht => ht)
  rw [hnum, List.sum_map_mul_right, mul_div_cancel_right₀ _ hD, List.map_map]
  congr 1
  exact List.map_congr_left fun t _ => numOf_value_eq t

/-- The exact sum in these terms. -/
theorem exactSum_eq (rm : Nat) (l : List FVal) :
    exactSum rm l = if l.any FVal.isNan then (.nan false, l.any FVal.isSig) else
      match infSigns l with
      | n :: rest => if rest.any (· != n) then (.nan false, true) else (.inf n, false)
      | [] =>
        if sumNum l = 0 then
          let same := match l with
            | t :: rest => t.isZero && rest.all (fun u => u.isZero && u.sign == t.sign)
            | [] => false
          (.fin (if same then (match l with | t :: _ => t.sign | [] => false) else rm == 3) 0 1, false)
        else (.fin (decide (sumNum l < 0)) (sumNum l).natAbs (sumDen l), false) := rfl

/-- The sign of an exact zero sum. -/
theorem total_zero (rm : Nat) (t : FVal) (l : List FVal) (h : ∀ u ∈ t :: l, 0 < u.den) :
    (if ((t :: l).map Spec.numOf).all (fun v => v.isZero && v.negative) then (Spec.Num.real true 0, false)
      else if ((t :: l).map Spec.numOf).all (fun v => v.isZero && !v.negative) then (.real false 0, false)
      else (.real (rm == 3) 0, false)) =
    (Spec.Num.real (if t.isZero && l.all (fun u => u.isZero && u.sign == t.sign) then t.sign else rm == 3) 0, false) := by
  have hall : ∀ p : Bool → Bool, ((t :: l).map Spec.numOf).all (fun v => v.isZero && p v.negative) =
      (t :: l).all (fun u => u.isZero && p u.sign) := by
    intro p
    rw [List.all_map, Bool.eq_iff_iff, List.all_eq_true, List.all_eq_true]
    exact forall₂_congr fun u hu => by simp [numOf_isZero u (h u hu)]
  have hneg := hall id
  simp only [id] at hneg
  rw [hneg, hall not, List.all_cons, List.all_cons]
  cases t.isZero with
  | false => simp
  | true =>
    cases t.sign with
    | true =>
      simp only [Bool.true_and, Bool.not_true, Bool.and_false, Bool.false_and, beq_true]
      cases l.all (fun u => u.isZero && u.sign) <;> rfl
    | false =>
      simp only [Bool.true_and, Bool.not_false, Bool.and_false, Bool.false_and, beq_false]
      cases l.all (fun u => u.isZero && !u.sign) <;> rfl

theorem signed_natAbs_div (z : ℤ) (d : ℕ) : Spec.signed (decide (z < 0)) ((z.natAbs : ℚ) / d) = (z : ℚ) / d := by
  rcases lt_or_ge z 0 with hz | hz
  · have : (z.natAbs : ℚ) = -z := by rw [Nat.cast_natAbs, abs_of_neg hz, Int.cast_neg]
    rw [decide_eq_true hz, Spec.signed, if_pos rfl, this, neg_div, neg_neg]
  · have : (z.natAbs : ℚ) = z := by rw [Nat.cast_natAbs, abs_of_nonneg hz]
    rw [decide_eq_false (not_lt.mpr hz), Spec.signed, if_neg (by simp), this]

/-- What the exact sum becomes, once rounded, answers to the rules of R177. -/
theorem sumRound_answers (F : Spec.Format) (hF : Regular F) (hn : F.fmt.hasNan = true) (rm : Nat) (sat : Bool) (l : List FVal)
    (h : ∀ t ∈ l, 0 < t.den) (hne : l ≠ []) :
    Spec.answers F rm sat (Spec.total rm (l.map Spec.numOf)).1 (Spec.total rm (l.map Spec.numOf)).2 (sumRound F.fmt rm sat false l) := by
  have hmapNan : (l.map Spec.numOf).any Spec.Num.isNan = l.any FVal.isNan := by simp [List.any_map, Function.comp_def]
  have hmapSig : (l.map Spec.numOf).any Spec.Num.signalling = l.any FVal.isSig := by simp [List.any_map, Function.comp_def]
  unfold sumRound Spec.total
  rw [exactSum_eq, hmapNan, hmapSig]
  -- a NaN among the addends
  cases hnan : l.any FVal.isNan with
  | true =>
    have := roundTo_nan F hF rm sat (l.any FVal.isSig)
    simpa [Spec.answers, roundTo, hn] using this
  | false =>
  simp only [Bool.false_eq_true, if_false, ← mem_infSigns]
  cases hinf : infSigns l with
  | cons b rest =>
    -- infinities: of both signs, or of one
    have hother : rest.any (· != b) = decide ((!b) ∈ rest) := by
      rw [Bool.eq_iff_iff, List.any_eq_true, decide_eq_true_iff]
      refine ⟨fun ⟨x, hx, hne⟩ => ?_, fun hx => ⟨_, hx, by cases b <;> rfl⟩⟩
      rwa [show (!b) = x by cases b <;> cases x <;> simp_all]
    simp only [hother]
    have hround := roundTo_inf F hF rm sat b
    by_cases hmem : (!b) ∈ rest
    · cases b <;> simp_all [Spec.answers, hF.nan]
    · cases b <;> simp_all [Spec.answers]
  | nil =>
    simp only [List.not_mem_nil, and_self, if_false, sum_values l h]
    have hD : (0 : ℚ) < sumDen l := by exact_mod_cast sumDen_pos l h
    by_cases h0 : sumNum l = 0
    · obtain ⟨t, m, rfl⟩ := List.exists_cons_of_ne_nil hne
      simp only [h0, Int.cast_zero, zero_div, ne_eq, not_true_eq_false, if_false, if_true]
      rw [total_zero rm t m h]
      have := roundTo_fin F hF rm sat (if t.isZero && m.all (fun u => u.isZero && u.sign == t.sign) then t.sign else rm == 3) 0 1 one_pos
      rw [Spec.numOf, Nat.cast_zero, zero_div, signed_zero] at this
      simpa [Spec.answers] using this
    · have hx : (sumNum l : ℚ) / sumDen l ≠ 0 := div_ne_zero (by exact_mod_cast h0) hD.ne'
      have hsign : ((sumNum l : ℚ) / sumDen l < 0) ↔ sumNum l < 0 := by
        rw [div_lt_iff₀ hD, zero_mul]; exact_mod_cast Iff.rfl
      have := roundTo_fin F hF rm sat (decide (sumNum l < 0)) (sumNum l).natAbs (sumDen l) (sumDen_pos l h)
      rw [Spec.numOf, signed_natAbs_div] at this
      simpa [Spec.answers, hx, h0, hsign] using this

/-- FADD (R177): the exact sum, rounded once. -/
theorem fpAdd_answers (F : Spec.Format) (hF : Regular F) (hn : F.fmt.hasNan = true) (rm : Nat) (sat : Bool) (a b : Nat) :
    let x := Spec.total rm [Spec.read F.fmt a, Spec.read F.fmt b]
    Spec.answers F rm sat x.1 x.2 (fpAdd F.fmt rm sat a b) := by
  have h := sumRound_answers F hF hn rm sat [F.fmt.value a, F.fmt.value b] (by simp [value_den_pos]) (by simp)
  simp only [List.map_cons, List.map_nil, numOf_value] at h
  exact h

end Sys2Proof.Machine
end

section
open Sys2Proof Sys2Proof.Machine

namespace Sys2Proof.Machine

/-! ### What leaves memory alone -/

@[simp] theorem modAccess_mem (s : State) (id : Nat) (f : Access → Access) : (s.modAccess id f).mem = s.mem := rfl
@[simp] theorem modLane_mem (s : State) (id l : Nat) (f : ALane → ALane) : (s.modLane id l f).mem = s.mem := rfl
@[simp] theorem setLaneSt_mem (s : State) (id l : Nat) (st : LaneSt) : (s.setLaneSt id l st).mem = s.mem := rfl
@[simp] theorem fillWord_mem (s : State) (p : Nat) : (s.fillWord p).mem = s.mem := rfl
@[simp] theorem emptyWord_mem (s : State) (p : Nat) : (s.emptyWord p).mem = s.mem := rfl
@[simp] theorem unmark_mem (s : State) (c va p : Nat) : (s.unmark c va p).mem = s.mem := rfl
@[simp] theorem clearBad_mem (s : State) (a n : Nat) : (s.clearBad a n).mem = s.mem := rfl
@[simp] theorem backInvalidate_mem (s : State) (p g : Nat) : (s.backInvalidate p g).mem = s.mem := rfl

@[simp] theorem choose_mem (s : State) (n : Nat) : (s.choose n).2.mem = s.mem := by unfold State.choose; split <;> rfl

theorem CountsOnly.mem {s t : State} (h : s.CountsOnly t) : t.mem = s.mem := by obtain ⟨_, _, rfl⟩ := h; rfl

@[simp] theorem countEvent_mem (s : State) (v fn code : Nat) : (s.countEvent v fn code).mem = s.mem :=
  CountsOnly.mem (s.countEvents_only v fn code 1)

@[simp] theorem l1Put_mem (s : State) (e : Nat) (x : Sector) (load : Bool) : (s.l1Put e x load).mem = s.mem := by
  unfold State.l1Put
  dsimp only
  split
  · rfl
  · split
    · rfl
    · simp

@[simp] theorem l1Fill_mem (s : State) (e c va cls place : Nat) (load : Bool) : (s.l1Fill e c va cls place load).mem = s.mem := by
  simp [State.l1Fill]

@[simp] theorem l1Patch_mem (s : State) (eng : Option Nat) (c va : Nat) (new : List Byte) : (s.l1Patch eng c va new).mem = s.mem := by
  cases eng <;> rfl

@[simp] theorem l1Coherent_mem (s : State) (eng : Option Nat) (c va place grain : Nat) (write pf : Bool) :
    (s.l1Coherent eng c va place grain write pf).mem = s.mem := by
  unfold State.l1Coherent
  dsimp only
  split
  · rfl
  · cases eng with
    | none => rfl
    | some e =>
      simp only [l1Put_mem]
      split
      · rfl
      · simp

@[simp] theorem readAt_mem (s : State) (eng : Option Nat) (c va place n cls grain : Nat) : (s.readAt eng c va place n cls grain).2.mem = s.mem := by
  unfold State.readAt
  cases eng with
  | none => dsimp only; split <;> simp
  | some e =>
    dsimp only
    split
    · split
      · split <;> simp
      · simp
    · split <;> simp

/-- What is written depends on memory alone. -/
theorem putBytes_mem_congr (l : List Byte) {s t : State} (a : Nat) (h : s.mem = t.mem) : (s.putBytes a l).mem = (t.putBytes a l).mem := by
  induction l generalizing s t a with
  | nil => exact h
  | cons b l ih => exact ih _ (by simp [State.putByte, State.byteAt, h])

/-- A write changes memory as `putBytes` does. -/
@[simp] theorem writeAt_mem (s : State) (eng : Option Nat) (c va place cls grain : Nat) (bs : List Byte) :
    (s.writeAt eng c va place cls grain bs).mem = (s.putBytes place bs).mem := by
  have h : ((s.clearBad place bs.length).putBytes place bs).mem = (s.putBytes place bs).mem := putBytes_mem_congr bs place rfl
  unfold State.writeAt
  dsimp only
  split
  · simp [h]
  · split <;> simp [h]

@[simp] theorem writeDest_mem (s : State) (a : Access) (l : Nat) (v : W64) : (s.writeDest a l v).mem = s.mem := by
  unfold State.writeDest
  split <;> simp

@[simp] theorem noteAnswer_mem (s : State) (a : Access) (l : Nat) (v : W64) : (s.noteAnswer a l v).mem = s.mem := by
  unfold State.noteAnswer
  split
  · rfl
  · split
    · rfl
    · simp

@[simp] theorem reap_mem (s : State) (id : Nat) : (s.reap id).mem = s.mem := by
  unfold State.reap
  split
  · rfl
  · split
    · rfl
    · dsimp only
      split
      · rfl
      · simp

@[simp] theorem answerLane_mem (s : State) (id l : Nat) : (s.answerLane id l).mem = s.mem := by
  unfold State.answerLane
  split
  · rfl
  · split
    · rfl
    · split <;> simp

@[simp] theorem syncRead_mem (s : State) (id l place n : Nat) (sx cons : Bool) : (s.syncRead id l place n sx cons).mem = s.mem := by
  cases cons <;> rfl

@[simp] theorem serve_mem (s : State) (place : Nat) (ws : List Waiter) : (s.serve place ws).mem = s.mem := by
  induction ws generalizing s with
  | nil => rfl
  | cons w t ih =>
    unfold State.serve
    split
    · split
      · split
        · split
          · split
            · exact ih s
            · rw [ih]; simp
          · exact ih s
        · exact ih s
      · exact ih s
    · exact ih s

@[simp] theorem serveWord_mem (s : State) (place : Nat) : (s.serveWord place).mem = s.mem := serve_mem ..

/-! ### Reads after writes -/

theorem byteAt_congr {s t : State} (h : s.mem = t.mem) (q : Nat) : s.byteAt q = t.byteAt q := by simp only [State.byteAt, h]

theorem bytes_congr {s t : State} (h : s.mem = t.mem) (q n : Nat) : s.bytes q n = t.bytes q n := by
  induction n generalizing q with
  | zero => rfl
  | succ n ih => simp only [State.bytes, byteAt_congr h, ih]

theorem rd_congr {s t : State} (h : s.mem = t.mem) (q n : Nat) : s.rd q n = t.rd q n := by simp only [State.rd, bytes_congr h]

/-- Where a store may change every bit, the bytes written are read back. -/
theorem bytes_putBytes (l : List Byte) (s : State) (a : Nat) (g : s.memWf) (h : ∀ k < l.length, storeMask (a + k) = 0xFF) :
    (s.putBytes a l).bytes a l.length = l := by
  induction l generalizing s a with
  | nil => rfl
  | cons b t ih =>
    have hm : storeMask a = 0xFF := h 0 (by simp)
    have hwf : (s.putByte a b).memWf := putByte_wf s a b g
    have hb : (s.putByte a b).byteAt a = b := by
      rw [State.putByte, byteAt_rawPut _ _ _ _ g, if_pos rfl, hm, show (0xFF : Byte) = BitVec.allOnes 8 from rfl, BitVec.and_allOnes, BitVec.not_allOnes, BitVec.and_zero,
        BitVec.zero_or]
    simp only [List.length_cons, State.bytes, State.putBytes]
    rw [byteAt_putBytes_ne t _ _ _ hwf (.inl (by omega)), hb,
      ih _ _ hwf (fun k hk => by rw [Nat.add_right_comm]; exact h (k + 1) (by simpa using hk))]

theorem ofBytesLE_bytesLE (n x : Nat) : ofBytesLE (bytesLE n x) = x % 2 ^ (8 * n) := by
  induction n generalizing x with
  | zero => simp [bytesLE, ofBytesLE, Nat.mod_one]
  | succ n ih =>
    rw [bytesLE, ofBytesLE, ih, BitVec.toNat_ofNat, Nat.mul_succ, Nat.add_comm (8 * n), Nat.pow_add, Nat.mod_mul]

theorem bytes_length (s : State) (a n : Nat) : (s.bytes a n).length = n := by
  induction n generalizing a with
  | zero => rfl
  | succ n ih => simp [State.bytes, ih]

theorem ofBytesLE_lt (l : List Byte) : ofBytesLE l < 2 ^ (8 * l.length) := by
  induction l with
  | nil => simp [ofBytesLE]
  | cons b t ih =>
    have hb := b.isLt
    rw [ofBytesLE, List.length_cons, Nat.mul_succ, Nat.pow_add]
    omega

theorem rd_lt (s : State) (a n : Nat) : s.rd a n < 2 ^ (8 * n) := by
  have h := ofBytesLE_lt (s.bytes a n)
  rwa [bytes_length] at h

/-! ### Performing a lane (R209 to R217, R316) -/

/-- The bytes that an access writes at its place. -/
def State.effectBytes (s : State) (a : Access) (ln : ALane) (place : Nat) : List Byte :=
  let n := a.bytes
  match a.op with
  | .store | .storeFull => bytesLE n ln.data.toNat
  | .atom op sgn _ =>
    bytesLE n (atomNew op sgn (8 * n) (s.rd place n) (ln.data.toNat % 2 ^ (8 * n)) (ln.data2.toNat % 2 ^ (8 * n)))
  | .hist sat =>
    let x := s.rd place n + ln.data.toNat + ln.data2.toNat * 2 ^ 64
    bytesLE n (if sat then min x (2 ^ (8 * n) - 1) else x % 2 ^ (8 * n))
  | _ => []

theorem effectBytes_length (s : State) (a : Access) (ln : ALane) (place : Nat) :
    (s.effectBytes a ln place).length = if Spec.writesPlace a.op then a.bytes else 0 := by
  unfold State.effectBytes
  cases a.op <;> simp [Spec.writesPlace, bytesLE_length]

/-- A performed access writes those bytes, and no others. -/
theorem effect_mem (s : State) (a : Access) (ln : ALane) (place cls grain : Nat) :
    (s.effect a ln place cls grain).mem = (s.putBytes place (s.effectBytes a ln place)).mem := by
  unfold State.effect State.effectBytes
  cases a.op with
  | load sx => simp [State.putBytes]
  | store => simp
  | storeFull => simp
  | sync sx cons =>
    dsimp only
    split
    · rfl
    · split <;> simp [State.putBytes]
  | atom op sgn nr => simp
  | hist sat => simp
  | probe w => cases w <;> rfl
  | fetch => rfl
  | send ws => rfl
  | amsg ty => rfl
  | contour t o => rfl
  | touch => rfl

theorem access_modAccess (s : State) (id : Nat) (f : Access → Access) (hf : ∀ a, (f a).id = a.id) :
    (s.modAccess id f).access id = (s.access id).map f := by
  unfold State.access State.modAccess
  induction s.accesses with
  | nil => rfl
  | cons a t ih =>
    by_cases h : a.id = id
    · simp [h, hf]
    · simpa [h] using ih

theorem access_modLane (s : State) (id l : Nat) (f : ALane → ALane) :
    (s.modLane id l f).access id = (s.access id).map (fun a => { a with lanes := a.lanes.map (fun x => if x.lane == l then f x else x) }) :=
  access_modAccess _ _ _ (fun _ => rfl)

theorem lane_mapLanes (a : Access) (l : Nat) (f : ALane → ALane) (hf : ∀ x, (f x).lane = x.lane) :
    ({ a with lanes := a.lanes.map (fun x => if x.lane == l then f x else x) } : Access).lane l = (a.lane l).map f := by
  unfold Access.lane
  dsimp only
  induction a.lanes with
  | nil => rfl
  | cons x t ih =>
    by_cases h : x.lane = l
    · simp [h, hf]
    · simpa [h] using ih

/-- A lane that is set performed, with an answer, is so. -/
theorem performed_modLane (s : State) (a : Access) (l : Nat) (v : W64) :
    Spec.performed (s.modLane a.id l (fun x => { x with data := v, st := .perf })) a l v := by
  intro b x hb hx
  rw [access_modLane, Option.map_eq_some_iff] at hb
  obtain ⟨b, -, rfl⟩ := hb
  have hlane := lane_mapLanes b l (fun x => { x with data := v, st := .perf }) (fun _ => rfl)
  rw [hlane, Option.map_eq_some_iff] at hx
  obtain ⟨x, -, rfl⟩ := hx
  exact ⟨rfl, rfl⟩

theorem signExtInt_eq (x w : Nat) : signExtInt x w = (BitVec.ofNat w x).toInt := by
  simp only [signExtInt, BitVec.toInt, BitVec.toNat_ofNat]

/-- FADD of single-precision codes: a code that answers to R177. -/
theorem fpAdd_single (rm : Nat) (sat : Bool) (a b : Nat) :
    ∃ r : BitVec 32, r.toNat = (fpAdd fmtF32 rm sat a b).1 ∧
      let x := Spec.total rm [Spec.read (Spec.format 0).fmt a, Spec.read (Spec.format 0).fmt b]
      ∃ fl, Spec.answers (Spec.format 0) rm sat x.1 x.2 (r.toNat, fl) := by
  have hF := regular_formats (Spec.format 0) (List.mem_append_left _ (List.mem_cons_self ..))
  have h := fpAdd_answers (Spec.format 0) hF rfl rm sat a b
  have hlt : (fpAdd fmtF32 rm sat a b).1 < 2 ^ 32 := by
    unfold Spec.answers at h
    dsimp only at h
    split at h
    · exact (congrArg Prod.fst h).trans_lt (by decide)
    · exact h.1
  refine ⟨BitVec.ofNat 32 (fpAdd fmtF32 rm sat a b).1, ?_, (fpAdd fmtF32 rm sat a b).2, ?_⟩
  · rw [BitVec.toNat_ofNat, Nat.mod_eq_of_lt hlt]
  · rw [BitVec.toNat_ofNat, Nat.mod_eq_of_lt hlt]
    exact h

/-- An atomic's new value is the one that R217 gives. -/
theorem atomNew_value (op : Nat) (sgn : Bool) {w : Nat} (old a n : BitVec w) (h : op ≤ 9) (hw : op = 9 → w = 32) :
    ∃ r : BitVec w, r.toNat = atomNew op sgn w old.toNat a.toNat n.toNat ∧ Spec.atomValue op sgn old a n r := by
  have hlt : ∀ x y : BitVec w, (if sgn then decide (signExtInt x.toNat w < signExtInt y.toNat w) else decide (x.toNat < y.toNat)) =
      (if sgn then decide (x.toInt < y.toInt) else decide (x.toNat < y.toNat)) := by
    intro x y
    simp only [signExtInt_eq, BitVec.ofNat_toNat, BitVec.setWidth_eq]
  match op, h with
  | 0, _ => exact ⟨_, BitVec.toNat_add .., rfl⟩
  | 1, _ => exact ⟨_, by simp only [atomNew, hlt]; exact apply_ite BitVec.toNat .., rfl⟩
  | 2, _ => exact ⟨_, by simp only [atomNew, hlt]; exact apply_ite BitVec.toNat .., rfl⟩
  | 3, _ => exact ⟨_, BitVec.toNat_and .., rfl⟩
  | 4, _ => exact ⟨_, BitVec.toNat_or .., rfl⟩
  | 5, _ => exact ⟨_, BitVec.toNat_xor .., rfl⟩
  | 6, _ => exact ⟨_, rfl, rfl⟩
  | 7, _ => exact ⟨_, by simp only [atomNew, BitVec.toNat_inj]; exact apply_ite BitVec.toNat .., rfl⟩
  | 8, _ =>
    refine ⟨_, ?_, rfl⟩
    have ha := a.isLt
    have h1 : (1 : BitVec w).toNat = 1 % 2 ^ w := rfl
    rw [atomNew]
    split
    · rfl
    · rw [BitVec.toNat_add, h1, Nat.add_mod_mod, Nat.mod_eq_of_lt (by omega)]
  | 9, _ =>
    obtain rfl := hw rfl
    exact fpAdd_single 0 false old.toNat a.toNat

/-- What is read at the place of a write that may change every bit. -/
theorem rd_effect (s : State) (a : Access) (ln : ALane) (place cls grain : Nat) (g : s.memWf) (hw : Spec.writesPlace a.op = true)
    (h : ∀ k < a.bytes, storeMask (place + k) = 0xFF) :
    (s.effect a ln place cls grain).rd place a.bytes = ofBytesLE (s.effectBytes a ln place) := by
  have hlen : (s.effectBytes a ln place).length = a.bytes := by rw [effectBytes_length, if_pos hw]
  rw [rd_congr (effect_mem ..), State.rd]
  congr 1
  rw [← hlen] at h ⊢
  exact bytes_putBytes _ _ _ g h

/-- The value of a load of `n` bytes, with zeros or with its sign before it. -/
theorem sxTo_eq (sx : Bool) (w x : Nat) (hw : w ≤ 64) (hx : x < 2 ^ w) :
    sxTo sx w x = if sx then (BitVec.ofNat w x).signExtend 64 else (BitVec.ofNat w x).zeroExtend 64 := by
  cases sx with
  | true =>
    simp only [sxTo, if_true, signExtInt_eq, BitVec.signExtend]
  | false =>
    refine BitVec.eq_of_toNat_eq ?_
    have : 2 ^ w ≤ 2 ^ 64 := Nat.pow_le_pow_right (by norm_num) hw
    simp [sxTo, Nat.mod_eq_of_lt hx]

/-- A core, and an access that is made as HOMED, reads memory itself. -/
theorem readAt_home (s : State) (eng : Option Nat) (c va place n cls grain : Nat) (h : eng = none ∨ cls = 2) :
    (s.readAt eng c va place n cls grain).1 = s.rd place n := by
  unfold State.readAt
  cases eng with
  | none => rfl
  | some e =>
    obtain rfl := h.resolve_left (by simp)
    rfl

/-- An atomic writes its new value; its answer is the old one (R216, R217). -/
theorem effect_atom (s : State) (a : Access) (l : ALane) (place cls grain op : Nat) (sgn nr : Bool) (hwf : s.memWf)
    (hop : a.op = .atom op sgn nr) (hle : op ≤ 9) (hbytes : a.bytes = 4 ∨ a.bytes = 8 ∧ op < 9) :
    let t := s.effect a l place cls grain
    let w := 8 * a.bytes
    let old : BitVec w := BitVec.ofNat w (s.rd place a.bytes)
    ((∀ k < a.bytes, storeMask (place + k) = 0xFF) →
      Spec.atomValue op sgn old (BitVec.ofNat w l.data.toNat) (BitVec.ofNat w l.data2.toNat) (BitVec.ofNat w (t.rd place a.bytes))) ∧
    Spec.performed t a l.lane (if nr then 0 else old.zeroExtend 64) := by
  dsimp only
  have hlt := rd_lt s place a.bytes
  have hold : (BitVec.ofNat (8 * a.bytes) (s.rd place a.bytes)).toNat = s.rd place a.bytes := by
    rw [BitVec.toNat_ofNat, Nat.mod_eq_of_lt hlt]
  constructor
  · intro hplain
    obtain ⟨r, hr, hv⟩ := atomNew_value op sgn (BitVec.ofNat (8 * a.bytes) (s.rd place a.bytes)) (BitVec.ofNat (8 * a.bytes) l.data.toNat)
      (BitVec.ofNat (8 * a.bytes) l.data2.toNat) hle (by omega)
    rw [hold, BitVec.toNat_ofNat, BitVec.toNat_ofNat] at hr
    have hnew : (s.effect a l place cls grain).rd place a.bytes = r.toNat := by
      rw [rd_effect s a l place cls grain hwf (by rw [hop]; rfl) hplain, State.effectBytes, hop]
      dsimp only
      rw [ofBytesLE_bytesLE, ← hr, Nat.mod_eq_of_lt r.isLt]
    have hself : BitVec.ofNat (8 * a.bytes) r.toNat = r := by rw [BitVec.ofNat_toNat, BitVec.setWidth_eq]
    rw [hnew, hself]
    exact hv
  · have hanswer : (if nr then 0 else BitVec.ofNat 64 (s.rd place a.bytes) : W64) =
        if nr then 0 else (BitVec.ofNat (8 * a.bytes) (s.rd place a.bytes)).zeroExtend 64 := by
      have := sxTo_eq false (8 * a.bytes) (s.rd place a.bytes) (by omega) hlt
      simp only [sxTo, Bool.false_eq_true, if_false] at this
      rw [this]
    rw [← hanswer]
    unfold State.effect
    rw [hop]
    exact performed_modLane _ a l.lane _

/-- R209 to R217, R316: what a performed access does. -/
theorem performedAccesses : Spec.PerformedAccesses := by
  intro s a l place cls grain hwf
  dsimp only
  have hrd := rd_effect s a l place cls grain hwf
  refine ⟨?_, ?_, ?_, ?_, ?_, ?_⟩
  · rw [State.memWf, effect_mem]
    exact putBytes_wf _ _ _ hwf
  · intro q hq
    rw [byteAt_congr (effect_mem ..)]
    refine byteAt_putBytes_ne _ _ _ _ hwf ?_
    rw [effectBytes_length]
    rcases hq with hno | hout
    · rw [hno, if_neg Bool.false_ne_true]
      omega
    · split
      · exact hout
      · omega
  · intro hop hplain
    rw [hrd (by rw [hop]; rfl) hplain, State.effectBytes, hop]
    exact ofBytesLE_bytesLE ..
  · intro op sgn nr hop hle hbytes
    exact effect_atom s a l place cls grain op sgn nr hwf hop hle hbytes
  · intro sat hop hplain
    rw [hrd (by rw [hop]; rfl) hplain, State.effectBytes, hop]
    dsimp only
    rw [ofBytesLE_bytesLE]
    have := Nat.two_pow_pos (8 * a.bytes)
    split
    · exact Nat.mod_eq_of_lt (by omega)
    · exact Nat.mod_mod ..
  · intro sx hop hbytes hhome
    have hle : 8 * a.bytes ≤ 64 := by
      simp only [List.mem_cons, List.not_mem_nil, or_false] at hbytes
      omega
    have hread := readAt_home s (s.unitEng a.unit) a.ctx l.ea.toNat place a.bytes (s.effClass (s.unitEng a.unit) a.ctx l.ea.toNat cls)
      grain hhome
    rw [← sxTo_eq sx _ _ hle (rd_lt s place a.bytes), ← hread]
    unfold State.effect
    rw [hop]
    exact performed_modLane _ a l.lane _

/-! ### The answer of a performed lane (R209) -/

@[simp] theorem reg_setLaneSt (s : State) (id l : Nat) (st : LaneSt) (u : UnitId) (n : Nat) : (s.setLaneSt id l st).reg u n = s.reg u n := by
  cases u <;> rfl
@[simp] theorem lreg_setLaneSt (s : State) (id l : Nat) (st : LaneSt) (w k n : Nat) : (s.setLaneSt id l st).lreg w k n = s.lreg w k n := rfl

@[simp] theorem lreg_setCom (s : State) (u : UnitId) (c : Common) (w l n : Nat) : (s.setCom u c).lreg w l n = s.lreg w l n := by
  cases u with
  | thread i => rfl
  | wave i =>
    by_cases h : w = i
    · subst h; simp [State.setCom, State.lreg, Wave.vreg]
    · simp [State.setCom, State.lreg, wave_setWave_ne _ _ _ _ h]

/-- An access that leaves changes no register. -/
theorem reap_regs (s : State) (id : Nat) (u : UnitId) (w : Nat) :
    (∀ n, (s.reap id).reg u n = s.reg u n) ∧ ∀ l n, (s.reap id).lreg w l n = s.lreg w l n := by
  have hacc : ∀ as, (∀ n, ({ s with accesses := as } : State).reg u n = s.reg u n) ∧
      ∀ l n, ({ s with accesses := as } : State).lreg w l n = s.lreg w l n := fun as => ⟨fun n => by cases u <;> rfl, fun l n => rfl⟩
  unfold State.reap
  split
  · exact ⟨fun _ => rfl, fun _ _ => rfl⟩
  · split
    · exact ⟨fun _ => rfl, fun _ _ => rfl⟩
    · dsimp only
      split
      · exact hacc _
      · exact ⟨fun n => by rw [modCom_eq, reg_setCom]; exact (hacc _).1 n, fun l n => by rw [modCom_eq, lreg_setCom]; exact (hacc _).2 l n⟩

/-- What the spin detector notes changes no register. -/
theorem noteAnswer_regs (s : State) (a : Access) (k : Nat) (v : W64) (u : UnitId) (w : Nat) :
    (∀ n, (s.noteAnswer a k v).reg u n = s.reg u n) ∧ ∀ l n, (s.noteAnswer a k v).lreg w l n = s.lreg w l n := by
  have hspin : ∀ (i : Nat) (f : Wave → Spin), (∀ n, (s.modWave i (fun x => { x with spin := f x })).reg u n = s.reg u n) ∧
      ∀ l n, (s.modWave i (fun x => { x with spin := f x })).lreg w l n = s.lreg w l n := by
    intro i f
    constructor
    · intro n
      cases u with
      | thread t => rfl
      | wave j =>
        by_cases h : j = i
        · subst h; simp [State.reg, Wave.kreg]
        · simp [State.reg, wave_setWave_ne _ _ _ _ h]
    · intro l n
      by_cases h : w = i
      · subst h; simp [State.lreg, Wave.vreg]
      · simp [State.lreg, wave_setWave_ne _ _ _ _ h]
  unfold State.noteAnswer
  split
  · exact ⟨fun _ => rfl, fun _ _ => rfl⟩
  · split
    · exact ⟨fun _ => rfl, fun _ _ => rfl⟩
    · exact hspin _ _

/-- After its answer the registers stand as the write of the destination has left them. -/
theorem answerLane_regs (s : State) (a : Access) (x : ALane) (ha : s.access a.id = some a) (hx : a.lane x.lane = some x) (hst : x.st = .perf)
    (u : UnitId) (w : Nat) :
    (∀ n, (s.answerLane a.id x.lane).reg u n = (s.writeDest a x.lane x.data).reg u n) ∧
      ∀ l n, (s.answerLane a.id x.lane).lreg w l n = (s.writeDest a x.lane x.data).lreg w l n := by
  have hanswer : s.answerLane a.id x.lane =
      ((((s.writeDest a x.lane x.data).noteAnswer a x.lane x.data).setLaneSt a.id x.lane .done)).reap a.id := by
    simp [State.answerLane, ha, hx, hst]
  rw [hanswer]
  exact ⟨fun n => by rw [(reap_regs _ _ u w).1, reg_setLaneSt, (noteAnswer_regs _ _ _ _ u w).1],
    fun l n => by rw [(reap_regs _ _ u w).2, lreg_setLaneSt, (noteAnswer_regs _ _ _ _ u w).2]⟩

theorem reg_setReg_thread (s : State) (i n : Nat) (x : W64) (h : n ≠ 0) (l : n < 16) : (s.setReg (.thread i) n x).reg (.thread i) n = x := by
  simp [State.setReg, State.reg, thread_reg_setReg _ n x h l]

theorem reg_setReg_wave (s : State) (i n : Nat) (x : W64) (h : n ≠ 0) (l : n < 64) : (s.setReg (.wave i) n x).reg (.wave i) n = x := by
  simp [State.setReg, State.reg, Wave.setK, Wave.kreg, h, Vector.getD, l]

@[simp] theorem vreg_setV (w : Wave) (n : Nat) (x : Lanes) : (w.setV n x).vreg n = x := by simp [Wave.setV, Wave.vreg]
theorem vreg_setV_ne (w : Wave) (n m : Nat) (x : Lanes) (h : m ≠ n) : (w.setV n x).vreg m = w.vreg m := by
  simp [Wave.setV, Wave.vreg, AList.getD_put_ne _ _ _ _ _ h]
theorem at_put (v : Lanes) (l : Nat) (x : W32) (h : l < 64) : (v.put l x).at l = x := by
  simp [Lanes.put, Lanes.at, Vector.getD, h]

theorem lo32_eq (x : W64) : lo32 x = x.extractLsb' 0 32 := by
  refine BitVec.eq_of_getLsbD_eq fun i hi => ?_
  simp [lo32, hi]

theorem hi32_eq (x : W64) : hi32 x = x.extractLsb' 32 32 := by
  refine BitVec.eq_of_getLsbD_eq fun i hi => ?_
  simp [hi32, hi]

/-- R209: the answer of a performed lane reaches its destination. -/
theorem answeredLanes : Spec.AnsweredLanes := by
  intro s a x ha hx hst
  refine ⟨?_, ?_⟩
  · intro n d hu hdest h0 h16
    rw [(answerLane_regs s a x ha hx hst a.unit 0).1, hu, State.writeDest, hdest, hu]
    exact reg_setReg_thread _ _ _ _ (by omega) h16
  · intro w hu
    refine ⟨?_, ?_⟩
    · intro d hdest h0
      rw [(answerLane_regs s a x ha hx hst a.unit 0).1, hu, State.writeDest, hdest, hu]
      exact reg_setReg_wave _ _ _ _ (by omega) d.isLt
    · intro n pair hdest hlane
      rw [(answerLane_regs s a x ha hx hst a.unit w).2, (answerLane_regs s a x ha hx hst a.unit w).2, State.writeDest, hdest, hu]
      cases pair with
      | false => exact ⟨by simp [State.lreg, at_put _ _ _ hlane, lo32_eq], fun h => by cases h⟩
      | true =>
        refine ⟨?_, fun _ => ?_⟩
        · simp [State.lreg, vreg_setV_ne, at_put _ _ _ hlane, lo32_eq]
        · simp [State.lreg, at_put _ _ _ hlane, hi32_eq]

end Sys2Proof.Machine

/-- Settles O50: the bytes of an access are those of `effect_mem`; its answer stands in the destination after `answerLane_regs`. -/
theorem memoryEffects : Obligations.MemoryEffects := ⟨performedAccesses, answeredLanes⟩
end

section
open Sys2Proof Sys2Proof.Machine

/-- Settles O59: the state after a reset is written out, so each part is read off. -/
theorem resetState : Obligations.ResetState :=
  ⟨rfl, rfl, rfl, rfl, rfl, rfl, rfl, rfl, fun _ => ⟨rfl, rfl, rfl, rfl⟩, fun _ => rfl, fun _ _ => ⟨rfl, rfl⟩, fun _ => ⟨rfl, rfl⟩⟩
end

section
open Sys2Proof Sys2Proof.Machine

namespace Sys2Proof.Machine

/-! ### Fatal errors (R465, R478) -/

/-- A fatal error in a package that has not halted halts it, with the reason and the source, and leaves memory and every unit. -/
theorem fatal_halts (s : State) (reason src : Nat) (h : s.adentoth.st ≠ 3) :
    (s.fatal reason src).adentoth.st = 3 ∧ (s.fatal reason src).adentoth.reason = reason ∧ (s.fatal reason src).adentoth.src = src ∧
      (s.fatal reason src).mem = s.mem ∧ (s.fatal reason src).threads = s.threads ∧ (s.fatal reason src).waves = s.waves := by
  rw [State.fatal, if_neg h]
  exact ⟨rfl, rfl, rfl, rfl, rfl, rfl⟩

theorem rawPutBytes_funcs (l : List Byte) (s : State) (a : Nat) : (s.rawPutBytes a l).funcs = s.funcs := by
  induction l generalizing s a with
  | nil => rfl
  | cons b l ih => exact ih _ _

/-- Where a ring is configured, an entry stands in it, or is counted as lost where the ring is full (R465). -/
theorem ringEntry_counts (s : State) (e : LogEntry) (hlo : 6 ≤ (s.func e.ring).ellog2) (hhi : (s.func e.ring).ellog2 ≤ 16) :
    (((s.func e.ring).elhead - (s.func e.ring).eltail).toNat ≠ 2 ^ (s.func e.ring).ellog2 →
      ((s.ringEntry e).func e.ring).elhead = (s.func e.ring).elhead + 1) ∧
    (((s.func e.ring).elhead - (s.func e.ring).eltail).toNat = 2 ^ (s.func e.ring).ellog2 →
      ((s.ringEntry e).func e.ring).ellost = (s.func e.ring).ellost + 1) := by
  have hconf : ¬ ((s.func e.ring).ellog2 < 6 ∨ 16 < (s.func e.ring).ellog2) := by omega
  unfold State.ringEntry
  refine ⟨fun hroom => ?_, fun hfull => ?_⟩
  · simp only [if_neg hconf, if_neg hroom]
    exact congrArg Func.elhead (AList.getD_put_self _ _ _ _)
  · simp only [if_neg hconf, if_pos hfull]
    exact congrArg Func.ellost (AList.getD_put_self _ _ _ _)

/-- An entry of SEV 2 while Adentoth runs: the ring of the physical function takes it, then the package halts. -/
theorem logError_severe (s : State) (cause src fn : Nat) (addr detail : W64) (h : s.adentoth.st = 1) :
    ∃ z : State, ∃ e : LogEntry, e.ring = 0 ∧ z.funcs = s.funcs ∧ s.logError cause src fn 2 addr detail = (z.ringEntry e).haltPackage 0x11 src := by
  refine ⟨{ s with adentoth := { s.adentoth with log := (if 65536 ≤ s.adentoth.log.length then s.adentoth.log.drop 1 else s.adentoth.log) ++
    [⟨s.time, src, cause, fn, 2, addr, detail⟩] } }, ⟨s.time, src, cause, fn, 2, addr, detail⟩, rfl, rfl, ?_⟩
  rw [State.logError, if_neg (not_not_intro h), if_pos rfl]

/-- R465, R478. -/
theorem fatalHalts : Spec.FatalHalts := by
  refine ⟨fun s reason src hst hreason hsrc => ⟨s.fatal reason src, ?_, fatal_halts s reason src hst⟩,
    fun s cause src fn addr detail hst hcause hsrc hfn => ?_⟩
  · show execFatalHalt reason src s = _
    rw [execFatalHalt, if_pos hreason, Nat.mod_eq_of_lt hsrc]
  · intro f
    obtain ⟨z, e, hring, hz, hlog⟩ := logError_severe s cause src fn addr detail hst
    have hf : z.func e.ring = f := by rw [hring, State.func, hz]; rfl
    refine ⟨(z.ringEntry e).haltPackage 0x11 src, ?_, rfl, rfl, rfl, fun hlo hhi => ?_⟩
    · show execErrorLogEntry cause src fn 2 addr detail s = _
      rw [execErrorLogEntry, Nat.mod_eq_of_lt hcause, Nat.mod_eq_of_lt hsrc, Nat.mod_eq_of_lt hfn, hlog]
    · rw [← hf] at hlo hhi ⊢
      have hcounts := ringEntry_counts z e hlo hhi
      rwa [hring] at hcounts ⊢

/-! ### Resets, recovery and attestation (R8, R476 to R479) -/

/-- A cold reset boots the image of the flash, or reports RECOVERY. -/
theorem exec_coldReset (s : State) : exec .coldReset s = .next (match imageFails s.coldState.adentoth s.coldState.adentoth.flash with
    | none => s.coldState.bootImage s.coldState.adentoth.flash
    | some why => s.coldState.recover why) := rfl

/-- ADMGO verifies the image in the window in RECOVERY, and does nothing else. -/
theorem exec_admgo (s : State) : exec .admgo s = .next (if s.adentoth.st ≠ 2 then s else
    match imageFails s.adentoth s.adentoth.window with
    | none => ({ s with adentoth := { s.adentoth with flash := s.adentoth.window.take (0x200 + fieldNum s.adentoth.window 0x10 4) } } :
        State).bootImage s.adentoth.window
    | some why => s.recover why) := rfl

/-- R8, R459, R476 to R479. -/
theorem packageEvents : Spec.PackageEvents := by
  intro s
  refine ⟨fun reason src hsrc => ?_, fun _ _ => rfl, ⟨fun h => ?_, fun why h => ?_⟩,
    ⟨fun h => ?_, fun h himg => ?_, fun why h himg => ?_⟩, rfl, fun _ _ => rfl⟩
  · have hexec : exec (.fatalHalt reason src) s = execFatalHalt reason src s := rfl
    rw [execFatalHalt, Nat.mod_eq_of_lt hsrc] at hexec
    exact ⟨fun hc => by rw [hexec, if_pos hc], fun hc => by rw [hexec, if_neg hc]⟩
  · rw [exec_coldReset, h]
  · rw [exec_coldReset, h]
  · rw [exec_admgo, if_pos h]
  · rw [exec_admgo, if_neg (not_not_intro h), himg]
  · rw [exec_admgo, if_neg (not_not_intro h), himg]

end Sys2Proof.Machine

/-- Settles O47: each event by the equation of its arm; the halt by `fatal_halts` and `logError_severe`. -/
theorem packageSteps : Obligations.PackageSteps := ⟨packageEvents, fatalHalts⟩
end

section
open Sys2Proof Sys2Proof.Machine

namespace Sys2Proof.Machine

/-! ### Steps of the device -/

/-- A step that has its effect under its condition, and else none. -/
theorem occurs_of_ite {s t : State} {e : Instr} {c : Prop} [Decidable c] (h : exec e s = .next (if c then t else s)) : Spec.occurs s e c t :=
  ⟨fun hc => by rw [h, if_pos hc], fun hc => by rw [h, if_neg hc]⟩

theorem occurs_congr {s t : State} {e : Instr} {c d : Prop} (h : c ↔ d) (g : Spec.occurs s e c t) : Spec.occurs s e d t :=
  (propext h : c = d) ▸ g

/-! ### Contexts (R425, R440, R441, R455) -/

theorem map_filter_eq_filterMap {α β : Type} (p : α → Bool) (f : α → β) (l : List α) :
    (l.filter p).map f = l.filterMap (fun x => if p x then some (f x) else none) := by
  induction l with
  | nil => rfl
  | cons x l ih => cases h : p x <;> simp [h, ih]

theorem exec_ctxctlLoad (s : State) (c : Nat) :
    exec (.ctxctlLoad c) s = .next (match s.ctlDie 1 c with
      | some d => if (s.ctx c).teardown.isSome then s else s.loadCtx d c
      | none => s) := rfl

theorem exec_ctxctlTeardown (s : State) (c : Nat) :
    exec (.ctxctlTeardown c) s = .next (match s.ctlDie 2 c with
      | none => s
      | some d => match (s.ctx c).teardown with
        | none => s.beginTeardown d c
        | some _ => if s.drained c then s.endTeardown d c 0 else s) := rfl

theorem exec_tdwaitTimeout (s : State) (c : Nat) :
    exec (.tdwaitTimeout c) s = .next (match s.drainLate c with
      | some d => (((s.jobs.filter (fun j => j.2.ctx == c && j.2.status == 0)).map Prod.fst).foldl (fun s j => s.failJob j 0) s).endTeardown d c 1
      | none => s) := by
  rw [map_filter_eq_filterMap]
  rfl

/-- When the drain of a teardown has lasted TDWAIT. -/
theorem drainLate_eq (s : State) (c d t : Nat) (h : s.ctlDie 2 c = some d) (ht : (s.ctx c).teardown = some t) :
    s.drainLate c = if t + (s.die d).tdwait.toNat ≤ s.time ∧ s.drained c = false then some d else none := by
  simp only [State.drainLate, h, ht, Bool.and_eq_true, decide_eq_true_eq, Bool.not_eq_true']

theorem exec_worldSwitch (s : State) (d : Nat) (val : W64) :
    exec (.worldSwitch d val) s = .next (match (s.die d).wsOp with
      | some x => s.switchStep d x
      | none => if d < 4 then s.writeSwitch d val (srcNum d 31 0 15) else s) := rfl

theorem writeSwitch_idle (s : State) (d : Nat) (val : W64) (src : Nat) (h : (s.die d).wsOp = none) :
    s.writeSwitch d val src = if s.switchOk d val then s.modDie d (fun y => { y with wsOp := some (val &&& 0xFFFFFFFF) })
      else s.logOpen 0x16 src (bitsOf val 27 24) 1 0 := by
  simp only [State.writeSwitch, h, Option.isSome_none, Bool.false_eq_true, if_false]

/-- R425, R440, R441, R455. -/
theorem contextSteps : Spec.ContextSteps := by
  intro s c d
  refine ⟨?_, ?_, ?_, ?_, fun fn src addr => ⟨rfl, rfl⟩, fun val => ⟨?_, ?_⟩⟩
  · intro h
    have hexec := exec_ctxctlLoad s c
    rw [h] at hexec
    refine ⟨fun hc => by rw [hexec, hc]; rfl, fun hc => ?_⟩
    rw [hexec]
    exact congrArg _ (if_pos (Option.isSome_iff_ne_none.mpr hc))
  · intro h
    have hexec := exec_ctxctlTeardown s c
    rw [h] at hexec
    refine ⟨fun ht => by rw [hexec, ht], fun t ht => ⟨occurs_of_ite (by rw [hexec, ht]), occurs_of_ite ?_⟩⟩
    rw [exec_tdwaitTimeout, drainLate_eq s c d t h ht]
    by_cases hc : t + (s.die d).tdwait.toNat ≤ s.time ∧ s.drained c = false
    · rw [if_pos hc, if_pos hc]
    · rw [if_neg hc, if_neg hc]
  · intro h
    rw [exec_ctxctlLoad, Option.eq_none_iff_forall_ne_some.mpr h]
  · intro h
    have hnone := Option.eq_none_iff_forall_ne_some.mpr h
    rw [exec_ctxctlTeardown, exec_tdwaitTimeout, State.drainLate, hnone]
    exact ⟨rfl, rfl⟩
  · intro x hx
    rw [exec_worldSwitch, hx]
  · intro hx
    refine occurs_of_ite ?_
    rw [exec_worldSwitch, hx, writeSwitch_idle _ _ _ _ hx]

/-! ### Registers with a step of their own (R262, R364, R448, R465, R471, R474) -/

theorem bitsOf_eq {w : Nat} (x : BitVec w) (h l : Nat) : bitsOf x h l = x.toNat / 2 ^ l % 2 ^ (h + 1 - l) := by
  rw [bitsOf, Nat.shiftRight_eq_div_pow]

theorem truncate_eq (n : Nat) (x : W64) : x.truncate n = x.extractLsb' 0 n := by
  refine BitVec.eq_of_getLsbD_eq fun i hi => ?_
  simp [hi]

theorem writePipe_eq (s : State) (v i : Nat) (x : W64) (src : Nat) :
    s.writePipe v i x src = if 256 < x.toNat / 2 ^ 12 % 2 ^ 9 ∨ x.toNat / 2 ^ 12 % 2 ^ 9 % 8 ≠ 0 then s.logOpen 0x16 src (s.vale v).func 1 0
      else s.modVale v (fun y => { y with trpl := y.trpl.put i (x.extractLsb' 0 25 &&& 0x1FFF0F8) }) := by
  simp only [State.writePipe, bitsOf_eq, truncate_eq, Bool.or_eq_true, decide_eq_true_eq, bne_iff_ne]

theorem exec_trplWrite (s : State) (v n : Nat) (x : W64) :
    exec (.trplWrite v n x) s = .next (if n < 16 then s.writePipe v n x (srcNum (v / 24) (v % 24) 0 0) else s) := rfl
theorem exec_pmselWrite (s : State) (v n : Nat) (x : W64) :
    exec (.pmselWrite v n x) s = .next (if n < 16 then s.writeSelector v n x else s) := rfl
theorem exec_crbaseWrite (s : State) (fn n : Nat) (x : W64) : exec (.crbaseWrite fn n x) s = .next (s.writeRing fn n x) := rfl
theorem exec_counterOverflow (s : State) (v n : Nat) :
    exec (.counterOverflow v n) s = .next (if n < 16 && (s.vale v).counts n (selFunc ((s.vale v).sel n)) (openEvent (selFunc ((s.vale v).sel n)))
      then (s.setVale v { s.vale v with pmc := (s.vale v).pmc.put n 0 }).counterWraps v n else s) := rfl

/-- No two counters of a Vale count one FUNC and VSLOT: a write that would make them has no effect (R471). -/
theorem occurs_pmselWrite (s : State) (v n : Nat) (x : W64) (hn : n < 16) :
    let y : BitVec 24 := x.extractLsb' 0 24 &&& 0xFF0FFF
    Spec.occurs s (.pmselWrite v n x)
      (∀ j < 16, j ≠ n → ¬ (selFunc ((s.vale v).sel j) = selFunc y ∧ selSlot ((s.vale v).sel j) = selSlot y))
      ((s.counterSettle v n).modVale v (fun z => { z with pmsel := z.pmsel.put n y })) := by
  intro y
  have hclash : (List.range 16).any (fun j => j != n && selFunc ((s.vale v).sel j) == selFunc y && selSlot ((s.vale v).sel j) == selSlot y) = false ↔
      ∀ j < 16, j ≠ n → ¬ (selFunc ((s.vale v).sel j) = selFunc y ∧ selSlot ((s.vale v).sel j) = selSlot y) := by
    simp only [List.any_eq_false, List.mem_range, Bool.and_eq_true, bne_iff_ne, beq_iff_eq, not_and, ne_eq, and_imp]
  refine occurs_congr hclash (occurs_of_ite ?_)
  rw [exec_pmselWrite, if_pos hn, State.writeSelector, truncate_eq]
  rw [← ite_not]
  exact congrArg _ (if_congr (iff_of_eq (Bool.not_eq_true _)) rfl rfl)

theorem writeRing_eq (s : State) (fn n : Nat) (x : W64) :
    s.writeRing fn n x = if (s.page fn n).opens = [] ∧ 4 ≤ x.toNat % 16 ∧ x.toNat % 16 ≤ 12 then
      s.modPage fn n (fun p => { p with crbase := x &&& 0xFFFFFFFFFFFFF000, crlog2 := x.toNat % 16 }) else s := by
  have hlog : bitsOf x 3 0 = x.toNat % 16 := by rw [bitsOf_eq]; simp
  rw [State.writeRing, hlog, ← ite_not]
  refine if_congr ?_ rfl rfl
  simp only [Bool.or_eq_true, Bool.not_eq_true', decide_eq_true_eq, not_or, not_lt, Bool.not_eq_false, List.isEmpty_iff, and_assoc]

/-- R262, R364, R448, R465, R471, R474. -/
theorem registerSteps : Spec.RegisterSteps := by
  intro s v n x
  refine ⟨fun hn => ⟨fun hle hmod => ?_, fun hbad => ?_⟩, fun hn => occurs_pmselWrite s v n x hn, fun hn => ⟨?_, ?_⟩, occurs_of_ite ?_, occurs_of_ite ?_,
    fun _ => rfl, fun _ => rfl⟩
  · rw [exec_trplWrite, if_pos hn, writePipe_eq, if_neg (by omega)]
  · rw [exec_trplWrite, if_pos hn, writePipe_eq, if_pos hbad]
  · rw [exec_trplWrite, if_neg (by omega)]
  · rw [exec_pmselWrite, if_neg (by omega)]
  · rw [exec_counterOverflow]
    simp only [Bool.and_eq_true, decide_eq_true_eq]
  · rw [exec_crbaseWrite, writeRing_eq]

end Sys2Proof.Machine
end

section
open Sys2Proof Sys2Proof.Machine

namespace Sys2Proof.Machine

/-! ### Reads of registers (R7, R9, R448, R465, R477) -/

/-- The control registers of a Vale that hold one value each read as it. -/
theorem readValeReg_plain (s : State) (v : Nat) (x : W64) : ∀ r ∈ Spec.valeRegisters x, s.readValeReg v r.1 = (r.2.2 (s.vale v), s) := by
  simp only [Spec.valeRegisters, List.forall_mem_cons, List.not_mem_nil, false_implies, implies_true, and_true]
  exact ⟨rfl, rfl, rfl, rfl, rfl, rfl, rfl, rfl, rfl, rfl, rfl⟩

/-- A write of one of them stores its fields. -/
theorem writeValeReg_plain (s : State) (v : Nat) (x : W64) (src : Nat) :
    ∀ r ∈ Spec.valeRegisters x, s.writeValeReg v r.1 x src = s.modVale v r.2.1 := by
  simp only [Spec.valeRegisters, List.forall_mem_cons, List.not_mem_nil, false_implies, implies_true, and_true, ← truncate_eq]
  exact ⟨rfl, rfl, rfl, rfl, rfl, rfl, rfl, rfl, rfl, rfl, rfl⟩

theorem forall_dieRegisters (x : W64) (p : Nat × (Die → Die) × (Die → W64) → Prop)
    (h : ∀ r ∈ (Spec.dieRegisters x).take 5, p r)
    (hq : ∀ q < 64, p (0x500 + q, fun y => { y with lqcfg := y.lqcfg.put q (x.extractLsb' 0 16 &&& 0xF007) }, fun y => (y.lqcfg.getD q 0).zeroExtend 64)) :
    ∀ r ∈ Spec.dieRegisters x, p r := by
  intro r hr
  rw [Spec.dieRegisters, List.mem_append, List.mem_map] at hr
  rcases hr with hr | ⟨q, hr, rfl⟩
  · exact h r hr
  · exact hq q (List.mem_range.mp hr)

theorem readDieReg_plain (s : State) (d : Nat) (x : W64) : ∀ r ∈ Spec.dieRegisters x, s.readDieReg d r.1 = r.2.2 (s.die d) := by
  refine forall_dieRegisters x _ ?_ fun q hq => ?_
  · simp only [Spec.dieRegisters, List.cons_append, List.take_succ_cons, List.take_zero, List.forall_mem_cons, List.not_mem_nil, false_implies, implies_true,
      and_true]
    exact ⟨rfl, rfl, rfl, rfl, rfl⟩
  · show s.readDieReg d (0x500 + q) = ((s.die d).lqcfg.getD q 0).zeroExtend 64
    simp (disch := omega) only [State.readDieReg, if_neg, if_pos, Nat.add_sub_cancel_left]

theorem writeDieReg_plain (s : State) (d : Nat) (x : W64) (src : Nat) : ∀ r ∈ Spec.dieRegisters x, s.writeDieReg d r.1 x src = s.modDie d r.2.1 := by
  refine forall_dieRegisters x _ ?_ fun q hq => ?_
  · simp only [Spec.dieRegisters, List.cons_append, List.take_succ_cons, List.take_zero, List.forall_mem_cons, List.not_mem_nil, false_implies, implies_true,
      and_true, ← truncate_eq]
    exact ⟨rfl, rfl, rfl, rfl, rfl⟩
  · show s.writeDieReg d (0x500 + q) x src = _
    simp (disch := omega) only [State.writeDieReg, if_neg, if_pos, Nat.add_sub_cancel_left, truncate_eq]

theorem readRegister_running (s : State) (space : RegSpace) (num : Nat) (h : s.adentoth.st ≠ 3) :
    s.readRegister space num = (some (s.registerOf space num).1, (s.registerOf space num).2) := by
  rw [State.readRegister, if_neg (by simp [h])]

/-- A halted package answers no read but those of ADMSTAT and of the mailbox (R478). -/
theorem readRegister_halted (s : State) (space : RegSpace) (num : Nat) (h : s.adentoth.st = 3) (hr : haltedReads space num = false) :
    s.readRegister space num = (none, { s with answers := s.answers ++ [{ dest := spaceFn space, status := 2 }] }) := by
  rw [State.readRegister, if_pos ⟨h, hr⟩]

/-- A page's register as it reads where the page exists. -/
theorem registerOf_page (s : State) (fn n num : Nat) (hfn : fn < 16) (hn : n < 1024) :
    s.registerOf (.page fn n) num = ((s.page fn n).readReg num, s) := by
  rw [State.registerOf, if_pos ⟨hfn, hn⟩]

theorem registerOf_bar2 (s : State) (fn num : Nat) (hfn : fn < 16) : s.registerOf (.bar2 fn) num = s.readBar fn num := by
  rw [State.registerOf, if_pos hfn]

/-- SUBMIT and the reserved offsets of a page read as 0 (R9, R448). -/
theorem readReg_reserved (p : Page) (num : Nat) (h : num < 0x80 ∨ (0xB8 ≤ num ∧ num < 0x800) ∨ 0x1000 ≤ num) : p.readReg num = 0 := by
  simp (disch := omega) only [Page.readReg, if_neg]

/-- HISTORY: four words for each of 64 slots (R448). -/
theorem readReg_history (p : Page) (slot i : Nat) (hs : slot < 64) (hi : i < 4) :
    p.readReg (0x800 + 32 * slot + 8 * i) = (p.history.getD slot []).getD i 0 := by
  have hslot : (0x800 + 32 * slot + 8 * i - 0x800) / 32 = slot := by omega
  have hword : (0x800 + 32 * slot + 8 * i) / 8 % 4 = i := by omega
  simp (disch := omega) only [Page.readReg, if_neg, if_pos, hslot, hword]

/-- OPEN where no record is: the count is 0, and the oldest is the next (R448). -/
theorem readReg_open_nil (p : Page) (h : p.opens = []) : p.readReg 0x90 = (p.submitSeq + 1).zeroExtend 64 := by
  have hopen : p.readReg 0x90 = BitVec.ofNat 64 (p.opens.length * 2 ^ 32 + p.oldest.toNat) := rfl
  rw [hopen, Page.oldest, h, List.length_nil, Nat.zero_mul, Nat.zero_add]
  exact BitVec.ofNat_toNat 64 _

theorem readReg_open_cons (p : Page) (r : WorkRec) (l : List WorkRec) (h : p.opens = r :: l) :
    p.readReg 0x90 = BitVec.ofNat 64 (p.opens.length * 2 ^ 32 + r.hseq.toNat) := by
  have hopen : p.readReg 0x90 = BitVec.ofNat 64 (p.opens.length * 2 ^ 32 + p.oldest.toNat) := rfl
  have hold : p.oldest = r.hseq := by rw [Page.oldest, h]
  rw [hopen, hold]

theorem readReg_openMap_nil (p : Page) (h : p.opens = []) : p.readReg 0x98 = 0 := by
  have hopen : p.readReg 0x98 = p.openMap := rfl
  rw [hopen, Page.openMap, h, List.foldl_nil]

theorem status_eq (a : Adentoth) (hst : a.st < 16) (hreason : a.reason < 256) (hsrc : a.src < 65536) :
    a.status = BitVec.ofNat 64 (a.st + a.reason * 2 ^ 8 + a.src * 2 ^ 16) := by
  rw [Adentoth.status, Nat.mod_eq_of_lt hst, Nat.mod_eq_of_lt hreason, Nat.mod_eq_of_lt hsrc]

/-- What of BAR 2 a halted package does not answer. -/
theorem haltedReads_bar2 (num : Nat) (h7 : num ≠ 7) (hlog : num < 0xB00000 ∨ 0xB40000 ≤ num) : haltedReads (.bar2 0) num = false := by
  simp only [haltedReads, Bool.or_eq_false_iff, beq_eq_false_iff_ne, Bool.and_eq_false_iff, decide_eq_false_iff_not]
  exact ⟨h7, by omega⟩

theorem haltedReads_other (space : RegSpace) (num : Nat) (h : ∀ f, space = .bar2 f → f ≠ 0) : haltedReads space num = false := by
  cases space with
  | bar2 fn =>
    cases fn with
    | zero => exact absurd rfl (h 0 rfl)
    | succ f => rfl
  | vale v | position p | die d | engine e | page fn n => rfl

/-- Reads of a halted package (R478). -/
theorem haltedRegisterReads (s : State) (hst : s.adentoth.st = 3) :
    (∀ space num, (∀ f, space = .bar2 f → f ≠ 0) → (s.readRegister space num).1 = none) ∧
    (∀ num, num ≠ 7 → (num < 0xB00000 ∨ 0xB40000 ≤ num) →
      s.readRegister (.bar2 0) num = (none, { s with answers := s.answers ++ [{ dest := 0, status := 2 }] })) ∧
    s.readRegister (.bar2 0) 7 = (some (BitVec.ofNat 64 (3 + s.adentoth.reason % 256 * 2 ^ 8 + s.adentoth.src % 65536 * 2 ^ 16)), s) := by
  refine ⟨fun space num h => ?_, fun num h7 hlog => ?_, ?_⟩
  · rw [readRegister_halted s space num hst (haltedReads_other space num h)]
  · rw [readRegister_halted s _ num hst (haltedReads_bar2 num h7 hlog)]
    rfl
  · have hstatus : s.readRegister (.bar2 0) 7 = (some s.adentoth.status, s) := by
      rw [State.readRegister, if_neg (fun h => Bool.noConfusion (h.2 : true = false))]
      rfl
    rw [hstatus, Adentoth.status, hst]

/-- R7, R9, R448, R465, R477. -/
theorem registerReads : Spec.RegisterReads := by
  intro s fn n hfn hn
  refine ⟨haltedRegisterReads s, fun hst => ?_⟩
  have hread : ∀ space num x, s.registerOf space num = (x, s) → s.readRegister space num = (some x, s) := fun space num x h => by
    rw [readRegister_running s space num hst, h]
  have hpage : ∀ num x, (s.page fn n).readReg num = x → s.readRegister (.page fn n) num = (some x, s) := fun num x h =>
    hread _ _ _ (by rw [registerOf_page s fn n num hfn hn, h])
  have hbar : ∀ num x, s.readBar fn num = (x, s) → s.readRegister (.bar2 fn) num = (some x, s) := fun num x h =>
    hread _ _ _ (by rw [registerOf_bar2 s fn num hfn, h])
  refine ⟨fun v hv r hr => hread _ _ _ ?_, fun d hd r hr => hread _ _ _ ?_, fun num h => hpage _ _ (readReg_reserved _ num h), hpage _ _ rfl, hpage _ _ rfl,
    fun r l h => hpage _ _ (readReg_open_cons _ r l h), fun h => ⟨hpage _ _ (readReg_open_nil _ h), hpage _ _ (readReg_openMap_nil _ h)⟩,
    hpage _ _ rfl, hpage _ _ rfl, hpage _ _ rfl, fun slot ws h hslot i hi => hpage _ _ ?_, hbar _ _ rfl, hbar _ _ rfl,
    fun h0 => hbar _ _ ?_, fun h0 hrun hreason hsrc => hbar _ _ ?_⟩
  · rw [State.registerOf, if_pos hv, readValeReg_plain s v 0 r hr]
  · rw [State.registerOf, if_pos hd, readDieReg_plain s d 0 r hr]
  · rw [readReg_history _ slot i hslot hi, AList.getD, h, Option.getD_some]
  · simp (disch := omega) only [State.readBar, if_neg, if_pos]
  · subst h0
    rw [← status_eq s.adentoth hrun hreason hsrc]
    rfl

end Sys2Proof.Machine
end

section
open Sys2Proof Sys2Proof.Machine

namespace Sys2Proof.Machine

/-! ### Writes of registers (R7, R9, R262, R329, R364, R411, R448, R465, R471) -/

theorem exec_registerWrite (s : State) (space : RegSpace) (num : Nat) (x : W64) :
    exec (.registerWrite space num x) s = .next (s.writeRegister space num x) := rfl

theorem writeRegister_vale (s : State) (v num : Nat) (x : W64) (h : v < Config.vales) :
    s.writeRegister (.vale v) num x = s.writeValeReg v num x (srcNum (v / 24) (v % 24) 0 0) := if_pos h

theorem writeRegister_die (s : State) (d num : Nat) (x : W64) (h : d < 4) :
    s.writeRegister (.die d) num x = s.writeDieReg d num x (srcNum d 31 0 15) := if_pos h

theorem writeRegister_bar2 (s : State) (fn num : Nat) (x : W64) (h : fn < 16) : s.writeRegister (.bar2 fn) num x = s.writeBar fn num x := if_pos h

theorem writeRegister_page (s : State) (fn n num : Nat) (x : W64) (hf : fn < 16) (hn : n < 1024) :
    s.writeRegister (.page fn n) num x = s.writePage fn n num x := if_pos ⟨hf, hn⟩

section
variable (s : State) (v n : Nat) (x : W64) (src : Nat)

theorem writeValeReg_counter (i : Nat) (hi : i < 16) :
    s.writeValeReg v (0x230 + i) x src = s.modVale v (fun y => { y with pmc := y.pmc.put i (x.extractLsb' 0 48) }) := by
  have hslot : (0x230 + i) % 16 = i := by omega
  simp (disch := omega) only [State.writeValeReg, if_neg, if_pos, hslot, truncate_eq]

theorem writeValeReg_selector (i : Nat) (hi : i < 16) : s.writeValeReg v (0x240 + i) x src = s.writeSelector v i x := by
  have hslot : (0x240 + i) % 16 = i := by omega
  simp (disch := omega) only [State.writeValeReg, if_neg, if_pos, hslot]

theorem writeValeReg_pipe (i : Nat) (hi : i < 16) : s.writeValeReg v (0x2B0 + i) x src = s.writePipe v i x src := by
  have hslot : (0x2B0 + i) % 16 = i := by omega
  simp (disch := omega) only [State.writeValeReg, if_neg, if_pos, hslot]

theorem writeValeReg_template (hlo : 0x310 ≤ n) (hhi : n < 0x400) (hn : n % 16 ≠ 0) :
    s.writeValeReg v n x src = s.modVale v (fun y => { y with templ := y.templ.put (n - 0x300) (x.extractLsb' 0 16) }) := by
  simp (disch := omega) only [State.writeValeReg, if_neg, if_pos, truncate_eq]

theorem writeValeReg_overflowBase (p : Nat) (hp : p < 32) : s.writeValeReg v (0x400 + 4 * p) x src = s.writeOverflow (v * 32 + p) false x := by
  have hpos : (0x400 + 4 * p - 0x400) / 4 = p := by omega
  have hsize : (0x400 + 4 * p) % 4 = 0 := by omega
  simp (disch := omega) only [State.writeValeReg, if_neg, if_pos, hpos]
  rw [hsize]
  rfl

theorem writeValeReg_overflowSize (p : Nat) (hp : p < 32) : s.writeValeReg v (0x401 + 4 * p) x src = s.writeOverflow (v * 32 + p) true x := by
  have hpos : (0x401 + 4 * p - 0x400) / 4 = p := by omega
  have hsize : (0x401 + 4 * p) % 4 = 1 := by omega
  simp (disch := omega) only [State.writeValeReg, if_neg, if_pos, hpos]
  rw [hsize]
  rfl

theorem writeValeReg_classes (p : Nat) (hp : p < 32) : s.writeValeReg v (0x600 + p) x src = s.writeClasses (v * 32 + p) x := by
  simp (disch := omega) only [State.writeValeReg, if_neg, if_pos, Nat.add_sub_cancel_left]

/-- MCOL and the unassigned numbers take no write. -/
theorem writeValeReg_readOnly (h : 0x620 ≤ n ∨ 0x290 ≤ n ∧ n < 0x294) : s.writeValeReg v n x src = s := by
  simp (disch := omega) only [State.writeValeReg, if_neg]

end

/-! ### CTGTB and CTSLOT (R329) -/

/-- A fold over the numbers below `k` whose step at `w` changes what `view` shows only where `w` is `u`. -/
theorem foldl_range_view {σ β : Type} (f : σ → Nat → σ) (view : σ → β) (h : β → β) (u : Nat)
    (hf : ∀ s w, view (f s w) = if u = w then h (view s) else view s) (s : σ) (k : Nat) :
    view ((List.range k).foldl f s) = if u < k then h (view s) else view s := by
  induction k with
  | zero => rfl
  | succ k ih =>
    rw [List.range_succ, List.foldl_append, List.foldl_cons, List.foldl_nil, hf, ih]
    by_cases hu : u = k
    · rw [if_pos hu, if_neg (by omega), if_pos (by omega)]
    · rw [if_neg hu]
      exact if_congr (by omega) rfl rfl

/-- A target register's write at one Vale: what `State.writeTargets` does at each. -/
def State.targetStep (fn : Nat) (g : Vale → Vale) (s : State) (w : Nat) : State :=
  if (s.vale w).func == fn then s.modVale w g
  else if (s.vale w).other == some fn then
    { s with saves := s.saves.put (w * 16 + fn) { s.savedVale w fn with vale := g (s.savedVale w fn).vale } }
  else s

theorem writeTargets_eq (s : State) (v : Nat) (g : Vale → Vale) :
    s.writeTargets v g = (List.range Config.vales).foldl (State.targetStep (s.vale v).func g) s := rfl

/-- What a target register's write makes of a Vale's registers, by the function that holds it. -/
def Vale.retarget (fn : Nat) (g : Vale → Vale) (y : Vale) : Vale := if y.func = fn then g y else y

/-- The step at a Vale changes the registers of that Vale alone, and only where the function holds it. -/
theorem targetStep_vale (fn : Nat) (g : Vale → Vale) (u : Nat) (s : State) (w : Nat) :
    (State.targetStep fn g s w).vale u = if u = w then (s.vale u).retarget fn g else s.vale u := by
  rw [State.targetStep]
  by_cases hf : (s.vale w).func = fn
  · rw [if_pos (beq_iff_eq.mpr hf), modVale_eq]
    by_cases hu : u = w
    · subst hu
      rw [vale_setVale, if_pos rfl, Vale.retarget, if_pos hf]
    · rw [vale_setVale_ne _ _ _ _ hu, if_neg hu]
  · rw [if_neg (fun h => hf (eq_of_beq h))]
    have hkeep : (if u = w then (s.vale u).retarget fn g else s.vale u) = s.vale u := by
      split
      case isTrue hu => rw [hu, Vale.retarget, if_neg hf]
      case isFalse => rfl
    rw [hkeep]
    split <;> rfl

/-- A write of a target register reaches every Vale of the partition, and none besides. -/
theorem writeTargets_vale (s : State) (v : Nat) (g : Vale → Vale) (w : Nat) (hw : w < Config.vales) :
    (s.writeTargets v g).vale w = (s.vale w).retarget (s.vale v).func g := by
  rw [writeTargets_eq]
  exact (foldl_range_view _ (fun t => t.vale w) _ w (targetStep_vale _ g w) s Config.vales).trans (if_pos hw)

/-! ### CORECFG (R411) -/

/-- One slot of a write of CORECFG: what `State.writeClasses` does at each. -/
def classStep (x : W64) (c : W16) (i : Nat) : W16 :=
  if bitsOf x (2 * i + 1) (2 * i) = 3 then c
  else (c &&& ~~~((3 : W16) <<< (2 * i))) ||| (BitVec.ofNat 16 (bitsOf x (2 * i + 1) (2 * i)) <<< (2 * i))

theorem writeClasses_eq (s : State) (q : Nat) (x : W64) :
    s.writeClasses q x = s.modPosition q (fun y => { y with cls := (List.range 8).foldl (classStep x) y.cls }) := rfl

theorem bitsOf_pair (x : W64) (i : Nat) : bitsOf x (2 * i + 1) (2 * i) = (x.extractLsb' (2 * i) 2).toNat := by
  rw [bitsOf, BitVec.extractLsb'_toNat]
  congr 2
  omega

/-- The class of a slot where the class of one slot has been put in. -/
theorem extract_put_pair (c : W16) (n : BitVec 2) (i j : Nat) (hi : i < 8) :
    ((c &&& ~~~((3 : W16) <<< (2 * j))) ||| (BitVec.ofNat 16 n.toNat <<< (2 * j))).extractLsb' (2 * i) 2 =
      if i = j then n else c.extractLsb' (2 * i) 2 := by
  have hmask : ∀ k (h : k < 16), (3 : W16)[k] = decide (k < 2) := by decide
  generalize (3 : W16) = mask at hmask ⊢
  refine BitVec.eq_of_getLsbD_eq fun b hb => ?_
  have hin : 2 * i + b < 16 := by omega
  by_cases hij : i = j
  · subst hij
    simp [hmask, hb, hin]
  · rw [if_neg hij]
    by_cases hlt : 2 * i + b < 2 * j
    · simp [hmask, hb, hin, hlt]
    · have hout : ¬ 2 * i + b ≤ 1 + 2 * j := by omega
      simp [hmask, hb, hin, hlt, hout, BitVec.getLsbD_of_ge n (2 * i + b - 2 * j) (by omega)]

/-- What a write of `x` makes of the class of slot `i`: a class of 3 leaves it. -/
def classAfter (x : W64) (i : Nat) (c : BitVec 2) : BitVec 2 := if x.extractLsb' (2 * i) 2 = 3 then c else x.extractLsb' (2 * i) 2

theorem classStep_extract (x : W64) (i : Nat) (hi : i < 8) (c : W16) (j : Nat) :
    (classStep x c j).extractLsb' (2 * i) 2 = if i = j then classAfter x i (c.extractLsb' (2 * i) 2) else c.extractLsb' (2 * i) 2 := by
  have hthree : (x.extractLsb' (2 * j) 2).toNat = 3 ↔ x.extractLsb' (2 * j) 2 = 3 := BitVec.toNat_inj (y := (3 : BitVec 2))
  rw [classStep, bitsOf_pair]
  by_cases h3 : x.extractLsb' (2 * j) 2 = 3
  · rw [if_pos (hthree.mpr h3)]
    split
    case isTrue hij => rw [classAfter, hij, if_pos h3]
    case isFalse => rfl
  · rw [if_neg (mt hthree.mp h3), extract_put_pair _ _ _ _ hi]
    refine if_ctx_congr Iff.rfl (fun hij => ?_) (fun _ => rfl)
    rw [classAfter, hij, if_neg h3]

/-- Each slot takes its class of the value written, but for a class of 3. -/
theorem writeClasses_cls (s : State) (q : Nat) (x : W64) (i : Nat) (hi : i < 8) :
    ((s.writeClasses q x).position q).cls.extractLsb' (2 * i) 2 = classAfter x i ((s.position q).cls.extractLsb' (2 * i) 2) := by
  rw [writeClasses_eq, modPosition_eq, position_setPosition]
  exact (foldl_range_view _ (fun c : W16 => c.extractLsb' (2 * i) 2) _ i (classStep_extract x i hi) _ 8).trans (if_pos hi)

theorem writeClasses_position (s : State) (q : Nat) (x : W64) :
    { (s.writeClasses q x).position q with cls := (s.position q).cls } = s.position q := by
  rw [writeClasses_eq, modPosition_eq, position_setPosition]

/-! ### The inbox overflow registers (R262) -/

theorem writeOverflow_open (s : State) (q : Nat) (size : Bool) (x : W64) (h : (s.position q).overflow ≠ []) : s.writeOverflow q size x = s := by
  rw [State.writeOverflow, if_pos (by simpa using h)]

theorem writeOverflow_base (s : State) (q : Nat) (x : W64) (h : (s.position q).overflow = []) :
    s.writeOverflow q false x = s.modPosition q (fun y => { y with ovBase := x &&& 0x7FFFFFFFFFF000 }) := by
  rw [State.writeOverflow, h]
  rfl

theorem writeOverflow_size (s : State) (q : Nat) (x : W64) (h : (s.position q).overflow = []) :
    s.writeOverflow q true x = s.modPosition q (fun y => { y with ovSlots := x.extractLsb' 0 32 }) := by
  rw [State.writeOverflow, h, ← lo32_eq]
  rfl

end Sys2Proof.Machine
end

section
open Sys2Proof Sys2Proof.Machine

namespace Sys2Proof.Machine

/-! ### Writes by the space of the register -/

theorem bitsOf_extract {w : Nat} (x : BitVec w) (h l : Nat) : bitsOf x h l = (x.extractLsb' l (h + 1 - l)).toNat :=
  (BitVec.extractLsb'_toNat l (h + 1 - l) x).symm

theorem bitsOf_low {w : Nat} (x : BitVec w) (h : Nat) : bitsOf x h 0 = x.toNat % 2 ^ (h + 1) := by
  rw [bitsOf_eq, pow_zero, Nat.div_one, Nat.sub_zero]

theorem toNat_lo32 (x : W64) : (lo32 x).toNat = x.toNat % 2 ^ 32 := BitVec.toNat_setWidth 32 x

theorem writeValeReg_ctgtb (s : State) (v : Nat) (x : W64) (src : Nat) :
    s.writeValeReg v 0x2A0 x src = s.writeTargets v (fun y => { y with ctgtb := x &&& 0x7FFFFFFFFFE000 }) := rfl

theorem writeValeReg_ctslot (s : State) (v : Nat) (x : W64) (src : Nat) :
    s.writeValeReg v 0x2A1 x src = s.writeTargets v (fun y => { y with ctTop := x.extractLsb' 12 6, ctNslot := x.extractLsb' 0 5 }) := by
  rw [← truncate_eq]
  rfl

/-- A write of a target register and one Vale: untouched where another function holds it. -/
theorem writeTargets_cases (s : State) (v : Nat) (g : Vale → Vale) (w : Nat) (hw : w < Config.vales) :
    ((s.vale w).func ≠ (s.vale v).func → (s.writeTargets v g).vale w = s.vale w) ∧
    (¬ (s.vale w).func ≠ (s.vale v).func → (s.writeTargets v g).vale w = g (s.vale w)) := by
  rw [writeTargets_vale s v g w hw, Vale.retarget]
  exact ⟨fun h => if_neg h, fun h => if_pos (not_not.mp h)⟩

/-- The two registers of the overflow region of a position, as either space names them. -/
theorem overflowWrites (s : State) (v p : Nat) (x : W64) (hv : v < Config.vales) (hp : p < 32) :
    ∀ a ∈ [(RegSpace.vale v, 0x400 + 4 * p, 0x401 + 4 * p), (RegSpace.position (v * 32 + p), 0x400, 0x401)],
      s.writeRegister a.1 a.2.1 x = s.writeOverflow (v * 32 + p) false x ∧ s.writeRegister a.1 a.2.2 x = s.writeOverflow (v * 32 + p) true x := by
  simp only [List.forall_mem_cons, List.not_mem_nil, false_implies, implies_true, and_true]
  refine ⟨⟨?_, ?_⟩, if_pos (by omega), if_pos (by omega)⟩
  · rw [writeRegister_vale _ _ _ _ hv, writeValeReg_overflowBase _ _ _ _ _ hp]
  · rw [writeRegister_vale _ _ _ _ hv, writeValeReg_overflowSize _ _ _ _ _ hp]

/-- CORECFG of a position, as either space names it. -/
theorem classWrites (s : State) (v p : Nat) (x : W64) (hv : v < Config.vales) (hp : p < 32) :
    ∀ a ∈ [(RegSpace.vale v, 0x600 + p), (RegSpace.position (v * 32 + p), 0x200)],
      s.writeRegister a.1 a.2 x = s.writeClasses (v * 32 + p) x := by
  simp only [List.forall_mem_cons, List.not_mem_nil, false_implies, implies_true, and_true]
  exact ⟨by rw [writeRegister_vale _ _ _ _ hv, writeValeReg_classes _ _ _ _ _ hp], if_pos (by omega)⟩

/-- A Vale that the package does not have, and the numbers that take no write, keep the state. -/
theorem writeRegister_vale_keeps (s : State) (v num : Nat) (x : W64) (h : Config.vales ≤ v ∨ 0x620 ≤ num ∨ 0x290 ≤ num ∧ num < 0x294) :
    s.writeRegister (.vale v) num x = s := by
  by_cases hv : v < Config.vales
  · rw [writeRegister_vale _ _ _ _ hv, writeValeReg_readOnly _ _ _ _ _ (h.resolve_left (Nat.not_le.mpr hv))]
  · exact if_neg hv

/-! ### CTXCTL and WSCTL (R411) -/

theorem writeCtxctl_keeps (s : State) (d : Nat) (x : W64) (h : (s.die d).ctxOp ≠ none ∨ x.extractLsb' 8 2 = 0 ∨ x.extractLsb' 8 2 = 3) :
    s.writeCtxctl d x = s := by
  have hop : bitsOf x 9 8 = (x.extractLsb' 8 2).toNat := bitsOf_extract x 9 8
  rw [State.writeCtxctl, hop]
  refine if_pos ?_
  rcases h with hbusy | h | h
  · rw [Option.isSome_iff_ne_none.mpr hbusy, Bool.true_or]
  · rw [h]; exact Bool.or_true _
  · rw [h]; exact Bool.or_true _

theorem writeCtxctl_begins (s : State) (d : Nat) (x : W64) (hidle : (s.die d).ctxOp = none) (h : x.extractLsb' 8 2 = 1 ∨ x.extractLsb' 8 2 = 2) :
    s.writeCtxctl d x = s.modDie d (fun y => { y with ctxOp := some ((x.extractLsb' 8 2).toNat, (x.extractLsb' 0 8).toNat) }) := by
  have hop : bitsOf x 9 8 = (x.extractLsb' 8 2).toNat := bitsOf_extract x 9 8
  have hctx : bitsOf x 7 0 = (x.extractLsb' 0 8).toNat := bitsOf_extract x 7 0
  rw [State.writeCtxctl, hop, hctx, hidle]
  refine if_neg ?_
  rcases h with h | h <;> rw [h] <;> exact Bool.false_ne_true

theorem writeSwitch_busy (s : State) (d : Nat) (x : W64) (src : Nat) (h : (s.die d).wsOp ≠ none) : s.writeSwitch d x src = s := by
  rw [State.writeSwitch, if_pos (Option.isSome_iff_ne_none.mpr h)]

/-! ### BAR 2 and the pages (R329, R448, R457, R460, R465) -/

theorem writeBar_log (s : State) (fn : Nat) (x : W64) :
    s.writeBar fn 0 x = s.modFunc fn (fun y => { y with elbase := x &&& 0xFFFFFFFFFFFFF000, ellog2 := x.toNat % 16 }) := by
  rw [State.writeBar, if_pos rfl, bitsOf_low]
  rfl

theorem writeBar_tail (s : State) (fn : Nat) (x : W64) : s.writeBar fn 2 x = s.modFunc fn (fun y => { y with eltail := x.extractLsb' 0 32 }) := by
  rw [← lo32_eq]
  rfl

theorem writeBar_hctx (s : State) (fn : Nat) (x : W64) : s.writeBar fn 4 x = s.modFunc fn (fun y => { y with hctx := x.toNat % 256 }) := by
  simp only [State.writeBar, bitsOf_low]
  rfl

theorem writeBar_hfwait (s : State) (fn : Nat) (x : W64) : s.writeBar fn 5 x = s.modFunc fn (fun y => { y with hfwait := x.toNat % 2 ^ 32 }) := by
  simp only [State.writeBar, toNat_lo32]
  rfl

theorem writeBar_binding (s : State) (fn n : Nat) (x : W64) (hn : n < 1024) :
    s.writeBar fn (0x1000 + n) x = s.modPage fn n (fun p => { p with
      bound := if x.getLsbD 63 then some (x.toNat / 2 ^ 14 % 4, x.toNat / 2 ^ 8 % 64, x.toNat % 256) else none }) := by
  have hdie : bitsOf x 15 14 = x.toNat / 2 ^ 14 % 4 := bitsOf_eq x 15 14
  have hqueue : bitsOf x 13 8 = x.toNat / 2 ^ 8 % 64 := bitsOf_eq x 13 8
  have hctx : bitsOf x 7 0 = x.toNat % 256 := bitsOf_low x 7
  simp (disch := omega) only [State.writeBar, if_neg, if_pos, Nat.add_sub_cancel_left, hdie, hqueue, hctx]
  rfl

/-- What the physical function alone has, and the unassigned numbers below the bindings, take no write of another function. -/
theorem writeBar_other (s : State) (fn num : Nat) (x : W64) (h0 : fn ≠ 0) (hlo : 6 ≤ num) (hhi : num < 0x1000) : s.writeBar fn num x = s := by
  simp (disch := omega) only [State.writeBar, if_neg, if_pos]

theorem writeBar_power (s : State) (x : W64) :
    s.writeBar 0 6 x = { s with adentoth := { s.adentoth with powerLimit := min (x.toNat % 2 ^ 32) 2400 } } := by
  rw [← toNat_lo32]
  rfl

theorem writeBar_peermap (s : State) (i : Nat) (x : W64) (hi : i < 16) :
    s.writeBar 0 (0x10 + i) x = { s with peermap := s.peermap.put i (x.extractLsb' 0 32 &&& 0x83FF0007) } := by
  simp (disch := omega) only [State.writeBar, if_neg, if_pos, Nat.add_sub_cancel_left, lo32_eq]

theorem writeBar_pctx (s : State) (i : Nat) (x : W64) (hi : i < 8) : s.writeBar 0 (0x20 + i) x = { s with pctx := s.pctx.put i (x.toNat % 256) } := by
  simp (disch := omega) only [State.writeBar, if_neg, if_pos, Nat.add_sub_cancel_left, bitsOf_low]
  rfl

theorem writePage_uiaddr (s : State) (fn n : Nat) (x : W64) :
    s.writePage fn n 0xB0 x = s.modPage fn n (fun p => { p with uiaddr := x &&& 0xFFFFFFFFFFFFFFFC }) := rfl

theorem writePage_crhead (s : State) (fn n : Nat) (x : W64) :
    s.writePage fn n 0xA8 x = s.modPage fn n (fun p => { p with crhead := x.extractLsb' 0 32 }) := by
  rw [← lo32_eq]
  rfl

theorem writePage_readOnly (s : State) (fn n num : Nat) (x : W64) (hlo : 0x80 ≤ num) (hA0 : num ≠ 0xA0) (hA8 : num ≠ 0xA8) (hB0 : num ≠ 0xB0) :
    s.writeRegister (.page fn n) num x = s := by
  have hpage : s.writePage fn n num x = s := by simp (disch := omega) only [State.writePage, if_neg]
  exact (if_congr Iff.rfl hpage rfl).trans (ite_self s)

/-! ### The statement of the writes -/

/-- R7, R9, R262, R329, R364, R411, R448, R465, R471. -/
theorem registerWrites : Spec.RegisterWrites := by
  intro s x put
  have hput : ∀ {space num t}, s.writeRegister space num x = t → put space num t := fun h => congrArg _ h
  refine ⟨fun v hv => ?_, fun d hd => ?_, fun fn hfn => ?_, hput (writeBar_power s x), fun i hi => hput (writeBar_peermap s i x hi),
    fun i hi => hput (writeBar_pctx s i x hi), fun space num => ⟨_, rfl⟩, fun e num => rfl,
    fun v num h => hput (writeRegister_vale_keeps s v num x h), fun fn n num hlo hA0 hA8 hB0 => hput (writePage_readOnly s fn n num x hlo hA0 hA8 hB0)⟩
  · have hvale : ∀ {num t}, s.writeValeReg v num x (srcNum (v / 24) (v % 24) 0 0) = t → put (.vale v) num t :=
      fun h => hput ((writeRegister_vale s v _ x hv).trans h)
    refine ⟨fun r hr => hvale (writeValeReg_plain s v x _ r hr), hvale rfl, fun i hi => ⟨hvale (writeValeReg_counter s v x _ i hi), ?_, ?_⟩,
      fun n hlo hhi hn => hvale (writeValeReg_template s v n x _ hlo hhi hn), fun w hw => ?_, fun p hp => ⟨fun a ha => ?_, fun a ha => ?_⟩⟩
    · rw [exec_pmselWrite, if_pos hi]
      exact hvale (writeValeReg_selector s v x _ i hi)
    · rw [exec_trplWrite, if_pos hi]
      exact hvale (writeValeReg_pipe s v x _ i hi)
    · exact ⟨⟨_, hvale (writeValeReg_ctgtb s v x _), writeTargets_cases s v _ w hw⟩,
        ⟨_, hvale (writeValeReg_ctslot s v x _), writeTargets_cases s v _ w hw⟩⟩
    · obtain ⟨hbase, hsize⟩ := overflowWrites s v p x hv hp a ha
      exact ⟨fun h => ⟨hput (hbase.trans (writeOverflow_base s _ x h)), hput (hsize.trans (writeOverflow_size s _ x h))⟩,
        fun h => ⟨hput (hbase.trans (writeOverflow_open s _ _ x h)), hput (hsize.trans (writeOverflow_open s _ _ x h))⟩⟩
    · exact ⟨_, hput (classWrites s v p x hv hp a ha), rfl, writeClasses_position s _ x, fun i hi => writeClasses_cls s _ x i hi⟩
  · have hdie : ∀ {num t}, s.writeDieReg d num x (srcNum d 31 0 15) = t → put (.die d) num t :=
      fun h => hput ((writeRegister_die s d _ x hd).trans h)
    refine ⟨fun r hr => hdie (writeDieReg_plain s d x _ r hr), fun h => hdie (writeCtxctl_keeps s d x h),
      fun hidle h => hdie (writeCtxctl_begins s d x hidle h), fun h => hdie (writeSwitch_busy s d x _ h), fun h => ?_⟩
    rw [exec_worldSwitch, h, if_pos hd]
    exact hdie rfl
  · have hbar : ∀ {num t}, s.writeBar fn num x = t → put (.bar2 fn) num t := fun h => hput ((writeRegister_bar2 s fn _ x hfn).trans h)
    refine ⟨hbar (writeBar_log s fn x), hbar (writeBar_tail s fn x), hbar (writeBar_hctx s fn x), hbar (writeBar_hfwait s fn x), fun n hn => ?_,
      fun h0 num hlo hhi => hbar (writeBar_other s fn num x h0 hlo hhi)⟩
    have hpage : ∀ {num t}, s.writePage fn n num x = t → put (.page fn n) num t := fun h => hput ((writeRegister_page s fn n _ x hfn hn).trans h)
    exact ⟨hbar (writeBar_binding s fn n x hn), fun num h => hpage (if_pos h), hpage rfl, hpage (writePage_crhead s fn n x),
      hpage (writePage_uiaddr s fn n x)⟩

end Sys2Proof.Machine

/-- Settles O44: contexts, then registers: writes by space and number, the steps of their own, and reads. -/
theorem contextAndRegisterSteps : Obligations.ContextAndRegisterSteps := ⟨contextSteps, registerWrites, registerSteps, registerReads⟩
end

section
open Sys2Proof Sys2Proof.Machine

namespace Sys2Proof.Machine

/-! ### The checks before a request (R30, R205) -/

theorem laneCheck_eq_cause (s : State) (u : UnitId) (sp : Space) (width k : Nat) (a : W64) :
    s.laneCheck u sp width a k = Spec.cause s u sp width k a := by
  simp only [State.laneCheck, Spec.cause, bne_iff_ne]

/-- The lanes that fail the checks, each with its address and its cause. -/
def State.failedLanes (s : State) (u : UnitId) (sp : Space) (width k : Nat) (eas : List (Nat × W64)) : List (Nat × W64 × Cause) :=
  eas.filterMap (fun e => (s.laneCheck u sp width e.2 k).map (fun c => (e.1, e.2, c)))

section
variable {s : State} {u : UnitId} {sp : Space} {width k : Nat} {eas : List (Nat × W64)}

theorem failedLanes_pairs : (s.failedLanes u sp width k eas).map (fun f => (f.1, f.2.1)) =
    eas.filter (fun e => (Spec.cause s u sp width k e.2).isSome) := by
  unfold State.failedLanes
  simp only [laneCheck_eq_cause]
  induction eas with
  | nil => rfl
  | cons e l ih =>
    cases h : Spec.cause s u sp width k e.2 with
    | none => simpa [h] using ih
    | some c => simpa [h] using ih

theorem failedLanes_cause {f : Nat × W64 × Cause} (h : f ∈ s.failedLanes u sp width k eas) : Spec.cause s u sp width k f.2.1 = some f.2.2 := by
  obtain ⟨e, -, he⟩ := List.mem_filterMap.mp h
  obtain ⟨c, hc, rfl⟩ := Option.map_eq_some_iff.mp he
  exact (laneCheck_eq_cause ..).symm.trans hc

/-- The lowest failing lane, with its cause, and the others. -/
theorem failedLanes_cons {l : Nat} {a : W64} {rest : List (Nat × W64)} {c : Cause}
    (hfails : eas.filter (fun e => (Spec.cause s u sp width k e.2).isSome) = (l, a) :: rest) (hc : Spec.cause s u sp width k a = some c) :
    ∃ fs, s.failedLanes u sp width k eas = (l, a, c) :: fs ∧ fs.map (fun f => (f.1, f.2.1)) = rest := by
  obtain ⟨⟨l', a', c'⟩, fs, hfs, hhead, hrest⟩ := List.map_eq_cons_iff.mp (failedLanes_pairs.trans hfails)
  obtain ⟨rfl, rfl⟩ := Prod.mk.inj hhead
  have hc' := failedLanes_cause (hfs ▸ List.mem_cons_self)
  obtain rfl : c' = c := Option.some.inj (hc'.symm.trans hc)
  exact ⟨fs, hfs, hrest⟩

/-- Where a lane fails, `memCheck` logs the addresses beyond the address space and traps. -/
theorem memCheck_trap (r : Res) {l : Nat} {a : W64} {rest : List (Nat × W64)} {c : Cause}
    (hfails : eas.filter (fun e => (Spec.cause s u sp width k e.2).isSome) = (l, a) :: rest) (hc : Spec.cause s u sp width k a = some c) :
    let far := if isScratch sp then [] else ((l, a) :: rest).filter (fun e => decide (2 ^ 55 ≤ e.2.toNat))
    s.memCheck u sp width eas r k = .trap (far.foldl (fun t e => t.logViolation u e.2) s)
      { cause := c, mask := if isRidge u then Mask.ofLanes (((l, a) :: rest).map Prod.fst) else 1, addr := a } := by
  obtain ⟨fs, hfs, rfl⟩ := failedLanes_cons hfails hc
  have hlanes : ((l, a) :: fs.map (fun f => (f.1, f.2.1))).map Prod.fst = ((l, a, c) :: fs).map (fun f => f.1) := by simp
  have hpairs : (l, a) :: fs.map (fun f => (f.1, f.2.1)) = ((l, a, c) :: fs).map (fun f => (f.1, f.2.1)) := rfl
  rw [hlanes, hpairs, List.filter_map]
  unfold State.memCheck
  rw [← State.failedLanes, hfs]
  cases isScratch sp with
  | true => rfl
  | false =>
    simp only [Bool.false_eq_true, if_false, List.foldl_map]
    rfl
end

/-- An instruction whose first act is the check of its lanes traps as the statement says. -/
theorem checkTraps_of_memCheck {s : State} {u : UnitId} {i : Instr} {f : State → UnitId → Res} {sp : Space} {width k : Nat}
    {eas : List (Nat × W64)} (h : Alone s u) (hexec : exec i s = runC s i f)
    (hf : ∃ r, f (s.begun u) u = (s.begun u).memCheck u sp width eas r k) : Spec.checkTraps s u i sp width k eas := by
  intro l a rest c hfails hc
  obtain ⟨r, hr⟩ := hf
  rw [hexec, runC_trap h (hr.trans (memCheck_trap r hfails hc)), hfails]

/-! ### Holding instructions that begin -/

/-- A holding instruction that no access of its own holds begins. -/
theorem holdAgain_begins {s : State} {u : UnitId} (h : Alone s u) (fin : State → State) (first : Res) :
    (s.begun u).holdAgain u fin first = first := by
  have hheld : (s.begun u).heldAccess u = none := by simp [State.heldAccess, State.begun, h.waits]
  simp only [State.holdAgain, hheld]

/-- Nothing is sent again: every lane goes. -/
theorem redoLanes_begun {s : State} {u : UnitId} (h : (s.com u).redo = none) (ls : List Nat) : (s.begun u).redoLanes u ls = ls := by
  simp [State.redoLanes, State.begun, h]

section
variable {s : State} {u : UnitId} (h : Alone s u) (hredo : (s.com u).redo = none)
include h hredo

theorem loadHold_checks (f : MemForm) (sp : Space) (op : AccOp) :
    ∃ r, (s.begun u).loadHold u f sp op = (s.begun u).memCheck u sp (szBytes f.m.sz) (Spec.addresses (s.begun u) u f) r := by
  rw [State.loadHold, holdAgain_begins h, redoLanes_begun hredo]
  exact ⟨_, rfl⟩

theorem storeHold_checks (f : MemForm) (spad full : Bool) :
    ∃ r, (s.begun u).storeHold u f spad full =
      (s.begun u).memCheck u (Spec.space (s.begun u) u spad) (szBytes f.m.sz) (Spec.addresses (s.begun u) u f) r 1 := by
  rw [State.storeHold, holdAgain_begins h, redoLanes_begun hredo]
  exact ⟨_, rfl⟩

theorem atomic_checks (m : MemOp) (e : MemExt) :
    ∃ r, (s.begun u).atomic u m e = (s.begun u).memCheck u ((s.begun u).spaceOf u) (szBytes m.sz)
      (Spec.addresses (s.begun u) u (Spec.formX u m (some e))) r 3 := by
  simp only [State.atomic, holdAgain_begins h, redoLanes_begun hredo]
  exact ⟨_, rfl⟩
end

/-! ### The nine memory majors (R204, R208) -/

/-- Does a memory major, with its extension word, name the scratchpad? -/
def spadOf (k : MemKind) (x : Option MemExt) : Bool :=
  match k with
  | .lds | .sts => true
  | .ldsync | .stf => (Spec.modOf x).getLsbD 1
  | _ => false

/-- The kind of access for which a memory major checks its lanes (R422): 0 a read, 1 a write. -/
def checkOf : MemKind → Nat
  | .st | .sts | .stl | .stf => 1
  | _ => 0

theorem form_m (u : UnitId) (m : MemOp) (x : Option MemExt) : (Spec.form u m x).m = m := by cases x <;> rfl

/-- A memory major begins with the check of its lanes: LDQ is a wave's, and LDSYNC stands outside a task. -/
theorem memOp_checks {s : State} {u : UnitId} (k : MemKind) (m : MemOp) (x : Option MemExt) (h : Alone s u) (hredo : (s.com u).redo = none)
    (hqueue : k = .ldq → ∃ w, u = .wave w) (htask : k = .ldsync → (s.begun u).inTask u = false) :
    ∃ r, (s.begun u).memOp u k m x = (s.begun u).memCheck u (Spec.space (s.begun u) u (spadOf k x)) (szBytes (Spec.form u m x).m.sz)
      (Spec.addresses (s.begun u) u (Spec.form u m x)) r (checkOf k) := by
  cases k with
  | ld => exact ⟨_, rfl⟩
  | lds => exact ⟨_, rfl⟩
  | ldq =>
    obtain ⟨w, rfl⟩ := hqueue rfl
    exact ⟨_, rfl⟩
  | lda => exact loadHold_checks h hredo (Spec.form u m x) _ _
  | ldsync =>
    obtain ⟨r, hr⟩ := loadHold_checks h hredo (Spec.form u m x) ((s.begun u).kindSpace u ((Spec.modOf x).getLsbD 1))
      (.sync ((Spec.modOf x).getLsbD 0) ((Spec.modOf x).getLsbD 2))
    exact ⟨r, (if_neg (Bool.eq_false_iff.mp (htask rfl))).trans hr⟩
  | st => exact ⟨_, rfl⟩
  | sts => exact ⟨_, rfl⟩
  | stl => exact storeHold_checks h hredo (Spec.form u m x) _ _
  | stf => exact storeHold_checks h hredo (Spec.form u m x) _ _

/-- HIST begins with the check of its lanes. -/
theorem histogram_checks (s : State) (u : UnitId) (m : MemOp) (x : Option MemExt) :
    ∃ r, s.histogram u m x = s.memCheck u (Spec.space s u ((Spec.modOf x).getLsbD 0)) (szBytes m.sz)
      (Spec.addresses s u (Spec.form u m x)) r 3 := ⟨_, rfl⟩

end Sys2Proof.Machine

/-- Settles O52: every form begins with the check of its lanes (`memOp_checks`), and `memCheck_trap` says how that traps. -/
theorem alignmentTraps : Obligations.AlignmentTraps := by
  intro s u m e h hredo s0 bit traps
  have hmajor : ∀ {i : Instr} (k : MemKind) (x : Option MemExt), exec i s = runC s i (fun s u => s.memOp u k m x) →
      (k = .ldq → ∃ w, u = .wave w) → (k = .ldsync → s0.inTask u = false) → traps i x (spadOf k x) (checkOf k) :=
    fun k x hexec hqueue htask => checkTraps_of_memCheck h hexec (by simpa only [form_m] using memOp_checks k m x h hredo hqueue htask)
  have hhist : ∀ x, traps (.hist m x) x ((Spec.modOf x).getLsbD 0) 3 :=
    fun x => checkTraps_of_memCheck (f := fun s u => s.histogram u m x) h rfl (histogram_checks s0 u m x)
  have hatom := checkTraps_of_memCheck (i := .atom m e) (f := fun s u => s.atomic u m e) h rfl (atomic_checks h hredo m e)
  refine ⟨hmajor .ld none rfl nofun nofun, hmajor .lds none rfl nofun nofun, hmajor .lda none rfl nofun nofun,
    fun w hw => ⟨hmajor .ldq none rfl (fun _ => ⟨w, hw⟩) nofun, hmajor .ldq (some e) rfl (fun _ => ⟨w, hw⟩) nofun⟩,
    fun htask => ⟨hmajor .ldsync none rfl nofun (fun _ => htask), hmajor .ldsync (some e) rfl nofun (fun _ => htask)⟩,
    hmajor .st none rfl nofun nofun, hmajor .sts none rfl nofun nofun, hmajor .stl none rfl nofun nofun, hmajor .stf none rfl nofun nofun, ?_,
    hhist, hatom⟩
  simp only [List.forall_mem_cons, List.not_mem_nil, false_implies, implies_true, and_true]
  exact ⟨hmajor .ld (some e) rfl nofun nofun, hmajor .lds (some e) rfl nofun nofun, hmajor .lda (some e) rfl nofun nofun, hmajor .st (some e) rfl nofun nofun,
    hmajor .sts (some e) rfl nofun nofun, hmajor .stl (some e) rfl nofun nofun, hmajor .stf (some e) rfl nofun nofun⟩
end

section
open Sys2Proof Sys2Proof.Machine

namespace Sys2Proof.Machine

/-! ### Choices, counters and notes leave the waves -/

@[simp] theorem choose_wave (s : State) (n i : Nat) : (s.choose n).2.wave i = s.wave i := by
  unfold State.choose
  cases s.choices <;> rfl

@[simp] theorem choose_block (s : State) (n i : Nat) : (s.choose n).2.block i = s.block i := by
  unfold State.choose
  cases s.choices <;> rfl

@[simp] theorem countUnit_wave (s : State) (u : UnitId) (code i : Nat) : (s.countUnit u code).wave i = s.wave i := by
  obtain ⟨vs, is, h⟩ := s.countEvents_only (s.unitVale u) (s.unitFunc u) code 1
  rw [show s.countUnit u code = s.countEvents (s.unitVale u) (s.unitFunc u) code 1 from rfl, h]
  rfl

/-- A note of writes stands in the spin detector alone: steps and tiles are kept. -/
theorem noteWrites_steps_t (s : State) (i : Nat) (n : Note) :
    ((s.noteWrites (.wave i) n).wave i).steps = (s.wave i).steps ∧ ((s.noteWrites (.wave i) n).wave i).t = (s.wave i).t := by
  simp only [State.noteWrites]
  split
  · exact ⟨rfl, rfl⟩
  · simp only [modWave_eq, wave_setWave, and_self]

/-! ### Waves (R65, R129 to R131, R299, R307) -/

theorem setOwnWait_twice (c : Common) (w : Wait) : (c.setOwnWait .none).setOwnWait w = c.setOwnWait w := by
  by_cases h : (c.wait == .trap) = true
  · simp only [Common.setOwnWait, if_pos h]
  · simp only [Common.setOwnWait, if_neg h]
    rfl

theorem exec_waitrTimeout (s : State) (w : Nat) : exec (.waitrTimeout w) s = .next (match s.waitrOver w with
    | some d =>
      let x := (s.wave w).timeout d.toNat
      if x.exec == 0 then (s.setWave w { x with c := x.c.setOwnWait .joinv }).selectPath w else s.setWave w { x with c := x.c.setOwnWait .none }
    | none => s) := by
  cases h : s.waitrOver w with
  | none => simp only [exec, execWaitrTimeout, h]
  | some d => simp only [exec, execWaitrTimeout, h, setOwnWait_twice]

/-- The order of things has no residue mismatch in a step: its checks pass at once. -/
theorem checkColumns_pass {s : State} (h : (s.choose 257).1 = 0) (e n : Nat) : s.checkColumns e (n + 1) = (true, (s.choose 257).2) := by
  simp only [State.checkColumns, h, if_true]

/-- The oldest step of a wave, once its checks pass, writes its tile and is over. -/
theorem runStep_passes {s : State} {i : Nat} {st : MatStep} {rest : List MatStep} {x : Tile} (hsteps : (s.wave i).steps = st :: rest)
    (htile : (s.wave i).t.find st.tile = some x) (hpass : (s.choose 257).1 = 0) :
    ((s.runStep i).wave i).steps = rest ∧
      ((s.runStep i).wave i).t.find st.tile = some (x.step st (s.block ((s.wave i).c.block.getD 0))) := by
  have hchecks := checkColumns_pass hpass (s.wave i).eng 8
  simp only [State.runStep, hsteps, hchecks, Bool.not_true, Bool.false_eq_true, if_false, noteWrites_steps_t, modWave_eq, wave_setWave, countUnit_wave,
    choose_wave, choose_block, htile, AList.find_put_self, and_self]

/-- R65, R129 to R131, R299. -/
theorem waveSteps : Spec.WaveSteps := by
  intro s w lane
  refine ⟨fun d hd => ?_, fun hd => ?_, occurs_of_ite rfl, occurs_of_ite rfl, ⟨rfl, fun st rest x hready hsteps htile hpass => ?_⟩,
    fun u => occurs_of_ite ?_⟩
  · rw [exec_waitrTimeout, hd]
  · rw [exec_waitrTimeout, hd]
  · obtain ⟨hrest, hstep⟩ := runStep_passes hsteps htile hpass
    exact ⟨_, congrArg Host.Outcome.next (if_pos hready), hrest, hstep⟩
  · simp only [exec, execBundleFetch, Bool.and_eq_true, Option.isNone_iff_eq_none, and_assoc]

/-! ### Waits of units (R115, R123, R387, R399, R400, R412, R428, R432, R443) -/

/-- An LWAIT that has not to begin again is the only wait whose word is read again. -/
theorem recheck_other {s : State} {u : UnitId} (h : ∀ e d next, s.ownWait u ≠ .lwait e d next false) : s.recheck u = s := by
  unfold State.recheck
  split
  · next e d next hwait => exact absurd hwait (h e d next)
  · rfl

theorem occurs_sleepTimeout {s : State} {u : UnitId} {d : Reg6} (h : s.ownWait u = .sleep d) :
    Spec.occurs s (.sleepTimeout u) (s.limitPassed u = true ∧ s.limitPaused u = false)
      (((s.dropWaiter u).setReg u d.toNat 2).setOwnWait u (.answered true)) := by
  refine occurs_of_ite ?_
  simp only [exec, execSleepTimeout, h, State.limitEnds, Bool.and_eq_true, Bool.not_eq_true']

/-- What ends a WFI: an event before a limit (R443). -/
theorem wfiEnd_eq {s : State} {n : Nat} {d : Reg6} {lim : Option Nat} (h : (s.thread n).c.wait = .wfi d lim) :
    s.wfiEnd n = if (s.thread n).event = true then some (d, 1) else if ∃ x, lim = some x ∧ x ≤ s.time then some (d, 2) else none := by
  simp only [State.wfiEnd, h, Option.any_eq_true, decide_eq_true_eq]

theorem exec_wfiWake (s : State) (n : Nat) : exec (.wfiWake n) s = .next (match s.wfiEnd n with
    | some (d, x) => ((s.modThread n (fun t => { t with event := false })).setReg (.thread n) d.toNat x).setWait (.thread n) (.answered false)
    | none => s) := rfl

theorem occurs_threadReturn (s : State) (n : Nat) : Spec.occurs s (.threadReturn n) ((∃ v, (s.thread n).loc = .retry v) ∧ (s.thread n).c.away = false)
    (s.returnThread n ((s.thread n).c.parkedAt.getD 0) (s.thread n).cls) := by
  have hexec : exec (.threadReturn n) s = .next (match (s.thread n).loc with
    | .retry _ => if (s.thread n).c.away then s else s.returnThread n ((s.thread n).c.parkedAt.getD 0) (s.thread n).cls
    | _ => s) := rfl
  constructor
  · rintro ⟨⟨v, hv⟩, haway⟩
    simp only [hexec, hv, haway, Bool.false_eq_true, if_false]
  · intro h
    rw [hexec]
    split
    · next v hv => rw [if_pos (Bool.not_eq_false _ ▸ fun haway => h ⟨⟨v, hv⟩, haway⟩)]
    · rfl

/-- R115, R123, R387, R399, R400, R412, R428, R432, R443. -/
theorem waitSteps : Spec.WaitSteps := by
  intro s u n
  refine ⟨fun d hd => occurs_sleepTimeout hd, fun d lim hwait => ?_, rfl, recheck_other, occurs_of_ite rfl, fun v c sh h => ?_, fun h => ?_,
    fun a t c x hwaiter hslot => ?_, fun h => ?_, occurs_threadReturn s n, fun t h => ?_, fun h => ?_, fun f h => ?_, fun h => ?_⟩
  · refine ⟨fun he => ?_, fun he hlim => ?_, fun he hlim => ?_⟩ <;> rw [exec_wfiWake, wfiEnd_eq hwait]
    · rw [if_pos he]
    · rw [if_neg (Bool.eq_false_iff.mp he), if_pos hlim]
    · rw [if_neg (Bool.eq_false_iff.mp he), if_neg fun ⟨x, hx, hle⟩ => absurd (hlim x hx) (Nat.not_lt.mpr hle)]
  · simp only [exec, execLaunchqGrant, State.grantLaunch, h]
  · simp only [exec, execLaunchqGrant, State.grantLaunch, h]
  · simp only [exec, execInboxSlotGrant, hwaiter, hslot, Option.getD_some]
  · simp only [exec, execInboxSlotGrant, h]
  · simp only [exec, execTrapDelivery, h, Option.getD_some]
  · simp only [exec, execTrapDelivery, h, Option.getD_none]
  · simp only [exec, execFaultMessageRetry, h]
  · simp only [exec, execFaultMessageRetry, h]

end Sys2Proof.Machine
end

section
open Sys2Proof Sys2Proof.Machine

namespace Sys2Proof.Machine

/-! ### Time (R38, R39, R65, R130, R388, R399) -/

/-- A list whose values are all replaced, each by what its key and value give. -/
theorem find_map_keyed {α β : Type} (f : Nat → α → β) (l : AList α) (k : Nat) :
    AList.find (l.map (fun e => (e.1, f e.1 e.2))) k = (l.find k).map (f k) := by
  induction l with
  | nil => rfl
  | cons e t ih =>
    obtain ⟨j, x⟩ := e
    by_cases h : j = k
    · subst h; simp [AList.find]
    · simpa [AList.find, h] using ih

/-- A record that is listed is replaced by what its key and value give. -/
theorem getD_map_keyed {α : Type} (f : Nat → α → α) (l : AList α) (k : Nat) (d : α) (h : (l.find k).isSome = true) :
    AList.getD (l.map (fun e => (e.1, f e.1 e.2))) k d = f k (l.getD k d) := by
  obtain ⟨x, hx⟩ := Option.isSome_iff_exists.mp h
  simp [AList.getD, find_map_keyed, hx]

theorem putOff_until (s : State) (u : UnitId) (n : Nat) (c : Common) :
    (s.putOff u n c).until_ = if s.limitPaused u then c.until_.map (· + n) else c.until_ := by
  unfold State.putOff
  split <;> rfl

theorem putOff_deadlock (s : State) (u : UnitId) (n : Nat) (c : Common) : (s.putOff u n c).deadlock = c.deadlock := by
  unfold State.putOff
  split <;> rfl

/-- A thread after `n` ticks. -/
theorem passTime_thread (s : State) (n i : Nat) (h : s.unitExists (.thread i) = true) :
    (s.passTime n).thread i = { s.thread i with c := s.putOff (.thread i) n (s.thread i).c } :=
  getD_map_keyed (fun i (x : Thread) => { x with c := s.putOff (.thread i) n x.c }) s.threads i {} h

/-- A wave's shared part after `n` ticks, in which its count towards a deadlock may stand still. -/
def State.waveCom (s : State) (n i : Nat) (c : Common) : Common :=
  if s.deadlockPaused i then { s.putOff (.wave i) n c with deadlock := (s.putOff (.wave i) n c).deadlock.map (· + n * s.adentoth.aMHz) }
  else s.putOff (.wave i) n c

/-- A wave's divergence stack after `n` ticks, in which the counts of its WAITRs may stand still. -/
def State.waveStack (s : State) (n i : Nat) (l : List DivEntry) : List DivEntry :=
  if s.waitrPaused i then l.map (fun d => { d with since := d.since.map (· + n * s.adentoth.aMHz) }) else l

/-- A wave after `n` ticks. -/
theorem passTime_wave (s : State) (n i : Nat) (h : s.unitExists (.wave i) = true) :
    (s.passTime n).wave i = { s.wave i with c := s.waveCom n i (s.wave i).c, stack := s.waveStack n i (s.wave i).stack } :=
  getD_map_keyed (fun i (x : Wave) => { x with c := s.waveCom n i x.c, stack := s.waveStack n i x.stack }) s.waves i {} h

theorem waveCom_until (s : State) (n i : Nat) (c : Common) :
    (s.waveCom n i c).until_ = if s.limitPaused (.wave i) then c.until_.map (· + n) else c.until_ := by
  rw [← putOff_until]
  unfold State.waveCom
  split <;> rfl

theorem waveCom_deadlock (s : State) (n i : Nat) (c : Common) :
    (s.waveCom n i c).deadlock = if s.deadlockPaused i then c.deadlock.map (· + n * s.adentoth.aMHz) else c.deadlock := by
  rw [← putOff_deadlock s (.wave i) n c]
  unfold State.waveCom
  split <;> rfl

/-- What passes for a unit: its limit, and no register. -/
theorem passTime_unit (s : State) (n : Nat) (u : UnitId) (h : s.unitExists u = true) :
    ((s.passTime n).com u).until_ = (if s.limitPaused u then (s.com u).until_.map (· + n) else (s.com u).until_) ∧
      ∀ r, (s.passTime n).reg u r = s.reg u r := by
  cases u with
  | thread i => simp only [State.com, State.reg, passTime_thread s n i h]; exact ⟨putOff_until .., fun _ => rfl⟩
  | wave i => simp only [State.com, State.reg, passTime_wave s n i h]; exact ⟨waveCom_until .., fun _ => rfl⟩

/-- R38, R39, R65, R130, R388, R399: the counters of a Vale are all that `tick` changes beside `passTime`. -/
theorem timePasses : Spec.TimePasses := by
  intro s n t
  obtain ⟨vs, is, ht⟩ : (s.passTime n).CountsOnly t := s.tick_only n
  have hcom : ∀ u, t.com u = (s.passTime n).com u := fun u => by rw [ht]; cases u <;> rfl
  have hreg : ∀ u r, t.reg u r = (s.passTime n).reg u r := fun u r => by rw [ht]; cases u <;> rfl
  have hwave : ∀ w, t.wave w = (s.passTime n).wave w := fun w => by rw [ht]; rfl
  refine ⟨by rw [ht]; rfl, by rw [ht]; rfl, by rw [ht]; rfl, by rw [ht]; rfl, fun u hu => ?_, fun w hw => ⟨?_, fun hrun => ?_⟩⟩
  · simpa only [hcom, hreg] using passTime_unit s n u hu
  · simp only [State.com, hwave, passTime_wave s n w hw, waveCom_deadlock]
  · rw [hwave, passTime_wave s n w hw]
    exact if_neg (Bool.eq_false_iff.mp hrun)

end Sys2Proof.Machine

/-- Settles O42: steps of waves, waits of units, and time. -/
theorem unitSteps : Obligations.UnitSteps := ⟨waveSteps, waitSteps, timePasses⟩
end

section
open Sys2Proof Sys2Proof.Machine

namespace Sys2Proof.Machine

/-! ### The monitor of heartbeats (R469; log entry 107) -/

/-- The monitor declares no live position dead while a heartbeat of it is due. -/
theorem positionDead_beatDue (s : State) (p : Nat) (hsummit : isSummit p = false) (hlive : s.posDead p = false) (hdue : s.beatsDue p ≠ 0) :
    exec (.positionDead p) s = .next s := by
  have hlate : s.beatLate p = false := by simp [State.beatLate, hsummit, hdue]
  simp only [exec, execPositionDead, hlive, hlate, Bool.false_eq_true, if_false]

end Sys2Proof.Machine

/-- Refutes O45: 40,000 ticks after the reset the heartbeat word of position 1 has not changed over 4 HBPER ticks, but four beats are due, so the model's
monitor waits for them (log entry 107), where the statement has the position die. -/
theorem not_healthSteps : ¬ Obligations.HealthSteps := by
  intro ⟨hevents, _⟩
  let s : State := { State.reset with time := 40000 }
  obtain ⟨-, hlate, -⟩ := hevents s 1
  have hdies := (hlate (by decide +kernel)).1 (.inr (by decide +kernel))
  have hkeeps := positionDead_beatDue s 1 rfl (by decide +kernel) (by decide +kernel)
  have hsame := Host.Outcome.next.inj (hdies.symm.trans hkeeps)
  have hdead := congrArg (fun t : State => (t.vale 0).dead.getLsbD 1) hsame
  revert hdead
  decide +kernel
end

section
open Sys2Proof Sys2Proof.Machine

namespace Sys2Proof

/-! ### Fields of concatenated words -/

/-- A field of the low part of a word. -/
theorem fld_append_low {v w lo len : Nat} (x : BitVec v) (y : BitVec w) (h : lo + len ≤ w) : fld (x ++ y) lo len = fld y lo len :=
  BitVec.extractLsb'_append_eq_of_add_le h

/-- A field of the high part of a word. -/
theorem fld_append_high {v w lo len : Nat} (x : BitVec v) (y : BitVec w) (h : w ≤ lo) : fld (x ++ y) lo len = fld x (lo - w) len :=
  BitVec.extractLsb'_append_eq_of_le h

@[simp] theorem fld_all {n : Nat} (x : BitVec n) : fld x 0 n = x := BitVec.extractLsb'_eq_self

/-! Parts of the fields of format CR that the tables split (R45). -/

section
variable (k2 : BitVec 2) (k3 : BitVec 3) (t : BitVec 4) (m : BitVec 3) (mo : BitVec 6) (p q w : Bool)
@[simp] theorem fld_low4_of6 : fld (k2 ++ t : Reg6) 0 4 = t := by rw [fld_append_low _ _ (by decide), fld_all]
@[simp] theorem fld_high2_of6 : fld (k2 ++ t : Reg6) 4 2 = k2 := by rw [fld_append_high _ _ (by decide)]; exact fld_all k2
@[simp] theorem fld_low3_of6 : fld (k3 ++ m : Reg6) 0 3 = m := by rw [fld_append_low _ _ (by decide), fld_all]
@[simp] theorem fld_high3_of6 : fld (k3 ++ m : Reg6) 3 3 = k3 := by rw [fld_append_high _ _ (by decide)]; exact fld_all k3
@[simp] theorem fld_low4_of7 : fld (k3 ++ t : BitVec 7) 0 4 = t := by rw [fld_append_low _ _ (by decide), fld_all]
@[simp] theorem fld_high3_of7 : fld (k3 ++ t : BitVec 7) 4 3 = k3 := by rw [fld_append_high _ _ (by decide)]; exact fld_all k3
@[simp] theorem fld_mnW : fld (mnW w mo) 0 6 = mo := by rw [mnW, fld_append_low _ _ (by decide), fld_all]
@[simp] theorem getElem_mnW : (mnW w mo)[6] = w := by
  rw [mnW, ← BitVec.getLsbD_eq_getElem, BitVec.getLsbD_append, if_neg (by decide)]
  cases w <;> rfl
end

section
variable {k len : Nat} (l : BitVec 1) (c : BitVec 6) (d a b : Reg6) (m : BitVec 7)

@[simp] theorem fld_encCR_major : fld (encCR l c d a b m) 25 6 = c := by
  unfold encCR
  iterate 4 rw [fld_append_high _ _ (by decide)]
  rw [fld_append_low _ _ (by decide), fld_all]
@[simp] theorem fld_encCR_d (h : 19 ≤ k) (h' : k + len ≤ 25) : fld (encCR l c d a b m) k len = fld d (k - 19) len := by
  unfold encCR
  iterate 3 rw [fld_append_high _ _ (by omega)]
  rw [fld_append_low _ _ (by omega), Nat.sub_sub, Nat.sub_sub]
@[simp] theorem fld_encCR_a (h : 13 ≤ k) (h' : k + len ≤ 19) : fld (encCR l c d a b m) k len = fld a (k - 13) len := by
  unfold encCR
  iterate 2 rw [fld_append_high _ _ (by omega)]
  rw [fld_append_low _ _ (by omega), Nat.sub_sub]
@[simp] theorem fld_encCR_b (h : 7 ≤ k) (h' : k + len ≤ 13) : fld (encCR l c d a b m) k len = fld b (k - 7) len := by
  unfold encCR
  rw [fld_append_high _ _ (by omega), fld_append_low _ _ (by omega)]
@[simp] theorem fld_encCR_m (h' : k + len ≤ 7) : fld (encCR l c d a b m) k len = fld m k len := by
  unfold encCR
  rw [fld_append_low _ _ (by omega)]
@[simp] theorem getElem_encCR_l : (encCR l c d a b m)[31] = l[0] := by
  simp only [← BitVec.getLsbD_eq_getElem, encCR]
  iterate 5 rw [BitVec.getLsbD_append, if_neg (by decide)]
@[simp] theorem getElem_encCR_b (h : 7 ≤ k) (h' : k < 13) : (encCR l c d a b m)[k] = b[k - 7] := by
  simp only [← BitVec.getLsbD_eq_getElem, encCR]
  rw [BitVec.getLsbD_append, if_neg (by omega), BitVec.getLsbD_append, if_pos (by omega)]
@[simp] theorem getElem_encCR_m (h' : k < 7) : (encCR l c d a b m)[k] = m[k] := by
  simp only [← BitVec.getLsbD_eq_getElem, encCR]
  rw [BitVec.getLsbD_append, if_pos h']
end

section
variable (l : BitVec 1) (c : BitVec 6) (d a b : Reg6) (k : BitVec 3) (i19 : BitVec 19) (i13 : BitVec 13) (i10 : BitVec 10) (i25 : BitVec 25)

@[simp] theorem fld_encCI_major : fld (encCI l c d a i13) 25 6 = c := by
  unfold encCI
  iterate 3 rw [fld_append_high _ _ (by decide)]
  rw [fld_append_low _ _ (by decide), fld_all]
@[simp] theorem fld_encCI_d : fld (encCI l c d a i13) 19 6 = d := by
  unfold encCI
  iterate 2 rw [fld_append_high _ _ (by decide)]
  rw [fld_append_low _ _ (by decide), fld_all]
@[simp] theorem fld_encCI_a : fld (encCI l c d a i13) 13 6 = a := by
  unfold encCI
  rw [fld_append_high _ _ (by decide), fld_append_low _ _ (by decide), fld_all]
@[simp] theorem fld_encCI_imm {n len : Nat} (h : n + len ≤ 13) : fld (encCI l c d a i13) n len = fld i13 n len := by
  unfold encCI
  rw [fld_append_low _ _ h]
@[simp] theorem getElem_encCI_imm {n : Nat} (h : n < 13) : (encCI l c d a i13)[n] = i13[n] := by
  simp only [← BitVec.getLsbD_eq_getElem, encCI]
  rw [BitVec.getLsbD_append, if_pos h]

@[simp] theorem fld_encCL_major : fld (encCL l c d i19) 25 6 = c := by
  unfold encCL
  iterate 2 rw [fld_append_high _ _ (by decide)]
  rw [fld_append_low _ _ (by decide), fld_all]
@[simp] theorem fld_encCL_d : fld (encCL l c d i19) 19 6 = d := by
  unfold encCL
  rw [fld_append_high _ _ (by decide), fld_append_low _ _ (by decide), fld_all]
@[simp] theorem fld_encCL_imm : fld (encCL l c d i19) 0 19 = i19 := by
  unfold encCL
  rw [fld_append_low _ _ (by decide), fld_all]

@[simp] theorem fld_encCB_major : fld (encCB l c k a b i10) 25 6 = c := by
  unfold encCB
  iterate 4 rw [fld_append_high _ _ (by decide)]
  rw [fld_append_low _ _ (by decide), fld_all]
@[simp] theorem fld_encCB_cond : fld (encCB l c k a b i10) 22 3 = k := by
  unfold encCB
  iterate 3 rw [fld_append_high _ _ (by decide)]
  rw [fld_append_low _ _ (by decide), fld_all]
@[simp] theorem fld_encCB_a : fld (encCB l c k a b i10) 16 6 = a := by
  unfold encCB
  iterate 2 rw [fld_append_high _ _ (by decide)]
  rw [fld_append_low _ _ (by decide), fld_all]
@[simp] theorem fld_encCB_b : fld (encCB l c k a b i10) 10 6 = b := by
  unfold encCB
  rw [fld_append_high _ _ (by decide), fld_append_low _ _ (by decide), fld_all]
@[simp] theorem fld_encCB_off : fld (encCB l c k a b i10) 0 10 = i10 := by
  unfold encCB
  rw [fld_append_low _ _ (by decide), fld_all]

@[simp] theorem fld_encCJ_major : fld (encCJ c i25) 25 6 = c := by
  unfold encCJ
  rw [fld_append_high _ _ (by decide), fld_append_low _ _ (by decide), fld_all]
@[simp] theorem fld_encCJ_off : fld (encCJ c i25) 0 25 = i25 := by
  unfold encCJ
  rw [fld_append_low _ _ (by decide), fld_all]
end

section
variable (l : BitVec 1) (c : BitVec 6) (m : MemOp) (e : MemExt)

@[simp] theorem fld_encCM_major : fld (encCM l c m) 25 6 = c := by
  unfold encCM
  iterate 5 rw [fld_append_high _ _ (by decide)]
  rw [fld_append_low _ _ (by decide), fld_all]
theorem fld_encCM_d {n len : Nat} (h : 17 ≤ n) (h' : n + len ≤ 25) : fld (encCM l c m) n len = fld m.d (n - 17) len := by
  unfold encCM
  iterate 4 rw [fld_append_high _ _ (by omega)]
  rw [fld_append_low _ _ (by omega)]
  simp only [Nat.sub_sub]
theorem fld_encCM_b : fld (encCM l c m) 11 6 = m.b := by
  unfold encCM
  iterate 3 rw [fld_append_high _ _ (by decide)]
  rw [fld_append_low _ _ (by decide), fld_all]
theorem fld_encCM_x : fld (encCM l c m) 3 8 = m.x := by
  unfold encCM
  iterate 2 rw [fld_append_high _ _ (by decide)]
  rw [fld_append_low _ _ (by decide), fld_all]
theorem fld_encCM_sz : fld (encCM l c m) 1 2 = m.sz := by
  unfold encCM
  rw [fld_append_high _ _ (by decide), fld_append_low _ _ (by decide), fld_all]
theorem getLsbD_encCM_dk : (encCM l c m).getLsbD 0 = m.dk := by
  rw [encCM, BitVec.getLsbD_append, if_pos (by decide)]
  cases m.dk <;> rfl

/-- The selector in D of PF, CWB and CINV (R220). -/
@[simp] theorem fld_encCM_sel : fld (encCM l c m) 17 3 = fld m.d 0 3 := fld_encCM_d l c m (by decide) (by decide)

@[simp] theorem memOpOf_encCM : memOpOf (encCM l c m) = m := by
  rw [memOpOf, fld_encCM_d l c m (by decide) (by decide), fld_encCM_b, fld_encCM_x, fld_encCM_sz, getLsbD_encCM_dk, fld_all]

@[simp] theorem memExtOf_encExt : memExtOf (encExt e) = e := by
  have hoff : fld (encExt e) 0 20 = e.off := by
    rw [encExt, fld_append_low _ _ (by decide), fld_all]
  have hmd : fld (encExt e) 20 8 = e.md := by
    rw [encExt, fld_append_high _ _ (by decide), fld_append_low _ _ (by decide), fld_all]
  have hmsel : fld (encExt e) 28 3 = e.msel := by
    unfold encExt
    iterate 2 rw [fld_append_high _ _ (by decide)]
    rw [fld_append_low _ _ (by decide), fld_all]
  have hxs : (encExt e).getLsbD 31 = e.xs := by
    unfold encExt
    iterate 3 rw [BitVec.getLsbD_append, if_neg (by decide)]
    cases e.xs <;> rfl
  rw [memExtOf, hoff, hmd, hmsel, hxs]
end

end Sys2Proof
end

section
open Sys2Proof Sys2Proof.Machine

namespace Sys2Proof

/-! ### C-class words (R43 to R53) -/

/-- A paired C-slot: L is 0, and the major is no A-class one (R43). -/
theorem roundTrips_paired {i : Instr} {w : W32} (henc : encode i = some (.c w)) (hl : w.getLsbD 31 = false)
    (hmajor : (fld w 25 6 : BitVec 6).toNat < 0x38) (hdec : ∀ ridge, i.wf ridge = true → decodePaired ridge w = slotOk i true) :
    Spec.roundTrips i := by
  intro ridge e hwf he
  obtain rfl : Enc.c w = e := Option.some.inj (henc.symm.trans he)
  rw [decodeEnc, decodeC, if_neg (Bool.eq_false_iff.mp hl), if_pos hmajor, hdec ridge hwf]
  rfl

/-- A lone C-class bundle: L is 1. -/
theorem roundTrips_lone {i : Instr} {w v : W32} (henc : encode i = some (.lone w v)) (hl : w.getLsbD 31 = true)
    (hmajor : (fld w 25 6 : BitVec 6).toNat < 0x38) (hdec : ∀ ridge, i.wf ridge = true → decodeLone ridge w v = slotOk i true) :
    Spec.roundTrips i := by
  intro ridge e hwf he
  obtain rfl : Enc.lone w v = e := Option.some.inj (henc.symm.trans he)
  rw [decodeEnc, decodeC, if_pos hl, if_pos hmajor, hdec ridge hwf]
  rfl

section
variable {i : Instr} {c : BitVec 6} {d a b : Reg6} {mn : BitVec 7} {v : W32} (hmajor : c.toNat < 0x38)
include hmajor

/-- Format CR, paired (R45). -/
theorem roundTrips_cr (henc : encode i = some (.c (encCR 0 c d a b mn)))
    (hdec : ∀ ridge, decodePaired ridge (encCR 0 c d a b mn) = slotOk i true) : Spec.roundTrips i :=
  roundTrips_paired henc Laws.lBit_cr (by rwa [fld_encCR_major]) fun ridge _ => hdec ridge

/-- Format CR, lone. -/
theorem roundTrips_crLone (henc : encode i = some (.lone (encCR 1 c d a b mn) v))
    (hdec : ∀ ridge, decodeLone ridge (encCR 1 c d a b mn) v = slotOk i true) : Spec.roundTrips i :=
  roundTrips_lone henc Laws.lBit_ln (by rwa [fld_encCR_major]) fun ridge _ => hdec ridge

/-- Format CM, paired: the words of a memory access (R45, R203). -/
theorem roundTrips_cm {m : MemOp} (henc : encode i = encMem c m none)
    (hdec : ∀ ridge, i.wf ridge = true → decodePaired ridge (encCM 0 c m) = slotOk i true) : Spec.roundTrips i :=
  roundTrips_paired henc Laws.lBit_cm (by rwa [fld_encCM_major]) hdec

/-- Format CM, lone, with its extension word. -/
theorem roundTrips_cmLone {m : MemOp} {x : MemExt} (henc : encode i = encMem c m (some x))
    (hdec : ∀ ridge, i.wf ridge = true → decodeLone ridge (encCM 1 c m) (encExt x) = slotOk i true) : Spec.roundTrips i :=
  roundTrips_lone henc Laws.lBit_cm (by rwa [fld_encCM_major]) hdec
end

/-! ### Selectors -/

theorem aluOf_aluCode (op : AluOp) : aluOf (aluCode op).1 (aluCode op).2 = some op := by
  cases op <;> rfl

theorem condOf_condCode (c : Cond) : condOf (condCode c) = some c := by
  cases c <;> rfl

/-- A scalar operation on two registers (R85). -/
theorem roundTrips_alu (op : AluOp) (d a b : Reg6) (w : Bool) (hw : op.widthOk w = true)
    (henc : encode (aluInstr op d a b w) = some (.c (encCR 0 (if (aluCode op).1 then 2 else 1) d a b (mnW w (aluCode op).2)))) :
    Spec.roundTrips (aluInstr op d a b w) := by
  have hop := aluOf_aluCode op
  cases hmul : (aluCode op).1 <;> rw [hmul] at henc hop
  · exact roundTrips_cr (by decide) henc fun _ => by simp [decodePaired, hop, guardSlot, hw]
  · exact roundTrips_cr (by decide) henc fun _ => by simp [decodePaired, hop]

/-- A scalar operation on a register and the extension word (R86). -/
theorem roundTrips_aluLone (op : AluOp) (d a : Reg6) (w : Bool) (v : W32) : Spec.roundTrips (.aluImmediateLone op d a w v) := by
  have hop := aluOf_aluCode op
  have henc : encode (.aluImmediateLone op d a w v) =
    some (.lone (encCR 1 (if (aluCode op).1 then 2 else 1) d a 0 (mnW w (aluCode op).2)) v) := rfl
  cases hmul : (aluCode op).1 <;> rw [hmul] at henc hop
  · exact roundTrips_lone henc Laws.lBit_ln (by simp) fun _ hwf => by
      have hw : op.widthOk w = true := hwf
      simp [decodeLone, hop, guardSlot, hw]
  · exact roundTrips_crLone (by decide) henc fun _ => by simp [decodeLone, hop]

end Sys2Proof
end

section
open Sys2Proof Sys2Proof.Machine

namespace Sys2Proof

/-! ### Fields of extension words (R43) -/

@[simp] theorem fld_low28_of32 (x : BitVec 4) (y : BitVec 28) : fld (x ++ y : W32) 0 28 = y := by
  rw [fld_append_low _ _ (by decide), fld_all]
@[simp] theorem fld_high4_of32 (x : BitVec 4) (y : BitVec 28) : fld (x ++ y : W32) 28 4 = x := by
  rw [fld_append_high _ _ (by decide)]
  exact fld_all x
@[simp] theorem fld_low3_of32 (x : BitVec 29) (y : BitVec 3) : fld (x ++ y : W32) 0 3 = y := by
  rw [fld_append_low _ _ (by decide), fld_all]
@[simp] theorem fld_high29_of32 (x : BitVec 29) (y : BitVec 3) : fld (x ++ y : W32) 3 29 = x := by
  rw [fld_append_high _ _ (by decide)]
  exact fld_all x
@[simp] theorem fld_low16_of32 (x : BitVec 16) (y : BitVec 16) : fld (x ++ y : W32) 0 16 = y := by
  rw [fld_append_low _ _ (by decide), fld_all]
@[simp] theorem fld_high16_of32 (x : BitVec 16) (y : BitVec 16) : fld (x ++ y : W32) 16 16 = x := by
  rw [fld_append_high _ _ (by decide)]
  exact fld_all x
@[simp] theorem fld_low8_of32 (x : BitVec 24) (y : BitVec 8) : fld (x ++ y : W32) 0 8 = y := by
  rw [fld_append_low _ _ (by decide), fld_all]
@[simp] theorem fld_high24_of32 (x : BitVec 24) (y : BitVec 8) : fld (x ++ y : W32) 8 24 = x := by
  rw [fld_append_high _ _ (by decide)]
  exact fld_all x
@[simp] theorem fld_low2_of32 (x : BitVec 30) (y : BitVec 2) : fld (x ++ y : W32) 0 2 = y := by
  rw [fld_append_low _ _ (by decide), fld_all]
@[simp] theorem fld_high30_of32 (x : BitVec 30) (y : BitVec 2) : fld (x ++ y : W32) 2 30 = x := by
  rw [fld_append_high _ _ (by decide)]
  exact fld_all x

section
variable (z : BitVec 19) (z' : BitVec 20) (z'' : BitVec 24) (z14 : BitVec 14) (z31 : BitVec 31) (q : Bool) (l p : BitVec 6) (n : BitVec 7)
  (size : BitVec 2) (req : BitVec 16)

/-! BEXT and BINS (R98). -/
@[simp] theorem fld_bext_pos : fld (z ++ BitVec.ofBool q ++ l ++ p : W32) 0 6 = p := by
  rw [fld_append_low _ _ (by decide), fld_all]
@[simp] theorem fld_bext_len : fld (z ++ BitVec.ofBool q ++ l ++ p : W32) 6 6 = l := by
  rw [fld_append_high _ _ (by decide), fld_append_low _ _ (by decide), fld_all]
@[simp] theorem fld_bext_rest : fld (z ++ BitVec.ofBool q ++ l ++ p : W32) 13 19 = z := by
  iterate 3 rw [fld_append_high _ _ (by decide)]
  exact fld_all z
@[simp] theorem getElem_bext_sx : (z ++ BitVec.ofBool q ++ l ++ p : W32)[12] = q := by
  simp only [← BitVec.getLsbD_eq_getElem]
  iterate 2 rw [BitVec.getLsbD_append, if_neg (by decide)]
  rw [BitVec.getLsbD_append, if_pos (by decide)]
  cases q <;> rfl
@[simp] theorem fld_bins_pos : fld (z' ++ l ++ p : W32) 0 6 = p := by
  rw [fld_append_low _ _ (by decide), fld_all]
@[simp] theorem fld_bins_len : fld (z' ++ l ++ p : W32) 6 6 = l := by
  rw [fld_append_high _ _ (by decide), fld_append_low _ _ (by decide), fld_all]
@[simp] theorem fld_bins_rest : fld (z' ++ l ++ p : W32) 12 20 = z' := by
  iterate 2 rw [fld_append_high _ _ (by decide)]
  exact fld_all z'

/-! ACCSV and ACCLD (R288), CVIEW (R344), TLBW (R425). -/
@[simp] theorem fld_spad_rest : fld (z31 ++ BitVec.ofBool q : W32) 1 31 = z31 := by
  rw [fld_append_high _ _ (by decide)]
  exact fld_all z31
@[simp] theorem getElem_spad : (z31 ++ BitVec.ofBool q : W32)[0] = q := by
  rw [← BitVec.getLsbD_eq_getElem, BitVec.getLsbD_append, if_pos (by decide)]
  cases q <;> rfl
@[simp] theorem fld_cview_count : fld (z'' ++ BitVec.ofBool q ++ n : W32) 0 7 = n := by
  rw [fld_append_low _ _ (by decide), fld_all]
@[simp] theorem fld_cview_rest : fld (z'' ++ BitVec.ofBool q ++ n : W32) 8 24 = z'' := by
  iterate 2 rw [fld_append_high _ _ (by decide)]
  exact fld_all z''
@[simp] theorem getElem_cview_vt : (z'' ++ BitVec.ofBool q ++ n : W32)[7] = q := by
  rw [← BitVec.getLsbD_eq_getElem, BitVec.getLsbD_append, if_neg (by decide), BitVec.getLsbD_append, if_pos (by decide)]
  cases q <;> rfl
@[simp] theorem fld_tlbw_req : fld (z14 ++ size ++ req : W32) 0 16 = req := by
  rw [fld_append_low _ _ (by decide), fld_all]
@[simp] theorem fld_tlbw_size : fld (z14 ++ size ++ req : W32) 16 2 = size := by
  rw [fld_append_high _ _ (by decide), fld_append_low _ _ (by decide), fld_all]
@[simp] theorem fld_tlbw_rest : fld (z14 ++ size ++ req : W32) 18 14 = z14 := by
  iterate 2 rw [fld_append_high _ _ (by decide)]
  exact fld_all z14
end

end Sys2Proof
end

section
open Sys2Proof Sys2Proof.Machine

namespace Sys2Proof

/-! ### Memory words (R45, R203 to R220, R253, R290, R315) -/

/-- A paired access of majors 0x10 to 0x18. -/
theorem roundTrips_mem (k : MemKind) (m : MemOp) (henc : encode (memInstr k m) = encMem (memKindCode k) m none)
    (hwf : ∀ ridge, (memInstr k m).wf ridge = memOpClean ridge m) : Spec.roundTrips (memInstr k m) := by
  refine roundTrips_cm (by cases k <;> decide) henc fun ridge h => ?_
  rw [hwf] at h
  cases k <;> simp [decodePaired, memKindCode, memKindOf, h]

/-- A lone access of those majors. -/
theorem roundTrips_memLone (k : MemKind) (m : MemOp) (x : MemExt) : Spec.roundTrips (.memoryLoneForm k m x) := by
  refine roundTrips_cmLone (by cases k <;> decide) rfl fun ridge h => ?_
  simp only [Instr.wf, Bool.and_eq_true, beq_iff_eq] at h
  obtain ⟨⟨⟨hacc, hop⟩, hext⟩, hmd⟩ := h
  replace hmd : fld x.md 4 4 = 0#4 := hmd
  cases k <;> simp [decodeLone, memKindCode, memKindOf, guardSlot, hacc, hop, hext, hmd]

theorem roundTrips_atom (m : MemOp) (x : MemExt) : Spec.roundTrips (.atom m x) := by
  refine roundTrips_cmLone (by decide) rfl fun ridge h => ?_
  simp only [Instr.wf, Bool.and_eq_true] at h
  simp [decodeLone, guardSlot, h]

theorem roundTrips_amsg (m : MemOp) (x : MemExt) : Spec.roundTrips (.amsg m x) := by
  refine roundTrips_cmLone (by decide) rfl fun ridge h => ?_
  simp only [Instr.wf, Bool.and_eq_true, decide_eq_true_eq] at h
  simp [decodeLone, guardSlot, h]

theorem roundTrips_hist (m : MemOp) (x : Option MemExt) : Spec.roundTrips (.hist m x) := by
  cases x with
  | none =>
    refine roundTrips_cm (by decide) rfl fun ridge h => ?_
    simp only [Instr.wf, Bool.and_eq_true] at h
    simp [decodePaired, guardSlot, h]
  | some x =>
    refine roundTrips_cmLone (by decide) rfl fun ridge h => ?_
    simp only [Instr.wf, Bool.and_eq_true, beq_iff_eq] at h
    obtain ⟨⟨hacc, hop⟩, hext, hmd⟩ := h
    replace hmd : fld x.md 4 4 = 0#4 := hmd
    simp [decodeLone, guardSlot, hacc, hop, hext, hmd]

theorem roundTrips_gath (m : MemOp) (x : MemExt) : Spec.roundTrips (.gath m x) := by
  refine roundTrips_cmLone (by decide) rfl fun ridge h => ?_
  rw [Instr.wf, Bool.and_eq_true] at h
  obtain ⟨hspad, hclean⟩ := h
  rw [decodeLone, fld_encCM_major, memOpOf_encCM, memExtOf_encExt]
  simp only [guardSlot, hspad, hclean, BitVec.reduceToNat, if_true]

theorem roundTrips_scat (m : MemOp) (x : MemExt) : Spec.roundTrips (.scat m x) := by
  refine roundTrips_cmLone (by decide) rfl fun ridge h => ?_
  rw [Instr.wf, Bool.and_eq_true] at h
  obtain ⟨hspad, hclean⟩ := h
  rw [decodeLone, fld_encCM_major, memOpOf_encCM, memExtOf_encExt]
  simp only [guardSlot, hspad, hclean, BitVec.reduceToNat, if_true]

/-- D of PF, CWB and CINV holds the selector alone (R220). -/
theorem cacheClean_sel {ridge : Bool} {sel : BitVec 3} {m : MemOp} {x : Option MemExt} (h : cacheClean ridge sel m x = true) :
    fld m.d 0 3 = sel ∧ { m with d := sel.setWidth 8 } = m := by
  simp only [cacheClean, Bool.and_eq_true, beq_iff_eq] at h
  obtain ⟨⟨⟨⟨⟨hlow, hhigh⟩, -⟩, -⟩, -⟩, -⟩ := h
  have hd : sel.setWidth 8 = m.d := by
    apply BitVec.eq_of_toNat_eq
    have hzero := congrArg BitVec.toNat hhigh
    simp [← hlow, BitVec.extractLsb'_toNat, Nat.shiftRight_eq_div_pow] at hzero ⊢
    omega
  exact ⟨hlow, by rw [hd]⟩

/-- PF, CWB and CINV, told apart by their selector. -/
theorem roundTrips_cache (sel : BitVec 3) (mk : MemOp → Option MemExt → Instr) (m : MemOp) (x : Option MemExt)
    (hmk : (sel, mk) ∈ [((0 : BitVec 3), Instr.pf), (1, Instr.cwb), (2, Instr.cinv)]) : Spec.roundTrips (mk m x) := by
  have key : ∀ ridge, (mk m x).wf ridge = true →
      (∀ y, x = some y → decodeLone ridge (encCM 1 0x1B m) (encExt y) = slotOk (mk m x) true) ∧
      (x = none → decodePaired ridge (encCM 0 0x1B m) = slotOk (mk m x) true) := by
    intro ridge h
    simp only [List.mem_cons, Prod.mk.injEq, List.not_mem_nil, or_false] at hmk
    obtain ⟨rfl, rfl⟩ | ⟨rfl, rfl⟩ | ⟨rfl, rfl⟩ := hmk <;>
    · have hclean : cacheClean ridge _ m x = true := h
      obtain ⟨hsel, hd⟩ := cacheClean_sel h
      constructor
      · rintro y rfl
        simp [decodeLone, slotOk, hsel]
        exact ⟨hd, hclean⟩
      · rintro rfl
        simp [decodePaired, slotOk, hsel]
        exact ⟨hd, hclean⟩
  have henc : encode (mk m x) = encMem 0x1B m x := by
    simp only [List.mem_cons, Prod.mk.injEq, List.not_mem_nil, or_false] at hmk
    obtain ⟨-, rfl⟩ | ⟨-, rfl⟩ | ⟨-, rfl⟩ := hmk <;> rfl
  cases x with
  | none => exact roundTrips_cm (by decide) henc fun ridge h => (key ridge h).2 rfl
  | some y => exact roundTrips_cmLone (by decide) henc fun ridge h => (key ridge h).1 y rfl

end Sys2Proof
end

section
open Sys2Proof Sys2Proof.Machine

namespace Sys2Proof

/-! ### BLDQ (R290) -/

section
variable (r : Bool) (q : BitVec 2) (s : BitVec 5)
@[simp] theorem getElem_bldq_ring : (BitVec.ofBool r ++ q ++ s : BitVec 8)[7] = r := by
  simp only [← BitVec.getLsbD_eq_getElem]
  iterate 2 rw [BitVec.getLsbD_append, if_neg (by decide)]
  cases r <;> rfl
@[simp] theorem fld_bldq_quad : fld (BitVec.ofBool r ++ q ++ s : BitVec 8) 5 2 = q := by
  rw [fld_append_high _ _ (by decide), fld_append_low _ _ (by decide), fld_all]
@[simp] theorem fld_bldq_slot : fld (BitVec.ofBool r ++ q ++ s : BitVec 8) 0 5 = s := by
  rw [fld_append_low _ _ (by decide), fld_all]
end

theorem roundTrips_bldq (r : Bool) (q : BitVec 2) (s : BitVec 5) (b : Reg6) (x : BitVec 8) (e : Option MemExt) :
    Spec.roundTrips (.bldq r q s b x e) := by
  cases e with
  | none =>
    refine roundTrips_cm (by decide) rfl fun ridge h => ?_
    simp only [Instr.wf, Bool.and_eq_true] at h
    simp [decodePaired, h]
  | some e =>
    refine roundTrips_cmLone (by decide) rfl fun ridge h => ?_
    simp only [Instr.wf, Bool.and_eq_true] at h
    simp [decodeLone, guardSlot, h]

/-! ### Every C-class instruction, by chapter -/

@[simp] theorem fld_zero {n lo len : Nat} : fld (0#n) lo len = 0#len := BitVec.extractLsb'_zero

section
variable (d a b : Reg6) (t n : BitVec 4) (v : W32) (w : Bool) (m : BitVec 3) (l p : BitVec 6) (k : BitVec 12)

/-- The scalar class (spec/03). -/
theorem roundTrips_scalar (o : BitVec 13) (j : BitVec 19) :
    ∀ i ∈ [Instr.clz d a w, .ctz d a w, .popc d a w, .brev d a w, .bswp d a w, .addi d a o, .addiLone d a v, .li d j, .liLone d v, .lih d j,
      .lihLone d v, .bext d a w l p, .bins d a l p], Spec.roundTrips i := by
  have hun : ∀ mo i, unaryInstr mo d a w = some i → aluOf false mo = none → encode i = some (.c (encCR 0 1 d a 0 (mnW w mo))) →
      Spec.roundTrips i := fun mo i hi ho henc => roundTrips_cr (by decide) henc fun _ => by simp [decodePaired, hi, ho]
  simp only [List.forall_mem_cons, List.not_mem_nil, false_implies, implies_true, and_true]
  refine ⟨hun 0x16 _ rfl rfl rfl, hun 0x17 _ rfl rfl rfl, hun 0x18 _ rfl rfl rfl, hun 0x19 _ rfl rfl rfl, hun 0x1A _ rfl rfl rfl,
    roundTrips_paired rfl Laws.lBit_ci (by simp) fun _ _ => by simp [decodePaired],
    roundTrips_lone rfl Laws.lBit_ci (by simp) fun _ _ => by simp [decodeLone],
    roundTrips_paired rfl Laws.lBit_cl (by simp) fun _ _ => by simp [decodePaired],
    roundTrips_lone rfl Laws.lBit_cl (by simp) fun _ _ => by simp [decodeLone],
    roundTrips_paired rfl Laws.lBit_cl (by simp) fun _ _ => by simp [decodePaired],
    roundTrips_lone rfl Laws.lBit_cl (by simp) fun _ _ => by simp [decodeLone], ?_, ?_⟩ <;>
  exact roundTrips_crLone (by decide) rfl fun _ => by simp [decodeLone]

/-- Transfers (R101 to R105). -/
theorem roundTrips_transfer (o : BitVec 25) (c : Cond) (j : BitVec 10) :
    ∀ i ∈ [Instr.b o, .call o, .bc c a b j, .bcLone c a b v, .jmp d a, .ret a, .rptx, .rpt a l, .rptLone l v], Spec.roundTrips i := by
  simp only [List.forall_mem_cons, List.not_mem_nil, false_implies, implies_true, and_true]
  refine ⟨roundTrips_paired rfl Laws.lBit_cj (by simp) fun _ _ => by simp [decodePaired],
    roundTrips_paired rfl Laws.lBit_cj (by simp) fun _ _ => by simp [decodePaired],
    roundTrips_paired rfl Laws.lBit_cb (by simp) fun _ _ => by simp [decodePaired, condOf_condCode],
    roundTrips_lone rfl Laws.lBit_cb (by simp) fun _ _ => by simp [decodeLone, condOf_condCode], ?_, ?_, ?_, ?_,
    roundTrips_crLone (by decide) rfl fun _ => by simp [decodeLone]⟩ <;>
  exact roundTrips_cr (by decide) rfl fun _ => by simp [decodePaired]

/-- Ends, passes, divergence and fences (R110 to R132, R232, R233). -/
theorem roundTrips_flow :
    ∀ i ∈ [Instr.nopC false, .exit, .yield a, .bkpt, .brv m b, .elsev b, .joinv false, .waitr d a, .fence, .fenceSt], Spec.roundTrips i := by
  simp only [List.forall_mem_cons, List.not_mem_nil, false_implies, implies_true, and_true]
  refine ⟨?_, ?_, ?_, ?_, ?_, ?_, ?_, ?_, ?_, ?_⟩ <;>
  exact roundTrips_cr (by decide) rfl fun _ => by simp [decodePaired, guardSlot]
theorem roundTrips_flowLone :
    ∀ i ∈ [Instr.nopC true, .exitLone v, .yieldLone a v, .bkptLone v, .passRidge b t v, .passSpur t v, .passFlush t v, .brvLone m v,
      .elsevLone v, .joinv true, .waitrLone d v], Spec.roundTrips i := by
  simp only [List.forall_mem_cons, List.not_mem_nil, false_implies, implies_true, and_true]
  refine ⟨?_, ?_, ?_, ?_, ?_, ?_, ?_, ?_, ?_, ?_, ?_⟩ <;>
  exact roundTrips_crLone (by decide) rfl fun _ => by simp [decodeLone, guardSlot]

/-- Copy jobs and messages (spec/09). -/
theorem roundTrips_copies (o : BitVec 28) :
    (∀ i ∈ [Instr.cpyj d a, .cpyq d a, .cpyw d a, .send d a b, .recv d a b, .mbw d a b, .mbr d a], Spec.roundTrips i) ∧
    ∀ i ∈ [Instr.cpyjLone d a b o, .tload d a b v, .sendLone d a b m], Spec.roundTrips i := by
  simp only [List.forall_mem_cons, List.not_mem_nil, false_implies, implies_true, and_true]
  refine ⟨⟨?_, ?_, ?_, ?_, ?_, ?_, ?_⟩, ?_, ?_, ?_⟩
  iterate 7 exact roundTrips_cr (by decide) rfl fun _ => by simp [decodePaired]
  iterate 3 exact roundTrips_crLone (by decide) rfl fun _ => by simp [decodeLone, guardSlot]

/-- The matrix class of the C-slot (spec/10). -/
theorem roundTrips_matrix (mode : Bool) (y : BitVec 3) (pitch step : W16) :
    ∀ i ∈ [Instr.acca d t mode w, .accf t, .accz t, .accsv t b, .accld d t b, .accsvLone t b w, .accldLone d t b w, .yset y a pitch step],
      Spec.roundTrips i := by
  have hb : fld (0#4 ++ BitVec.ofBool w ++ BitVec.ofBool mode : Reg6) 2 4 = 0#4 := by
    iterate 2 rw [fld_append_high _ _ (by decide)]
    exact fld_all 0#4
  have hmode : (0#4 ++ BitVec.ofBool w ++ BitVec.ofBool mode : Reg6)[0] = mode := by cases w <;> cases mode <;> rfl
  have hw : (0#4 ++ BitVec.ofBool w ++ BitVec.ofBool mode : Reg6)[1] = w := by cases w <;> cases mode <;> rfl
  simp only [List.forall_mem_cons, List.not_mem_nil, false_implies, implies_true, and_true]
  refine ⟨roundTrips_cr (by decide) rfl fun _ => by simp [decodePaired, hb, hmode, hw], ?_, ?_, ?_, ?_, ?_, ?_, ?_⟩
  iterate 4 exact roundTrips_cr (by decide) rfl fun _ => by simp [decodePaired]
  iterate 3 exact roundTrips_crLone (by decide) rfl fun _ => by simp [decodeLone, guardSlot]

/-- The Contour class (spec/12). -/
theorem roundTrips_contour (o : BitVec 7) :
    ∀ i ∈ [Instr.cview a b, .ctile d b, .csegLin a b, .csegQuad a b, .csegCub a b, .ctri a b, .ctriFrag a b, .cfill d a b, .cclose d b,
      .cviewLone a o w, .cfillLone d b m], Spec.roundTrips i := by
  simp only [List.forall_mem_cons, List.not_mem_nil, false_implies, implies_true, and_true]
  refine ⟨?_, ?_, ?_, ?_, ?_, ?_, ?_, ?_, ?_, ?_, ?_⟩
  iterate 9 exact roundTrips_cr (by decide) rfl fun _ => by simp [decodePaired]
  iterate 2 exact roundTrips_crLone (by decide) rfl fun _ => by simp [decodeLone]

/-- The Traverse class (spec/13). -/
theorem roundTrips_traverse :
    ∀ i ∈ [Instr.trace d a b, .tnext d a, .thit d a b, .tign a, .tterm d a, .traceRidge t n v, .repack d t v], Spec.roundTrips i := by
  simp only [List.forall_mem_cons, List.not_mem_nil, false_implies, implies_true, and_true]
  refine ⟨?_, ?_, ?_, ?_, ?_, ?_, ?_⟩
  iterate 5 exact roundTrips_cr (by decide) rfl fun _ => by simp [decodePaired]
  iterate 2 exact roundTrips_crLone (by decide) rfl fun _ => by simp [decodeLone, guardSlot]

/-- The synchronisation class (spec/14). -/
theorem roundTrips_sync :
    ∀ i ∈ [Instr.bar t b, .bara d t b, .barw t b, .launch d a, .lwait d a, .rangeSet a, .rangeNext d b, .steal d b, .rangeGet d, .task d a b,
      .tend a, .sleep d a b, .wake d a b, .prio d a], Spec.roundTrips i := by
  simp only [List.forall_mem_cons, List.not_mem_nil, false_implies, implies_true, and_true]
  refine ⟨?_, ?_, ?_, ?_, ?_, ?_, ?_, ?_, ?_, ?_, ?_, ?_, ?_, ?_⟩ <;>
  exact roundTrips_cr (by decide) rfl fun _ => by simp [decodePaired]
theorem roundTrips_syncLone (o : BitVec 8) (q : BitVec 2) :
    ∀ i ∈ [Instr.barLone t v, .baraLone d t v, .lwaitLone d a v, .rangeNextLone d v, .stealLone d o, .sleepLone d a b v, .wakeLone d a v,
      .prioLone d q], Spec.roundTrips i := by
  simp only [List.forall_mem_cons, List.not_mem_nil, false_implies, implies_true, and_true]
  refine ⟨?_, ?_, ?_, ?_, ?_, ?_, ?_, ?_⟩ <;>
  exact roundTrips_crLone (by decide) rfl fun _ => by simp [decodeLone, guardSlot]

/-- The system class (spec/15). -/
theorem roundTrips_system :
    ∀ i ∈ [Instr.trap, .svc, .sret, .eret false a, .gstop false d a, .pmr d a b, .tsr d, .wfi d, .crd d k, .cwr a k], Spec.roundTrips i := by
  have hk : ∀ l : BitVec 1, fld (l ++ k : BitVec 13) 0 12 = k := fun l => by rw [fld_append_low _ _ (by decide), fld_all]
  have hl : ∀ l : BitVec 1, (l ++ k : BitVec 13)[12] = l[0] := fun l => by
    rw [← BitVec.getLsbD_eq_getElem, BitVec.getLsbD_append, if_neg (by decide)]; rfl
  simp only [List.forall_mem_cons, List.not_mem_nil, false_implies, implies_true, and_true]
  refine ⟨?_, ?_, ?_, ?_, ?_, ?_, ?_, ?_, ?_, ?_⟩
  iterate 8 exact roundTrips_cr (by decide) rfl fun _ => by simp [decodePaired]
  iterate 2 exact roundTrips_paired rfl Laws.lBit_ci (by simp) fun _ _ => by simp [decodePaired, hk, hl]
theorem roundTrips_systemLone (req : W16) (size : BitVec 2) :
    ∀ i ∈ [Instr.trapLone v, .svcLone v, .eret true a, .eretRedirect a b, .eretKill a, .tlbw d a b req size, .tlbiPage d a, .tlbiCtx d a,
      .tlbiFunc d a, .gstop true d a, .gstopGo d a, .wfiLone d v], Spec.roundTrips i := by
  have hone : fld 1#32 0 2 = 1#2 ∧ fld 1#32 2 30 = 0#30 ∧ fld 1#32 1 31 = 0#31 := by decide
  have htwo : fld 2#32 0 2 = 2#2 ∧ fld 2#32 2 30 = 0#30 := by decide
  simp only [List.forall_mem_cons, List.not_mem_nil, false_implies, implies_true, and_true]
  refine ⟨?_, ?_, ?_, ?_, ?_, ?_, ?_, ?_, ?_, ?_, ?_, ?_⟩ <;>
  exact roundTrips_crLone (by decide) rfl fun _ => by simp [decodeLone, guardSlot, hone, htwo]
end

/-- A NOP of the A-slot (R54). -/
theorem roundTrips_nopA : Spec.roundTrips .nopA := by
  intro ridge e _ he
  obtain rfl : Enc.a 0 = e := Option.some.inj he
  rfl

/-- A step of the device has no words. -/
theorem roundTrips_noWords {i : Instr} (h : encode i = none) : Spec.roundTrips i := fun _ _ _ he => nomatch h.symm.trans he

/-- The C-class instructions. -/
theorem roundTrips_control (i : Instr) (h : aClass i = none) : Spec.roundTrips i := by
  cases i with
  | add d a b w => exact roundTrips_alu .add d a b w rfl rfl
  | sub d a b w => exact roundTrips_alu .sub d a b w rfl rfl
  | and d a b w => exact roundTrips_alu .and d a b w rfl rfl
  | or d a b w => exact roundTrips_alu .or d a b w rfl rfl
  | xor d a b w => exact roundTrips_alu .xor d a b w rfl rfl
  | andn d a b w => exact roundTrips_alu .andn d a b w rfl rfl
  | shl d a b w => exact roundTrips_alu .shl d a b w rfl rfl
  | shr d a b w => exact roundTrips_alu .shr d a b w rfl rfl
  | sra d a b w => exact roundTrips_alu .sra d a b w rfl rfl
  | rot d a b w => exact roundTrips_alu .rot d a b w rfl rfl
  | shladd1 d a b w => exact roundTrips_alu .shladd1 d a b w rfl rfl
  | shladd2 d a b w => exact roundTrips_alu .shladd2 d a b w rfl rfl
  | shladd3 d a b w => exact roundTrips_alu .shladd3 d a b w rfl rfl
  | shladd4 d a b w => exact roundTrips_alu .shladd4 d a b w rfl rfl
  | min d a b w => exact roundTrips_alu .min d a b w rfl rfl
  | max d a b w => exact roundTrips_alu .max d a b w rfl rfl
  | minn d a b w => exact roundTrips_alu .minn d a b w rfl rfl
  | maxn d a b w => exact roundTrips_alu .maxn d a b w rfl rfl
  | slt d a b w => exact roundTrips_alu .slt d a b w rfl rfl
  | sltn d a b w => exact roundTrips_alu .sltn d a b w rfl rfl
  | seq d a b w => exact roundTrips_alu .seq d a b w rfl rfl
  | sel d a b => exact roundTrips_alu .sel d a b false rfl rfl
  | mul d a b w => exact roundTrips_alu .mul d a b w rfl rfl
  | mulh d a b w => exact roundTrips_alu .mulh d a b w rfl rfl
  | mulhn d a b w => exact roundTrips_alu .mulhn d a b w rfl rfl
  | div d a b w => exact roundTrips_alu .div d a b w rfl rfl
  | divn d a b w => exact roundTrips_alu .divn d a b w rfl rfl
  | rem d a b w => exact roundTrips_alu .rem d a b w rfl rfl
  | remn d a b w => exact roundTrips_alu .remn d a b w rfl rfl
  | aluImmediateLone op d a w v => exact roundTrips_aluLone op d a w v
  | clz d a w | ctz d a w | popc d a w | brev d a w | bswp d a w => exact roundTrips_scalar d a 0 w 0 0 0 0 _ (by simp)
  | addi d a o => exact roundTrips_scalar d a 0 false 0 0 o 0 _ (by simp)
  | li d o | lih d o => exact roundTrips_scalar d 0 0 false 0 0 0 o _ (by simp)
  | addiLone d a v => exact roundTrips_scalar d a v false 0 0 0 0 _ (by simp)
  | liLone d v | lihLone d v => exact roundTrips_scalar d 0 v false 0 0 0 0 _ (by simp)
  | bext d a w l p => exact roundTrips_scalar d a 0 w l p 0 0 _ (by simp)
  | bins d a l p => exact roundTrips_scalar d a 0 false l p 0 0 _ (by simp)
  | b o | call o => exact roundTrips_transfer 0 0 0 0 0 o .eq 0 _ (by simp)
  | bc c a b o => exact roundTrips_transfer 0 a b 0 0 0 c o _ (by simp)
  | bcLone c a b v => exact roundTrips_transfer 0 a b v 0 0 c 0 _ (by simp)
  | jmp d a => exact roundTrips_transfer d a 0 0 0 0 .eq 0 _ (by simp)
  | ret a => exact roundTrips_transfer 0 a 0 0 0 0 .eq 0 _ (by simp)
  | rptx => exact roundTrips_transfer 0 0 0 0 0 0 .eq 0 _ (by simp)
  | rpt a l => exact roundTrips_transfer 0 a 0 0 l 0 .eq 0 _ (by simp)
  | rptLone l v => exact roundTrips_transfer 0 0 0 v l 0 .eq 0 _ (by simp)
  | ld m => exact roundTrips_mem .ld m rfl fun _ => rfl
  | st m => exact roundTrips_mem .st m rfl fun _ => rfl
  | ldq m => exact roundTrips_mem .ldq m rfl fun _ => rfl
  | lds m => exact roundTrips_mem .lds m rfl fun _ => rfl
  | sts m => exact roundTrips_mem .sts m rfl fun _ => rfl
  | lda m => exact roundTrips_mem .lda m rfl fun _ => rfl
  | stl m => exact roundTrips_mem .stl m rfl fun _ => rfl
  | ldsync m => exact roundTrips_mem .ldsync m rfl fun _ => rfl
  | stf m => exact roundTrips_mem .stf m rfl fun _ => rfl
  | memoryLoneForm k m x => exact roundTrips_memLone k m x
  | atom m x => exact roundTrips_atom m x
  | amsg m x => exact roundTrips_amsg m x
  | pf m x => exact roundTrips_cache 0 .pf m x (by simp)
  | cwb m x => exact roundTrips_cache 1 .cwb m x (by simp)
  | cinv m x => exact roundTrips_cache 2 .cinv m x (by simp)
  | hist m x => exact roundTrips_hist m x
  | gath m x => exact roundTrips_gath m x
  | scat m x => exact roundTrips_scat m x
  | bldq r q s b x e => exact roundTrips_bldq r q s b x e
  | nopC lone | joinv lone =>
    cases lone with
    | false => exact roundTrips_flow 0 0 0 0 _ (by simp)
    | true => exact roundTrips_flowLone 0 0 0 0 0 0 _ (by simp)
  | eret lone a =>
    cases lone with
    | false => exact roundTrips_system 0 a 0 0 _ (by simp)
    | true => exact roundTrips_systemLone 0 a 0 0 0 0 _ (by simp)
  | gstop lone d a =>
    cases lone with
    | false => exact roundTrips_system d a 0 0 _ (by simp)
    | true => exact roundTrips_systemLone d a 0 0 0 0 _ (by simp)
  | exit | bkpt | fence | fenceSt => exact roundTrips_flow 0 0 0 0 _ (by simp)
  | yield a => exact roundTrips_flow 0 a 0 0 _ (by simp)
  | brv m b => exact roundTrips_flow 0 0 b m _ (by simp)
  | elsev b => exact roundTrips_flow 0 0 b 0 _ (by simp)
  | waitr d a => exact roundTrips_flow d a 0 0 _ (by simp)
  | exitLone v | bkptLone v | elsevLone v => exact roundTrips_flowLone 0 0 0 0 v 0 _ (by simp)
  | yieldLone a v => exact roundTrips_flowLone 0 a 0 0 v 0 _ (by simp)
  | passRidge b t v => exact roundTrips_flowLone 0 0 b t v 0 _ (by simp)
  | passSpur t v | passFlush t v => exact roundTrips_flowLone 0 0 0 t v 0 _ (by simp)
  | brvLone m v => exact roundTrips_flowLone 0 0 0 0 v m _ (by simp)
  | waitrLone d v => exact roundTrips_flowLone d 0 0 0 v 0 _ (by simp)
  | cpyj d a | cpyq d a | cpyw d a | mbr d a => exact (roundTrips_copies d a 0 0 0 0).1 _ (by simp)
  | send d a b | recv d a b | mbw d a b => exact (roundTrips_copies d a b 0 0 0).1 _ (by simp)
  | cpyjLone d a b o => exact (roundTrips_copies d a b 0 0 o).2 _ (by simp)
  | tload d a b v => exact (roundTrips_copies d a b v 0 0).2 _ (by simp)
  | sendLone d a b n => exact (roundTrips_copies d a b 0 n 0).2 _ (by simp)
  | acca d t mode w => exact roundTrips_matrix d 0 0 t w mode 0 0 0 _ (by simp)
  | accf t | accz t => exact roundTrips_matrix 0 0 0 t false false 0 0 0 _ (by simp)
  | accsv t b => exact roundTrips_matrix 0 0 b t false false 0 0 0 _ (by simp)
  | accsvLone t b w => exact roundTrips_matrix 0 0 b t w false 0 0 0 _ (by simp)
  | accld d t b => exact roundTrips_matrix d 0 b t false false 0 0 0 _ (by simp)
  | accldLone d t b w => exact roundTrips_matrix d 0 b t w false 0 0 0 _ (by simp)
  | yset y a p q => exact roundTrips_matrix 0 a 0 0 false false y p q _ (by simp)
  | cview a b | csegLin a b | csegQuad a b | csegCub a b | ctri a b | ctriFrag a b =>
    exact roundTrips_contour 0 a b false 0 0 _ (by simp)
  | ctile d b | cclose d b => exact roundTrips_contour d 0 b false 0 0 _ (by simp)
  | cfill d a b => exact roundTrips_contour d a b false 0 0 _ (by simp)
  | cviewLone a o w => exact roundTrips_contour 0 a 0 w 0 o _ (by simp)
  | cfillLone d b m => exact roundTrips_contour d 0 b false m 0 _ (by simp)
  | trace d a b | thit d a b => exact roundTrips_traverse d a b 0 0 0 _ (by simp)
  | tnext d a | tterm d a => exact roundTrips_traverse d a 0 0 0 0 _ (by simp)
  | tign a => exact roundTrips_traverse 0 a 0 0 0 0 _ (by simp)
  | traceRidge t n v => exact roundTrips_traverse 0 0 0 t n v _ (by simp)
  | repack d t v => exact roundTrips_traverse d 0 0 t 0 v _ (by simp)
  | bar t b | barw t b => exact roundTrips_sync 0 0 b t _ (by simp)
  | bara d t b => exact roundTrips_sync d 0 b t _ (by simp)
  | launch d a | lwait d a | prio d a => exact roundTrips_sync d a 0 0 _ (by simp)
  | rangeSet a | tend a => exact roundTrips_sync 0 a 0 0 _ (by simp)
  | rangeNext d b | steal d b => exact roundTrips_sync d 0 b 0 _ (by simp)
  | rangeGet d => exact roundTrips_sync d 0 0 0 _ (by simp)
  | task d a b | sleep d a b | wake d a b => exact roundTrips_sync d a b 0 _ (by simp)
  | barLone t v => exact roundTrips_syncLone 0 0 0 t v 0 0 _ (by simp)
  | baraLone d t v => exact roundTrips_syncLone d 0 0 t v 0 0 _ (by simp)
  | rangeNextLone d v => exact roundTrips_syncLone d 0 0 0 v 0 0 _ (by simp)
  | stealLone d o => exact roundTrips_syncLone d 0 0 0 0 o 0 _ (by simp)
  | lwaitLone d a v | wakeLone d a v => exact roundTrips_syncLone d a 0 0 v 0 0 _ (by simp)
  | sleepLone d a b v => exact roundTrips_syncLone d a b 0 v 0 0 _ (by simp)
  | prioLone d q => exact roundTrips_syncLone d 0 0 0 0 0 q _ (by simp)
  | trap | svc | sret => exact roundTrips_system 0 0 0 0 _ (by simp)
  | pmr d a b => exact roundTrips_system d a b 0 _ (by simp)
  | tsr d | wfi d => exact roundTrips_system d 0 0 0 _ (by simp)
  | crd d k => exact roundTrips_system d 0 0 k _ (by simp)
  | cwr a k => exact roundTrips_system 0 a 0 k _ (by simp)
  | trapLone v | svcLone v => exact roundTrips_systemLone 0 0 0 v 0 0 _ (by simp)
  | wfiLone d v => exact roundTrips_systemLone d 0 0 v 0 0 _ (by simp)
  | eretRedirect a b => exact roundTrips_systemLone 0 a b 0 0 0 _ (by simp)
  | eretKill a => exact roundTrips_systemLone 0 a 0 0 0 0 _ (by simp)
  | tlbiPage d a | tlbiCtx d a | tlbiFunc d a | gstopGo d a => exact roundTrips_systemLone d a 0 0 0 0 _ (by simp)
  | tlbw d a b req size => exact roundTrips_systemLone d a b 0 req size _ (by simp)
  | nopA => exact roundTrips_nopA
  | mmaLone k f => cases k <;> exact nomatch h
  | vadd f | vsub f | vmul f | vmulh f | vmad f | vmin f | vmax f | vand f | vor f | vxor f | vshl f | vshr f | vsra f | vpopc f | vclz f | vbrev f
  | vsel f | vcmp f | vmov f | vmovk f | fadd f | fsub f | fmul f | ffma f | fmin f | fmax f | fcmp f | fclass f
  | frcp f | frsq f | fsqrt f | fexp2 f | flog2 f | fsin f | fcos f | ftanh f | dot2 f | dot4 f | dot8 f
  | shfl f | shflx f | bcst f | scan f | redu f | vote f | mand f | mor f | mxor f | mnot f | mpopc f | mfind f | phlx f
  | cvt f | cvtsc f | pack f | unpack f | mma d a b kb | mmas d a b kb | mmax d a b kb | accrd f | accwr f
  | keyx f | digit f | matchEq f | rank f | cmpx f | expd f | bmrg f | isect f | interp f => nomatch h
  | _ => exact roundTrips_noWords rfl

end Sys2Proof
end

section
open Sys2Proof Sys2Proof.Machine

namespace Sys2Proof

/-! ### A-class words (R46, R47, R54) -/

/-- The words of a form of an A-major. -/
def encForm (amaj : Nat) : AForm → Enc
  | .p d a b kb x => .a (encAR (BitVec.ofNat 6 amaj) d a b kb x)
  | .l f => encLA (BitVec.ofNat 6 amaj) f

/-- What an A-class instruction of a major and a form is encoded in, which forms are well formed, and which majors there are. -/
structure AClassRow (i : Instr) (amaj : Nat) (f : AForm) : Prop where
  words : encode i = some (encForm amaj f)
  wf : ∀ ridge, i.wf ridge = (aInstr amaj f == some i && aAccept amaj f && aClean ridge amaj f)
  low : 0 < amaj
  high : amaj < 0x38

theorem aClassRow_of_aClass {i : Instr} {amaj : Nat} {f : AForm} (h : aClass i = some (amaj, f)) : AClassRow i amaj f := by
  cases i with
  | mmaLone k g => cases k <;> cases h <;> exact ⟨rfl, fun _ => rfl, by decide, by decide⟩
  | vsel g | vcmp g | ffma g | fcmp g | cvt g | cvtsc g | pack g | unpack g | mma d a b kb | mmas d a b kb | mmax d a b kb =>
    cases h; exact ⟨rfl, fun _ => rfl, by decide, by decide⟩
  | vadd f | vsub f | vmul f | vmulh f | vmad f | vmin f | vmax f | vand f | vor f | vxor f | vshl f | vshr f | vsra f | vpopc f | vclz f | vbrev f
  | vmov f | vmovk f | fadd f | fsub f | fmul f | fmin f | fmax f | fclass f
  | frcp f | frsq f | fsqrt f | fexp2 f | flog2 f | fsin f | fcos f | ftanh f | dot2 f | dot4 f | dot8 f
  | shfl f | shflx f | bcst f | scan f | redu f | vote f | mand f | mor f | mxor f | mnot f | mpopc f | mfind f | phlx f
  | accrd f | accwr f | keyx f | digit f | matchEq f | rank f | cmpx f | expd f | bmrg f | isect f | interp f =>
    cases h; exact ⟨by cases f <;> rfl, fun _ => rfl, by decide, by decide⟩
  | _ => nomatch h

section
variable (c : BitVec 6) (d a b : BitVec 8) (kb x : Bool) (f : LA)

theorem fld_encAR_major : fld (encAR c d a b kb x) 26 6 = c := by
  unfold encAR
  iterate 5 rw [fld_append_high _ _ (by decide)]
  exact fld_all c

theorem arOf_encAR : arOf (encAR c d a b kb x) = .p d a b kb x := by
  have hd : fld (encAR c d a b kb x) 18 8 = d := by
    unfold encAR
    iterate 4 rw [fld_append_high _ _ (by decide)]
    rw [fld_append_low _ _ (by decide), fld_all]
  have ha : fld (encAR c d a b kb x) 10 8 = a := by
    unfold encAR
    iterate 3 rw [fld_append_high _ _ (by decide)]
    rw [fld_append_low _ _ (by decide), fld_all]
  have hb : fld (encAR c d a b kb x) 2 8 = b := by
    unfold encAR
    iterate 2 rw [fld_append_high _ _ (by decide)]
    rw [fld_append_low _ _ (by decide), fld_all]
  have hkb : (encAR c d a b kb x).getLsbD 1 = kb := by
    rw [encAR, BitVec.getLsbD_append, if_neg (by decide), BitVec.getLsbD_append, if_pos (by decide)]
    cases kb <;> rfl
  have hx : (encAR c d a b kb x).getLsbD 0 = x := by
    rw [encAR, BitVec.getLsbD_append, if_pos (by decide)]
    cases x <;> rfl
  rw [arOf, hd, ha, hb, hkb, hx]
end

/-- An A-class form passes the checks that its instruction's well-formedness names. -/
theorem decodeAForm_of_wf {ridge : Bool} {i : Instr} {amaj : Nat} {f : AForm}
    (h : (aInstr amaj f == some i && aAccept amaj f && aClean ridge amaj f) = true) : decodeAForm ridge amaj f = some (i, false) := by
  simp only [Bool.and_eq_true, beq_iff_eq] at h
  obtain ⟨⟨hi, haccept⟩, hclean⟩ := h
  simp only [decodeAForm, hi, guardSlot, haccept, slotOk, hclean, if_true, Bool.not_true]

/-- Word 0 of format LA (R47). -/
def encLA0 (amaj : BitVec 6) (f : LA) : W32 :=
  (1 : BitVec 1) ++ (7 : BitVec 3) ++ (fld amaj 3 3 : BitVec 3) ++ f.d ++ f.a ++ f.b ++ BitVec.ofBool f.kb

/-- Word 1 of format LA. -/
def encLA1 (amaj : BitVec 6) (f : LA) : W32 :=
  (fld amaj 0 3 : BitVec 3) ++ f.c ++ f.ty ++ f.rm ++ BitVec.ofBool f.sat ++ BitVec.ofBool f.kc ++ BitVec.ofBool f.ka
    ++ BitVec.ofBool f.kd ++ f.msel ++ f.md

theorem encLA_eq (amaj : BitVec 6) (f : LA) : encLA amaj f = .lone (encLA0 amaj f) (encLA1 amaj f) := rfl

section
variable (c : BitVec 6) (f : LA)

/-- The C-major of format LA: 0x38 and above, with the high half of the A-major in its low half. -/
theorem cmaj_encLA : fld (encLA0 c f) 25 6 = (7 : BitVec 3) ++ (fld c 3 3 : BitVec 3) := by
  have hsplit : fld (encLA0 c f) 25 6 = (fld (encLA0 c f) 28 3 : BitVec 3) ++ (fld (encLA0 c f) 25 3 : BitVec 3) :=
    (BitVec.extractLsb'_append_extractLsb'_eq_extractLsb' (x := encLA0 c f) (start₁ := 25) (start₂ := 28) (len₁ := 3) (len₂ := 3) rfl).symm
  have hseven : fld (encLA0 c f) 28 3 = 7 := by
    unfold encLA0
    iterate 5 rw [fld_append_high _ _ (by decide)]
    rw [fld_append_low _ _ (by decide), fld_all]
  have hhigh : fld (encLA0 c f) 25 3 = fld c 3 3 := by
    unfold encLA0
    iterate 4 rw [fld_append_high _ _ (by decide)]
    rw [fld_append_low _ _ (by decide), fld_all]
  rw [hsplit, hseven, hhigh]

/-- The A-major of format LA: the low half of the C-major, and bits 31 to 29 of word 1 (R47). -/
theorem amaj_encLA : (fld (fld (encLA0 c f) 25 6) 0 3 : BitVec 3) ++ (fld (encLA1 c f) 29 3 : BitVec 3) = c := by
  have hlow : fld (encLA1 c f) 29 3 = fld c 0 3 := by
    unfold encLA1
    iterate 9 rw [fld_append_high _ _ (by decide)]
    exact fld_all _
  rw [cmaj_encLA, fld_append_low _ _ (by decide), fld_all, hlow]
  exact (BitVec.extractLsb'_append_extractLsb'_eq_extractLsb' rfl).trans BitVec.extractLsb'_eq_self

theorem laOf_encLA : laOf (encLA0 c f) (encLA1 c f) = f := by
  have hd : fld (encLA0 c f) 17 8 = f.d := by
    unfold encLA0
    iterate 3 rw [fld_append_high _ _ (by decide)]
    rw [fld_append_low _ _ (by decide), fld_all]
  have ha : fld (encLA0 c f) 9 8 = f.a := by
    unfold encLA0
    iterate 2 rw [fld_append_high _ _ (by decide)]
    rw [fld_append_low _ _ (by decide), fld_all]
  have hb : fld (encLA0 c f) 1 8 = f.b := by
    unfold encLA0
    iterate 1 rw [fld_append_high _ _ (by decide)]
    rw [fld_append_low _ _ (by decide), fld_all]
  have hc : fld (encLA1 c f) 21 8 = f.c := by
    unfold encLA1
    iterate 8 rw [fld_append_high _ _ (by decide)]
    rw [fld_append_low _ _ (by decide), fld_all]
  have hty : fld (encLA1 c f) 17 4 = f.ty := by
    unfold encLA1
    iterate 7 rw [fld_append_high _ _ (by decide)]
    rw [fld_append_low _ _ (by decide), fld_all]
  have hrm : fld (encLA1 c f) 14 3 = f.rm := by
    unfold encLA1
    iterate 6 rw [fld_append_high _ _ (by decide)]
    rw [fld_append_low _ _ (by decide), fld_all]
  have hmsel : fld (encLA1 c f) 7 3 = f.msel := by
    unfold encLA1
    iterate 1 rw [fld_append_high _ _ (by decide)]
    rw [fld_append_low _ _ (by decide), fld_all]
  have hmd : fld (encLA1 c f) 0 7 = f.md := by
    unfold encLA1
    rw [fld_append_low _ _ (by decide), fld_all]
  have hkb : (encLA0 c f).getLsbD 0 = f.kb := by
    rw [encLA0, BitVec.getLsbD_append, if_pos (by decide)]
    cases f.kb <;> rfl
  have hsat : (encLA1 c f).getLsbD 13 = f.sat := by
    unfold encLA1
    iterate 5 rw [BitVec.getLsbD_append, if_neg (by decide)]
    rw [BitVec.getLsbD_append, if_pos (by decide)]
    cases f.sat <;> rfl
  have hkc : (encLA1 c f).getLsbD 12 = f.kc := by
    unfold encLA1
    iterate 4 rw [BitVec.getLsbD_append, if_neg (by decide)]
    rw [BitVec.getLsbD_append, if_pos (by decide)]
    cases f.kc <;> rfl
  have hka : (encLA1 c f).getLsbD 11 = f.ka := by
    unfold encLA1
    iterate 3 rw [BitVec.getLsbD_append, if_neg (by decide)]
    rw [BitVec.getLsbD_append, if_pos (by decide)]
    cases f.ka <;> rfl
  have hkd : (encLA1 c f).getLsbD 10 = f.kd := by
    unfold encLA1
    iterate 2 rw [BitVec.getLsbD_append, if_neg (by decide)]
    rw [BitVec.getLsbD_append, if_pos (by decide)]
    cases f.kd <;> rfl
  rw [laOf, hd, ha, hb, hkb, hc, hty, hrm, hsat, hkc, hka, hkd, hmsel, hmd]

theorem lBit_encLA0 : (encLA0 c f).getLsbD 31 = true := by
  unfold encLA0
  iterate 6 rw [BitVec.getLsbD_append, if_neg (by decide)]
  rfl
end

/-- The A-class instructions: their major and form are read back, and well-formedness is what the decoder checks of them. -/
theorem roundTrips_lanes (i : Instr) (h : (aClass i).isSome = true) : Spec.roundTrips i := by
  intro ridge e hwf he
  obtain ⟨⟨amaj, f⟩, hclass⟩ := Option.isSome_iff_exists.mp h
  obtain ⟨hwords, hwf', hlow, hhigh⟩ := aClassRow_of_aClass hclass
  rw [hwf'] at hwf
  obtain rfl : encForm amaj f = e := Option.some.inj (hwords.symm.trans he)
  have hmaj : (BitVec.ofNat 6 amaj).toNat = amaj := by
    rw [BitVec.toNat_ofNat, Nat.mod_eq_of_lt (by omega)]
  cases f with
  | p d a b kb x =>
    rw [encForm, decodeEnc, decodeA, fld_encAR_major, hmaj, if_neg (by omega), arOf_encAR, decodeAForm_of_wf hwf]
  | l g =>
    have hcmaj : ¬ ((fld (encLA0 (BitVec.ofNat 6 amaj) g) 25 6 : BitVec 6).toNat < 0x38) := by
      rw [cmaj_encLA, BitVec.toNat_append, Nat.shiftLeft_eq]
      exact Nat.not_lt.mpr (Nat.left_le_or)
    rw [encForm, encLA_eq, decodeEnc, decodeC, if_pos (lBit_encLA0 _ g), if_neg hcmaj, amaj_encLA, hmaj, laOf_encLA,
      decodeAForm_of_wf hwf]

end Sys2Proof
end

section
open Sys2Proof

/-- Settles O56: every format's fields are read back, then each instruction's arm of the decoder. -/
theorem controlEncodings : Obligations.ControlEncodings := roundTrips_control

/-- Settles O57: major and form are read back from the words of formats AR and LA. -/
theorem laneEncodings : Obligations.LaneEncodings := roundTrips_lanes
end

section
open Sys2Proof Sys2Proof.Machine

namespace Sys2Proof

/-- Does the unit's file have a register of this number? -/
def UnitId.hasReg (u : UnitId) (n : Nat) : Prop :=
  match u with
  | .thread _ => n < 16
  | .wave _ => n < 64

end Sys2Proof

namespace Sys2Proof.Machine

/-! ### Registers of a unit (R56) -/

theorem wave_kreg_setK (w : Wave) (n : Nat) (x : W64) (h : n ≠ 0) (l : n < 64) : (w.setK n x).kreg n = x := by
  simp [Wave.setK, Wave.kreg, h, Vector.getD, l]

theorem wave_kreg_setK_ne (w : Wave) (m n : Nat) (x : W64) (h : m ≠ n) : (w.setK n x).kreg m = w.kreg m := by
  unfold Wave.setK Wave.kreg
  split
  · rfl
  · split
    · rfl
    · simp [Vector.getD, Ne.symm h]

theorem reg_setReg_self (s : State) (u : UnitId) (n : Nat) (x : W64) (h : n ≠ 0) (l : u.hasReg n) : (s.setReg u n x).reg u n = x := by
  cases u with
  | thread i => simpa [State.setReg, State.reg] using thread_reg_setReg _ n x h l
  | wave i => simpa [State.setReg, State.reg] using wave_kreg_setK _ n x h l

theorem reg_setReg_ne (s : State) (u : UnitId) (m n : Nat) (x : W64) (h : m ≠ n) : (s.setReg u n x).reg u m = s.reg u m := by
  cases u with
  | thread i => simpa [State.setReg, State.reg] using thread_reg_setReg_ne _ m n x h
  | wave i => simpa [State.setReg, State.reg] using wave_kreg_setK_ne _ m n x h

/-- Register 0 discards writes. -/
theorem reg_setReg_zero (s : State) (u : UnitId) (n : Nat) (x : W64) : (s.setReg u 0 x).reg u n = s.reg u n := by
  by_cases h : n = 0
  · rw [h, reg_zero, reg_zero]
  · exact reg_setReg_ne s u n 0 x h

end Sys2Proof.Machine

/-- Settles O1: a write to register 0 is none, one to another register is read back, and the rest keep their values. -/
theorem registerFiles : Obligations.RegisterFiles := by
  intro s u d n x hfile
  refine ⟨reg_zero s u, reg_setReg_zero s u n.toNat x, ?_⟩
  have hin : u.hasReg n.toNat := by
    cases u with
    | thread t => exact (hfile t rfl).2
    | wave w => exact n.isLt
  split
  next h =>
    obtain ⟨rfl, hd⟩ := h
    exact reg_setReg_self s u n.toNat x (fun h0 => hd (BitVec.eq_of_toNat_eq h0)) hin
  next h =>
    by_cases hd : d = 0
    · rw [hd]
      exact reg_setReg_zero s u n.toNat x
    · exact reg_setReg_ne s u n.toNat d.toNat x fun hn => h ⟨BitVec.eq_of_toNat_eq hn, hd⟩
end

section
open Sys2Proof Sys2Proof.Machine

/-- Settles O18: the formats are regular, codes read as `numOf_value` says, and RoundTo as `roundTo_rounds` does. -/
theorem floatRounding : Obligations.FloatRounding := by
  refine ⟨?_, rfl, fun F hF => ⟨numOf_value F.fmt, fun rm sat => ?_⟩⟩
  · decide
  · have hreg := regular_formats F hF
    exact ⟨roundTo_nan F hreg rm sat, roundTo_inf F hreg rm sat, roundTo_fin F hreg rm sat⟩

/-- Settles O55: each word, decoded. -/
theorem decodedWords : Obligations.DecodedWords := by
  refine ⟨?_, ?_, ?_, ?_, ?_, ?_, ?_, ?_, ?_, ?_, ?_, ?_, ?_, ?_, ?_, ?_⟩ <;> decide
end

section
open Sys2Proof Sys2Proof.Machine

/-- R49: the checks in their order. -/
theorem checkOrder : Spec.CheckOrder := by
  intro c w0 w1
  refine ⟨fun h => by simp only [checkBundle, h], fun i r hl hi => ?_, fun i r hl hi => ⟨fun hj => ?_, fun j q hj => ?_⟩⟩
  · simp only [checkBundle, hi, hl, if_true]
    cases engineOk c i with
    | false => rfl
    | true =>
    cases privilegeOk c i with
    | false => rfl
    | true =>
    cases r with
    | true => rfl
    | false => cases operandsOk c i <;> rfl
  · simp only [checkBundle, hi, hl, hj, Bool.false_eq_true, if_false, Option.map_none]
  · simp only [checkBundle, hi, hl, hj, Bool.false_eq_true, if_false, Option.map_some]
    cases engineOk c i with
    | false => rfl
    | true =>
    cases engineOk c j with
    | false => rfl
    | true =>
    cases privilegeOk c i with
    | false => rfl
    | true =>
    cases privilegeOk c j with
    | false => rfl
    | true =>
    cases r with
    | true => rfl
    | false =>
    cases q with
    | true => rfl
    | false =>
    cases operandsOk c i with
    | false => rfl
    | true =>
    cases operandsOk c j with
    | false => rfl
    | true => cases bundleClash c.ridge i j <;> rfl

/-! ### Both slots on one register (R49, R51, R56) -/

/-- What a scalar operation on two registers writes. -/
theorem regUse_aluInstr_writes (ridge : Bool) (op : AluOp) (d a b : Reg6) (w : Bool) :
    (regUse ridge (aluInstr op d a b w)).writes = [gpr ridge d] := by
  cases op <;> rfl

theorem regUse_vadd_spur (x y z : BitVec 8) (kb sat : Bool) : (regUse false (.vadd (.p x y z kb sat))).writes = [.s x.toNat] := rfl
theorem regUse_vadd_ridge (x y z : BitVec 8) (kb sat : Bool) : (regUse true (.vadd (.p x y z kb sat))).writes = [.v x.toNat] := rfl

theorem regUse_ld_writes (m : MemOp) : (regUse true (.ld m)).writes = (dataRegs true m).getD [] := by
  change (memUse true .ld m none).writes = _
  unfold memUse
  cases dataRegs true m <;> rfl

/-- A uniform operand is no v-register. -/
theorem codeReg_ne_v {c : BitVec 8} {r : Reg} (h : codeReg c = some r) (n : Nat) : r ≠ .v n := by
  rintro rfl
  simp only [codeReg] at h
  split_ifs at h <;> cases h

/-- R49, R56: what a scalar instruction and a load share with a lane instruction. -/
theorem clashes : Spec.Clashes := by
  intro op d a b w x y z kb sat m
  refine ⟨?_, ?_, ?_⟩
  · simp only [bundleClash, regUse_aluInstr_writes, regUse_vadd_spur, gpr, Bool.false_eq_true, if_false]
    by_cases hd : d.toNat = 0 <;> simp [countedWrite, hd]
  · simp [bundleClash, regUse_aluInstr_writes, regUse_vadd_ridge, gpr, countedWrite]
  · rw [bundleClash, regUse_vadd_ridge, regUse_ld_writes, dataRegs, if_pos rfl]
    cases hdk : m.dk with
    | true =>
      cases hc : codeReg m.d with
      | none => simp
      | some r => simpa using fun _ => codeReg_ne_v hc x.toNat
    | false =>
      by_cases hsz : m.sz = 3#2
      · simp [hsz, countedWrite]
      · simp [hsz, countedWrite, BitVec.toNat_inj]

/-- Settles O54: the checks are made one after another, and what two slots share is read off the registers that they write. -/
theorem decodeTraps : Obligations.DecodeTraps := ⟨checkOrder, clashes⟩
end

section
open Sys2Proof Sys2Proof.Machine Sys2Proof.Tests

namespace Sys2Proof.Machine

/-- The slot that issued last from each class of a core, in the state that a step answers with (R76). -/
def lastSlots (p : Nat) : Host.Outcome State Fault Refusal → AList Nat
  | .next t => (t.position p).lastSlot
  | _ => []

end Sys2Proof.Machine

/-- Refutes O58: at a bundle boundary with `issued` still set and no bundle latched, the fetch clears `issued`, so that the core notes the issue of the
bundle (R75, R76), where `Spec.latched` keeps it set, and the statement has no issue noted. -/
theorem not_stepRunsBundle : ¬ Obligations.StepRunsBundle := by
  intro ⟨hslots, _⟩
  let s : State := { tFetch with threads := [(1, { th with pc := 0x20000, c := { issued := true } })] }
  obtain ⟨-, -, hfetch, -, -⟩ := hslots s (.thread 1) (by decide +kernel) (by decide +kernel) (by decide +kernel)
  have hruns := hfetch nofun rfl rfl rfl rfl 0x20000 0x1A000000 0 ⟨.exit, some .nopA⟩ rfl (fun t ht => by cases ht; rfl) nofun
    ⟨by decide +kernel, by decide +kernel, by decide +kernel, ⟨2, 32, by decide +kernel, by decide +kernel, by decide +kernel, by decide +kernel⟩,
      by decide +kernel⟩
  have hlast := congrArg (lastSlots 3) hruns
  revert hlast
  decide +kernel
end

section
open Sys2Proof Sys2Proof.Machine

namespace Sys2Proof.Machine

/-! ### CRD and CWR by the number of the register (R60, R411) -/

theorem exec_crd (d : Reg6) (num : BitVec 12) (s : State) : exec (.crd d num) s = execCrd d num s := rfl
theorem exec_cwr (a : Reg6) (num : BitVec 12) (s : State) : exec (.cwr a num) s = execCwr a num s := rfl

theorem pfOnly_of_mayReach {s : State} {u : UnitId} {write : Bool} {n : Nat} (h : Spec.mayReach s u write n) :
    (pfOnly write n && !s.pfHolds u n) = false ∧ s.crWaits u n = false := by
  obtain ⟨hpf | hpf, hwaits⟩ := h
  · exact ⟨by rw [hpf, Bool.false_and], hwaits⟩
  · exact ⟨by rw [hpf, Bool.not_true, Bool.and_false], hwaits⟩

/-- R60, R411. -/
theorem controlAccess : Spec.ControlAccess := by
  intro s u d a num halone
  refine ⟨fun hmay => ?_, fun hmay => ?_⟩
  · obtain ⟨hpf, hwaits⟩ := pfOnly_of_mayReach hmay
    rw [exec_crd]
    refine runC_done halone ?_
    simp only [hpf, hwaits, Bool.false_eq_true, if_false]
  · obtain ⟨hpf, hwaits⟩ := pfOnly_of_mayReach hmay
    rw [exec_cwr]
    refine ⟨fun hlives => runC_done halone ?_, fun hends => runC_gone halone ?_⟩
    · simp only [hpf, hwaits, reg_begun, hlives, Bool.false_eq_true, if_false, if_true]
    · simp only [hpf, hwaits, reg_begun, hends, Bool.false_eq_true, if_false]

theorem dieReg_iff (n : Nat) : dieReg n = true ↔ (0x210 ≤ n ∧ n ≤ 0x216) ∨ (0x500 ≤ n ∧ n < 0x540) := by
  simp [dieReg]

/-- Numbers of the registers that are one for a Vale, as units name them. -/
def valeReg (n : Nat) : Bool := decide (0x100 ≤ n) && !decide (0x120 ≤ n ∧ n ≤ 0x123) && !decide (n ∈ [0x200, 0x203, 0x204]) && !dieReg n

theorem readControl_vale (s : State) (u : UnitId) (n : Nat) (h : valeReg n = true) : s.readControl u n = s.readValeReg (s.unitVale u) n := by
  simp only [valeReg, List.mem_cons, List.not_mem_nil, or_false, Bool.and_eq_true, Bool.not_eq_true', decide_eq_true_eq, decide_eq_false_iff_not,
    not_or] at h
  obtain ⟨⟨⟨hlo, hview⟩, h200, h203, h204⟩, hdie⟩ := h
  cases u <;> simp (disch := omega) only [State.readControl, if_neg, hdie, Bool.false_eq_true, if_false]

theorem writeControl_vale (s : State) (u : UnitId) (n : Nat) (x : W64) (h : valeReg n = true) :
    s.writeControl u n x = s.writeValeReg (s.unitVale u) n x (s.unitSrc u) := by
  simp only [valeReg, List.mem_cons, List.not_mem_nil, or_false, Bool.and_eq_true, Bool.not_eq_true', decide_eq_true_eq, decide_eq_false_iff_not,
    not_or] at h
  obtain ⟨⟨⟨hlo, hview⟩, h200, h203, h204⟩, hdie⟩ := h
  have hown : ¬ (decide (n < 0x100) || n == 0x203) = true := by simp [h203]; omega
  rw [State.writeControl, if_neg hown, if_neg h200, if_neg (Bool.eq_false_iff.mp hdie)]

theorem readControl_die (s : State) (u : UnitId) (n : Nat) (h : dieReg n = true) : s.readControl u n = (s.readDieReg (s.unitDie u) n, s) := by
  have hn := (dieReg_iff n).mp h
  cases u <;> simp (disch := omega) only [State.readControl, if_neg, h, if_true]

theorem writeControl_die (s : State) (u : UnitId) (n : Nat) (x : W64) (h : dieReg n = true) :
    s.writeControl u n x = s.writeDieReg (s.unitDie u) n x (s.unitSrc u) := by
  have hn := (dieReg_iff n).mp h
  have hown : ¬ (decide (n < 0x100) || n == 0x203) = true := by
    simp only [Bool.or_eq_true, decide_eq_true_eq, beq_iff_eq]; omega
  rw [State.writeControl, if_neg hown, if_neg (by omega), if_pos h]

theorem valeRegisters_number (x : W64) : ∀ r ∈ Spec.valeRegisters x, valeReg r.1 = true := by
  simp only [Spec.valeRegisters, List.forall_mem_cons, List.not_mem_nil, false_implies, implies_true, and_true]
  decide

theorem dieRegisters_number (x : W64) : ∀ r ∈ Spec.dieRegisters x, dieReg r.1 = true := by
  refine forall_dieRegisters x _ ?_ fun q hq => (dieReg_iff _).mpr (.inr ⟨by omega, by omega⟩)
  simp only [Spec.dieRegisters, List.cons_append, List.take_succ_cons, List.take_zero, List.forall_mem_cons, List.not_mem_nil, false_implies,
    implies_true, and_true]
  decide

/-- CORECFG of core `p` of a Vale. -/
theorem readValeReg_classes (s : State) (v p : Nat) (hp : p < 32) :
    s.readValeReg v (0x600 + p) = ((s.position (v * 32 + p)).cls.zeroExtend 64, s) := by
  have h23 : ¬ (0x600 + p) / 16 = 0x23 := by omega
  have h24 : ¬ (0x600 + p) / 16 = 0x24 := by omega
  have h2b : ¬ (0x600 + p) / 16 = 0x2B := by omega
  simp (disch := omega) only [State.readValeReg, if_neg, if_pos, Nat.add_sub_cancel_left, h23, h24, h2b, if_false]

/-- R79, R152, R279, R411. -/
theorem ownRegisters : Spec.OwnRegisters := by
  intro s u x
  refine ⟨by cases u <;> rfl, by cases u <;> rfl, by cases u <;> rfl, by cases u <;> rfl, by cases u <;> rfl, ?_, ?_, ?_, ?_, fun r hr => ?_,
    fun r hr => ?_, fun t ht => ?_, fun w hw => ?_⟩
  · cases u <;> rfl
  · cases u <;> rfl
  · have hown : s.readControl u 0x200 = s.readValeReg (s.unitVale u) (0x600 + s.unitPos u % 32) := by cases u <;> rfl
    rw [hown, readValeReg_classes _ _ _ (Nat.mod_lt _ (by decide))]
  · intro hp
    rw [exec_registerWrite, State.writeRegister, if_pos hp, if_pos rfl]
    rfl
  · have hn := valeRegisters_number x r hr
    exact ⟨by rw [readControl_vale s u _ hn, readValeReg_plain s _ x r hr], by rw [writeControl_vale s u _ x hn, writeValeReg_plain s _ x _ r hr]⟩
  · have hn := dieRegisters_number x r hr
    exact ⟨by rw [readControl_die s u _ hn, readDieReg_plain s _ x r hr], by rw [writeControl_die s u _ x hn, writeDieReg_plain s _ x _ r hr]⟩
  · subst ht
    have hcontext : bitsOf x 15 8 = x.toNat / 256 % 256 := bitsOf_eq x 15 8
    refine ⟨?_, rfl, ?_⟩
    · cases hphys : (s.thread t).phys <;> simp [State.readControl, hphys, bit]
    · rw [← hcontext]
      rfl
  · subst hw
    simp only [← truncate_eq]
    exact ⟨rfl, rfl, rfl, rfl, rfl, rfl, rfl, rfl, rfl, rfl⟩

end Sys2Proof.Machine

/-- Settles O38: CRD and CWR reach the register, and each number leads to its row of the tables. -/
theorem controlRegisters : Obligations.ControlRegisters := ⟨controlAccess, ownRegisters⟩
end

section
open Sys2Proof Sys2Proof.Machine

namespace Sys2Proof.Machine

/-! ### LD, LDS and LDQ of lanes that pass the checks (R63, R205, R208, R209) -/

/-- LD and LDS of lanes that pass. -/
theorem loadPlain_sends {s : State} {u : UnitId} {m : MemOp} {x : Option MemExt} {spad sx : Bool} (halone : Alone s u)
    (hpass : Spec.passes (s.begun u) u (Spec.space (s.begun u) u spad) (Spec.form u m x) 0) :
    (s.begun u).loadPlain u (Spec.form u m x) spad sx = .done ((s.begun u).sendRel
      (Spec.loadOf (s.begun u) u m x (Spec.space (s.begun u) u spad) (.load sx) (memDest u (Spec.form u m x)) false)) := by
  refine (memCheck_pass _ u _ _ _ _ hpass).trans ((after_quiet _ u _ _ (accessesOf_begun s u halone)).trans ?_)
  rw [form_m]
  rfl

/-- R205, R208, R209. -/
theorem plainLoads : Spec.PlainLoads := by
  intro s u m e halone s0 plain
  have hplain : ∀ (i : Instr) (k : MemKind) (x : Option MemExt) (spad : Bool), exec i s = runC s i (fun s u => s.memOp u k m x) →
      s0.memOp u k m x = s0.loadPlain u (Spec.form u m x) spad ((Spec.modOf x).getLsbD 0) → plain i x spad :=
    fun i k x spad hexec hop hpass => hexec.trans (runC_done halone (hop.trans (loadPlain_sends halone hpass)))
  exact ⟨hplain _ .ld none false rfl rfl, hplain _ .lds none true rfl rfl, hplain _ .ld (some e) false rfl rfl,
    hplain _ .lds (some e) true rfl rfl⟩

/-- A change of a wave that keeps its registers, masks and EXEC keeps the addresses of its accesses. -/
theorem addresses_modWave (s : State) (w : Nat) (g : Wave → Wave) (f : MemForm)
    (hg : ∀ x, (g x).exec = x.exec ∧ (g x).mask = x.mask ∧ (g x).kreg = x.kreg ∧ (g x).vreg = x.vreg) :
    Spec.addresses (s.modWave w g) (.wave w) f = Spec.addresses s (.wave w) f := by
  obtain ⟨hexec, hmask, hk, hv⟩ := hg (s.wave w)
  simp only [Spec.addresses, State.memLanes, State.memEa, State.reg, State.lreg, modWave_eq, wave_setWave, hexec, hmask, hk, hv]

/-- LDQ of lanes that pass, with room in its queue. -/
theorem loadQueue_sends {s : State} {w : Nat} {m : MemOp} {x : Option MemExt} {sx : Bool} (halone : Alone s (.wave w))
    (hpass : Spec.passes (s.begun (.wave w)) (.wave w) ((s.begun (.wave w)).spaceOf (.wave w)) (Spec.form (.wave w) m x) 0)
    (hroom : ((((s.begun (.wave w)).wave w).lq.getD (m.d.toNat - 0x40) []).length + if m.sz = 3 then 2 else 1) ≤ 8) :
    let t := Spec.reserved (s.begun (.wave w)) w m x
    (s.begun (.wave w)).loadQueue (.wave w) (Spec.form (.wave w) m x) sx = .done (t.sendRel
      (Spec.loadOf t (.wave w) m x ((s.begun (.wave w)).spaceOf (.wave w)) (.load sx) (.queue (m.d.toNat - 0x40) (m.sz == 3)) false)) := by
  intro t
  refine (memCheck_pass _ _ _ _ _ _ hpass).trans ?_
  have haddr : Spec.addresses t (.wave w) (Spec.form (.wave w) m x) = Spec.addresses (s.begun (.wave w)) (.wave w) (Spec.form (.wave w) m x) :=
    addresses_modWave _ w _ _ fun _ => ⟨rfl, rfl, rfl, rfl⟩
  have hlen : (if ((Spec.form (.wave w) m x).m.sz == 3) = true then 2 else 1) = if m.sz = 3 then 2 else 1 := by
    simp only [form_m, beq_iff_eq]
  refine (if_neg (Nat.not_lt.mpr ?_)).trans ((after_quiet _ _ _ _ (accessesOf_begun s _ halone)).trans ?_)
  · rw [hlen, form_m]
    exact hroom
  · rw [Spec.loadOf, haddr]
    simp only [t, Spec.reserved, form_m, beq_iff_eq, List.isEmpty_iff, Spec.addresses]
    by_cases hwide : m.sz = 3
    · simp only [hwide, if_true]
      rfl
    · simp only [hwide, if_false, OfNat.one_ne_ofNat, Nat.reduceBEq, beq_eq_false_iff_ne.mpr hwide]
      rfl

/-- R63, R209. -/
theorem queueLoads : Spec.QueueLoads := by
  intro s w m e halone u s0 queue
  have hqueue : ∀ (i : Instr) (x : Option MemExt), exec i s = runC s i (fun s u => s.memOp u .ldq m x) → queue i x :=
    fun i x hexec hpass hroom => hexec.trans (runC_done halone (loadQueue_sends halone hpass hroom))
  exact ⟨hqueue _ none rfl, hqueue _ (some e) rfl⟩

end Sys2Proof.Machine

/-- Settles O8: the checks pass, no access is outstanding, so the load is sent at once. -/
theorem loadsIssue : Obligations.LoadsIssue := ⟨plainLoads, queueLoads⟩
end

section
open Sys2Proof Sys2Proof.Machine

namespace Sys2Proof.Machine

/-! ### Debug stops (R138): units are noted as held, and nothing else changes -/

/-- A unit's shared part but for the debug stops that hold it. -/
def Common.heldBy (c : Common) (l : List UnitId) : Common := { c with stopped := l }

/-- The units of a state, but for the debug stops that hold them. -/
structure State.StopsOnly (s t : State) : Prop where
  rest : ∃ ts ws, t = { s with threads := ts, waves := ws }
  thread : ∀ i, ∃ l, t.thread i = { s.thread i with c := (s.thread i).c.heldBy l }
  wave : ∀ i, ∃ l, t.wave i = { s.wave i with c := (s.wave i).c.heldBy l }

theorem State.StopsOnly.refl (s : State) : s.StopsOnly s := ⟨⟨_, _, rfl⟩, fun _ => ⟨_, rfl⟩, fun _ => ⟨_, rfl⟩⟩

theorem State.StopsOnly.trans {s t r : State} (h : s.StopsOnly t) (k : t.StopsOnly r) : s.StopsOnly r := by
  obtain ⟨⟨ts, ws, hst⟩, hthread, hwave⟩ := h
  obtain ⟨⟨ts', ws', htr⟩, kthread, kwave⟩ := k
  refine ⟨⟨ts', ws', by rw [htr, hst]⟩, fun i => ?_, fun i => ?_⟩
  · obtain ⟨l, hl⟩ := hthread i
    obtain ⟨l', hl'⟩ := kthread i
    exact ⟨l', by rw [hl', hl]; rfl⟩
  · obtain ⟨l, hl⟩ := hwave i
    obtain ⟨l', hl'⟩ := kwave i
    exact ⟨l', by rw [hl', hl]; rfl⟩

theorem State.StopsOnly.foldl {α : Type} (f : State → α → State) (hf : ∀ (s : State) (a : α), s.StopsOnly (f s a)) (l : List α) (s : State) :
    s.StopsOnly (l.foldl f s) := by
  induction l generalizing s with
  | nil => exact .refl s
  | cons a l ih => exact (hf s a).trans (ih _)

theorem modCom_stopsOnly (s : State) (u : UnitId) (l : List UnitId) : s.StopsOnly (s.modCom u (fun c => c.heldBy l)) := by
  cases u with
  | thread n =>
    refine ⟨⟨_, _, rfl⟩, fun i => ?_, fun i => ⟨_, rfl⟩⟩
    by_cases h : i = n
    · exact ⟨l, by subst h; exact thread_setThread s i _⟩
    · exact ⟨_, thread_setThread_ne s n i _ h⟩
  | wave n =>
    refine ⟨⟨_, _, rfl⟩, fun i => ⟨_, rfl⟩, fun i => ?_⟩
    by_cases h : i = n
    · exact ⟨l, by subst h; exact wave_setWave s i _⟩
    · exact ⟨_, wave_setWave_ne s n i _ h⟩

theorem blockStop_stopsOnly (s : State) (u : UnitId) (c : Cause) : s.StopsOnly (s.blockStop u c) := by
  have hhold : ∀ (s : State) (m : UnitId), s.StopsOnly (s.modCom m (fun c => { c with stopped := u :: c.stopped.filter (· != u) })) :=
    fun s m => modCom_stopsOnly s m (u :: (s.com m).stopped.filter (· != u))
  unfold State.blockStop
  dsimp only
  split
  · split
    · split
      · exact (hhold s u).trans (.foldl _ hhold _ _)
      · exact hhold s u
    · exact hhold s u
  · exact .refl s

end Sys2Proof.Machine
end

section
open Sys2Proof Sys2Proof.Machine

namespace Sys2Proof.Machine

/-! ### A user unit that traps (R66, R412) -/

/-- The shared part of a unit that is stopped by trap `m`: its own wait is kept under the trap. -/
def Common.atTrap (c : Common) (m : TrapMsg) : Common :=
  let idle := c.ownWait == .none
  { c with wait := .trap, under := c.ownWait, trapped := some m, stepping := false, bundle := if idle then none else c.bundle,
           walk := c.walk && !idle, until_ := if idle then none else c.until_ }

/-- The message of a unit's trap. -/
def State.trapMsg (s : State) (u : UnitId) (x : TrapInfo) : TrapMsg :=
  { unit := u, info := x, time := s.time, slotBit := x.slot || (match u with | .thread n => (s.thread n).slotBit | .wave _ => false) }

/-- A wave that its trap has stopped, not yet parked. -/
def State.waveAtTrap (s : State) (w : Nat) (x : TrapInfo) : State :=
  (s.modCom (.wave w) (fun c => c.atTrap (s.trapMsg (.wave w) x))).modWave w
    (fun y => { y with leaked := x.cause == Cause.accLeak, trapDue := false })

/-- The state in which a user unit has stopped for its trap, which it still has to send. -/
def State.stopAt (s : State) (u : UnitId) (x : TrapInfo) : State :=
  match u with
  | .wave w => ((s.waveAtTrap w x).parkUnit u).blockStop u x.cause
  | .thread _ => s.modCom u (fun c => c.atTrap (s.trapMsg u x))

theorem takeTrap_user (s : State) (u : UnitId) (x : TrapInfo) (h : s.isSup u = false) : s.takeTrap u x = (s.stopAt u x).sendTrap u := by
  unfold State.takeTrap
  rw [if_neg (Bool.eq_false_iff.mp h)]
  cases u <;> rfl

theorem stopAt_thread (s : State) (n : Nat) (x : TrapInfo) :
    s.stopAt (.thread n) x = s.setThread n { s.thread n with c := (s.thread n).c.atTrap (s.trapMsg (.thread n) x) } := rfl

/-- Parking a wave notes the time with its block. -/
theorem parkUnit_wave (s : State) (w : Nat) : ∃ bs, s.parkUnit (.wave w) = { s with blocks := bs } := by
  simp only [State.parkUnit]
  split
  · exact ⟨_, rfl⟩
  · exact ⟨s.blocks, rfl⟩

/-- What a stopped wave keeps. -/
theorem stopAt_wave (s : State) (w : Nat) (x : TrapInfo) :
    (∃ ts ws bs, s.stopAt (.wave w) x = { s with threads := ts, waves := ws, blocks := bs }) ∧
    ∃ l, (s.stopAt (.wave w) x).wave w =
      { s.wave w with c := ((s.wave w).c.atTrap (s.trapMsg (.wave w) x)).heldBy l, leaked := x.cause == Cause.accLeak, trapDue := false } := by
  have hstop : s.stopAt (.wave w) x = ((s.waveAtTrap w x).parkUnit (.wave w)).blockStop (.wave w) x.cause := rfl
  obtain ⟨bs, hbs⟩ := parkUnit_wave (s.waveAtTrap w x) w
  obtain ⟨⟨ts, ws, hrest⟩, -, hwave⟩ := blockStop_stopsOnly ((s.waveAtTrap w x).parkUnit (.wave w)) (.wave w) x.cause
  obtain ⟨l, hl⟩ := hwave w
  rw [hstop]
  refine ⟨⟨ts, ws, bs, hrest.trans (by rw [hbs]; rfl)⟩, l, hl.trans ?_⟩
  rw [hbs]
  simp [State.waveAtTrap, State.wave, State.setCom, State.com, Common.heldBy]

theorem sendTrap_busy {s : State} {u : UnitId} (h : s.trapQuiet u = false) : s.sendTrap u = s := by
  unfold State.sendTrap
  split
  · rfl
  · rw [h, Bool.not_false, Bool.or_true, if_pos rfl]

/-- A thread after an event of core `p`. -/
def Thread.coreEvent (t : Thread) (p : Nat) : Thread :=
  match t.loc with
  | .slot q _ => if q = p then { t with event := true } else t
  | _ => t

/-- Threads that stand in no slot of a core take no note of its events. -/
theorem coreEvent_thread {s : State} {i : Nat} (p : Nat) (h : ∀ q n, (s.thread i).loc ≠ .slot q n) : (s.coreEvent p).thread i = s.thread i := by
  have hthreads : (s.coreEvent p).threads = s.threads.map (fun e => (e.1, e.2.coreEvent p)) := by
    refine List.map_congr_left fun e _ => ?_
    obtain ⟨k, t⟩ := e
    cases hloc : t.loc with
    | slot q n => by_cases hq : q = p <;> simp [Thread.coreEvent, hloc, hq]
    | _ => simp [Thread.coreEvent, hloc]
  have hfind := find_map_keyed (fun _ t => t.coreEvent p) s.threads i
  rw [State.thread, hthreads, AList.getD, hfind]
  cases hi : s.threads.find i with
  | none => simp only [State.thread, AList.getD, hi, Option.map_none]
  | some t =>
    simp only [State.thread, AList.getD, hi, Option.map_some, Option.getD_some] at h ⊢
    unfold Thread.coreEvent
    split
    next q n hloc => exact absurd hloc (h q n)
    next => rfl

end Sys2Proof.Machine
end

section
open Sys2Proof Sys2Proof.Machine

namespace Sys2Proof.Machine

/-! ### A trap that is sent (R408, R412) -/

theorem coreEvent_vale (s : State) (p v : Nat) : (s.coreEvent p).vale v = s.vale v := rfl
theorem coreEvent_wave (s : State) (p w : Nat) : (s.coreEvent p).wave w = s.wave w := rfl

section
variable {s : State} {m : TrapMsg}

/-- A thread whose accesses are quiet leaves its slot, and its trap waits in the Vale's queue. -/
theorem sendTrap_thread {n : Nat} (hm : (s.thread n).c.trapped = some m) (hwait : (s.thread n).c.wait = .trap)
    (hquiet : s.trapQuiet (.thread n) = true) :
    let v := s.unitVale (.thread n)
    ((s.sendTrap (.thread n)).vale v).traps = (s.vale v).traps ++ [{ m with arr := s.fresh }] ∧
    ∃ q b k, (s.sendTrap (.thread n)).thread n =
      { s.thread n with c := { (s.thread n).c with trapped := none, parkedAt := q }, toHome := b, cls := k, loc := .trapWait v } := by
  intro v
  have hsent : s.sendTrap (.thread n) = (((((s.newId.2.modCom (.thread n) (fun c => { c with trapped := none })).leaveSlot n).modThread n
      (fun x => { x with loc := .trapWait v })).modVale v (fun x => { x with traps := x.traps ++ [{ m with arr := s.fresh }] })).coreEvent
      (v * 32)) := by
    unfold State.sendTrap
    rw [show (s.com (.thread n)).trapped = some m from hm]
    simp [show (s.com (.thread n)).wait = .trap from hwait, hquiet]
    rfl
  rw [hsent]
  refine ⟨?_, ?_⟩
  · rw [coreEvent_vale]
    simp [State.leaveSlot, State.setCom, State.newId, State.vale]
  · have hloc : ∀ (t : State) (p : Nat), (t.thread n).loc = .trapWait v → (t.coreEvent p).thread n = t.thread n :=
      fun t p h => coreEvent_thread p fun q k h' => nomatch h.symm.trans h'
    rw [hloc]
    · simp [State.leaveSlot, State.setCom, State.newId, State.com, State.thread]
    · simp

/-- The trap of a wave whose accesses are quiet waits in the Vale's queue; the wave stays in its place. -/
theorem sendTrap_wave {w : Nat} (hm : (s.wave w).c.trapped = some m) (hwait : (s.wave w).c.wait = .trap)
    (hquiet : s.trapQuiet (.wave w) = true) :
    let v := s.unitVale (.wave w)
    ((s.sendTrap (.wave w)).vale v).traps = (s.vale v).traps ++ [{ m with arr := s.fresh }] ∧
    (s.sendTrap (.wave w)).wave w = { s.wave w with c := { (s.wave w).c with trapped := none } } := by
  intro v
  have hsent : s.sendTrap (.wave w) = (((s.newId.2.modCom (.wave w) (fun c => { c with trapped := none })).modVale v
      (fun x => { x with traps := x.traps ++ [{ m with arr := s.fresh }] })).coreEvent (v * 32)) := by
    unfold State.sendTrap
    rw [show (s.com (.wave w)).trapped = some m from hm]
    simp [show (s.com (.wave w)).wait = .trap from hwait, hquiet]
    rfl
  rw [hsent]
  refine ⟨?_, ?_⟩
  · rw [coreEvent_vale]
    simp [State.setCom, State.newId, State.vale]
  · rw [coreEvent_wave]
    simp [State.setCom, State.newId, State.com, State.wave]

end

theorem trapQuiet_congr {s t : State} {u : UnitId} (h : t.accesses = s.accesses) : t.trapQuiet u = s.trapQuiet u := by
  simp only [State.trapQuiet, State.accessesOf, h]

/-- R66, R412, for a thread. -/
theorem trapStops_thread (s : State) (n : Nat) (x : TrapInfo) (hsup : s.isSup (.thread n) = false) :
    let u : UnitId := .thread n
    let t := s.takeTrap u x
    let v := s.unitVale u
    (t.com u).wait = .trap ∧ t.pcOf u = s.pcOf u ∧ (∀ r, t.reg u r = s.reg u r) ∧
    (s.trapQuiet u = true → (t.vale v).traps = (s.vale v).traps ++ [{ s.trapMsg u x with arr := s.fresh }]) ∧
    (s.trapQuiet u = false → t.vales = s.vales ∧ (t.com u).trapped = some (s.trapMsg u x)) ∧
    ((s.trapQuiet u = true → (t.thread n).loc = .trapWait v) ∧ (s.trapQuiet u = false → (t.thread n).loc = (s.thread n).loc)) := by
  intro u t v
  let stopped : Thread := { s.thread n with c := (s.thread n).c.atTrap (s.trapMsg u x) }
  have hstop : (s.setThread n stopped).thread n = stopped := thread_setThread s n stopped
  have ht : t = (s.setThread n stopped).sendTrap u := takeTrap_user s u x hsup
  have hv : (s.setThread n stopped).unitVale u = v := by
    simp only [State.unitVale, State.unitPos, u, hstop]
    rfl
  have hq : (s.setThread n stopped).trapQuiet u = s.trapQuiet u := trapQuiet_congr rfl
  cases hquiet : s.trapQuiet u with
  | true =>
    obtain ⟨htraps, q, b, k, hthread⟩ := sendTrap_thread (m := s.trapMsg u x) (congrArg (·.c.trapped) hstop) (congrArg (·.c.wait) hstop)
      (hq.trans hquiet)
    rw [← ht, hv] at htraps
    rw [← ht, hv, hstop] at hthread
    refine ⟨congrArg (·.c.wait) hthread, (congrArg Thread.pc hthread :), fun r => (congrArg (Thread.reg · r) hthread :), fun _ => htraps, nofun,
      fun _ => (congrArg Thread.loc hthread :), nofun⟩
  | false =>
    rw [sendTrap_busy (hq.trans hquiet)] at ht
    have hthread : t.thread n = stopped := (congrArg (State.thread · n) ht).trans hstop
    refine ⟨congrArg (·.c.wait) hthread, (congrArg Thread.pc hthread :), fun r => (congrArg (Thread.reg · r) hthread :), nofun,
      fun _ => ⟨(congrArg State.vales ht :), congrArg (·.c.trapped) hthread⟩, nofun, fun _ => (congrArg Thread.loc hthread :)⟩

/-- R66, R412, for a wave. -/
theorem trapStops_wave (s : State) (w : Nat) (x : TrapInfo) (hsup : s.isSup (.wave w) = false) :
    let u : UnitId := .wave w
    let t := s.takeTrap u x
    let v := s.unitVale u
    (t.com u).wait = .trap ∧ t.pcOf u = s.pcOf u ∧ (∀ r, t.reg u r = s.reg u r) ∧
    (s.trapQuiet u = true → (t.vale v).traps = (s.vale v).traps ++ [{ s.trapMsg u x with arr := s.fresh }]) ∧
    (s.trapQuiet u = false → t.vales = s.vales ∧ (t.com u).trapped = some (s.trapMsg u x)) ∧
    (t.com u).under = (s.com u).ownWait ∧ { t.wave w with c := (s.wave w).c, leaked := (s.wave w).leaked, trapDue := (s.wave w).trapDue } = s.wave w := by
  intro u t v
  obtain ⟨⟨ts, ws, bs, hrest⟩, l, hstop⟩ := stopAt_wave s w x
  have ht : t = (s.stopAt u x).sendTrap u := takeTrap_user s u x hsup
  have hv : (s.stopAt u x).unitVale u = v := by
    simp only [State.unitVale, State.unitPos, u, hstop]
    rfl
  have hq : (s.stopAt u x).trapQuiet u = s.trapQuiet u := trapQuiet_congr (by rw [hrest])
  cases hquiet : s.trapQuiet u with
  | true =>
    obtain ⟨htraps, hwave⟩ := sendTrap_wave (m := s.trapMsg u x) (congrArg (·.c.trapped) hstop) (congrArg (·.c.wait) hstop) (hq.trans hquiet)
    rw [← ht, hv, hrest] at htraps
    rw [← ht, hstop] at hwave
    refine ⟨congrArg (·.c.wait) hwave, (congrArg Wave.apc hwave :), fun r => (congrArg (Wave.kreg · r) hwave :), fun _ => htraps, nofun,
      (congrArg (·.c.under) hwave :), ?_⟩
    rw [hwave]
  | false =>
    rw [sendTrap_busy (hq.trans hquiet)] at ht
    have hwave := (congrArg (State.wave · w) ht).trans hstop
    refine ⟨congrArg (·.c.wait) hwave, (congrArg Wave.apc hwave :), fun r => (congrArg (Wave.kreg · r) hwave :), nofun,
      fun _ => ⟨(congrArg State.vales ht).trans (by rw [hrest]), congrArg (·.c.trapped) hwave⟩, (congrArg (·.c.under) hwave :), ?_⟩
    rw [hwave]

/-- R66, R412. -/
theorem trapStops : Spec.TrapStops := by
  intro s u x hsup
  cases u with
  | thread n =>
    obtain ⟨hwait, hpc, hreg, hsent, hkept, hloc⟩ := trapStops_thread s n x hsup
    exact ⟨hwait, hpc, hreg, hsent, hkept, fun k hk => UnitId.thread.inj hk ▸ hloc, nofun⟩
  | wave w =>
    obtain ⟨hwait, hpc, hreg, hsent, hkept, hplace⟩ := trapStops_wave s w x hsup
    exact ⟨hwait, hpc, hreg, hsent, hkept, nofun, fun k hk => UnitId.wave.inj hk ▸ hplace⟩

end Sys2Proof.Machine
end

section
open Sys2Proof Sys2Proof.Machine

namespace Sys2Proof.Machine

/-! ### What a unit carries over the end of its trap (R67, R418) -/

/-- What a unit keeps, with memory and the frames of the Vales, while it is made ready to go on. A wave's shared part, its tiles and its
place in the order of starts may change. -/
structure State.Carries (s t : State) (u : UnitId) : Prop where
  mem : t.mem = s.mem
  frames : ∀ v, (t.vale v).frames = (s.vale v).frames
  frec : (t.com u).frec = (s.com u).frec
  fpctl : (t.com u).fpctl = (s.com u).fpctl
  fpst : (t.com u).fpst = (s.com u).fpst
  thread : ∀ n, u = .thread n → (t.thread n).pc = (s.thread n).pc ∧ (t.thread n).slotBit = (s.thread n).slotBit ∧
    (t.thread n).regs = (s.thread n).regs ∧ (t.thread n).tid = (s.thread n).tid
  wave : ∀ w, u = .wave w → ∃ c i ts b, t.wave w = { s.wave w with c := c, started := i, t := ts, leaked := b }

section
variable {s t r : State} {u : UnitId}

theorem State.Carries.refl (s : State) (u : UnitId) : s.Carries s u :=
  ⟨rfl, fun _ => rfl, rfl, rfl, rfl, fun _ _ => ⟨rfl, rfl, rfl, rfl⟩, fun _ _ => ⟨_, _, _, _, rfl⟩⟩

theorem State.Carries.trans (h : s.Carries t u) (k : t.Carries r u) : s.Carries r u := by
  refine ⟨k.mem.trans h.mem, fun v => (k.frames v).trans (h.frames v), k.frec.trans h.frec, k.fpctl.trans h.fpctl, k.fpst.trans h.fpst,
    fun n hn => ?_, fun w hw => ?_⟩
  · obtain ⟨hpc, hslot, hregs, htid⟩ := h.thread n hn
    obtain ⟨kpc, kslot, kregs, ktid⟩ := k.thread n hn
    exact ⟨kpc.trans hpc, kslot.trans hslot, kregs.trans hregs, ktid.trans htid⟩
  · obtain ⟨_, _, _, _, h⟩ := h.wave w hw
    obtain ⟨_, _, _, _, k⟩ := k.wave w hw
    exact ⟨_, _, _, _, k.trans (by rw [h])⟩

/-- A change of the unit's shared part that keeps its flags and its fault record. -/
theorem modCom_carries (s : State) (u : UnitId) (g : Common → Common)
    (hg : ∀ c, (g c).frec = c.frec ∧ (g c).fpctl = c.fpctl ∧ (g c).fpst = c.fpst) : s.Carries (s.modCom u g) u := by
  obtain ⟨hfrec, hfpctl, hfpst⟩ := hg (s.com u)
  refine ⟨by simp, by simp [State.vale], by simp [hfrec], by simp [hfpctl], by simp [hfpst], fun n hn => ?_, fun w hw => ?_⟩
  · subst hn
    simp [State.setCom]
  · subst hw
    exact ⟨_, _, _, _, wave_setWave ..⟩

/-- A state that differs in none of the fields named. -/
theorem carries_of_eq (hmem : t.mem = s.mem) (hvales : t.vales = s.vales) (hthreads : t.threads = s.threads) (hwaves : t.waves = s.waves) :
    s.Carries t u := by
  have hthread : ∀ n, t.thread n = s.thread n := fun n => by rw [State.thread, hthreads]; rfl
  have hwave : ∀ w, t.wave w = s.wave w := fun w => by rw [State.wave, hwaves]; rfl
  have hcom : t.com u = s.com u := by
    cases u with
    | thread n => exact congrArg Thread.c (hthread n)
    | wave w => exact congrArg Wave.c (hwave w)
  refine ⟨hmem, fun v => by rw [State.vale, hvales]; rfl, by rw [hcom], by rw [hcom], by rw [hcom], fun n _ => ?_, fun w _ => ⟨_, _, _, _, hwave w⟩⟩
  rw [hthread n]
  exact ⟨rfl, rfl, rfl, rfl⟩

theorem State.StopsOnly.carries (h : s.StopsOnly t) (u : UnitId) : s.Carries t u := by
  obtain ⟨⟨ts, ws, hrest⟩, hthread, hwave⟩ := h
  have hcom : ∃ l, t.com u = (s.com u).heldBy l := by
    cases u with
    | thread n => obtain ⟨l, hl⟩ := hthread n; exact ⟨l, congrArg Thread.c hl⟩
    | wave w => obtain ⟨l, hl⟩ := hwave w; exact ⟨l, congrArg Wave.c hl⟩
  obtain ⟨l, hcom⟩ := hcom
  refine ⟨by rw [hrest], fun v => by rw [hrest]; rfl, by rw [hcom]; rfl, by rw [hcom]; rfl, by rw [hcom]; rfl, fun n _ => ?_, fun w _ => ?_⟩
  · obtain ⟨l, hl⟩ := hthread n
    rw [hl]
    exact ⟨rfl, rfl, rfl, rfl⟩
  · obtain ⟨l, hl⟩ := hwave w
    exact ⟨_, _, _, _, hl⟩

end

/-- A record whose default maps to itself is mapped, listed or not. -/
theorem getD_map_default {α : Type} (f : α → α) (l : AList α) (k : Nat) (d : α) (hd : f d = d) :
    AList.getD (l.map (fun e => (e.1, f e.2))) k d = f (l.getD k d) := by
  have h := find_map_keyed (fun _ => f) l k
  rw [AList.getD, h, AList.getD]
  cases l.find k with
  | none => exact hd.symm
  | some x => rfl

theorem unstop_stopsOnly (s : State) (u : UnitId) : s.StopsOnly (s.unstop u) :=
  ⟨⟨_, _, rfl⟩, fun i => ⟨_, getD_map_default (fun t : Thread => { t with c := t.c.heldBy (t.c.stopped.filter (· != u)) }) s.threads i {} rfl⟩,
    fun i => ⟨_, getD_map_default (fun w : Wave => { w with c := w.c.heldBy (w.c.stopped.filter (· != u)) }) s.waves i {} rfl⟩⟩

end Sys2Proof.Machine
end

section
open Sys2Proof Sys2Proof.Machine

namespace Sys2Proof.Machine

/-! ### The steps of RESUME and REDIRECT (R418) -/

theorem takeSlot_place {s t : State} {n p cls : Nat} (h : s.takeSlot n p cls = some t) : ∃ k, t = s.placeThread n p k cls := by
  unfold State.takeSlot at h
  split at h
  · cases h
  · dsimp only at h
    split at h
    · split at h
      · exact ⟨_, (Option.some.inj h).symm⟩
      · cases h
    · obtain ⟨k, -, hk⟩ := Option.map_eq_some_iff.mp h
      exact ⟨k, hk.symm⟩

/-- A thread that comes to a core changes in where it is alone. -/
theorem modThread_carries (s : State) (n : Nat) (g : Thread → Thread) (hg : ∀ x, (g x).pc = x.pc ∧ (g x).slotBit = x.slotBit ∧ (g x).regs = x.regs ∧
    (g x).tid = x.tid ∧ (g x).c.frec = x.c.frec ∧ (g x).c.fpctl = x.c.fpctl ∧ (g x).c.fpst = x.c.fpst) :
    s.Carries (s.modThread n g) (.thread n) := by
  obtain ⟨hpc, hslot, hregs, htid, hfrec, hfpctl, hfpst⟩ := hg (s.thread n)
  have hn : (s.modThread n g).thread n = g (s.thread n) := thread_setThread ..
  refine ⟨rfl, fun _ => rfl, ?_, ?_, ?_, fun k hk => ?_, nofun⟩
  · exact (congrArg (·.c.frec) hn).trans hfrec
  · exact (congrArg (·.c.fpctl) hn).trans hfpctl
  · exact (congrArg (·.c.fpst) hn).trans hfpst
  · obtain rfl := UnitId.thread.inj hk
    rw [hn]
    exact ⟨hpc, hslot, hregs, htid⟩

theorem returnThread_carries (s : State) (n p cls : Nat) : s.Carries (s.returnThread n p cls) (.thread n) := by
  unfold State.returnThread
  dsimp only
  split
  next t h =>
    have htake : s.takeSlot n p cls = some t := by
      split at h
      · cases h
      · exact h
    obtain ⟨k, rfl⟩ := takeSlot_place htake
    exact modThread_carries s n _ fun _ => ⟨rfl, rfl, rfl, rfl, rfl, rfl, rfl⟩
  next =>
    exact .trans (t := s.newId.2) (carries_of_eq rfl rfl rfl rfl) (modThread_carries _ n _ fun _ => ⟨rfl, rfl, rfl, rfl, rfl, rfl, rfl⟩)

/-- With no error recorded nothing is sent again. -/
theorem resendErrors_none {s : State} {u : UnitId} (h : (s.com u).frec = []) : s.resendErrors u = s.modCom u (fun c => { c with frec := [] }) := by
  unfold State.resendErrors
  rw [h]
  rfl

theorem resendErrors_carries {s : State} {u : UnitId} (h : (s.com u).frec = []) : s.Carries (s.resendErrors u) u := by
  rw [resendErrors_none h]
  have hsame : s.modCom u (fun c => { c with frec := [] }) = s.setCom u (s.com u) := by
    rw [modCom_eq, ← h]
  rw [hsame]
  exact modCom_carries s u (fun c => c) fun _ => ⟨rfl, rfl, rfl⟩

theorem State.Carries.resend {s t : State} {u : UnitId} (hc : s.Carries t u) (h : (s.com u).frec = []) : s.Carries (t.resendErrors u) u :=
  hc.trans (resendErrors_carries (hc.frec.trans h))

/-- A change of a wave's tiles, its place in the order of starts, or the parts of its shared part that do not matter here. -/
theorem modWave_carries (s : State) (w : Nat) (g : Wave → Wave) (hg : ∀ x, (∃ c i ts b, g x = { x with c := c, started := i, t := ts, leaked := b }) ∧
    (g x).c.frec = x.c.frec ∧ (g x).c.fpctl = x.c.fpctl ∧ (g x).c.fpst = x.c.fpst) : s.Carries (s.modWave w g) (.wave w) := by
  obtain ⟨hwave, hfrec, hfpctl, hfpst⟩ := hg (s.wave w)
  have hw : (s.modWave w g).wave w = g (s.wave w) := wave_setWave ..
  refine ⟨rfl, fun _ => rfl, ?_, ?_, ?_, nofun, fun k hk => ?_⟩
  · exact (congrArg (·.c.frec) hw).trans hfrec
  · exact (congrArg (·.c.fpctl) hw).trans hfpctl
  · exact (congrArg (·.c.fpst) hw).trans hfpst
  · obtain rfl := UnitId.wave.inj hk
    rw [hw]
    exact hwave

/-- A unit as its wait ends: the wait under its trap is its own again, and its debug stop holds no other unit. -/
def State.endWait (s : State) (u : UnitId) (step : Bool) : State :=
  (s.modCom u (fun c => { c with wait := c.under, under := .none, exempt := true, stepping := step })).unstop u

theorem endWait_carries (s : State) (u : UnitId) (step : Bool) : s.Carries (s.endWait u step) u :=
  .trans (modCom_carries s u (fun c => { c with wait := c.under, under := .none, exempt := true, stepping := step }) fun _ => ⟨rfl, rfl, rfl⟩)
    ((unstop_stopsOnly _ u).carries u)

/-- The wave is the latest to start. -/
def State.startLast (s : State) (w : Nat) : State := s.newId.2.modWave w (fun x => { x with started := s.fresh })

theorem startLast_carries (s : State) (w : Nat) : s.Carries (s.startLast w) (.wave w) :=
  .trans (t := s.newId.2) (carries_of_eq rfl rfl rfl rfl) (modWave_carries _ w _ fun _ => ⟨⟨_, _, _, _, rfl⟩, rfl, rfl, rfl⟩)

theorem resumeUnit_wave (s : State) (w : Nat) : ∃ step, s.resumeUnit (.wave w) = ((s.endWait (.wave w) step).startLast w).resendErrors (.wave w) :=
  ⟨_, rfl⟩

theorem resumeUnit_carries {s : State} {u : UnitId} (h : (s.com u).frec = []) : s.Carries (s.resumeUnit u) u := by
  cases u with
  | thread n => exact ((endWait_carries s (.thread n) _).trans (returnThread_carries _ n _ _)).resend h
  | wave w =>
    obtain ⟨step, hres⟩ := resumeUnit_wave s w
    rw [hres]
    exact ((endWait_carries s (.wave w) step).trans (startLast_carries _ w)).resend h

/-- The wait that a wave goes on with is the one kept under its trap. -/
theorem resumeUnit_wait {s : State} {w : Nat} (h : (s.com (.wave w)).frec = []) :
    ((s.resumeUnit (.wave w)).com (.wave w)).wait = (s.com (.wave w)).under := by
  obtain ⟨step, hres⟩ := resumeUnit_wave s w
  have hcarries := (endWait_carries s (.wave w) step).trans (startLast_carries _ w)
  obtain ⟨l, hl⟩ := (unstop_stopsOnly (s.modCom (.wave w) fun c => { c with wait := c.under, under := .none, exempt := true, stepping := step })
    (.wave w)).wave w
  rw [hres, resendErrors_none (hcarries.frec.trans h)]
  have hend : ((s.endWait (.wave w) step).wave w).c.wait = (s.com (.wave w)).under := by
    rw [State.endWait, hl]
    simp [State.setCom, Common.heldBy]
  simpa [State.startLast, State.com, State.newId, State.wave, State.setCom] using hend

/-- A unit gives back the entry of its LAUNCH. -/
theorem returnLaunch_carries (s : State) (u : UnitId) : s.Carries (s.returnLaunch u) u ∧ ((s.returnLaunch u).com u).under = (s.com u).under := by
  unfold State.returnLaunch
  split
  · refine ⟨.trans (t := s.freeEntry _ _ _) (carries_of_eq rfl rfl rfl rfl) (modCom_carries _ u _ fun _ => ⟨rfl, rfl, rfl⟩),
      (congrArg Common.under (com_setCom ..)).trans ?_⟩
    cases u <;> rfl
  · exact ⟨.refl s u, rfl⟩

/-- What an instruction has begun is void. -/
theorem dropBegun_carries (s : State) (u : UnitId) : s.Carries (s.dropBegun u) u ∧ ((s.dropBegun u).com u).under = (s.com u).under := by
  have hcom : (s.dropBegun u).com u = (s.modCom u (fun c => { c with redo := none, walk := false, until_ := none })).com u := by
    cases u <;> rfl
  refine ⟨.trans (modCom_carries s u (fun c => { c with redo := none, walk := false, until_ := none }) fun _ => ⟨rfl, rfl, rfl⟩)
    (carries_of_eq rfl rfl rfl rfl), ?_⟩
  rw [hcom]
  simp

/-- The lists of those that wait, without the unit. -/
def State.leaveLists (s : State) (u : UnitId) : State :=
  { s with
    waiters := s.waiters.filter (fun w => w.unit != u)
    vales := s.vales.map (fun e => (e.1, { e.2 with mailWait := e.2.mailWait.filter (fun p => p.2 != u), binWait := e.2.binWait.filter (· != u) }))
    dies := s.dies.map (fun e => (e.1, { e.2 with launchq := e.2.launchq.filter (· != u) })) }

theorem leaveLists_frames (s : State) (u : UnitId) (v : Nat) : ((s.leaveLists u).vale v).frames = (s.vale v).frames :=
  (congrArg Vale.frames (getD_map_default
    (fun y : Vale => { y with mailWait := y.mailWait.filter (fun p => p.2 != u), binWait := y.binWait.filter (· != u) }) s.vales v {} rfl) :)

/-- A unit that waits for no access of its own leaves the lists, and waits no more. -/
theorem dropWait_noHold {s : State} {u : UnitId} (h : ∀ id, (s.com u).under ≠ .hold id) :
    s.dropWait u = (s.modCom u (fun c => { c with under := .none })).leaveLists u := by
  unfold State.dropWait
  dsimp only
  split
  next n hn =>
    split at hn
    next id hid => exact absurd hid (h id)
    next => rfl
  next n hn =>
    split at hn
    next id hid => exact absurd hid (h id)
    next => cases hn

theorem dropWait_carries {s : State} {u : UnitId} (h : ∀ id, (s.com u).under ≠ .hold id) :
    s.Carries (s.dropWait u) u ∧ ((s.dropWait u).com u).under = .none := by
  rw [dropWait_noHold h]
  refine ⟨(modCom_carries s u (fun c => { c with under := .none }) fun _ => ⟨rfl, rfl, rfl⟩).trans ?_, ?_⟩
  · generalize s.modCom u (fun c => { c with under := .none }) = t
    have hcom : (t.leaveLists u).com u = t.com u := by cases u <;> rfl
    exact ⟨rfl, leaveLists_frames t u, by rw [hcom], by rw [hcom], by rw [hcom], fun _ _ => ⟨rfl, rfl, rfl, rfl⟩, fun _ _ => ⟨_, _, _, _, rfl⟩⟩
  · cases u <;> simp [State.leaveLists, State.com, State.setCom, State.thread, State.wave]

theorem freeTiles_carries (s : State) (w : Nat) :
    s.Carries (s.freeTiles w) (.wave w) ∧ (s.freeTiles w).com (.wave w) = s.com (.wave w) := by
  refine ⟨modWave_carries s w _ fun x => ?_, (congrArg Wave.c (wave_setWave ..)).trans ?_⟩
  · cases x.leaked
    · exact ⟨⟨_, _, _, _, rfl⟩, rfl, rfl, rfl⟩
    · exact ⟨⟨_, _, _, _, rfl⟩, rfl, rfl, rfl⟩
  · change (if (s.wave w).leaked then ({ s.wave w with t := [], leaked := false } : Wave) else s.wave w).c = (s.wave w).c
    split <;> rfl

end Sys2Proof.Machine
end

section
open Sys2Proof Sys2Proof.Machine

namespace Sys2Proof.Machine

/-! ### The end of a trap by its handler (R67, R413, R418) -/

theorem find_drop_self {α : Type} (l : AList α) (k : Nat) : (AList.drop l k).find k = none := by
  induction l with
  | nil => rfl
  | cons e t ih =>
    obtain ⟨j, x⟩ := e
    by_cases h : j = k
    · simpa [AList.drop, AList.find, h] using ih
    · simpa [AList.drop, AList.find, h] using ih

/-- Word `k` of a context image in memory (R78). -/
def State.imageWord (s : State) (place k : Nat) : W64 := BitVec.ofNat 64 (s.rd (place + 8 * k) 8)

/-- The state in which the image is loaded: an edited PC or SLOT voids what the old bundle has begun. -/
def State.imageBase (s : State) (n place : Nat) : State :=
  if s.imageWord place 0 == (s.thread n).pc && (s.imageWord place 1).getLsbD 7 == (s.thread n).slotBit then s
  else (s.dropBegun (.thread n)).modCom (.thread n) (fun c => { c with after := none, stepDue := false })

theorem imageBase_carries (s : State) (n place : Nat) :
    s.Carries (s.imageBase n place) (.thread n) ∧ ((s.imageBase n place).com (.thread n)).under = (s.com (.thread n)).under := by
  unfold State.imageBase
  split
  · exact ⟨.refl s _, rfl⟩
  · obtain ⟨hcarries, hunder⟩ := dropBegun_carries s (.thread n)
    exact ⟨hcarries.trans (modCom_carries _ _ _ fun _ => ⟨rfl, rfl, rfl⟩), (congrArg Common.under (com_setCom ..)).trans hunder⟩

/-- A thread with the fields of an edited context image, word by word (R413). -/
def Thread.withImage (t : Thread) (w : Nat → W64) : Thread :=
  { t with
    npc := if w 0 == t.pc && (w 1).getLsbD 7 == t.slotBit then t.npc else w 0 + 8
    pc := w 0, slotBit := (w 1).getLsbD 7
    regs := Vector.ofFn (fun i => if i.val = 0 then 0 else w (i.val + 1))
    c := { t.c with
      dz := (w 1).getLsbD 0, ov := (w 1).getLsbD 1, fpctl := (w 18).truncate 6, fpst := ((w 18) >>> (32 : Nat)).truncate 6, bundle := none } }

theorem loadImage_eq (s : State) (n place : Nat) :
    s.loadImage n place = (s.imageBase n place).modThread n (fun t => t.withImage (s.imageWord place)) := rfl
theorem loadImage_withImage (s : State) (n place : Nat) :
    (s.loadImage n place).thread n = ((s.imageBase n place).thread n).withImage (s.imageWord place) := by
  rw [loadImage_eq, modThread_eq, thread_setThread]

section
variable (t : Thread) (w : Nat → W64)

theorem withImage_pc : (t.withImage w).pc = w 0 := rfl
theorem withImage_slotBit : (t.withImage w).slotBit = (w 1).getLsbD 7 := rfl
theorem withImage_tid : (t.withImage w).tid = t.tid := rfl
theorem withImage_frec : (t.withImage w).c.frec = t.c.frec := rfl
theorem withImage_under : (t.withImage w).c.under = t.c.under := rfl
theorem withImage_fpctl : (t.withImage w).c.fpctl = (w 18).extractLsb' 0 6 := truncate_eq 6 _
theorem withImage_fpst : (t.withImage w).c.fpst = (w 18).extractLsb' 32 6 := by
  change ((w 18) >>> (32 : Nat)).truncate 6 = _
  exact BitVec.eq_of_getLsbD_eq fun i hi => by simp [hi]

/-- Register `r` of the image is its word `r + 1`. -/
theorem withImage_reg (r : Nat) (h0 : 1 ≤ r) (h : r < 16) : (t.withImage w).reg r = w (r + 1) := by
  have hne : r ≠ 0 := by omega
  simp [Thread.withImage, Thread.reg, Vector.getD, hne, h]

end

theorem com_thread (s : State) (n : Nat) : s.com (.thread n) = (s.thread n).c := rfl

/-- What the loaded image leaves: memory, the frames, the fault record and the wait under the trap. -/
theorem loadImage_keeps (s : State) (n place : Nat) :
    (s.loadImage n place).mem = s.mem ∧ (∀ v, ((s.loadImage n place).vale v).frames = (s.vale v).frames) ∧
    ((s.loadImage n place).com (.thread n)).frec = (s.com (.thread n)).frec ∧
    ((s.loadImage n place).com (.thread n)).under = (s.com (.thread n)).under := by
  obtain ⟨hbase, hunder⟩ := imageBase_carries s n place
  have hmem : (s.loadImage n place).mem = (s.imageBase n place).mem := by rw [loadImage_eq, modThread_eq, setThread_mem]
  have hvale : ∀ v, (s.loadImage n place).vale v = (s.imageBase n place).vale v := fun v => by rw [loadImage_eq, modThread_eq, vale_setThread]
  refine ⟨hmem.trans hbase.mem, fun v => by rw [hvale, hbase.frames], ?_, ?_⟩
  · rw [← hbase.frec, com_thread, com_thread, loadImage_withImage, withImage_frec]
  · rw [← hunder, com_thread, com_thread, loadImage_withImage, withImage_under]

theorem loadImage_tid (s : State) (n place : Nat) : ((s.loadImage n place).thread n).tid = (s.thread n).tid := by
  obtain ⟨-, -, -, htid⟩ := (imageBase_carries s n place).1.thread n rfl
  rw [loadImage_withImage, withImage_tid, htid]

/-- Frame `f` of a Summit core is free. -/
def State.freeFrame (s : State) (v f : Nat) : State := s.modVale v (fun x => { x with frames := x.frames.drop f })

theorem freeFrame_frames (s : State) (v f : Nat) : ((s.freeFrame v f).vale v).frames.find f = none :=
  (congrArg (fun x : Vale => x.frames.find f) (vale_setVale ..)).trans (find_drop_self ..)

theorem freeFrame_com (s : State) (v f : Nat) (u : UnitId) : (s.freeFrame v f).com u = s.com u := by cases u <;> rfl

/-- A unit that REDIRECT frees of what it waited for and of what its bundle had begun. -/
def State.redirected (s : State) (u : UnitId) : State :=
  (((s.returnLaunch u).dropBegun u).dropWait u).modCom u (fun c => { c with frec := [], bundle := none, after := none, stepDue := false })

theorem redirected_carries {s : State} {u : UnitId} (hfrec : (s.com u).frec = []) (hhold : ∀ id, (s.com u).under ≠ .hold id) :
    s.Carries (s.redirected u) u ∧ ((s.redirected u).com u).under = .none := by
  obtain ⟨hlaunch, hlaunch'⟩ := returnLaunch_carries s u
  obtain ⟨hbegun, hbegun'⟩ := dropBegun_carries (s.returnLaunch u) u
  obtain ⟨hwait, hwait'⟩ := dropWait_carries (s := (s.returnLaunch u).dropBegun u) (u := u) (by rw [hbegun', hlaunch']; exact hhold)
  have hcarries := (hlaunch.trans hbegun).trans hwait
  have hsame : s.redirected u = (((s.returnLaunch u).dropBegun u).dropWait u).modCom u
      (fun c => { c with bundle := none, after := none, stepDue := false }) := by
    rw [State.redirected, modCom_eq, modCom_eq, ← hfrec, ← hcarries.frec]
  rw [hsame]
  exact ⟨hcarries.trans (modCom_carries _ u _ fun _ => ⟨rfl, rfl, rfl⟩), (congrArg Common.under (com_setCom ..)).trans hwait'⟩

end Sys2Proof.Machine
end

section
open Sys2Proof Sys2Proof.Machine

namespace Sys2Proof.Machine

/-! ### RESUME and REDIRECT of a thread and of a wave (R418) -/

section
variable (s : State) (v f : Nat) (target : W64)

/-- The state of a thread whose image is loaded and whose frame is free. -/
def State.loadedFrame (n : Nat) : State := (s.loadImage n (framePlace v f + 0x40)).freeFrame v f

theorem returnTrap_thread_resume (n : Nat) : s.returnTrap v f (.thread n) 0 target = (s.loadedFrame v f n).resumeUnit (.thread n) := by
  unfold State.returnTrap
  dsimp only
  rw [if_pos (by decide)]
  rfl

theorem returnTrap_thread_redirect (n : Nat) : s.returnTrap v f (.thread n) 1 target =
    (((s.loadedFrame v f n).redirected (.thread n)).modThread n (fun x => { x with pc := target, slotBit := false })).resumeUnit (.thread n) := by
  unfold State.returnTrap
  dsimp only
  rw [if_pos (by decide)]
  rfl

theorem returnTrap_wave_resume (w : Nat) : s.returnTrap v f (.wave w) 0 target = ((s.freeFrame v f).freeTiles w).resumeUnit (.wave w) := rfl

theorem returnTrap_wave_redirect (w : Nat) : s.returnTrap v f (.wave w) 1 target = (((s.freeFrame v f).redirected (.wave w)).modWave w
    (fun x => { x with apc := target, lead := [], computeWait := false })).resumeUnit (.wave w) := rfl

end

theorem reg_of_regs {x y : Thread} (h : x.regs = y.regs) (r : Nat) : x.reg r = y.reg r := by
  unfold Thread.reg
  rw [h]

/-- A thread's image is loaded and its frame free: what it has, and what stays. -/
theorem loadedFrame_spec (s : State) (v f n : Nat) :
    let t := s.loadedFrame v f n
    let word := s.imageWord (framePlace v f + 0x40)
    t.mem = s.mem ∧ (t.vale v).frames.find f = none ∧ (t.com (.thread n)).frec = (s.com (.thread n)).frec ∧
    (t.com (.thread n)).under = (s.com (.thread n)).under ∧
    ∃ x : Thread, t.thread n = x.withImage word ∧ x.tid = (s.thread n).tid := by
  intro t word
  obtain ⟨hmem, -, hfrec, hunder⟩ := loadImage_keeps s n (framePlace v f + 0x40)
  obtain ⟨-, -, -, htid⟩ := (imageBase_carries s n (framePlace v f + 0x40)).1.thread n rfl
  have hx := loadImage_withImage s n (framePlace v f + 0x40)
  have ht : t = (s.loadImage n (framePlace v f + 0x40)).freeFrame v f := rfl
  clear_value t
  generalize s.loadImage n (framePlace v f + 0x40) = r at *
  subst ht
  exact ⟨hmem, freeFrame_frames r v f, hfrec, hunder, _, hx, htid⟩

/-- REDIRECT gives a thread its new PC, and keeps its registers. -/
theorem redirect_thread {s : State} {n : Nat} (target : W64) (hfrec : (s.com (.thread n)).frec = [])
    (hhold : ∀ id, (s.com (.thread n)).under ≠ .hold id) :
    let u : UnitId := .thread n
    let t := ((s.redirected u).modThread n (fun x => { x with pc := target, slotBit := false })).resumeUnit u
    t.mem = s.mem ∧ (∀ v, (t.vale v).frames = (s.vale v).frames) ∧ (t.thread n).pc = target ∧ (t.thread n).slotBit = false ∧
    (t.thread n).regs = (s.thread n).regs ∧ (t.thread n).tid = (s.thread n).tid ∧ (t.com u).fpctl = (s.com u).fpctl ∧
    (t.com u).fpst = (s.com u).fpst := by
  intro u t
  obtain ⟨hred, -⟩ := redirected_carries hfrec hhold
  obtain ⟨-, -, hregs, htid⟩ := hred.thread n rfl
  let y := (s.redirected u).modThread n (fun x => { x with pc := target, slotBit := false })
  have hy : y.thread n = { (s.redirected u).thread n with pc := target, slotBit := false } := thread_setThread ..
  have hcom : y.com u = (s.redirected u).com u := (congrArg Thread.c hy :)
  have hcarries : y.Carries t u := resumeUnit_carries (by rw [hcom, hred.frec, hfrec])
  obtain ⟨kpc, kslot, kregs, ktid⟩ := hcarries.thread n rfl
  exact ⟨hcarries.mem.trans hred.mem, fun v => (hcarries.frames v).trans (hred.frames v), kpc.trans (congrArg Thread.pc hy),
    kslot.trans (congrArg Thread.slotBit hy), kregs.trans ((congrArg Thread.regs hy).trans hregs), ktid.trans ((congrArg Thread.tid hy).trans htid),
    by rw [hcarries.fpctl, hcom, hred.fpctl], by rw [hcarries.fpst, hcom, hred.fpst]⟩

/-- R413, R418, for a thread. -/
theorem trapResumption_thread {s : State} {n v f : Nat} {target : W64} (hfrec : (s.com (.thread n)).frec = [])
    (hhold : ∀ id, (s.com (.thread n)).under ≠ .hold id) {mode : Nat} (hmode : mode < 2) :
    let u : UnitId := .thread n
    let t := s.returnTrap v f u mode target
    let word := s.imageWord (framePlace v f + 0x40)
    (t.vale v).frames.find f = none ∧ t.mem = s.mem ∧
    (t.thread n).pc = (if mode = 0 then word 0 else target) ∧ (t.thread n).slotBit = (if mode = 0 then (word 1).getLsbD 7 else false) ∧
    (∀ r, 1 ≤ r → r < 16 → t.reg u r = word (r + 1)) ∧ (t.thread n).tid = (s.thread n).tid ∧
    (t.com u).fpctl = (word 18).extractLsb' 0 6 ∧ (t.com u).fpst = (word 18).extractLsb' 32 6 := by
  intro u t word
  obtain ⟨hmem, hframes, hfrec', hunder, x, hx, htid⟩ := loadedFrame_spec s v f n
  obtain rfl | rfl : mode = 0 ∨ mode = 1 := by omega
  · have hcarries : (s.loadedFrame v f n).Carries t u := by
      rw [show t = _ from returnTrap_thread_resume s v f target n]
      exact resumeUnit_carries (hfrec'.trans hfrec)
    obtain ⟨hpc, hslot, hregs, htid'⟩ := hcarries.thread n rfl
    rw [hx] at hpc hslot hregs htid'
    refine ⟨by rw [hcarries.frames, hframes], hcarries.mem.trans hmem, hpc, hslot, fun r h0 h => (reg_of_regs hregs r).trans
      (withImage_reg x word r h0 h), htid'.trans htid, ?_, ?_⟩
    · rw [hcarries.fpctl, com_thread, hx, withImage_fpctl]
    · rw [hcarries.fpst, com_thread, hx, withImage_fpst]
  · obtain ⟨kmem, kframes, kpc, kslot, kregs, ktid, kfpctl, kfpst⟩ := redirect_thread (s := s.loadedFrame v f n) (n := n) target
      (hfrec'.trans hfrec) (by rw [hunder]; exact hhold)
    rw [← returnTrap_thread_redirect] at kmem kframes kpc kslot kregs ktid kfpctl kfpst
    rw [hx] at kregs ktid
    rw [com_thread (s.loadedFrame v f n), hx] at kfpctl kfpst
    exact ⟨(congrArg (AList.find · f) (kframes v)).trans hframes, kmem.trans hmem, kpc, kslot,
      fun r h0 h => (reg_of_regs kregs r).trans (withImage_reg x word r h0 h), ktid.trans htid, kfpctl.trans (withImage_fpctl x word),
      kfpst.trans (withImage_fpst x word)⟩

/-- R418, for a wave. -/
theorem trapResumption_wave {s : State} {w v f : Nat} {target : W64} (hfrec : (s.com (.wave w)).frec = [])
    (hhold : ∀ id, (s.com (.wave w)).under ≠ .hold id) {mode : Nat} (hmode : mode < 2) :
    let u : UnitId := .wave w
    let t := s.returnTrap v f u mode target
    let x := s.wave w
    let y := t.wave w
    (t.vale v).frames.find f = none ∧ t.mem = s.mem ∧
    (y.k = x.k ∧ y.v = x.v ∧ y.m = x.m ∧ y.lq = x.lq ∧ y.sq = x.sq ∧ y.stack = x.stack ∧ y.exec = x.exec ∧ y.live = x.live ∧
      (mode = 0 → (t.com u).wait = (s.com u).under ∧ y.apc = x.apc ∧ y.lead = x.lead) ∧
      (mode = 1 → (t.com u).wait = .none ∧ y.apc = target ∧ y.lead = [] ∧ y.computeWait = false)) := by
  intro u t x y
  have hframes := freeFrame_frames s v f
  have hcom : (s.freeFrame v f).com u = s.com u := freeFrame_com s v f u
  obtain rfl | rfl : mode = 0 ∨ mode = 1 := by omega
  · obtain ⟨htiles, htiles'⟩ := freeTiles_carries (s.freeFrame v f) w
    have hfrec' : (((s.freeFrame v f).freeTiles w).com u).frec = [] := by rw [htiles', hcom, hfrec]
    have hcarries := htiles.trans (resumeUnit_carries hfrec')
    obtain ⟨c, i, ts, b, hy⟩ := hcarries.wave w rfl
    have hwait := resumeUnit_wait hfrec'
    rw [htiles', hcom] at hwait
    have hy : y = _ := hy
    rw [hy]
    exact ⟨(congrArg (AList.find · f) (hcarries.frames v)).trans hframes, hcarries.mem, rfl, rfl, rfl, rfl, rfl, rfl, rfl, rfl,
      fun _ => ⟨hwait, rfl, rfl⟩, nofun⟩
  · obtain ⟨hred, hunder⟩ := redirected_carries (s := s.freeFrame v f) (u := u) (by rw [hcom, hfrec]) (by rw [hcom]; exact hhold)
    let z := ((s.freeFrame v f).redirected u).modWave w (fun x => { x with apc := target, lead := [], computeWait := false })
    have hz : z.wave w = { ((s.freeFrame v f).redirected u).wave w with apc := target, lead := [], computeWait := false } := wave_setWave ..
    have hzcom : z.com u = ((s.freeFrame v f).redirected u).com u := (congrArg Wave.c hz :)
    have hfrec' : (z.com u).frec = [] := by rw [hzcom, hred.frec, hcom, hfrec]
    have hcarries := resumeUnit_carries hfrec'
    have hwait := resumeUnit_wait hfrec'
    rw [hzcom, hunder] at hwait
    obtain ⟨c, i, ts, b, hw⟩ := hred.wave w rfl
    obtain ⟨c', i', ts', b', hy⟩ := hcarries.wave w rfl
    rw [hz, hw] at hy
    have hy : y = _ := hy
    rw [hy]
    exact ⟨(congrArg (AList.find · f) ((hcarries.frames v).trans (hred.frames v))).trans hframes, hcarries.mem.trans hred.mem, rfl, rfl, rfl, rfl, rfl,
      rfl, rfl, rfl, nofun, fun _ => ⟨hwait, rfl, rfl, rfl⟩⟩

/-- R67, R413, R418. -/
theorem trapResumption : Spec.TrapResumption := by
  intro s u v f target _ hfrec hhold mode hmode t
  cases u with
  | thread n =>
    obtain ⟨hframes, hmem, hthread⟩ := trapResumption_thread (v := v) (f := f) (target := target) hfrec hhold hmode
    exact ⟨hframes, hmem, fun k hk => UnitId.thread.inj hk ▸ hthread, nofun⟩
  | wave w =>
    obtain ⟨hframes, hmem, hwave⟩ := trapResumption_wave (v := v) (f := f) (target := target) hfrec hhold hmode
    exact ⟨hframes, hmem, nofun, fun k hk => UnitId.wave.inj hk ▸ hwave⟩

end Sys2Proof.Machine
end

section
open Sys2Proof Sys2Proof.Machine

namespace Sys2Proof.Machine

/-! ### The frame of a trap (R413) -/

/-- Bytes that are written are read back. -/
theorem byteAt_rawPutBytes (l : List Byte) (s : State) (a j : Nat) (g : Memory.wf s.mem = true) (h : j < l.length) :
    (s.rawPutBytes a l).byteAt (a + j) = l[j] := by
  induction l generalizing s a j with
  | nil => exact absurd h (Nat.not_lt_zero j)
  | cons b t ih =>
    cases j with
    | zero =>
      have hne := byteAt_rawPutBytes_ne t (s.rawPut a b) (a + 1) a (rawPut_wf s a b g) (.inl (Nat.lt_succ_self a))
      exact hne.trans ((byteAt_rawPut s a b a g).trans (if_pos rfl))
    | succ j =>
      rw [State.rawPutBytes, ← Nat.add_assoc a, Nat.add_right_comm]
      exact ih (s.rawPut a b) (a + 1) j (rawPut_wf s a b g) (Nat.lt_of_succ_lt_succ h)

/-- Byte `b` of a little-endian number. -/
theorem bytesLE_getElem? (n x b : Nat) (h : b < n) : (bytesLE n x)[b]? = some (BitVec.ofNat 8 (x / 256 ^ b)) := by
  induction n generalizing x b with
  | zero => exact absurd h (Nat.not_lt_zero b)
  | succ n ih =>
    cases b with
    | zero => simp [bytesLE]
    | succ b => rw [bytesLE, List.getElem?_cons_succ, ih (x / 256) b (Nat.lt_of_succ_lt_succ h), Nat.div_div_eq_div_mul, pow_succ']

theorem byte_eq_extract (x : W64) (b : Nat) : BitVec.ofNat 8 (x.toNat / 256 ^ b) = x.extractLsb' (8 * b) 8 := by
  refine BitVec.eq_of_toNat_eq ?_
  rw [BitVec.toNat_ofNat, BitVec.extractLsb'_toNat, Nat.shiftRight_eq_div_pow, pow_mul]
  rfl

/-- Byte `b` of word `k` of a list of words. -/
theorem words_getElem? (ws : List W64) (k b : Nat) (hk : k < ws.length) (hb : b < 8) :
    (ws.flatMap (fun x => bytesLE 8 x.toNat))[8 * k + b]? = some ((ws.getD k 0).extractLsb' (8 * b) 8) := by
  induction ws generalizing k with
  | nil => exact absurd hk (Nat.not_lt_zero k)
  | cons w ws ih =>
    have hlen : (bytesLE 8 w.toNat).length = 8 := bytesLE_length 8 w.toNat
    rw [List.flatMap_cons]
    cases k with
    | zero =>
      rw [Nat.mul_zero, Nat.zero_add, List.getElem?_append_left (by omega), bytesLE_getElem? 8 w.toNat b hb, byte_eq_extract]
      rfl
    | succ k =>
      rw [List.getElem?_append_right (by omega), hlen, show 8 * (k + 1) + b - 8 = 8 * k + b by omega, ih k (Nat.lt_of_succ_lt_succ hk)]
      rfl

/-- The header's fields (R413), in the model's order and in the rule's. -/
theorem frameHeader (code kind src func ctx : Nat) (slotBit : Bool) :
    code + bit slotBit 8 + kind * 2 ^ 9 + src * 2 ^ 16 + func * 2 ^ 32 + ctx * 2 ^ 36 =
      code + 2 ^ 8 * (if slotBit then 1 else 0) + 2 ^ 9 * kind + 2 ^ 16 * src + 2 ^ 32 * func + 2 ^ 36 * ctx := by
  cases slotBit <;> simp only [bit, if_true, if_false, Bool.false_eq_true] <;> ring

/-- The frame's bytes are those of its 32 words. -/
theorem frameBytes_words (s : State) (m : TrapMsg) : s.frameBytes m = (Spec.frameWords s m).flatMap (fun x => bytesLE 8 x.toNat) := by
  obtain ⟨u, info, time, slotBit, arr⟩ := m
  refine congrArg (List.flatMap fun x : W64 => bytesLE 8 x.toNat) ?_
  cases u with
  | thread n =>
    simp only [Spec.frameWords, frameHeader]
    have hkind : (if isSummit (s.thread n).pos = true then 1 else 0) = if (s.thread n).pos % 32 = 0 then 1 else 0 := by
      simp only [isSummit, beq_iff_eq]
    have hid : (s.thread n).c.fpctl.toNat + (s.thread n).c.fpst.toNat * 2 ^ 32 = (s.thread n).c.fpctl.toNat + 2 ^ 32 * (s.thread n).c.fpst.toNat := by
      rw [Nat.mul_comm]
    rw [hkind, State.contextImage, hid]
    rfl
  | wave w =>
    have hid : (s.wave w).eng % 4 + (s.wave w).slot * 4 + (s.wave w).eng / 4 * 256 = (s.wave w).eng % 4 + 4 * (s.wave w).slot + 2 ^ 8 * ((s.wave w).eng / 4) := by
      ring
    simp only [Spec.frameWords, frameHeader, hid]
    rfl

theorem frameWords_length (s : State) (m : TrapMsg) : (Spec.frameWords s m).length = 32 := by
  unfold Spec.frameWords
  dsimp only
  split <;> rfl

/-- A frame that is written holds its words. -/
theorem frame_bytes (s t : State) (m : TrapMsg) (a k b : Nat) (hwf : t.memWf) (hk : k < 32) (hb : b < 8) :
    (t.rawPutBytes a (s.frameBytes m)).byteAt (a + 8 * k + b) = ((Spec.frameWords s m).getD k 0).extractLsb' (8 * b) 8 := by
  have hword := words_getElem? (Spec.frameWords s m) k b (by rw [frameWords_length]; exact hk) hb
  rw [← frameBytes_words] at hword
  obtain ⟨hlt, hbyte⟩ := List.getElem?_eq_some_iff.mp hword
  rw [Nat.add_assoc, byteAt_rawPutBytes _ t a _ hwf hlt, hbyte]

end Sys2Proof.Machine
end

section
open Sys2Proof Sys2Proof.Machine

namespace Sys2Proof.Machine

/-! ### The slot of a handler (R408, R412) -/

theorem any_put_false {α : Type} (p : α → Bool) (l : AList α) (k : Nat) (x : α) (hx : p x = false) (hl : l.any (fun e => p e.2) = false) :
    (l.put k x).any (fun e => p e.2) = false := by
  induction l with
  | nil => simp [AList.put, hx]
  | cons e t ih =>
    obtain ⟨j, y⟩ := e
    simp only [List.any_cons, Bool.or_eq_false_iff] at hl
    obtain ⟨hy, ht⟩ := hl
    by_cases h : j = k
    · simp only [AList.put, h, if_true, List.any_cons, hx, ht, Bool.or_self]
    · simp only [AList.put, h, if_false, List.any_cons, hy, ih ht, Bool.or_self]

theorem find_any {α : Type} (p : α → Bool) (l : AList α) (k : Nat) (x : α) (h : l.find k = some x) (hl : l.any (fun e => p e.2) = false) :
    p x = false := by
  induction l with
  | nil => cases h
  | cons e t ih =>
    obtain ⟨j, y⟩ := e
    simp only [List.any_cons, Bool.or_eq_false_iff] at hl
    obtain ⟨hy, ht⟩ := hl
    by_cases hj : j = k
    · simp only [AList.find, hj, if_true, Option.some.injEq] at h
      exact h ▸ hy
    · simp only [AList.find, hj, if_false] at h
      exact ih h ht

/-- No thread holds a free slot. -/
theorem holdsSlot_of_free {s : State} {p n : Nat} (h : s.slotFree p n = true) (i : Nat) : holdsSlot (s.thread i) p n = false := by
  have hany : s.threads.any (fun e => holdsSlot e.2 p n) = false := by simpa only [State.slotFree, Bool.not_eq_true'] using h
  rw [State.thread, AList.getD]
  cases hfind : s.threads.find i with
  | none => rfl
  | some x => exact find_any (fun t => holdsSlot t p n) s.threads i x hfind hany

theorem slotFree_setThread {s : State} {p n i : Nat} {x : Thread} (h : s.slotFree p n = true) (hx : holdsSlot x p n = false) :
    (s.setThread i x).slotFree p n = true := by
  have hany : s.threads.any (fun e => holdsSlot e.2 p n) = false := by simpa only [State.slotFree, Bool.not_eq_true'] using h
  simpa only [State.slotFree, setThread_threads, Bool.not_eq_true'] using any_put_false (fun t => holdsSlot t p n) s.threads i x hx hany

/-- A thread that leaves for a frame holds no slot but a home. -/
theorem holdsSlot_frame {t : Thread} {p n : Nat} (v f : Nat) (h : holdsSlot t p n = false) : holdsSlot { t with loc := .frame v f } p n = false := by
  simp only [holdsSlot, Bool.and_eq_false_iff, Bool.or_eq_false_iff, Bool.not_eq_false'] at h ⊢
  rcases h with h | ⟨-, h⟩
  · exact .inl h
  · exact .inr ⟨trivial, h⟩

/-- What the slots of core `p` need: the core lives, its classes are the same, and what was free is free. -/
structure State.KeepsSlots (s t : State) (p : Nat) : Prop where
  live : t.posDead p = s.posDead p
  cls : (t.position p).cls = (s.position p).cls
  free : ∀ n, s.slotFree p n = true → t.slotFree p n = true

theorem State.KeepsSlots.trans {s t r : State} {p : Nat} (h : s.KeepsSlots t p) (k : t.KeepsSlots r p) : s.KeepsSlots r p :=
  ⟨k.live.trans h.live, k.cls.trans h.cls, fun n hn => k.free n (h.free n hn)⟩

theorem State.KeepsSlots.freeSlots {s t : State} {p : Nat} (h : s.KeepsSlots t p) (c : Nat) (hs : s.freeSlots p c ≠ []) : t.freeSlots p c ≠ [] := by
  obtain ⟨n, hn⟩ := List.exists_mem_of_ne_nil _ hs
  refine List.ne_nil_of_mem (a := n) ?_
  simp only [State.freeSlots, List.mem_filter, State.slotClass, Bool.and_eq_true] at hn ⊢
  obtain ⟨hlt, hcls, hfree⟩ := hn
  exact ⟨hlt, by rw [h.cls]; exact hcls, h.free n hfree⟩

theorem rawPutBytes_only (l : List Byte) (s : State) (a : Nat) : ∃ cells, s.rawPutBytes a l = { s with mem := cells } := by
  induction l generalizing s a with
  | nil => exact ⟨_, rfl⟩
  | cons b t ih =>
    obtain ⟨cells, h⟩ := ih (s.rawPut a b) (a + 1)
    exact ⟨cells, h.trans rfl⟩

/-! ### The delivery of a trap (R408, R412) -/

theorem setVale_keepsSlots (s : State) (v p : Nat) (x : Vale) (h : x.dead = (s.vale v).dead) : s.KeepsSlots (s.setVale v x) p := by
  refine ⟨?_, rfl, fun _ h => h⟩
  have hdead : ((s.setVale v x).vale (p / 32)).dead = (s.vale (p / 32)).dead := by
    by_cases hv : p / 32 = v
    · rw [hv, vale_setVale, h]
    · rw [vale_setVale_ne s v _ x hv]
  simp only [State.posDead, hdead, position_setVale]

theorem modVale_keepsSlots (s : State) (v p : Nat) (g : Vale → Vale) (h : ∀ y, (g y).dead = y.dead) : s.KeepsSlots (s.modVale v g) p :=
  setVale_keepsSlots s v p (g (s.vale v)) (h _)

theorem modPosition_keepsSlots (s : State) (p : Nat) (g : Position → Position) (h : ∀ q, (g q).absent = q.absent ∧ (g q).cls = q.cls) :
    s.KeepsSlots (s.modPosition p g) p := by
  obtain ⟨habsent, hcls⟩ := h (s.position p)
  exact ⟨by simp [State.posDead, habsent, State.vale], by simp [hcls], fun _ h => h⟩

theorem setThread_keepsSlots (s : State) (i p : Nat) (x : Thread) (hx : ∀ n, s.slotFree p n = true → holdsSlot x p n = false) :
    s.KeepsSlots (s.setThread i x) p :=
  ⟨by simp only [State.posDead, vale_setThread, position_setThread], by simp, fun n hn => slotFree_setThread hn (hx n hn)⟩

/-- The trapped unit stands in frame `f` of Vale `v`; a thread is there. -/
def State.inFrame (s : State) (v f : Nat) (u : UnitId) : State :=
  let t := s.modVale v (fun y => { y with frames := y.frames.put f u })
  match u with
  | .thread i => t.modThread i (fun y => { y with loc := .frame v f })
  | .wave _ => t

theorem inFrame_keepsSlots (s : State) (v f : Nat) (u : UnitId) (p : Nat) : s.KeepsSlots (s.inFrame v f u) p := by
  have hframe := modVale_keepsSlots s v p (fun y => { y with frames := y.frames.put f u }) fun _ => rfl
  cases u with
  | thread i => exact hframe.trans (setThread_keepsSlots _ i p _ fun n hn => holdsSlot_frame v f (holdsSlot_of_free hn i))
  | wave w => exact hframe

theorem inFrame_frame (s : State) (v f : Nat) (u : UnitId) : ((s.inFrame v f u).vale v).frames.find f = some u := by
  cases u <;> simp [State.inFrame]

theorem inFrame_mem (s : State) (v f : Nat) (u : UnitId) : (s.inFrame v f u).mem = s.mem := by
  cases u <;> rfl

/-- The state in which the oldest trap of Vale `v` stands in frame `f`. -/
def State.trapSaved (s : State) (v f : Nat) (m : TrapMsg) (rest : List TrapMsg) : State :=
  ((s.setVale v { s.vale v with traps := rest }).rawPutBytes (framePlace v f) (s.frameBytes m)).inFrame v f m.unit

theorem rawPutBytes_keepsSlots (s : State) (a p : Nat) (l : List Byte) : s.KeepsSlots (s.rawPutBytes a l) p := by
  obtain ⟨cells, hcells⟩ := rawPutBytes_only l s a
  rw [hcells]
  exact ⟨rfl, rfl, fun _ h => h⟩

theorem trapSaved_keepsSlots (s : State) (v f : Nat) (m : TrapMsg) (rest : List TrapMsg) (p : Nat) : s.KeepsSlots (s.trapSaved v f m rest) p :=
  ((setVale_keepsSlots s v p { s.vale v with traps := rest } rfl).trans (rawPutBytes_keepsSlots _ _ p _)).trans (inFrame_keepsSlots _ v f m.unit p)

/-- A new thread of core `p`, before it has a slot. -/
theorem newThread_thread (s : State) (p : Nat) (t : Thread) :
    ∃ id, (s.newThread p t).2.thread (s.newThread p t).1 = { t with tid := id, loc := .cirque (p / 768), entering := true } :=
  ⟨_, AList.getD_put_self ..⟩

theorem newThread_rest (s : State) (p : Nat) (t : Thread) :
    (s.newThread p t).2.mem = s.mem ∧ ∀ v, (s.newThread p t).2.vale v = s.vale v := ⟨rfl, fun _ => rfl⟩

theorem newThread_keepsSlots (s : State) (p : Nat) (t : Thread) (hhome : t.home = none) : s.KeepsSlots (s.newThread p t).2 p := by
  have hserial : s.KeepsSlots (s.newId.2.newTid p).2 p :=
    .trans (t := s.newId.2) ⟨rfl, rfl, fun _ h => h⟩ (modPosition_keepsSlots _ p (fun q => { q with serial := (s.position p).serial + 1 }) fun _ => ⟨rfl, rfl⟩)
  refine hserial.trans (setThread_keepsSlots _ s.fresh p _ fun n _ => ?_)
  simp [holdsSlot, hhome]

/-- A new thread takes the first free slot of its class. -/
theorem takeSlot_new {s : State} {i p cls : Nat} (hlive : s.posDead p = false) (hfree : s.freeSlots p cls ≠ []) (hnew : (s.thread i).toHome = false) :
    ∃ n, s.takeSlot i p cls = some (s.placeThread i p n cls) := by
  obtain ⟨n, l, hl⟩ := List.exists_cons_of_ne_nil hfree
  refine ⟨n, ?_⟩
  simp only [State.takeSlot, hlive, hnew, Bool.false_eq_true, if_false, hl, List.head?_cons, Option.map_some]

theorem placeThread_thread (s : State) (i p n cls : Nat) :
    ∃ h, (s.placeThread i p n cls).thread i = { s.thread i with
      home := h, loc := .slot p n, cls := cls, slotn := n, sup := isSummit p, event := false, entering := false, toHome := false
      c := { (s.thread i).c with parkedAt := none } } :=
  ⟨_, thread_setThread ..⟩

theorem placeThread_vale (s : State) (i p n cls v : Nat) : (s.placeThread i p n cls).vale v = s.vale v := rfl
theorem placeThread_mem (s : State) (i p n cls : Nat) : (s.placeThread i p n cls).mem = s.mem := rfl

/-- A handler has its frame's address in s1, and the trap's cause in s2. -/
theorem handler_reg1 (pc frame : W64) (cause ctx : Nat) : (handlerThread pc frame cause ctx).reg 1 = frame := by
  simp [handlerThread, Thread.reg, Vector.getD]

theorem handler_reg2 (pc frame : W64) (cause ctx : Nat) : (handlerThread pc frame cause ctx).reg 2 = BitVec.ofNat 64 cause := by
  simp [handlerThread, Thread.reg, Vector.getD]

section
variable {s : State} {v : Nat} {m : TrapMsg} {rest : List TrapMsg} (htraps : (s.vale v).traps = m :: rest)
include htraps

/-- The oldest trap is delivered in its turn. -/
theorem deliverTrap_saves {f : Nat} (htvec : vecAddr (s.vale v).tvec ≠ 0) (hframe : freeIndex (s.vale v).frames.keys 32 = some f)
    (hinbox : s.inboxThreads (v * 32) 0 false = []) (hbefore : before m.arr (s.entryOrder (v * 32) 0) = true) :
    let h := (s.trapSaved v f m rest).newThread (v * 32)
      (handlerThread (vecAddr (s.vale v).tvec) (BitVec.ofNat 64 (windowAddr (v * 32) (0x3C000 + 0x100 * f))) m.info.cause.code (s.com m.unit).ctx)
    s.deliverTrap v = h.2.takeSlot h.1 (v * 32) 0 := by
  have hturn : s.trapTurn v = some (m, f) := by
    simp [State.trapTurn, htraps, hframe, hinbox]
    exact htvec
  unfold State.deliverTrap
  simp only [htraps, hturn, hbefore, beq_iff_eq, htvec, if_false, Bool.not_true, Bool.false_eq_true]
  rfl

end

/-- R408, R412, R413. -/
theorem trapDelivery : Spec.TrapDelivery := by
  intro s v m rest htraps tvec s1
  refine ⟨fun htvec => ?_, fun htvec hlive f hframe hfree hinbox hbefore => ?_⟩
  · unfold State.deliverTrap
    simp only [htraps]
    exact if_pos (by simpa [vecAddr, tvec] using htvec)
  · obtain ⟨x, hx⟩ : ∃ x, x = handlerThread tvec (BitVec.ofNat 64 (windowAddr (v * 32) (0x3C000 + 0x100 * f))) m.info.cause.code
      (s.com m.unit).ctx := ⟨_, rfl⟩
    have hsaves : s.deliverTrap v = ((s.trapSaved v f m rest).newThread (v * 32) x).2.takeSlot ((s.trapSaved v f m rest).newThread (v * 32) x).1
        (v * 32) 0 := by
      rw [hx]
      exact deliverTrap_saves htraps htvec hframe hinbox hbefore
    obtain ⟨id, hnew⟩ := newThread_thread (s.trapSaved v f m rest) (v * 32) x
    have hslots := (trapSaved_keepsSlots s v f m rest (v * 32)).trans (newThread_keepsSlots _ (v * 32) x (by rw [hx]; rfl))
    obtain ⟨hmem, hvale⟩ := newThread_rest (s.trapSaved v f m rest) (v * 32) x
    generalize (s.trapSaved v f m rest).newThread (v * 32) x = r at *
    obtain ⟨i, r⟩ := r
    obtain ⟨n, htake⟩ := takeSlot_new (s := r) (i := i) (hslots.live.trans hlive) (hslots.freeSlots 0 hfree) (by rw [hnew, hx]; rfl)
    obtain ⟨home, hplaced⟩ := placeThread_thread r i (v * 32) n 0
    rw [hnew] at hplaced
    refine ⟨r.placeThread i (v * 32) n 0, hsaves.trans htake, ?_, fun hwf k hk b hb => ?_, i, ?_⟩
    · rw [placeThread_vale, hvale]
      exact inFrame_frame _ v f m.unit
    · have hbyte := frame_bytes s (s.setVale v { s.vale v with traps := rest }) m (framePlace v f) k b hwf hk hb
      rw [← hbyte]
      unfold State.byteAt
      rw [placeThread_mem, hmem]
      exact congrArg (memFind · _) (inFrame_mem _ v f m.unit)
    · rw [hplaced, hx]
      refine ⟨?_, rfl, rfl, handler_reg1 tvec _ m.info.cause.code (s.com m.unit).ctx,
        handler_reg2 tvec (BitVec.ofNat 64 (windowAddr (v * 32) (0x3C000 + 0x100 * f))) _ (s.com m.unit).ctx, rfl⟩
      simp [isSummit]

end Sys2Proof.Machine

/-- Settles O53: the stop, the delivery and the return of a trap. -/
theorem trapEntry : Obligations.TrapEntry := ⟨trapStops, trapDelivery, trapResumption⟩
end

section
open Sys2Proof Sys2Proof.Machine

namespace Sys2Proof.Machine

/-! ### The frames of steps that follow one another -/

section
variable {s t r : State} {u : UnitId}

theorem untouched_trans (h : Spec.Untouched s t u) (k : Spec.Untouched t r u) : Spec.Untouched s r u where
  others v hv := ⟨((k.others v hv).1).trans (h.others v hv).1, fun n => ((k.others v hv).2 n).trans ((h.others v hv).2 n)⟩
  bytes a := (k.bytes a).trans (h.bytes a)
  empty := k.empty.trans h.empty
  fpctl := k.fpctl.trans h.fpctl
  own := by simp only [k.own, h.own, and_self]
  vales v := by simp only [k.vales v, h.vales v, and_self]
  tables := by simp only [k.tables, h.tables, and_self]
  waves w := by simp only [k.waves w, h.waves w, and_self]
  lanes w hw := by simp only [k.lanes w hw, h.lanes w hw, and_self]

theorem kept_trans {ds : List Nat} (h : Spec.Kept s t u ds) (k : Spec.Kept t r u ds) : Spec.Kept s r u ds where
  toUntouched := untouched_trans h.toUntouched k.toUntouched
  regs n hn := (k.regs n hn).trans (h.regs n hn)
  fpst := k.fpst.trans h.fpst
  files w := by simp only [k.files w, h.files w, and_self]

end

/-- The fields of a unit's shared part that instructions which write registers leave. -/
def Common.sameSpecials (c d : Common) : Prop := d.fpctl = c.fpctl ∧ d.ctx = c.ctx ∧ d.lo = c.lo ∧ d.hi = c.hi ∧ d.prio = c.prio

/-- A state that differs in its units alone, and of these in `u` alone. -/
theorem untouched_setThread (s : State) (n : Nat) (x : Thread) (h : (s.thread n).c.sameSpecials x.c) : Spec.Untouched s (s.setThread n x) (.thread n) := by
  obtain ⟨hfpctl, hctx, hlo, hhi, hprio⟩ := h
  refine ⟨fun v hv => ?_, fun _ => rfl, rfl, ?_, ?_, fun _ => ⟨rfl, rfl, rfl, rfl⟩, ⟨rfl, rfl, rfl, rfl, rfl, rfl⟩, fun _ => ⟨rfl, rfl, rfl⟩,
    fun _ _ => ⟨rfl, rfl, rfl, rfl⟩⟩
  · cases v with
    | thread k =>
      have hk : k ≠ n := fun hk => hv (hk ▸ rfl)
      simp only [State.com, State.reg, thread_setThread_ne s n k x hk, implies_true, and_self]
    | wave w => exact ⟨rfl, fun _ => rfl⟩
  · simp only [State.com, thread_setThread, hfpctl]
  · simp only [State.com, thread_setThread, hctx, hlo, hhi, hprio, and_self]

theorem untouched_setWave (s : State) (n : Nat) (x : Wave) (h : (s.wave n).c.sameSpecials x.c) (hx : x.t = (s.wave n).t ∧ x.y = (s.wave n).y ∧
    x.exec = (s.wave n).exec) : Spec.Untouched s (s.setWave n x) (.wave n) := by
  obtain ⟨hfpctl, hctx, hlo, hhi, hprio⟩ := h
  refine ⟨fun v hv => ?_, fun _ => rfl, rfl, ?_, ?_, fun _ => ⟨rfl, rfl, rfl, rfl⟩, ⟨rfl, rfl, rfl, rfl, rfl, rfl⟩, fun w => ?_, fun w hw => ?_⟩
  · cases v with
    | thread k => exact ⟨rfl, fun _ => rfl⟩
    | wave k =>
      have hk : k ≠ n := fun hk => hv (hk ▸ rfl)
      simp only [State.com, State.reg, wave_setWave_ne s n k x hk, implies_true, and_self]
  · simp only [State.com, wave_setWave, hfpctl]
  · simp only [State.com, wave_setWave, hctx, hlo, hhi, hprio, and_self]
  · by_cases hw : w = n
    · rw [hw, wave_setWave]
      exact hx
    · rw [wave_setWave_ne s n w x hw]
      exact ⟨rfl, rfl, rfl⟩
  · rw [wave_setWave_ne s n w x fun h => hw (h ▸ rfl)]
    exact ⟨rfl, rfl, rfl, rfl⟩

/-- A thread changes in its registers `ds` and in what is no register. -/
theorem kept_setThread (s : State) (n : Nat) (x : Thread) (ds : List Nat) (h : (s.thread n).c.sameSpecials x.c) (hfpst : x.c.fpst = (s.thread n).c.fpst)
    (hregs : ∀ r, r ∉ ds → x.reg r = (s.thread n).reg r) : Spec.Kept s (s.setThread n x) (.thread n) ds where
  toUntouched := untouched_setThread s n x h
  regs r hr := by simpa only [State.reg, thread_setThread] using hregs r hr
  fpst := by simp only [State.com, thread_setThread, hfpst]
  files _ := ⟨rfl, rfl, rfl, rfl⟩

/-- A wave changes in what is no register. -/
theorem kept_setWave (s : State) (n : Nat) (x : Wave) (h : (s.wave n).c.sameSpecials x.c) (hfpst : x.c.fpst = (s.wave n).c.fpst)
    (hx : x.t = (s.wave n).t ∧ x.y = (s.wave n).y ∧ x.exec = (s.wave n).exec)
    (hfiles : x.k = (s.wave n).k ∧ x.v = (s.wave n).v ∧ x.m = (s.wave n).m ∧ x.lq = (s.wave n).lq ∧ x.sq = (s.wave n).sq) :
    Spec.Kept s (s.setWave n x) (.wave n) [] where
  toUntouched := untouched_setWave s n x h hx
  regs r _ := by simp only [State.reg, wave_setWave, Wave.kreg, hfiles.1]
  fpst := by simp only [State.com, wave_setWave, hfpst]
  files w := by
    by_cases hw : w = n
    · rw [hw, wave_setWave]
      exact hfiles.2
    · rw [wave_setWave_ne s n w x hw]
      exact ⟨rfl, rfl, rfl, rfl⟩

theorem sameSpecials_refl (c : Common) : c.sameSpecials c := ⟨rfl, rfl, rfl, rfl, rfl⟩

/-- A change of a unit's shared part that keeps its flags. -/
theorem kept_modCom (s : State) (u : UnitId) (g : Common → Common) (h : ∀ c : Common, c.sameSpecials (g c)) (hfpst : ∀ c, (g c).fpst = c.fpst) :
    Spec.Kept s (s.modCom u g) u [] := by
  cases u with
  | thread n => exact kept_setThread s n _ [] (h _) (hfpst _) fun _ _ => rfl
  | wave n => exact kept_setWave s n _ (h _) (hfpst _) ⟨rfl, rfl, rfl⟩ ⟨rfl, rfl, rfl, rfl, rfl⟩

theorem kept_refl (s : State) (u : UnitId) (ds : List Nat) : Spec.Kept s s u ds where
  others _ _ := ⟨rfl, fun _ => rfl⟩
  bytes _ := rfl
  empty := rfl
  fpctl := rfl
  own := ⟨rfl, rfl, rfl, rfl⟩
  vales _ := ⟨rfl, rfl, rfl, rfl⟩
  tables := ⟨rfl, rfl, rfl, rfl, rfl, rfl⟩
  waves _ := ⟨rfl, rfl, rfl⟩
  lanes _ _ := ⟨rfl, rfl, rfl, rfl⟩
  regs _ _ := rfl
  fpst := rfl
  files _ := ⟨rfl, rfl, rfl, rfl⟩

/-- More registers may change. -/
theorem kept_mono {s t : State} {u : UnitId} {ds es : List Nat} (h : Spec.Kept s t u ds) (hsub : ds ⊆ es) : Spec.Kept s t u es :=
  { h with regs := fun n hn => h.regs n fun hd => hn (hsub hd) }

/-! ### Counting (R471) -/

/-- A Vale's registers that counting leaves. -/
def Vale.sameTraps (x y : Vale) : Prop := y.tvec = x.tvec ∧ y.svec = x.svec ∧ y.traps = x.traps ∧ y.frames = x.frames

theorem setVale_sameTraps (s : State) (v : Nat) (x : Vale) (h : (s.vale v).sameTraps x) (w : Nat) : (s.vale w).sameTraps ((s.setVale v x).vale w) := by
  by_cases hw : w = v
  · rw [hw, vale_setVale]
    exact h
  · rw [vale_setVale_ne s v w x hw]
    exact ⟨rfl, rfl, rfl, rfl⟩

theorem sameTraps_trans {x y z : Vale} (h : x.sameTraps y) (k : y.sameTraps z) : x.sameTraps z := by
  obtain ⟨htvec, hsvec, htraps, hframes⟩ := h
  obtain ⟨ktvec, ksvec, ktraps, kframes⟩ := k
  exact ⟨ktvec.trans htvec, ksvec.trans hsvec, ktraps.trans htraps, kframes.trans hframes⟩

theorem counterWraps_sameTraps (s : State) (v i w : Nat) : (s.vale w).sameTraps ((s.counterWraps v i).vale w) := by
  have hset := setVale_sameTraps s v { s.vale v with pmov := (s.vale v).pmov ||| BitVec.ofNat 16 (2 ^ i) } ⟨rfl, rfl, rfl, rfl⟩ w
  unfold State.counterWraps
  dsimp only
  split <;> exact hset

theorem counterAdd_sameTraps (s : State) (v i n w : Nat) : (s.vale w).sameTraps ((s.counterAdd v i n).vale w) := by
  have hset := setVale_sameTraps s v { s.vale v with pmc := (s.vale v).pmc.put i (BitVec.ofNat 48 (((s.vale v).count i).toNat + n)) }
    ⟨rfl, rfl, rfl, rfl⟩ w
  unfold State.counterAdd
  dsimp only
  split
  · exact sameTraps_trans hset (counterWraps_sameTraps _ v i w)
  · exact hset

theorem foldl_sameTraps {α : Type} (f : State → α → State) (w : Nat) (hf : ∀ (s : State) (a : α), (s.vale w).sameTraps ((f s a).vale w)) (l : List α) (s : State) :
    (s.vale w).sameTraps ((l.foldl f s).vale w) := by
  induction l generalizing s with
  | nil => exact ⟨rfl, rfl, rfl, rfl⟩
  | cons a l ih => exact sameTraps_trans (hf s a) (ih _)

theorem countEvents_sameTraps (s : State) (v fn code n w : Nat) : (s.vale w).sameTraps ((s.countEvents v fn code n).vale w) := by
  unfold State.countEvents
  split
  · exact ⟨rfl, rfl, rfl, rfl⟩
  · refine foldl_sameTraps _ w (fun t i => ?_) _ s
    split
    · exact counterAdd_sameTraps t v i n w
    · exact ⟨rfl, rfl, rfl, rfl⟩

theorem kept_countUnit (s : State) (u v : UnitId) (code : Nat) : Spec.Kept s (s.countUnit v code) u [] := by
  have hvales := countEvents_sameTraps s (s.unitVale v) (s.unitFunc v) code 1
  obtain ⟨vs, is, h⟩ := s.countEvents_only (s.unitVale v) (s.unitFunc v) code 1
  change Spec.Kept s (s.countEvents (s.unitVale v) (s.unitFunc v) code 1) u []
  rw [h] at hvales ⊢
  exact { kept_refl s u [] with vales := hvales }

/-! ### Before and after the effect of an A-slot -/

theorem kept_begun (s : State) (u : UnitId) : Spec.Kept s (s.begun u) u [] :=
  kept_modCom s u (fun c => { c with body := c.rpt.act }) (fun _ => ⟨rfl, rfl, rfl, rfl, rfl⟩) fun _ => rfl

theorem kept_begunA (s : State) (u : UnitId) : Spec.Kept s (s.begunA u) u [] := by
  cases u with
  | thread n =>
    unfold State.begunA
    dsimp only
    split
    · exact kept_refl s _ []
    · exact kept_begun s _
  | wave n =>
    unfold State.begunA
    dsimp only
    split
    · exact kept_begun s _
    · exact kept_refl s _ []

theorem kept_setPc (s : State) (u : UnitId) (pc : W64) : Spec.Kept s (s.setPc u pc) u [] := by
  cases u with
  | thread n => exact kept_setThread s n _ [] (sameSpecials_refl _) rfl fun _ _ => rfl
  | wave n => exact kept_setWave s n _ (sameSpecials_refl _) rfl ⟨rfl, rfl, rfl⟩ ⟨rfl, rfl, rfl, rfl, rfl⟩

/-- Nothing is due after the unit's bundle, and the unit is not stepped. -/
def State.noneDue (s : State) (u : UnitId) : Prop := (s.com u).after = none ∧ (s.com u).stepping = false

/-- A bundle after which nothing is due ends. -/
theorem kept_endBundle (s : State) (u : UnitId) (pc next : W64) (h : s.noneDue u) : Spec.Kept s (s.endBundle u pc next) u [] := by
  obtain ⟨hafter, hstep⟩ := h
  unfold State.endBundle
  simp only [hafter, hstep, Bool.false_and, Bool.false_eq_true, if_false]
  refine kept_trans (kept_trans (kept_countUnit s u u 0x002) ?_) (kept_setPc _ u _)
  exact kept_modCom _ u _ (fun _ => ⟨rfl, rfl, rfl, rfl, rfl⟩) fun _ => rfl

theorem kept_noteWrites (s : State) (u : UnitId) (n : Note) : Spec.Kept s (s.noteWrites u n) u [] ∧ (s.noteWrites u n).com u = s.com u := by
  cases u with
  | thread i => exact ⟨kept_refl s _ [], rfl⟩
  | wave i =>
    unfold State.noteWrites
    dsimp only
    split
    · exact ⟨kept_refl s _ [], rfl⟩
    · exact ⟨kept_setWave s i _ (sameSpecials_refl _) rfl ⟨rfl, rfl, rfl⟩ ⟨rfl, rfl, rfl, rfl, rfl⟩, by simp [State.com]⟩

theorem runAfter_none {s : State} {u : UnitId} (h : (s.com u).after = none) : s.runAfter u = s := by
  unfold State.runAfter
  rw [h]

/-- An A-slot after which nothing is due is over. -/
theorem kept_retireA (s : State) (u : UnitId) (h : s.noneDue u) : Spec.Kept s (s.retireA u) u [] := by
  unfold State.retireA
  cases u with
  | thread i =>
    dsimp only
    split
    · exact kept_endBundle s _ _ _ h
    · exact kept_endBundle s _ _ _ h
  | wave i =>
    dsimp only
    split
    · next l rest hlead =>
      have hkept : Spec.Kept s (s.modWave i (fun w => { w with lead := rest, computeWait := false, trapDue := false, c := { w.c with deadlock := none } }))
          (.wave i) [] := kept_setWave s i _ ⟨rfl, rfl, rfl, rfl, rfl⟩ rfl ⟨rfl, rfl, rfl⟩ ⟨rfl, rfl, rfl, rfl, rfl⟩
      split
      · rw [runAfter_none (by simpa [State.com] using h.1)]
        exact hkept
      · exact hkept
    · exact kept_endBundle s _ _ _ h

/-- What follows the effect of an A-slot. -/
theorem kept_afterA {s t : State} {u : UnitId} {i : Instr} (h : t.noneDue u) : Spec.Kept t (s.afterA u i t) u [] := by
  obtain ⟨hnote, hcom⟩ := kept_noteWrites t u (s.noted u i)
  exact kept_trans hnote (kept_retireA _ u ⟨by rw [hcom, h.1], by rw [hcom, h.2]⟩)

end Sys2Proof.Machine
end

section
open Sys2Proof Sys2Proof.Machine

namespace Sys2Proof.Machine

/-! ### Sources: queues are popped, and nothing else (R63, R170) -/

/-- Wave `w` has popped queues of `taken`, and nothing else has happened. -/
structure State.PopsOnly (s t : State) (w : Nat) (taken : Nat → Prop) : Prop where
  untouched : Spec.Untouched s t (.wave w)
  wave : ∃ l, t.wave w = { s.wave w with lq := l } ∧ ∀ q, ¬ taken q → l.getD q [] = (s.wave w).lq.getD q []

section
variable {s t r : State} {w : Nat} {taken other : Nat → Prop}

theorem popsOnly_refl (s : State) (w : Nat) (taken : Nat → Prop) : s.PopsOnly s w taken :=
  ⟨(kept_refl s _ []).toUntouched, _, rfl, fun _ _ => rfl⟩

theorem popsOnly_trans (h : s.PopsOnly t w taken) (k : t.PopsOnly r w taken) : s.PopsOnly r w taken := by
  obtain ⟨hu, l, hl, hkeep⟩ := h
  obtain ⟨ku, l', hl', kkeep⟩ := k
  exact ⟨untouched_trans hu ku, l', hl'.trans (by rw [hl]), fun q hq => (kkeep q hq).trans (by rw [hl]; exact hkeep q hq)⟩

theorem popsOnly_mono (h : s.PopsOnly t w taken) (hsub : ∀ q, taken q → other q) : s.PopsOnly t w other := by
  obtain ⟨hu, l, hl, hkeep⟩ := h
  exact ⟨hu, l, hl, fun q hq => hkeep q fun ht => hq (hsub q ht)⟩

end

theorem popLq_only {x y : Wave} {q : Nat} {v : Lanes} (h : x.popLq q = some (v, y)) : ∃ l, y = { x with lq := x.lq.put q l } := by
  unfold Wave.popLq at h
  split at h
  · next e rest _ =>
    split at h
    · exact ⟨rest, (Prod.mk.inj (Option.some.inj h)).2.symm⟩
    · cases h
  · cases h

theorem popsOnly_setWave (s : State) (w q : Nat) (l : List QEntry) :
    s.PopsOnly (s.setWave w { s.wave w with lq := (s.wave w).lq.put q l }) w (· = q) :=
  ⟨untouched_setWave s w _ (sameSpecials_refl _) ⟨rfl, rfl, rfl⟩, _, wave_setWave .., fun p hp => AList.getD_put_ne _ p q l [] hp⟩

/-- The queue that a source code names. -/
def namesQueue (kind : Bool) (code : BitVec 8) (q : Nat) : Prop := kind = true ∧ code.toNat = 0x40 + q

theorem laneSrc_pops {s t : State} {w : Nat} {kind : Bool} {code : BitVec 8} {a : Nat → W32} (h : s.laneSrc (.wave w) kind code = some (a, t)) :
    s.PopsOnly t w (namesQueue kind code) := by
  simp only [State.laneSrc] at h
  split at h
  · next hkind =>
    split at h
    · obtain ⟨-, rfl⟩ := Prod.mk.inj (Option.some.inj h)
      exact popsOnly_refl s w _
    · next hcode =>
      split at h
      · next v y hpop =>
        obtain ⟨-, rfl⟩ := Prod.mk.inj (Option.some.inj h)
        obtain ⟨l, rfl⟩ := popLq_only hpop
        exact popsOnly_mono (popsOnly_setWave s w _ l) fun q hq => ⟨hkind, by omega⟩
      · cases h
  · obtain ⟨-, rfl⟩ := Prod.mk.inj (Option.some.inj h)
    exact popsOnly_refl s w _

/-- The queues that the sources of a lane instruction name. -/
def LaneSrcs.queues (n : LaneSrcs) (f : LA) (q : Nat) : Prop :=
  namesQueue (n.a && f.ka) f.a q ∨ namesQueue (n.b && f.kb) f.b q ∨ namesQueue (n.c && f.kc) f.c q

/-- One of the three sources, read where the instruction has it. -/
theorem optionalSrc_pops {s t : State} {w : Nat} {has kind : Bool} {code : BitVec 8} {none' a : Nat → W32}
    (h : (if has then s.laneSrc (.wave w) kind code else some (none', s)) = some (a, t)) : s.PopsOnly t w (namesQueue (has && kind) code) := by
  cases has with
  | true => simpa using laneSrc_pops (by simpa using h)
  | false =>
    obtain ⟨-, rfl⟩ := Prod.mk.inj (Option.some.inj (by simpa using h))
    exact popsOnly_refl s w _

theorem laneSources_steps {s t : State} {u : UnitId} {f : LA} {n : LaneSrcs} {a b c : Nat → W32} (h : s.laneSources u f n = some (a, b, c, t)) :
    ∃ s1 s2, (if n.a then s.laneSrc u f.ka f.a else some ((fun _ => 0), s)) = some (a, s1) ∧
      (if n.b then s1.laneSrc u f.kb f.b else some ((fun _ => 0), s1)) = some (b, s2) ∧
      (if n.c then s2.laneSrc u f.kc f.c else some ((fun _ => 0), s2)) = some (c, t) := by
  unfold State.laneSources at h
  dsimp only at h
  split at h
  · cases h
  · next a' s1 ha =>
    split at h
    · cases h
    · next b' s2 hb =>
      split at h
      · cases h
      · next c' s3 hc =>
        obtain ⟨rfl, rfl, rfl, rfl⟩ : a' = a ∧ b' = b ∧ c' = c ∧ s3 = t := by simpa using h
        exact ⟨s1, s2, ha, hb, hc⟩

theorem laneSources_pops {s t : State} {w : Nat} {f : LA} {n : LaneSrcs} {a b c : Nat → W32}
    (h : s.laneSources (.wave w) f n = some (a, b, c, t)) : s.PopsOnly t w (n.queues f) := by
  obtain ⟨s1, s2, ha, hb, hc⟩ := laneSources_steps h
  exact popsOnly_trans (popsOnly_mono (optionalSrc_pops ha) fun _ => .inl)
    (popsOnly_trans (popsOnly_mono (optionalSrc_pops hb) fun _ h => .inr (.inl h)) (popsOnly_mono (optionalSrc_pops hc) fun _ h => .inr (.inr h)))

/-- The sources of a thread are its registers. -/
theorem laneSrc_thread {s t : State} {i : Nat} {kind : Bool} {code : BitVec 8} {a : Nat → W32} (h : s.laneSrc (.thread i) kind code = some (a, t)) :
    t = s := (Prod.mk.inj (Option.some.inj h)).2.symm

theorem laneSources_thread {s t : State} {i : Nat} {f : LA} {n : LaneSrcs} {a b c : Nat → W32}
    (h : s.laneSources (.thread i) f n = some (a, b, c, t)) : t = s := by
  have hsrc : ∀ {r r' : State} {has kind : Bool} {code : BitVec 8} {none' x : Nat → W32},
      (if has then r.laneSrc (.thread i) kind code else some (none', r)) = some (x, r') → r' = r := by
    intro r r' has kind code none' x h
    cases has with
    | true => exact laneSrc_thread (by simpa using h)
    | false => exact (Prod.mk.inj (Option.some.inj (by simpa using h))).2.symm
  obtain ⟨s1, s2, ha, hb, hc⟩ := laneSources_steps h
  rw [hsrc hc, hsrc hb, hsrc ha]

/-! ### Destinations (R63, R170, R171) -/

theorem at_gen (f : Nat → W32) (l : Nat) : (Lanes.gen f).at l = if l < 64 then f l else 0 := by
  by_cases h : l < 64 <;> simp [Lanes.gen, Lanes.at, Vector.getD, h]

theorem at_of_le (v : Lanes) (l : Nat) (h : 64 ≤ l) : v.at l = 0 := by
  simp [Lanes.at, Vector.getD, Nat.not_lt.mpr h]

/-- The lanes of a mask are written, and no other. -/
theorem vreg_setLanes_at (x : Wave) (n : Nat) (act : Mask) (f : Nat → W32) (l : Nat) :
    ((x.setLanes n act f).vreg n).at l = if act.getLsbD l then f l else (x.vreg n).at l := by
  rw [Wave.setLanes, vreg_setV, at_gen]
  by_cases h : l < 64
  · rw [if_pos h]
  · rw [if_neg h, BitVec.getLsbD_of_ge act l (Nat.not_lt.mp h), at_of_le _ l (Nat.not_lt.mp h)]
    rfl

theorem vreg_setLanes_ne (x : Wave) (n m : Nat) (act : Mask) (f : Nat → W32) (h : m ≠ n) : (x.setLanes n act f).vreg m = x.vreg m :=
  vreg_setV_ne x n m _ h

/-- Wave `x` with a lane result at destination `d`: an entry of the sq queue that it names, or the lanes of one v-register. -/
structure Wave.Receives (x y : Wave) (kd : Bool) (d : Nat) (act : Mask) (r : Nat → W32) : Prop where
  rest : ∃ v q, y = { x with v := v, sq := q }
  lanes : ∀ n l, kd = true ∨ n ≠ d ∨ act.getLsbD l = false → (y.vreg n).at l = (x.vreg n).at l
  written : kd = false → ∀ l, act.getLsbD l = true → (y.vreg d).at l = r l
  queues : ∀ q, kd = false ∨ q ≠ d - 0x44 → y.sq.getD q [] = x.sq.getD q []

theorem setLanes_receives (x : Wave) (d : Nat) (act : Mask) (r : Nat → W32) : x.Receives (x.setLanes d act r) false d act r where
  rest := ⟨_, _, rfl⟩
  lanes n l h := by
    by_cases hn : n = d
    · rw [hn, vreg_setLanes_at]
      have hact : act.getLsbD l = false := by simpa [hn] using h
      rw [hact]
      rfl
    · rw [vreg_setLanes_ne x d n act r hn]
  written _ l hl := by rw [vreg_setLanes_at, if_pos hl]
  queues _ _ := rfl

theorem laneDst_wave {s t : State} {w : Nat} {kd : Bool} {d : BitVec 8} {act : Mask} {r : Nat → W32} (h : s.laneDst (.wave w) kd d act r = some t) :
    ∃ y, t = s.setWave w y ∧ (s.wave w).Receives y kd d.toNat act r := by
  cases kd with
  | false => exact ⟨_, (Option.some.inj h).symm, setLanes_receives ..⟩
  | true =>
    obtain ⟨y, hpush, rfl⟩ := Option.map_eq_some_iff.mp h
    unfold Wave.pushSq at hpush
    dsimp only at hpush
    split at hpush
    · cases hpush
    · rw [← Option.some.inj hpush]
      exact ⟨_, rfl, ⟨_, _, rfl⟩, fun _ _ _ => rfl, nofun, fun q hq => AList.getD_put_ne _ _ _ _ _ (by simpa using hq)⟩

end Sys2Proof.Machine
end

section
open Sys2Proof Sys2Proof.Machine

namespace Sys2Proof.Machine

/-! ### The frame of an instruction with one result for each lane (R170 to R172) -/

/-- What joining flags to FPST leaves. -/
theorem orFpst_spec (s : State) (u : UnitId) (fl : FFlags) :
    Spec.Untouched s (s.orFpst u fl) u ∧ (s.orFpst u fl).com u = { s.com u with fpst := (s.com u).fpst ||| fl } ∧
    (∀ n, (s.orFpst u fl).reg u n = s.reg u n) ∧
    ∀ w, u = .wave w → (s.orFpst u fl).wave w = { s.wave w with c := { (s.wave w).c with fpst := (s.wave w).c.fpst ||| fl } } := by
  refine ⟨?_, com_setCom .., fun n => reg_setCom .., fun w hw => ?_⟩
  · cases u with
    | thread n => exact untouched_setThread s n _ ⟨rfl, rfl, rfl, rfl, rfl⟩
    | wave w => exact untouched_setWave s w _ ⟨rfl, rfl, rfl, rfl, rfl⟩ ⟨rfl, rfl, rfl⟩
  · subst hw
    exact wave_setWave ..

theorem begunA_com (s : State) (u : UnitId) : ∃ b, (s.begunA u).com u = { s.com u with body := b } := by
  cases u with
  | thread n =>
    unfold State.begunA
    dsimp only
    split
    · exact ⟨_, rfl⟩
    · exact ⟨_, com_begun s _⟩
  | wave n =>
    unfold State.begunA
    dsimp only
    split
    · exact ⟨_, com_begun s _⟩
    · exact ⟨_, rfl⟩

theorem noneDue_begunA {s : State} {u : UnitId} (h : s.noneDue u) : (s.begunA u).noneDue u := by
  obtain ⟨b, hb⟩ := begunA_com s u
  exact ⟨by rw [hb]; exact h.1, by rw [hb]; exact h.2⟩

theorem noneDue_of_com {s t : State} {u : UnitId} (h : s.noneDue u) (hcom : t.com u = s.com u) : t.noneDue u := by
  rw [State.noneDue, hcom]
  exact h

theorem noneDue_orFpst {s : State} {u : UnitId} (h : s.noneDue u) (fl : FFlags) : (s.orFpst u fl).noneDue u := by
  obtain ⟨-, hcom, -⟩ := orFpst_spec s u fl
  rw [State.noneDue, hcom]
  exact h

theorem lreg_of_wave {s t : State} {w : Nat} (h : (t.wave w).v = (s.wave w).v) (l n : Nat) : t.lreg w l n = s.lreg w l n := by
  simp only [State.lreg, Wave.vreg, h]

/-- The effect of a lane instruction on a wave, from its sources `t` to its end: the destination, then the flags. -/
theorem laneEffect_wave {s t t' : State} {w : Nat} {g : LA} {taken : Nat → Prop} {act : Mask} {r : Nat → W32} {fl : FFlags}
    (hpop : s.PopsOnly t w taken) (hdst : t.laneDst (.wave w) g.kd g.d act r = some t') :
    let e := t'.orFpst (.wave w) fl
    Spec.Untouched s e (.wave w) ∧ e.com (.wave w) = { s.com (.wave w) with fpst := (s.com (.wave w)).fpst ||| fl } ∧
    (e.wave w).k = (s.wave w).k ∧ (e.wave w).m = (s.wave w).m ∧
    (∀ d l, g.kd = true ∨ d ≠ g.d.toNat ∨ act.getLsbD l = false → e.lreg w l d = s.lreg w l d) ∧
    (g.kd = false → ∀ l, act.getLsbD l = true → e.lreg w l g.d.toNat = r l) ∧
    (∀ q, g.kd = false ∨ q ≠ g.d.toNat - 0x44 → (e.wave w).sq.getD q [] = (s.wave w).sq.getD q []) ∧
    (∀ q, ¬ taken q → (e.wave w).lq.getD q [] = (s.wave w).lq.getD q []) := by
  intro e
  obtain ⟨hu, lq, hwave, hlq⟩ := hpop
  obtain ⟨y, rfl, ⟨v, sq, hy⟩, hlanes, hwritten, hqueues⟩ := laneDst_wave hdst
  obtain ⟨ku, hcom, -, hend⟩ := orFpst_spec (t.setWave w y) (.wave w) fl
  have he : e.wave w = { s.wave w with lq := lq, v := v, sq := sq, c := { (s.wave w).c with fpst := (s.wave w).c.fpst ||| fl } } := by
    rw [show e.wave w = _ from hend w rfl, wave_setWave, hy, hwave]
  have hvreg : ∀ d, (e.wave w).vreg d = y.vreg d := fun d => by rw [he, hy]; rfl
  have hold : ∀ d, (t.wave w).vreg d = (s.wave w).vreg d := fun d => by rw [hwave]; rfl
  have hu' : Spec.Untouched t (t.setWave w y) (.wave w) := untouched_setWave t w y (by rw [hy]; exact sameSpecials_refl _) (by rw [hy]; exact ⟨rfl, rfl, rfl⟩)
  refine ⟨untouched_trans (untouched_trans hu hu') ku, congrArg Wave.c he, (congrArg Wave.k he :), (congrArg Wave.m he :), fun d l h => ?_, fun hkd l hl => ?_,
    fun q hq => ?_, fun q hq => ?_⟩
  · rw [State.lreg, State.lreg, hvreg, hlanes d l h, hold]
  · rw [State.lreg, hvreg, hwritten hkd l hl]
  · have hsq := hqueues q hq
    rw [hwave] at hsq
    rw [← hsq, he, hy]
  · rw [← hlq q hq, he]

/-- The effect of a lane instruction on a thread: the register of its destination, then the flags. -/
theorem laneEffect_thread {s t' : State} {k : Nat} {g : LA} {act : Mask} {r : Nat → W32} {fl : FFlags}
    (hdst : s.laneDst (.thread k) g.kd g.d act r = some t') :
    let e := t'.orFpst (.thread k) fl
    Spec.Untouched s e (.thread k) ∧ e.com (.thread k) = { s.com (.thread k) with fpst := (s.com (.thread k)).fpst ||| fl } ∧
    ∀ d, d ≠ g.d.toNat → e.reg (.thread k) d = s.reg (.thread k) d := by
  intro e
  obtain rfl : s.setReg (.thread k) g.d.toNat ((r 0).zeroExtend 64) = t' := Option.some.inj hdst
  obtain ⟨ku, hcom, hreg, -⟩ := orFpst_spec (s.setReg (.thread k) g.d.toNat ((r 0).zeroExtend 64)) (.thread k) fl
  have hsame : (s.setReg (.thread k) g.d.toNat ((r 0).zeroExtend 64)).com (.thread k) = s.com (.thread k) := com_setReg ..
  have hu : Spec.Untouched s (s.setReg (.thread k) g.d.toNat ((r 0).zeroExtend 64)) (.thread k) := by
    refine untouched_setThread s k _ ?_
    unfold Thread.setReg
    split <;> exact sameSpecials_refl _
  exact ⟨untouched_trans hu ku, by rw [hcom, hsame], fun d hd => (hreg d).trans (reg_setReg_ne s (.thread k) d _ _ hd)⟩

/-- The frame of an instruction that writes `F` in the lanes of its destination. -/
theorem laneElement_frame {s : State} {u : UnitId} {i : Instr} {g : LA} {n : LaneSrcs} {F : Spec.LaneFn} (hruns : Spec.laneRuns s u i g n F)
    (halone : AloneA s u) (hdue : s.noneDue u) {a b c : Nat → W32} {t t' t'' : State} :
    let s0 := s.begunA u
    let act := s0.active u g.msel
    let r (l : Nat) : W32 × FFlags := F a b c act l
    let fl := flagsOver (laneList u act) (fun l => (r l).2)
    s0.laneSources u g n = some (a, b, c, t) → fl &&& (s0.com u).fpctl = 0 → t.laneDst u g.kd g.d act (fun l => (r l).1) = some t' →
    exec i s = .next t'' →
    Spec.Untouched s t'' u ∧ (t''.com u).fpst = (s.com u).fpst ||| fl ∧
    (∀ k, u = .thread k → ∀ d, d ≠ g.d.toNat → t''.reg u d = s.reg u d) ∧
    (∀ w, u = .wave w → (∀ d, t''.reg u d = s.reg u d) ∧ (t''.wave w).m = (s.wave w).m ∧
      (∀ d l, (g.kd = true ∨ d ≠ g.d.toNat ∨ act.getLsbD l = false) → t''.lreg w l d = s.lreg w l d) ∧
      (g.kd = false → ∀ l, l < 64 → act.getLsbD l = true → t''.lreg w l g.d.toNat = (r l).1) ∧
      (∀ q, (g.kd = false ∨ q ≠ g.d.toNat - 0x44) → (t''.wave w).sq.getD q [] = (s.wave w).sq.getD q []) ∧
      (∀ q, ¬ n.queues g q → (t''.wave w).lq.getD q [] = (s.wave w).lq.getD q [])) := by
  intro s0 act r fl hsrc hfl hdst hexec
  obtain rfl : s.afterA u i (t'.orFpst u fl) = t'' := Host.Outcome.next.inj ((hruns halone a b c t t' hsrc hfl hdst).symm.trans hexec)
  have hbegun : Spec.Kept s s0 u [] := kept_begunA s u
  have hdue0 : s0.noneDue u := noneDue_begunA hdue
  cases u with
  | thread k =>
    obtain rfl := laneSources_thread hsrc
    obtain ⟨hu, hcom, hreg⟩ := laneEffect_thread (fl := fl) hdst
    have hafter : Spec.Kept (t'.orFpst (.thread k) fl) (s.afterA (.thread k) i (t'.orFpst (.thread k) fl)) (.thread k) [] :=
      kept_afterA (by rw [State.noneDue, hcom]; exact hdue0)
    refine ⟨untouched_trans (untouched_trans hbegun.toUntouched hu) hafter.toUntouched, ?_, fun j hj d hd => ?_, nofun⟩
    · rw [hafter.fpst, hcom, hbegun.fpst]
    · rw [hafter.regs d (by simp), hreg d hd, hbegun.regs d (by simp)]
  | wave w =>
    obtain ⟨hu, hcom, hk, hm, hlanes, hwritten, hsq, hlq⟩ := laneEffect_wave (fl := fl) (laneSources_pops hsrc) hdst
    have hafter : Spec.Kept (t'.orFpst (.wave w) fl) (s.afterA (.wave w) i (t'.orFpst (.wave w) fl)) (.wave w) [] :=
      kept_afterA (by rw [State.noneDue, hcom]; exact hdue0)
    obtain ⟨bv, bm, blq, bsq⟩ := hbegun.files w
    obtain ⟨av, am, alq, asq⟩ := hafter.files w
    refine ⟨untouched_trans (untouched_trans hbegun.toUntouched hu) hafter.toUntouched, ?_, nofun, fun j hj => ?_⟩
    · rw [hafter.fpst, hcom, hbegun.fpst]
    · obtain rfl := UnitId.wave.inj hj
      refine ⟨fun d => ?_, by rw [am, hm, bm], fun d l h => ?_, fun hkd l _ hl => ?_, fun q hq => by rw [asq, hsq q hq, bsq],
        fun q hq => by rw [alq, hlq q hq, blq]⟩
      · rw [hafter.regs d (by simp), State.reg, Wave.kreg, hk]
        exact hbegun.regs d (by simp)
      · rw [lreg_of_wave av, hlanes d l h, lreg_of_wave bv]
      · rw [lreg_of_wave av, hwritten hkd l hl]

end Sys2Proof.Machine
end

section
open Sys2Proof Sys2Proof.Machine

namespace Sys2Proof.Machine

/-! ### The lane instructions run the functions of their rules -/

theorem fpTrap_none {s : State} {u : UnitId} {fl : FFlags} (h : fl &&& (s.com u).fpctl = 0) (bad : Mask) : s.fpTrap u fl bad = none := by
  rw [State.fpTrap, h]
  rfl

/-- An instruction that is a lane operation of `g` runs `g`. -/
theorem laneRuns_of_op {s : State} {u : UnitId} {i : Instr} {f : LA} {n : LaneSrcs} {g : Spec.LaneFn} {F : State → UnitId → Res}
    (hexec : exec i s = runA s i F) (hop : F (s.begunA u) u = (s.begunA u).laneOp u f n g) : Spec.laneRuns s u i f n g := by
  intro halone a b c t t' s0 act fl hsrc hfl hdst
  refine hexec.trans (runA_done halone (hop.trans ?_))
  unfold State.laneOp
  rw [hsrc]
  dsimp only
  unfold State.laneEnd
  rw [fpTrap_none hfl, hdst]

/-! ### Integers (R173, R185) -/

theorem tyWidth_pos (t : BitVec 4) : 0 < tyWidth t := by
  revert t
  decide

/-- An element, as its type reads it. -/
theorem elemInt_eq (t : BitVec 4) (w k : Nat) (x : W32) (hw : 0 < w) :
    elemInt (tySigned t) w k x =
      (let n := x.toNat / 2 ^ (w * k) % 2 ^ w
       if t.toNat % 2 = 0 ∧ 2 ^ (w - 1) ≤ n then (n : Int) - 2 ^ w else n) := by
  obtain ⟨v, rfl⟩ := Nat.exists_eq_succ_of_ne_zero hw.ne'
  have hpow : (2 : Nat) ^ (v + 1) = 2 * 2 ^ v := by ring
  by_cases ht : t.toNat % 2 = 0
  · simp only [elemInt, tySigned, ht, beq_self_eq_true, if_true, elemOf, signExtInt, Nat.mod_mod, true_and, Nat.succ_eq_add_one, Nat.add_sub_cancel]
    split_ifs with h k
    · omega
    · rfl
    · push_cast; rfl
    · omega
  · have hs : tySigned t = false := by simpa [tySigned] using ht
    simp [elemInt, hs, ht, elemOf]

/-- Saturation, and the low bits of what it leaves. -/
theorem saturate_wrap (x lo hi : Int) (w : Nat) (h : lo ≤ hi) :
    (wrapInt (saturate x lo hi).1 w, if (saturate x lo hi).2 then fSI else 0) =
      if x < lo then ((lo % 2 ^ w).toNat, fSI) else if hi < x then ((hi % 2 ^ w).toNat, fSI) else ((x % 2 ^ w).toNat, 0) := by
  unfold saturate wrapInt
  push_cast
  by_cases hlo : x < lo
  · simp [hlo, show ¬ hi < x by omega]
  · by_cases hhi : hi < x <;> simp [hlo, hhi]

theorem intMin_eq (t : BitVec 4) (w : Nat) : intMin (tySigned t) w = if t.toNat % 2 = 0 then -2 ^ (w - 1) else 0 := by
  simp [intMin, tySigned]

theorem intMax_eq (t : BitVec 4) (w : Nat) : intMax (tySigned t) w = if t.toNat % 2 = 0 then 2 ^ (w - 1) - 1 else 2 ^ w - 1 := by
  simp [intMax, tySigned]

theorem intMin_le_intMax (g : Bool) (w : Nat) : intMin g w ≤ intMax g w := by
  have hw : 0 < 2 ^ w := by positivity
  have hv : 0 < 2 ^ (w - 1) := by positivity
  unfold intMin intMax
  cases g
  · simp only [Bool.false_eq_true, if_false]
    omega
  · simp only [if_true]
    omega

/-- An exact integer, fitted to the width of a type. -/
theorem narrowInt_eq (f : LA) (w : Nat) (x : Int) : narrowInt (tySigned f.ty) f.sat w x = Spec.fitInt f w x := by
  cases hsat : f.sat with
  | false => simp [narrowInt, Spec.fitInt, hsat, wrapInt]
  | true =>
    simp only [narrowInt, Spec.fitInt, hsat, if_true, true_and]
    rw [saturate_wrap _ _ _ _ (intMin_le_intMax _ w), intMin_eq, intMax_eq]

theorem intLane_eq (f : LA) (op : Int → Int → Int → Int) (a b c : Nat → W32) (act : Mask) (l : Nat) :
    intLane f op (a l) (b l) (c l) = Spec.ints f op a b c act l := by
  have hw := tyWidth_pos f.ty
  simp only [intLane, Spec.ints, narrowInt_eq, elemInt_eq _ _ _ _ hw, Spec.elemAt]

theorem dotInt_eq (f : LA) (w : Nat) (hw : 0 < w) (a b c : Nat → W32) (act : Mask) (l : Nat) :
    dotInt f w (a l) (b l) (c l) = Spec.dots f w a b c act l := by
  simp only [dotInt, Spec.dots, narrowInt_eq, elemInt_eq _ _ _ _ hw, elemInt_eq _ 32 _ _ (by decide), List.foldl_map]

/-! ### Bits (R174) -/

theorem bitsLE_getElem? (n x k : Nat) : (bitsLE n x)[k]? = if k < n then some (x.testBit k) else none := by
  induction n generalizing x k with
  | zero => simp [bitsLE]
  | succ n ih =>
    cases k with
    | zero => simp [bitsLE, Nat.testBit_zero]; rfl
    | succ k => simp [bitsLE, ih, Nat.testBit_succ]

theorem bitsLE_eq (n x : Nat) : bitsLE n x = (List.range n).map x.testBit := by
  refine List.ext_getElem? fun k => ?_
  rw [bitsLE_getElem?]
  split_ifs with h <;> simp [h]

theorem popCount_eq (x : W32) : popCount 32 x.toNat = ((List.range 32).filter (fun k => x.getLsbD k)).length := by
  rw [popCount, bitsLE_eq, List.filter_map, List.length_map]
  rfl

theorem leadingZeros_eq (x : W32) : leadingZeros 32 x.toNat = (((List.range 32).map (fun k => x.getLsbD (31 - k))).takeWhile (! ·)).length := by
  have hbits : (bitsLE 32 x.toNat).reverse = (List.range 32).map (fun k => x.getLsbD (31 - k)) := by
    rw [bitsLE_eq, ← List.map_reverse]
    rfl
  rw [leadingZeros, hbits]
  congr 2
  funext b
  cases b <;> rfl

theorem shiftLeft_eq (a : W32) (k : Nat) : a <<< k = BitVec.ofNat 32 (a.toNat * 2 ^ k) := by
  refine BitVec.eq_of_toNat_eq ?_
  simp [BitVec.toNat_shiftLeft, Nat.shiftLeft_eq]

theorem ushiftRight_eq (a : W32) (k : Nat) : a >>> k = BitVec.ofNat 32 (a.toNat / 2 ^ k) := by
  refine BitVec.eq_of_toNat_eq ?_
  rw [BitVec.toNat_ushiftRight, Nat.shiftRight_eq_div_pow, BitVec.toNat_ofNat, Nat.mod_eq_of_lt (lt_of_le_of_lt (Nat.div_le_self _ _) a.isLt)]

theorem sshiftRight_eq (a : W32) (k : Nat) : a.sshiftRight k = BitVec.ofInt 32 (a.toInt / 2 ^ k) := by
  rw [BitVec.sshiftRight, Int.shiftRight_eq_div_pow]
  norm_cast

/-! ### Prefixes (R188) -/

/-- What SCAN passes through at place `i` of its lanes. -/
def prefixAt (g : LA) (a : Nat → W32) (ls : List Nat) (i : Nat) : Nat × Option W32 × W32 × FFlags :=
  (ls.getD i 0, Spec.joined g a (ls.take i), (Spec.joined g a (ls.take (i + 1))).getD 0,
    match Spec.joined g a (ls.take i) with
    | none => 0
    | some x => (scanOp g (g.md.toNat % 8) x (a (ls.getD i 0))).2)

theorem prefixes_eq (g : LA) (a : Nat → W32) (act : Mask) :
    Spec.prefixes g a act = (List.range (Mask.lanes act).length).map (prefixAt g a (Mask.lanes act)) := rfl

theorem joined_snoc (g : LA) (a : Nat → W32) (ls : List Nat) (l : Nat) :
    Spec.joined g a (ls ++ [l]) = some (match Spec.joined g a ls with | none => a l | some x => (scanOp g (g.md.toNat % 8) x (a l)).1) := by
  unfold Spec.joined
  rw [List.foldl_append]
  rfl

/-- One lane of a scan: the lanes before it are joined. -/
theorem scanList_cons (g : LA) (a : Nat → W32) (before ls : List Nat) (l : Nat) :
    scanList g (g.md.toNat % 8) a (Spec.joined g a before) (l :: ls) =
      prefixAt g a (before ++ l :: ls) before.length :: scanList g (g.md.toNat % 8) a (Spec.joined g a (before ++ [l])) ls := by
  have hlane : (before ++ l :: ls).getD before.length 0 = l := by simp
  have htake : (before ++ l :: ls).take before.length = before := by simp
  have htake' : (before ++ l :: ls).take (before.length + 1) = before ++ [l] := by simp [List.take_append]
  unfold prefixAt
  rw [hlane, htake, htake', joined_snoc]
  cases Spec.joined g a before <;> rfl

theorem scanList_joined (g : LA) (a : Nat → W32) (before ls : List Nat) :
    scanList g (g.md.toNat % 8) a (Spec.joined g a before) ls =
      (List.range ls.length).map (fun i => prefixAt g a (before ++ ls) (before.length + i)) := by
  induction ls generalizing before with
  | nil => cases Spec.joined g a before <;> rfl
  | cons l ls ih =>
    rw [scanList_cons, ih, List.length_cons, List.range_succ_eq_map, List.map_cons, List.map_map]
    simp only [List.append_assoc, List.singleton_append, List.length_append, List.length_singleton, Nat.add_zero, Function.comp_def,
      Nat.succ_eq_add_one, Nat.add_assoc, Nat.add_comm 1]

/-- A scan from no lane gives the prefixes. -/
theorem scanList_prefixes (g : LA) (a : Nat → W32) (act : Mask) :
    scanList g (g.md.toNat % 8) a none (Mask.lanes act) = Spec.prefixes g a act := by
  refine (scanList_joined g a [] _).trans ?_
  simp only [prefixes_eq, List.nil_append, List.length_nil, Nat.zero_add]

end Sys2Proof.Machine
end

section
open Sys2Proof Sys2Proof.Machine

namespace Sys2Proof.Machine

/-! ### Each lane instruction runs the function of its rule -/

section
variable {s : State} {u : UnitId} {i : Instr} {g : LA} {n : LaneSrcs} {F : State → UnitId → Res}

theorem laneRuns_of_ints {c : Bool} {op op' : Int → Int → Int → Int} (hexec : exec i s = runA s i F)
    (hop : F (s.begunA u) u = (s.begunA u).laneInt u g c op) (h : op = op') : Spec.laneRuns s u i g { c := c } (Spec.ints g op') := by
  subst h
  exact laneRuns_of_op hexec (hop.trans (congrArg (State.laneOp _ u g _) (by funext a b c act l; exact intLane_eq g op a b c act l)))

theorem laneRuns_of_map {op : W32 → W32 → W32 → W32} {op' : W32 → W32 → W32} (hexec : exec i s = runA s i F)
    (hop : F (s.begunA u) u = (s.begunA u).laneMap u g n op) (h : ∀ a b c, op a b c = op' a b) :
    Spec.laneRuns s u i g n (fun a b _ _ l => (op' (a l) (b l), 0)) := by
  refine laneRuns_of_op hexec (hop.trans ?_)
  unfold State.laneMap
  simp only [h]

theorem laneRuns_of_floats {op : Nat → Nat → Nat → Nat × FFlags} (hexec : exec i s = runA s i F)
    (hop : F (s.begunA u) u = (s.begunA u).laneFp u g n op) : Spec.laneRuns s u i g n (Spec.floats g op) :=
  laneRuns_of_op hexec hop

end

section
variable (s : State) (u : UnitId) (f : AForm) (h : LA)

theorem intOps_run : ∀ e ∈ Spec.intOps, Spec.laneRuns s u (e.1 f) (toLA e.2.1 f) e.2.2.1 (Spec.ints (toLA e.2.1 f) e.2.2.2) := by
  have hmin : (fun a b _ : Int => min a b) = fun a b _ => if a < b then a else b := by
    funext a b _
    rw [min_def]
    split_ifs <;> omega
  have hmax : (fun a b _ : Int => max a b) = fun a b _ => if a < b then b else a := by
    funext a b _
    rw [max_def]
    split_ifs <;> omega
  simp only [Spec.intOps, List.forall_mem_cons, List.not_mem_nil, false_implies, implies_true, and_true]
  exact ⟨laneRuns_of_ints rfl rfl rfl, laneRuns_of_ints rfl rfl rfl, laneRuns_of_ints rfl rfl rfl, laneRuns_of_ints rfl rfl rfl,
    laneRuns_of_ints rfl rfl rfl, laneRuns_of_ints rfl rfl hmin, laneRuns_of_ints rfl rfl hmax⟩

theorem bitOps_run : ∀ e ∈ Spec.bitOps, Spec.laneRuns s u (e.1 f) (toLA e.2.1 f) e.2.2.1 (fun a b _ _ l => (e.2.2.2 (a l) (b l), 0)) := by
  intro e he
  simp only [Spec.bitOps, List.mem_cons, List.not_mem_nil, or_false] at he
  obtain rfl | rfl | rfl | rfl | rfl | rfl | rfl | rfl | rfl | rfl := he
  · exact laneRuns_of_map rfl rfl fun _ _ _ => rfl
  · exact laneRuns_of_map rfl rfl fun _ _ _ => rfl
  · exact laneRuns_of_map rfl rfl fun _ _ _ => rfl
  · exact laneRuns_of_map rfl rfl fun a b _ => shiftLeft_eq a (b.toNat % 32)
  · exact laneRuns_of_map rfl rfl fun a b _ => ushiftRight_eq a (b.toNat % 32)
  · exact laneRuns_of_map rfl rfl fun a b _ => sshiftRight_eq a (b.toNat % 32)
  · exact laneRuns_of_map rfl rfl fun a _ _ => congrArg (BitVec.ofNat 32) (popCount_eq a)
  · exact laneRuns_of_map rfl rfl fun a _ _ => congrArg (BitVec.ofNat 32) (leadingZeros_eq a)
  · exact laneRuns_of_map rfl rfl fun _ _ _ => rfl
  · exact laneRuns_of_map rfl rfl fun _ _ _ => rfl

theorem floatOps_run :
    ∀ e ∈ Spec.floatOps, Spec.laneRuns s u (e.1 f) (toLA e.2.1 f) e.2.2.1 (Spec.floats (toLA e.2.1 f) (e.2.2.2 (toLA e.2.1 f))) := by
  simp only [Spec.floatOps, List.forall_mem_cons, List.not_mem_nil, false_implies, implies_true, and_true]
  exact ⟨laneRuns_of_floats rfl rfl, laneRuns_of_floats rfl rfl, laneRuns_of_floats rfl rfl, laneRuns_of_floats rfl rfl, laneRuns_of_floats rfl rfl,
    laneRuns_of_floats rfl rfl, laneRuns_of_floats rfl rfl, laneRuns_of_floats rfl rfl, laneRuns_of_floats rfl rfl, laneRuns_of_floats rfl rfl,
    laneRuns_of_floats rfl rfl, laneRuns_of_floats rfl rfl, laneRuns_of_floats rfl rfl, laneRuns_of_floats rfl rfl⟩

theorem laneForms_run : ∀ e ∈ Spec.laneForms f h, Spec.laneRuns s u e.1 e.2.1 e.2.2.1 e.2.2.2 := by
  simp only [Spec.laneForms, List.forall_mem_append, List.forall_mem_map, List.forall_mem_cons, List.not_mem_nil, false_implies, implies_true, and_true]
  refine ⟨⟨⟨intOps_run s u f, bitOps_run s u f⟩, floatOps_run s u f⟩, ?_, ?_,
    laneRuns_of_op rfl ?_, laneRuns_of_op rfl ?_, ?_, ?_, ?_⟩
  · exact laneRuns_of_floats rfl rfl
  · exact laneRuns_of_op rfl rfl
  · exact congrArg (State.laneOp _ u _ _) (by funext a b c act l; exact dotInt_eq _ 8 (by decide) a b c act l)
  · exact congrArg (State.laneOp _ u _ _) (by funext a b c act l; exact dotInt_eq _ 4 (by decide) a b c act l)
  · exact laneRuns_of_op rfl rfl
  · exact laneRuns_of_op rfl rfl
  · exact laneRuns_of_op rfl rfl

end

/-- INTERP reads its attributes and weights as R351 says. -/
theorem execInterp_op (s : State) (f : AForm) :
    exec (.interp f) s = runA s (.interp f) (fun s u => match u with
      | .thread _ => .trap s { cause := .wrongEngine }
      | .wave i => s.laneOp (.wave i) (toLA 0x37 f) { a := false, b := false } (Spec.interpolates s i (toLA 0x37 f))) := by
  refine congrArg (runA s (.interp f)) ?_
  funext s u
  cases u with
  | thread _ => rfl
  | wave i =>
    refine congrArg (State.laneOp s _ _ _) ?_
    funext a b c act l
    simp only [Spec.interpolates, lo32_eq, hi32_eq, Nat.mul_zero, Nat.mul_one, one_ne_zero, if_true, if_false]

/-- What SCAN gives lane `l`, from the list of what it passes through. -/
def scannedAt (g : LA) (res : List (Nat × Option W32 × W32 × FFlags)) (l : Nat) : W32 × FFlags :=
  match res.find? (fun e => e.1 == l) with
  | some (_, before, after, fl) => (if g.md.getLsbD 3 then before.getD (scanIdentity g (g.md.toNat % 8)) else after, fl)
  | none => (0, 0)

theorem waveForms_run (s : State) (w : Nat) (f : AForm) (h : LA) :
    ∀ e ∈ Spec.waveForms (s.begunA (.wave w)) w f h, Spec.laneRuns s (.wave w) e.1 e.2.1 e.2.2.1 e.2.2.2 := by
  simp only [Spec.waveForms, List.forall_mem_cons, List.not_mem_nil, false_implies, implies_true, and_true]
  refine ⟨laneRuns_of_op rfl rfl, laneRuns_of_op (execInterp_op s f) rfl, laneRuns_of_op rfl rfl, laneRuns_of_op rfl rfl, laneRuns_of_op rfl ?_, laneRuns_of_op rfl ?_,
    laneRuns_of_op rfl rfl⟩
  · refine congrArg (State.laneOp _ _ _ _) ?_
    funext a b c act
    exact congrArg (fun res l => scannedAt (toLA 0x22 f) res l) (scanList_prefixes (toLA 0x22 f) a act)
  · refine congrArg (State.laneOp _ _ _ _) ?_
    funext a b c act l
    by_cases hl : l < 32 <;> simp only [Spec.blocks, hl, if_true, if_false]

/-- A queue that no source names. -/
theorem not_namesQueue {kind : Bool} {code : BitVec 8} {q : Nat} (h : kind = false ∨ code.toNat ≠ 0x40 + q) : ¬ namesQueue kind code q := by
  rintro ⟨hkind, hcode⟩
  rcases h with h | h
  · exact absurd (hkind.symm.trans h) (by decide)
  · exact h hcode

theorem laneElements : Spec.LaneElements := by
  intro s u f h halone hafter hstep s0 e he g n act a b c t t' t'' hsrc r fl hfl hdst hexec
  have hruns : Spec.laneRuns s u e.1 g n e.2.2.2 := by
    obtain he | ⟨w, rfl, he⟩ := he
    · exact laneForms_run s u f h e he
    · exact waveForms_run s w f h e he
  obtain ⟨hu, hfpst, hthread, hwave⟩ := laneElement_frame hruns halone ⟨hafter, hstep⟩ hsrc hfl hdst hexec
  refine ⟨hu, hfpst, hthread, fun w hw => ?_⟩
  obtain ⟨hregs, hmasks, hlanes, hwritten, hsq, hlq⟩ := hwave w hw
  refine ⟨hregs, hmasks, hlanes, hwritten, hsq, fun q ha hb hc => hlq q ?_⟩
  rintro (hq | hq | hq)
  · exact not_namesQueue ha hq
  · exact not_namesQueue hb hq
  · exact not_namesQueue hc hq

end Sys2Proof.Machine
end

section
open Sys2Proof Sys2Proof.Machine

namespace Sys2Proof.Machine

/-! ### What an instruction of a wave writes: one rule for each kind of destination -/

/-- Wave `x` with the destinations `d` written, of lane registers the lanes of `act` alone unless `d` takes them whole. -/
structure Wave.Writes (x y : Wave) (d : Spec.Written) (act : Mask) : Prop where
  rest : ∃ v k m sq, y = { x with v := v, k := k, m := m, sq := sq }
  regs : ∀ n, n ∉ d.k → y.kreg n = x.kreg n
  masks : ∀ n, n ∉ d.m → y.mask n = x.mask n
  lanes : ∀ n l, n ∉ d.v ∨ (d.whole = false ∧ act.getLsbD l = false) → (y.vreg n).at l = (x.vreg n).at l

section
variable {x y z : Wave} {d : Spec.Written} {act : Mask}

theorem waveWrites_refl (x : Wave) (d : Spec.Written) (act : Mask) : x.Writes x d act :=
  ⟨⟨x.v, x.k, x.m, x.sq, rfl⟩, fun _ _ => rfl, fun _ _ => rfl, fun _ _ _ => rfl⟩

theorem waveWrites_trans (h : x.Writes y d act) (k : y.Writes z d act) : x.Writes z d act where
  rest := by
    obtain ⟨v, r, m, sq, rfl⟩ := h.rest
    obtain ⟨v', r', m', sq', rfl⟩ := k.rest
    exact ⟨v', r', m', sq', rfl⟩
  regs n hn := (k.regs n hn).trans (h.regs n hn)
  masks n hn := (k.masks n hn).trans (h.masks n hn)
  lanes n l hn := (k.lanes n l hn).trans (h.lanes n l hn)

theorem setMask_writes (x : Wave) (n : Nat) (m : Mask) (h : n ∈ d.m) : x.Writes (x.setMask n m) d act := by
  by_cases hn : n = 0
  · rw [hn]
    exact waveWrites_refl x d act
  · have hset : x.setMask n m = { x with m := x.m.setIfInBounds n m } := if_neg hn
    rw [hset]
    refine ⟨⟨_, _, _, _, rfl⟩, fun _ _ => rfl, fun k hk => ?_, fun _ _ _ => rfl⟩
    have hne : n ≠ k := fun e => hk (e ▸ h)
    simp [Wave.mask, Vector.getD, hne]

theorem setK_writes (x : Wave) (n : Nat) (v : W64) (h : n ∈ d.k) : x.Writes (x.setK n v) d act := by
  by_cases hn : n = 0
  · rw [hn]
    exact waveWrites_refl x d act
  · have hset : x.setK n v = { x with k := x.k.setIfInBounds n v } := if_neg hn
    rw [hset]
    refine ⟨⟨_, _, _, _, rfl⟩, fun k hk => ?_, fun _ _ => rfl, fun _ _ _ => rfl⟩
    exact hset ▸ wave_kreg_setK_ne x k n v fun e => hk (e ▸ h)

/-- All lanes of a register. -/
theorem setV_writes (x : Wave) (n : Nat) (v : Lanes) (h : n ∈ d.v) (hwhole : d.whole = true) : x.Writes (x.setV n v) d act := by
  refine ⟨⟨_, _, _, _, rfl⟩, fun _ _ => rfl, fun _ _ => rfl, fun k l hk => ?_⟩
  obtain hk | ⟨hwhole', -⟩ := hk
  · rw [vreg_setV_ne x n k v fun e => hk (e ▸ h)]
  · exact absurd (hwhole.symm.trans hwhole') (by decide)

/-- Lanes of a register, none of them outside `act`. -/
theorem setLanes_writes (x : Wave) (n : Nat) (sel : Mask) (r : Nat → W32) (h : n ∈ d.v) (hsel : ∀ l, act.getLsbD l = false → sel.getLsbD l = false) :
    x.Writes (x.setLanes n sel r) d act := by
  refine ⟨⟨_, _, _, _, rfl⟩, fun _ _ => rfl, fun _ _ => rfl, fun k l hk => ?_⟩
  by_cases hn : k = n
  · obtain hk | ⟨-, hl⟩ := hk
    · exact absurd (hn ▸ h) hk
    · rw [hn, vreg_setLanes_at, hsel l hl]
      rfl
  · rw [vreg_setLanes_ne x n k sel r hn]

/-- Consecutive registers. -/
theorem setRun_writes (x : Wave) (n : Nat) (rs : List (Nat → W32)) (h : ∀ i < rs.length, n + i ∈ d.v) : x.Writes (x.setRun n act rs) d act := by
  induction rs generalizing x n with
  | nil => exact waveWrites_refl x d act
  | cons r rs ih =>
    refine waveWrites_trans (setLanes_writes x n act r (h 0 (by simp)) fun _ hl => hl) (ih _ (n + 1) fun i hi => ?_)
    rw [Nat.add_assoc, Nat.add_comm 1]
    exact h (i + 1) (by simpa using hi)

theorem pushSq_writes {q : Nat} {v : Lanes} (h : x.pushSq q v = some y) : x.Writes y d act := by
  unfold Wave.pushSq at h
  dsimp only at h
  split at h
  · cases h
  · rw [← Option.some.inj h]
    exact ⟨⟨_, _, _, _, rfl⟩, fun _ _ => rfl, fun _ _ => rfl, fun _ _ _ => rfl⟩

end

/-! ### The same of a state -/

/-- What an instruction of wave `w` that writes `d` leaves. -/
structure State.Writes (s t : State) (w : Nat) (d : Spec.Written) (act : Mask) : Prop where
  untouched : Spec.Untouched s t (.wave w)
  regs : ∀ n, n ∉ d.k → t.reg (.wave w) n = s.reg (.wave w) n
  masks : ∀ n, n ∉ d.m → (t.wave w).mask n = (s.wave w).mask n
  lanes : ∀ n l, n ∉ d.v ∨ (d.whole = false ∧ act.getLsbD l = false) → t.lreg w l n = s.lreg w l n

section
variable {s t r : State} {w : Nat} {d : Spec.Written} {act : Mask}

theorem writes_trans (h : s.Writes t w d act) (k : t.Writes r w d act) : s.Writes r w d act where
  untouched := untouched_trans h.untouched k.untouched
  regs n hn := (k.regs n hn).trans (h.regs n hn)
  masks n hn := (k.masks n hn).trans (h.masks n hn)
  lanes n l hn := (k.lanes n l hn).trans (h.lanes n l hn)

theorem writes_of_kept (h : Spec.Kept s t (.wave w) []) : s.Writes t w d act where
  untouched := h.toUntouched
  regs n _ := h.regs n (by simp)
  masks n _ := by
    obtain ⟨-, hm, -, -⟩ := h.files w
    simp only [Wave.mask, hm]
  lanes n l _ := by
    obtain ⟨hv, -, -, -⟩ := h.files w
    exact lreg_of_wave hv l n

/-- The same, with nothing new due. -/
def State.Effect (s t : State) (w : Nat) (d : Spec.Written) (act : Mask) : Prop :=
  s.Writes t w d act ∧ (s.noneDue (.wave w) → t.noneDue (.wave w))

theorem effect_setWave {taken : Nat → Prop} {y : Wave} (hpop : s.PopsOnly t w taken) (hy : (t.wave w).Writes y d act) :
    s.Effect (t.setWave w y) w d act := by
  obtain ⟨hu, lq, hwave, -⟩ := hpop
  obtain ⟨⟨v, k, m, sq, hrest⟩, hregs, hmasks, hlanes⟩ := hy
  have hu' : Spec.Untouched t (t.setWave w y) (.wave w) :=
    untouched_setWave t w y (by rw [hrest]; exact sameSpecials_refl _) (by rw [hrest]; exact ⟨rfl, rfl, rfl⟩)
  have hc : y.c = (s.wave w).c := by rw [hrest, hwave]
  refine ⟨⟨untouched_trans hu hu', fun n hn => ?_, fun n hn => ?_, fun n l hn => ?_⟩, fun hdue => ?_⟩
  · simp only [State.reg, wave_setWave, hregs n hn]
    rw [hwave]
    rfl
  · rw [wave_setWave, hmasks n hn, hwave]
    rfl
  · simp only [State.lreg, wave_setWave, hlanes n l hn]
    rw [hwave]
    rfl
  · exact noneDue_of_com hdue (by simp only [State.com, wave_setWave, hc])

theorem effect_orFpst (h : s.Effect t w d act) (fl : FFlags) : s.Effect (t.orFpst (.wave w) fl) w d act := by
  obtain ⟨hw, hdue⟩ := h
  obtain ⟨hu, -, hreg, hwave⟩ := orFpst_spec t (.wave w) fl
  have hwave := hwave w rfl
  refine ⟨writes_trans hw ⟨hu, fun n _ => hreg n, fun n _ => ?_, fun n l _ => ?_⟩, fun hs => noneDue_orFpst (hdue hs) fl⟩
  · rw [hwave]
    rfl
  · exact lreg_of_wave (by rw [hwave]) l n

end

/-! ### The whole instruction -/

/-- An A-class effect on wave `w` that writes `d`, or waits. -/
def Res.Writes (s : State) (w : Nat) (d : Spec.Written) (r : Res) : Prop :=
  r = .stall s ∨ ∃ t, r = .done t ∧ s.Effect t w d (s.active (.wave w) d.msel)

/-- A slot that cannot execute, of a wave with no access outstanding. -/
theorem kept_stalled {s : State} {w : Nat} (h : s.accessesOf (.wave w) = []) : Spec.Kept s (s.stalled (.wave w) true) (.wave w) [] := by
  have htried : Spec.Kept s (s.noteTried (.wave w) true) (.wave w) [] := { kept_refl s (.wave w) [] with }
  have hdead : ∀ (t : State) (g : Common → Option Nat), Spec.Kept t (t.modCom (.wave w) (fun c => { c with deadlock := g c })) (.wave w) [] := fun t g =>
    kept_modCom t _ _ (fun _ => ⟨rfl, rfl, rfl, rfl, rfl⟩) fun _ => rfl
  unfold State.stalled
  simp only [settle_quiet _ _ _ h]
  split
  · exact kept_trans htried (hdead _ _)
  · exact kept_trans htried (hdead _ _)

theorem kept_applyA_stall {s : State} {w : Nat} (h : s.accessesOf (.wave w) = []) (n : Note) (s' : State) :
    Spec.Kept s (s'.applyA (.wave w) n (.stall s)) (.wave w) [] := by
  have hwait : Spec.Kept s (s.setWave w { s.wave w with computeWait := true }) (.wave w) [] :=
    kept_setWave s w _ (sameSpecials_refl _) rfl ⟨rfl, rfl, rfl⟩ ⟨rfl, rfl, rfl, rfl, rfl⟩
  have hquiet : (s.setWave w { s.wave w with computeWait := true }).accessesOf (.wave w) = [] := h
  exact kept_trans hwait (kept_stalled hquiet)

theorem accessesOf_begunA {s : State} {u : UnitId} (h : AloneA s u) : (s.begunA u).accessesOf u = [] := by
  have hbegun : (s.begun u).accessesOf u = [] := by simp [State.begun, h.quiet]
  unfold State.begunA
  split
  · split
    · exact h.quiet
    · exact hbegun
  · split
    · exact hbegun
    · exact h.quiet

/-- An A-class instruction of wave `w` whose effect writes `d` or waits leaves all else. -/
theorem writes_of_runA {s t : State} {w : Nat} {i : Instr} {d : Spec.Written} {F : State → UnitId → Res} (halone : AloneA s (.wave w))
    (hdue : s.noneDue (.wave w)) (heffect : (F (s.begunA (.wave w)) (.wave w)).Writes (s.begunA (.wave w)) w d) (hexec : runA s i F = .next t) :
    s.Writes t w d ((s.begunA (.wave w)).active (.wave w) d.msel) := by
  have hbegun : Spec.Kept s (s.begunA (.wave w)) (.wave w) [] := kept_begunA s _
  refine writes_trans (writes_of_kept hbegun) ?_
  obtain hstall | ⟨e, hdone, hwrites, hend⟩ := heffect
  · obtain rfl := Host.Outcome.next.inj ((runA_alone s _ i F halone).symm.trans hexec)
    rw [hstall]
    exact writes_of_kept (kept_applyA_stall (accessesOf_begunA halone) _ _)
  · obtain rfl := Host.Outcome.next.inj ((runA_done halone hdone).symm.trans hexec)
    exact writes_trans hwrites (writes_of_kept (kept_afterA (hend (noneDue_begunA hdue))))

end Sys2Proof.Machine
end

section
open Sys2Proof Sys2Proof.Machine

namespace Sys2Proof.Machine

/-! ### Flags that trap nothing -/

theorem flagsOver_zero {ls : List Nat} {fl : Nat → FFlags} (h : ∀ l ∈ ls, fl l = 0) : flagsOver ls fl = 0 := by
  unfold flagsOver
  induction ls with
  | nil => rfl
  | cons l ls ih =>
    rw [List.foldl_cons, h l (by simp)]
    exact ih fun k hk => h k (by simp [hk])

theorem scanOp_noFlags (g : LA) {op : Nat} (h : op < 6) (x y : W32) : (scanOp g op x y).2 = 0 := by
  interval_cases op <;> rfl

theorem scanList_noFlags (g : LA) {op : Nat} (h : op < 6) (a : Nat → W32) (acc : Option W32) (ls : List Nat) :
    ∀ e ∈ scanList g op a acc ls, e.2.2.2 = 0 := by
  induction ls generalizing acc with
  | nil => cases acc <;> exact nofun
  | cons l ls ih =>
    cases acc with
    | none => exact List.forall_mem_cons.2 ⟨rfl, ih _⟩
    | some x => exact List.forall_mem_cons.2 ⟨scanOp_noFlags g h x (a l), ih _⟩

/-! ### The shared effects of the writers -/

section
variable {s t : State} {w : Nat} {d : Spec.Written} {taken : Nat → Prop}

theorem writes_stall (s : State) (w : Nat) (d : Spec.Written) : (Res.stall s).Writes s w d := .inl rfl

theorem writes_done {y : Wave} (hpop : s.PopsOnly t w taken) (h : (t.wave w).Writes y d (s.active (.wave w) d.msel)) :
    (Res.done (t.setWave w y)).Writes s w d := .inr ⟨_, rfl, effect_setWave hpop h⟩

/-- A lane result at the destination of `f`, in no lane outside ACTIVE. -/
theorem laneEnd_writes (hpop : s.PopsOnly t w taken) (f : LA) (sel : Mask) (r : Nat → W32) (fl : FFlags) (bad : Mask)
    (hfl : fl &&& (s.com (.wave w)).fpctl = 0) (hsel : ∀ l, (s.active (.wave w) f.msel).getLsbD l = false → sel.getLsbD l = false) :
    (s.laneEnd t (.wave w) f sel r fl bad).Writes s w (Spec.writtenAt f) := by
  unfold State.laneEnd
  rw [fpTrap_none hfl]
  cases hkd : f.kd with
  | false =>
    have hd : Spec.writtenAt f = { v := [f.d.toNat], msel := f.msel } := by simp [Spec.writtenAt, hkd]
    rw [hd]
    exact .inr ⟨_, rfl, effect_orFpst (effect_setWave hpop (setLanes_writes _ _ sel r (by simp) hsel)) fl⟩
  | true =>
    cases hdst : t.laneDst (.wave w) true f.d sel r with
    | none => exact writes_stall s w _
    | some e =>
      obtain ⟨y, hpush, rfl⟩ := Option.map_eq_some_iff.mp hdst
      exact .inr ⟨_, rfl, effect_orFpst (effect_setWave hpop (pushSq_writes hpush)) fl⟩

/-- A result for all lanes together, at a k-register or in every lane of ACTIVE. -/
theorem uniformDst_writes (hpop : s.PopsOnly t w taken) (f : LA) (k : W64) (r : W32) (fl : FFlags) (bad : Mask)
    (hfl : fl &&& (s.com (.wave w)).fpctl = 0) :
    (s.uniformDst t (.wave w) f (s.active (.wave w) f.msel) k r fl bad).Writes s w (Spec.writtenAt f) := by
  unfold State.uniformDst
  split
  · next hk =>
    obtain ⟨hkd, hd⟩ : f.kd = true ∧ f.d.toNat < 0x40 := by simpa using hk
    rw [fpTrap_none hfl, Spec.writtenAt, if_pos hkd, if_pos hd]
    exact .inr ⟨_, rfl, effect_orFpst (effect_setWave hpop (setK_writes _ _ k (by simp))) fl⟩
  · exact laneEnd_writes hpop f _ _ fl bad hfl fun _ hl => hl

/-- A comparison. -/
theorem laneMask_writes (f : LA) (g : (Nat → W32) → (Nat → W32) → Nat → Bool × FFlags)
    (hfl : ∀ a b ls, flagsOver ls (fun l => (g a b l).2) &&& (s.com (.wave w)).fpctl = 0) :
    (s.laneMask (.wave w) f g).Writes s w { m := [f.d.toNat % 8] } := by
  unfold State.laneMask
  split
  · exact writes_stall s w _
  · next hsrc =>
    simp only [fpTrap_none (hfl _ _ _)]
    exact .inr ⟨_, rfl, effect_orFpst (effect_setWave (laneSources_pops hsrc) (setMask_writes _ _ _ (by simp))) _⟩

theorem maskOp_writes (f : AForm) (op : Mask → Mask → Mask) : (s.maskOp (.wave w) f op).Writes s w { m := [(toLA 0x25 f).d.toNat % 8] } :=
  writes_done (popsOnly_refl s w fun _ => False) (setMask_writes _ _ _ (by simp))

theorem maskCount_writes (f : AForm) (op : Mask → Nat) : (s.maskCount (.wave w) f op).Writes s w { k := [(toLA 0x25 f).d.toNat] } :=
  writes_done (popsOnly_refl s w fun _ => False) (setK_writes _ _ _ (by simp))

/-- The list instructions. -/
theorem listDst_writes (hpop : s.PopsOnly t w taken) (f : LA) (r : Nat → W32) (count : W64) :
    (Res.done (t.listDst w f r count)).Writes s w (Spec.writtenList f) := by
  have hlanes : (t.wave w).Writes ((t.wave w).setV f.d.toNat (Lanes.gen r)) (Spec.writtenList f) (s.active (.wave w) (Spec.writtenList f).msel) :=
    setV_writes _ _ _ (by simp [Spec.writtenList]) rfl
  refine writes_done hpop ?_
  dsimp only
  split
  · next hkc => exact waveWrites_trans hlanes (setK_writes _ _ _ (by simp [Spec.writtenList, hkc]))
  · exact hlanes

/-- Results in consecutive registers. -/
theorem setRun_done (hpop : s.PopsOnly t w taken) (f : LA) (rs : List (Nat → W32)) :
    (Res.done (t.modWave w (fun x => x.setRun f.d.toNat (s.active (.wave w) f.msel) rs))).Writes s w
      { v := (List.range rs.length).map (f.d.toNat + ·), msel := f.msel } :=
  writes_done hpop (setRun_writes _ _ _ fun _ hi => List.mem_map_of_mem (List.mem_range.2 hi))

end

end Sys2Proof.Machine
end

section
open Sys2Proof Sys2Proof.Machine

namespace Sys2Proof.Machine

/-! ### The writers, one by one (R171, R175, R176, R179, R187 to R191, R319 to R324) -/

/-- Instruction `i` of wave `w` has an effect that writes `d`, or waits. -/
def State.RunsWriter (s : State) (w : Nat) (i : Instr) (d : Spec.Written) : Prop :=
  ∃ F, exec i s = runA s i F ∧ (F (s.begunA (.wave w)) (.wave w)).Writes (s.begunA (.wave w)) w d

section
variable {s : State} {w : Nat}

theorem pairSrc_pops {t : State} {kind : Bool} {code : BitVec 8} {a : Nat → W64} (h : s.pairSrc w kind code = some (a, t)) :
    s.PopsOnly t w (fun _ => True) := by
  unfold State.pairSrc at h
  dsimp only at h
  split at h
  · split at h
    · obtain ⟨-, rfl⟩ := Prod.mk.inj (Option.some.inj h)
      exact popsOnly_refl s w _
    · split at h
      · cases h
      · next hlo =>
        split at h
        · cases h
        · next hhi =>
          obtain ⟨-, rfl⟩ := Prod.mk.inj (Option.some.inj h)
          obtain ⟨l, rfl⟩ := popLq_only hlo
          obtain ⟨l', rfl⟩ := popLq_only hhi
          exact ⟨untouched_setWave s w _ (sameSpecials_refl _) ⟨rfl, rfl, rfl⟩, _, wave_setWave .., fun q hq => absurd trivial hq⟩
  · obtain ⟨-, rfl⟩ := Prod.mk.inj (Option.some.inj h)
    exact popsOnly_refl s w _

theorem vcmp_writes (f : LA) : s.RunsWriter w (.vcmp f) { m := [f.d.toNat % 8] } :=
  ⟨_, rfl, laneMask_writes f _ fun _ _ _ => by rw [flagsOver_zero fun _ _ => rfl]; exact BitVec.zero_and⟩

theorem fcmp_writes (f : LA) (hctl : (s.com (.wave w)).fpctl = 0) : s.RunsWriter w (.fcmp f) { m := [f.d.toNat % 8] } :=
  ⟨_, rfl, laneMask_writes f _ fun _ _ _ => by rw [(kept_begunA s _).fpctl, hctl]; exact BitVec.and_zero⟩

theorem vmovk_writes (f : AForm) :
    s.RunsWriter w (.vmovk f) { v := (List.range 2).map ((toLA 0x12 f).d.toNat + ·), msel := (toLA 0x12 f).msel } :=
  ⟨_, rfl, setRun_done (popsOnly_refl _ w fun _ => False) (toLA 0x12 f) [_, _]⟩

theorem phlx_writes (f : AForm) :
    s.RunsWriter w (.phlx f) { v := (List.range 4).map ((toLA 0x26 f).d.toNat + ·), msel := (toLA 0x26 f).msel } := by
  refine ⟨_, rfl, ?_⟩
  dsimp only
  split
  · exact writes_stall _ w _
  · next ha =>
    split
    · exact writes_stall _ w _
    · next hb => exact setRun_done (popsOnly_trans (pairSrc_pops ha) (pairSrc_pops hb)) (toLA 0x26 f) [_, _, _, _]

theorem bcst_writes (f : AForm) : s.RunsWriter w (.bcst f) (Spec.writtenAt (toLA 0x21 f)) := by
  refine ⟨_, rfl, ?_⟩
  dsimp only
  split
  · exact writes_stall _ w _
  · next hsrc => exact uniformDst_writes (laneSrc_pops hsrc) _ _ _ _ _ BitVec.zero_and

theorem redu_writes (f : AForm) (hflags : (s.com (.wave w)).fpctl = 0 ∨ (toLA 0x23 f).md.toNat % 8 < 6) :
    s.RunsWriter w (.redu f) (Spec.writtenAt (toLA 0x23 f)) := by
  refine ⟨_, rfl, ?_⟩
  dsimp only
  split
  · exact writes_stall _ w _
  · next a t hsrc =>
    refine uniformDst_writes (laneSrc_pops hsrc) _ _ _ _ _ ?_
    obtain hctl | hop := hflags
    · rw [(kept_begunA s _).fpctl, hctl]
      exact BitVec.and_zero
    · rw [flagsOver_zero fun i hi => ?_]
      · exact BitVec.zero_and
      · rw [List.getElem?_eq_getElem (List.mem_range.1 hi)]
        exact scanList_noFlags _ hop a none _ _ (List.getElem_mem _)

theorem vote_writes (f : AForm) : s.RunsWriter w (.vote f) (Spec.writtenAt (toLA 0x24 f)) := by
  refine ⟨_, rfl, ?_⟩
  dsimp only
  split
  · exact writes_stall _ w _
  · next hsrc =>
    split
    · exact uniformDst_writes (laneSrc_pops hsrc) _ _ _ _ _ BitVec.zero_and
    · exact uniformDst_writes (laneSrc_pops hsrc) _ _ _ _ _ BitVec.zero_and
    · exact uniformDst_writes (laneSrc_pops hsrc) _ _ _ _ _ BitVec.zero_and

theorem matchEq_writes (f : AForm) :
    s.RunsWriter w (.matchEq f) (if (toLA 0x32 f).md.getLsbD 0 then { m := [(toLA 0x32 f).d.toNat % 8] }
      else { v := (List.range 2).map ((toLA 0x32 f).d.toNat + ·), msel := (toLA 0x32 f).msel }) := by
  refine ⟨_, rfl, ?_⟩
  cases hsrc : (s.begunA (.wave w)).laneSrc (.wave w) (toLA 0x32 f).ka (toLA 0x32 f).a with
  | none =>
    simp only [hsrc]
    exact writes_stall _ w _
  | some x =>
    simp only [hsrc]
    by_cases hbit : (toLA 0x32 f).md.getLsbD 0 = true
    · rw [if_pos hbit, if_pos hbit]
      exact writes_done (laneSrc_pops hsrc) (setMask_writes _ _ _ (by simp))
    · rw [if_neg hbit, if_neg hbit]
      exact setRun_done (laneSrc_pops hsrc) (toLA 0x32 f) [_, _]

theorem getLsbD_ofLanes_of_notMem {ls : List Nat} {l : Nat} (h : l ∉ ls) : (Mask.ofLanes ls).getLsbD l = false := by
  have hfold : ∀ (ls : List Nat) (m : Mask), l ∉ ls →
      (ls.foldl (fun m l => m ||| BitVec.ofNat 64 (2 ^ l % 2 ^ 64)) m).getLsbD l = m.getLsbD l := by
    intro ls
    induction ls with
    | nil => exact fun _ _ => rfl
    | cons k ls ih =>
      intro m hl
      obtain ⟨hk, hls⟩ : l ≠ k ∧ l ∉ ls := by simpa using hl
      rw [List.foldl_cons, ih _ hls, BitVec.getLsbD_or, BitVec.getLsbD_ofNat, Nat.testBit_mod_two_pow, Nat.testBit_two_pow_of_ne (Ne.symm hk), Bool.and_false,
        Bool.and_false, Bool.or_false]
  rw [Mask.ofLanes, hfold ls 0 h]
  simp

theorem getLsbD_ofLanes_filter (act : Mask) (p : Nat → Bool) (l : Nat) (h : act.getLsbD l = false) :
    (Mask.ofLanes ((Mask.lanes act).filter p)).getLsbD l = false :=
  getLsbD_ofLanes_of_notMem fun hl => by simp [Mask.lanes, h] at hl

theorem pack_writes (f : LA) : s.RunsWriter w (.pack f) (Spec.writtenAt f) := by
  refine ⟨_, rfl, ?_⟩
  dsimp only
  split
  · exact writes_stall _ w _
  · next hsrc => exact laneEnd_writes (laneSrc_pops hsrc) f _ _ _ _ BitVec.zero_and fun l hl => getLsbD_ofLanes_filter _ _ l hl

theorem unpack_writes (f : LA) : s.RunsWriter w (.unpack f) (Spec.writtenAt f) := by
  refine ⟨_, rfl, ?_⟩
  dsimp only
  split
  · exact writes_stall _ w _
  · next hsrc => exact laneEnd_writes (laneSrc_pops hsrc) f _ _ _ _ BitVec.zero_and fun _ hl => hl

/-- The list instructions with one source. -/
theorem list_writes (f : AForm) : s.RunsWriter w (.cmpx f) (Spec.writtenList (toLA 0x34 f)) ∧ s.RunsWriter w (.expd f) (Spec.writtenList (toLA 0x34 f)) ∧
    s.RunsWriter w (.bmrg f) (Spec.writtenList (toLA 0x35 f)) := by
  refine ⟨⟨_, rfl, ?_⟩, ⟨_, rfl, ?_⟩, ⟨_, rfl, ?_⟩⟩
  all_goals
    dsimp only
    split
    · exact writes_stall _ w _
    · next hsrc => exact listDst_writes (laneSrc_pops hsrc) _ _ _

theorem isect_writes (f : AForm) : s.RunsWriter w (.isect f) (Spec.writtenList (toLA 0x36 f)) := by
  refine ⟨_, rfl, ?_⟩
  dsimp only
  split
  · exact writes_stall _ w _
  · next hsrc => exact listDst_writes (laneSources_pops hsrc) _ _ _

theorem nopA_writes : s.RunsWriter w .nopA {} :=
  ⟨_, rfl, .inr ⟨_, rfl, writes_of_kept (kept_refl _ _ _), id⟩⟩

/-- Every writer, a comparison or reduction of floats with its traps off. -/
theorem writers_run (f : AForm) (h : LA) : ∀ e ∈ Spec.writers f h,
    ((s.com (.wave w)).fpctl = 0 ∨ (e.1 ≠ .fcmp h ∧ (e.1 ≠ .redu f ∨ (toLA 0x23 f).md.toNat % 8 < 6))) → s.RunsWriter w e.1 e.2 := by
  obtain ⟨hcmpx, hexpd, hbmrg⟩ := list_writes (s := s) (w := w) f
  simp only [Spec.writers, List.forall_mem_cons, List.not_mem_nil, false_implies, implies_true, and_true]
  refine ⟨fun _ => vcmp_writes h, fun hctl => fcmp_writes h ?_, fun _ => ⟨_, rfl, maskOp_writes f _⟩, fun _ => ⟨_, rfl, maskOp_writes f _⟩,
    fun _ => ⟨_, rfl, maskOp_writes f _⟩, fun _ => ⟨_, rfl, maskOp_writes f _⟩, fun _ => ⟨_, rfl, maskCount_writes f _⟩,
    fun _ => ⟨_, rfl, maskCount_writes f _⟩, fun _ => vmovk_writes f, fun _ => phlx_writes f, fun _ => bcst_writes f,
    fun hctl => redu_writes f ?_, fun _ => vote_writes f, fun _ => matchEq_writes f, fun _ => pack_writes h, fun _ => unpack_writes h,
    fun _ => hcmpx, fun _ => hexpd, fun _ => hbmrg, fun _ => isect_writes f, fun _ => nopA_writes⟩
  · exact hctl.resolve_right fun hne => hne.1 rfl
  · exact hctl.imp_right fun hne => hne.2.resolve_left fun hne => hne rfl

end

theorem laneWriters : Spec.LaneWriters := by
  intro s t w f h u halone hafter hstep e he hctl hexec
  obtain ⟨F, hrun, hwrites⟩ := writers_run f h e he hctl
  obtain ⟨hu, hregs, hmasks, hlanes⟩ := writes_of_runA halone ⟨hafter, hstep⟩ hwrites (hrun.symm.trans hexec)
  exact ⟨hu, hregs, hmasks, hlanes⟩

/-! ### PHLX, PACK and UNPACK of a thread -/

theorem kept_setReg (s : State) (n d : Nat) (x : W64) (ds : List Nat) (h : d ∈ ds) : Spec.Kept s (s.setReg (.thread n) d x) (.thread n) ds := by
  have hc : ((s.thread n).setReg d x).c = (s.thread n).c := by
    unfold Thread.setReg
    split <;> rfl
  refine kept_setThread s n _ ds (by rw [hc]; exact sameSpecials_refl _) (by rw [hc]) fun r hr => ?_
  exact thread_reg_setReg_ne _ _ _ _ fun e => hr (e ▸ h)

/-- An A-slot of a thread whose effect `e` writes the registers `ds`. -/
theorem kept_of_runA {s e t : State} {n : Nat} {i : Instr} {ds : List Nat} {F : State → UnitId → Res} (halone : AloneA s (.thread n))
    (hdue : s.noneDue (.thread n)) (hdone : F (s.begunA (.thread n)) (.thread n) = .done e) (hkept : Spec.Kept (s.begunA (.thread n)) e (.thread n) ds)
    (hcom : e.com (.thread n) = (s.begunA (.thread n)).com (.thread n)) (hexec : runA s i F = .next t) : Spec.Kept s t (.thread n) ds := by
  obtain rfl := Host.Outcome.next.inj ((runA_done halone hdone).symm.trans hexec)
  have hend : Spec.Kept e (s.afterA (.thread n) i e) (.thread n) [] := kept_afterA (noneDue_of_com (noneDue_begunA hdue) hcom)
  exact kept_trans (kept_mono (kept_begunA s _) (by simp)) (kept_trans hkept (kept_mono hend (by simp)))

theorem threadWriters : Spec.ThreadWriters := by
  intro s t n f h u halone hafter hstep
  refine ⟨fun hexec => ?_, fun hexec => ?_, fun hexec => ?_⟩
  · refine kept_of_runA halone ⟨hafter, hstep⟩ rfl ?_ ?_ hexec
    · exact kept_trans (kept_setReg _ _ _ _ _ (by simp)) (kept_setReg _ _ _ _ _ (by simp))
    · rw [com_setReg, com_setReg]
  · exact kept_of_runA halone ⟨hafter, hstep⟩ rfl (kept_setReg _ _ _ _ _ (by simp)) (com_setReg ..) hexec
  · exact kept_of_runA halone ⟨hafter, hstep⟩ rfl (kept_setReg _ _ _ _ _ (by simp)) (com_setReg ..) hexec

end Sys2Proof.Machine

/-- Settles O49: the lane instructions from what each destination and source of them can change (`laneElement_frame`), the others from one rule for each
kind of destination (`writes_of_runA`). -/
theorem laneFrame : Obligations.LaneFrame := ⟨laneElements, laneWriters, threadWriters⟩
end

section
open Sys2Proof Sys2Proof.Machine

namespace Sys2Proof.Machine

/-! ### The scalar operations, in exact arithmetic (R87 to R94) -/

/-- The operation that a minor of CMAJ 0x01 or 0x02 runs; SEL, which chooses, stands aside (R92). -/
def wordOp : AluOp → WordOp
  | .add => opAdd | .sub => opSub | .and => opAnd | .or => opOr | .xor => opXor | .andn => opAndn | .shl => opShl | .shr => opShr
  | .sra => opSra | .rot => opRot | .shladd1 => opShladd 1 | .shladd2 => opShladd 2 | .shladd3 => opShladd 3 | .shladd4 => opShladd 4
  | .min => opMin | .max => opMax | .minn => opMinn | .maxn => opMaxn | .slt => opSlt | .sltn => opSltn | .seq => opSeq
  | .sel => fun _ _ b => b
  | .mul => opMul | .mulh => opMulh | .mulhn => opMulhn | .div => opDiv | .divn => opDivn | .rem => opRem | .remn => opRemn

/-- A minor runs its operation, as a division (R94) or not, or it is SEL. -/
theorem aluOp_eq (s : State) (u : UnitId) (op : AluOp) (d a : Reg6) (w : Bool) (b : W64) :
    s.aluOp u op d a w b =
      if op = .sel then s.select u d a b
      else if Spec.divides op then s.divide u d a w b (wordOp op) (op == .div)
      else s.alu u d a w b (wordOp op) := by
  cases op <;> rfl

section
variable {n : Nat} (a b : BitVec n)

theorem ofNat_toNat_mul_two_pow (k : Nat) : BitVec.ofNat n (a.toNat * 2 ^ k) = a <<< k := by
  refine BitVec.eq_of_toNat_eq ?_
  rw [BitVec.toNat_ofNat, BitVec.toNat_shiftLeft, Nat.shiftLeft_eq]

theorem ofNat_toNat_div_two_pow (k : Nat) : BitVec.ofNat n (a.toNat / 2 ^ k) = a >>> k := by
  rw [← Nat.shiftRight_eq_div_pow, ← BitVec.toNat_ushiftRight, BitVec.ofNat_toNat, BitVec.setWidth_eq]

theorem ofInt_toInt_div_two_pow (k : Nat) : BitVec.ofInt n (a.toInt / 2 ^ k) = a.sshiftRight k := by
  rw [BitVec.sshiftRight, Int.shiftRight_eq_div_pow]
  norm_cast

theorem opShladd_eq (k : Nat) : opShladd k n a b = BitVec.ofNat n (a.toNat * 2 ^ k + b.toNat) := by
  rw [opShladd, BitVec.ofNat_add, ofNat_toNat_mul_two_pow, BitVec.ofNat_toNat, BitVec.setWidth_eq]

/-- The model turns a shift right by n into one by 0. -/
theorem opRot_eq (hn : 0 < n) : opRot n a b = a.rotateLeft (b.toNat % n) := by
  have hc : b.toNat % n < n := Nat.mod_lt _ hn
  rw [BitVec.rotateLeft_eq_rotateLeftAux_of_lt hc]
  unfold opRot BitVec.rotateLeftAux
  dsimp only
  obtain h0 | h0 := Nat.eq_zero_or_pos (b.toNat % n)
  · simp [h0, BitVec.ushiftRight_eq_zero]
  · rw [Nat.mod_eq_of_lt (show n - b.toNat % n < n by omega)]

theorem intMax_true (n : Nat) : intMax true n = 2 ^ (n - 1) - 1 := by simp [intMax]

theorem intMin_true (n : Nat) : intMin true n = -2 ^ (n - 1) := by simp [intMin]

theorem opDiv_eq : opDiv n a b = Spec.alu .div n a b := by
  rw [opDiv, intMax_true, intMin_true]
  rfl

theorem opRem_eq : opRem n a b = Spec.alu .rem n a b := by
  rw [opRem, intMin_true, mul_comm, ← Int.tmod_def]
  rfl

/-- Each operation gives the result of its rule, at every width. -/
theorem wordOp_eq (op : AluOp) (hn : 0 < n) : wordOp op n a b = Spec.alu op n a b := by
  cases op with
  | shl => exact (ofNat_toNat_mul_two_pow a _).symm
  | shr => exact (ofNat_toNat_div_two_pow a _).symm
  | sra => exact (ofInt_toInt_div_two_pow a _).symm
  | rot => exact opRot_eq a b hn
  | shladd1 => exact opShladd_eq a b 1
  | shladd2 => exact opShladd_eq a b 2
  | shladd3 => exact opShladd_eq a b 3
  | shladd4 => exact opShladd_eq a b 4
  | sub => exact BitVec.eq_of_toInt_eq ((BitVec.toInt_sub ..).trans (BitVec.toInt_ofInt ..).symm)
  | mul => simp [wordOp, opMul, Spec.alu, BitVec.ofInt_mul]
  | mulh => simp [wordOp, opMulh, Spec.alu]
  | min | max | slt => simp [wordOp, opMin, opMax, opSlt, Spec.alu, BitVec.slt_iff_toInt_lt]
  | minn | maxn | sltn => simp [wordOp, opMinn, opMaxn, opSltn, Spec.alu, BitVec.ult_iff_toNat_lt]
  | div => exact opDiv_eq a b
  | rem => exact opRem_eq a b
  | divn =>
    rw [wordOp, opDivn, BitVec.allOnes, BitVec.ofNatLT_eq_ofNat]
    rfl
  | add | and | or | xor | andn | seq | sel | mulhn | remn => rfl

/-- The count of leading zeros, bit by bit (R96). -/
theorem opClz_eq : opClz n a b = BitVec.ofNat n (((List.range n).map (fun k => a.getLsbD (n - 1 - k))).takeWhile (! ·)).length := by
  have hbits : (bitsLE n a.toNat).reverse = (List.range n).map (fun k => a.getLsbD (n - 1 - k)) := by
    rw [bitsLE_eq, ← List.map_reverse, List.range_eq_range', List.reverse_range', ← List.range_eq_range', List.map_map]
    simp only [Nat.zero_add]
    rfl
  rw [opClz, hbits]
  congr 3
  funext c
  cases c <;> rfl

theorem opCtz_eq : opCtz n a b = BitVec.ofNat n (((List.range n).map (fun k => a.getLsbD k)).takeWhile (! ·)).length := by
  rw [opCtz, bitsLE_eq]
  congr 3
  funext c
  cases c <;> rfl

theorem opPopc_eq : opPopc n a b = BitVec.ofNat n ((List.range n).filter (fun k => a.getLsbD k)).length := by
  rw [opPopc, popCount, bitsLE_eq, List.filter_map, List.length_map]
  rfl

end

/-! ### D of the scalar operations (R84) -/

theorem aluD_eq (op : AluOp) (w : Bool) (a b : W64) : widthForm w (wordOp op) a b = Spec.aluD op w a b := by
  simp only [widthForm, Spec.aluD, lo32_eq, wordOp_eq _ _ op (show 0 < 32 by decide), wordOp_eq _ _ op (show 0 < 64 by decide)]

/-- A unary instruction whose rule is `f` at every width. -/
theorem unaryD_eq {i : Instr} {f : WordOp} (h : ∀ n (a : BitVec n), Spec.unary i n a = some (f n a 0)) (w : Bool) (a : W64) :
    Spec.unaryD i w a = some (widthForm w f a 0) := by
  cases w
  · exact h 64 a
  · simp only [Spec.unaryD, h, widthForm, lo32_eq, if_true, Option.map_some]
    rfl

theorem divZero_eq {op : AluOp} (hop : Spec.divides op = true) (w : Bool) (b : W64) : divZero w b = Spec.setsDz op w b := by
  rw [divZero, Spec.setsDz, hop, Bool.true_and, lo32_eq]

theorem divOver_eq (op : AluOp) (w : Bool) (a b : W64) : (op == .div && divOver w a b) = Spec.setsOv op w a b := by
  rw [divOver, Spec.setsOv, lo32_eq, lo32_eq]
  rfl

/-! ### What a scalar operation leaves (R80, R84, R92) -/

theorem kind_of_plain {op : AluOp} : Spec.plain op = true → op ≠ .sel ∧ Spec.divides op = false := by
  cases op <;> decide

section
variable {s : State} {u : UnitId} {d a : Reg6} {w : Bool} {b : W64}

theorem aluOp_plain {op : AluOp} (hop : Spec.plain op = true) :
    s.aluOp u op d a w b = s.setReg u d.toNat (Spec.aluD op w (s.reg u a.toNat) b) := by
  obtain ⟨hsel, hdiv⟩ := kind_of_plain hop
  rw [aluOp_eq, if_neg hsel, hdiv, State.alu, aluD_eq]
  rfl

theorem aluOp_divides {op : AluOp} (hop : Spec.divides op = true) :
    s.aluOp u op d a w b = (s.setReg u d.toNat (Spec.aluD op w (s.reg u a.toNat) b)).orSstat u
      (Spec.setsDz op w b) (Spec.setsOv op w (s.reg u a.toNat) b) := by
  have hsel : op ≠ .sel := by rintro rfl; cases hop
  rw [aluOp_eq, if_neg hsel, if_pos hop, State.divide, State.alu, aluD_eq, divZero_eq hop, divOver_eq]

theorem select_eq :
    s.select u d a b = s.setReg u d.toNat (if s.reg u d.toNat = 0 then b else s.reg u a.toNat) := by
  rw [State.select, ite_not]

end

/-! ### Constants and fields of bits (R97, R98) -/

theorem join64_eq (lo hi : W32) : join64 lo hi = hi ++ lo := by
  refine BitVec.eq_of_getLsbD_eq fun i hi' => ?_
  rw [BitVec.getLsbD_append]
  by_cases h : i < 32
  · simp [join64, h, hi']
  · simp [join64, h, hi', BitVec.getLsbD_of_ge lo i (Nat.le_of_not_lt h)]

theorem bextVal_eq (a : W64) (sx : Bool) (lenm1 pos : BitVec 6) : bextVal a sx lenm1 pos = Spec.bext a sx lenm1 pos := by
  simp only [bextVal, signExtInt, Nat.mod_mod, Nat.cast_pow, Nat.cast_ofNat]
  rfl

theorem binsVal_eq (d a : W64) (lenm1 pos : BitVec 6) : binsVal d a lenm1 pos = Spec.bins d a lenm1 pos := by
  have hmask : (BitVec.ofNat 64 (2 ^ fieldWidth lenm1 pos - 1) : W64) <<< pos.toNat =
      BitVec.ofNat 64 ((2 ^ fieldWidth lenm1 pos - 1) * 2 ^ pos.toNat) := by
    rw [← ofNat_toNat_mul_two_pow]
    refine BitVec.eq_of_toNat_eq ?_
    rw [BitVec.toNat_ofNat, BitVec.toNat_ofNat, BitVec.toNat_ofNat, Nat.mod_mul_mod]
  rw [binsVal, hmask, ← ofNat_toNat_mul_two_pow]
  rfl

end Sys2Proof.Machine
end

section
open Sys2Proof Sys2Proof.Machine

namespace Sys2Proof.Machine

/-! ### The scalar instructions complete (R84 to R98) -/

/-- An instruction on two registers runs the operation of its minor. -/
theorem exec_aluInstr (op : AluOp) (d a b : Reg6) (w : Bool) (s : State) :
    exec (aluInstr op d a b w) s = runC s (aluInstr op d a b w) (fun s u => .done (s.aluOp u op d a w (s.reg u b.toNat))) := by
  cases op <;> rfl

section
variable {s : State} {u : UnitId} (h : Alone s u)
include h

theorem aluInstr_done (op : AluOp) (d a b : Reg6) (w : Bool) :
    exec (aluInstr op d a b w) s = .next (s.afterC u (aluInstr op d a b w) ((s.begun u).aluOp u op d a w (s.reg u b.toNat))) := by
  rw [exec_aluInstr, ← reg_begun s u b.toNat]
  exact runC_done h rfl

/-- The extension word stands for B (R86). -/
theorem aluImmediateLone_done (op : AluOp) (d a : Reg6) (w : Bool) (v : W32) :
    exec (.aluImmediateLone op d a w v) s = .next (s.afterC u (.aluImmediateLone op d a w v) ((s.begun u).aluOp u op d a w (v.signExtend 64))) :=
  runC_done h rfl

end

theorem scalarImmediates : Spec.ScalarImmediates := by
  intro s u op d a b w v h
  refine ⟨fun hop => ?_, fun hop => ?_, ?_, ?_⟩
  · rw [aluImmediateLone_done h, aluOp_plain hop, reg_begun]
  · rw [aluImmediateLone_done h, aluOp_divides hop, reg_begun]
  · rw [aluImmediateLone_done h, State.aluOp, select_eq, reg_begun, reg_begun]
  · have hsel : exec (.sel d a b) s = .next (s.afterC u (.sel d a b) ((s.begun u).select u d a ((s.begun u).reg u b.toNat))) := runC_done h rfl
    rw [hsel, select_eq, reg_begun, reg_begun, reg_begun]

/-- A unary instruction that runs the operation of its rule. -/
theorem unary_done {s : State} {u : UnitId} {i : Instr} {d a : Reg6} {w : Bool} {f : WordOp} {x : W64} (h : Alone s u)
    (hexec : exec i s = runC s i (fun s u => .done (s.alu u d a w 0 f))) (hrule : ∀ n (a : BitVec n), Spec.unary i n a = some (f n a 0))
    (hx : Spec.unaryD i w (s.reg u a.toNat) = some x) : exec i s = .next (s.afterC u i ((s.begun u).setReg u d.toNat x)) := by
  have hx : widthForm w f (s.reg u a.toNat) 0 = x := Option.some.inj ((unaryD_eq hrule w _).symm.trans hx)
  rw [hexec, runC_done h rfl, State.alu, reg_begun, hx]

theorem scalarUnary : Spec.ScalarUnary := by
  rintro s u d a w i x (rfl | rfl | rfl | rfl | rfl) hx h
  · exact unary_done h rfl (fun n y => congrArg some (opClz_eq y 0).symm) hx
  · exact unary_done h rfl (fun n y => congrArg some (opCtz_eq y 0).symm) hx
  · exact unary_done h rfl (fun n y => congrArg some (opPopc_eq y 0).symm) hx
  · exact unary_done h (f := opBrev) rfl (fun _ _ => rfl) hx
  · exact unary_done h (f := opBswp) rfl (fun _ _ => rfl) hx

/-- An instruction that writes D alone. -/
theorem setReg_done {s : State} {u : UnitId} {i : Instr} {d : Reg6} {F : State → UnitId → W64} {x : W64} (h : Alone s u)
    (hexec : exec i s = runC s i (fun s u => .done (s.setReg u d.toNat (F s u)))) (hx : F (s.begun u) u = x) :
    exec i s = .next (s.afterC u i ((s.begun u).setReg u d.toNat x)) := by
  rw [hexec, runC_done h rfl, hx]

theorem scalarConstants : Spec.ScalarConstants := by
  intro s u d a imm13 imm19 imm sx lenm1 pos h
  refine ⟨setReg_done h rfl ?_, setReg_done h rfl ?_, setReg_done h rfl rfl, setReg_done h rfl rfl, setReg_done h rfl ?_, setReg_done h rfl ?_,
    setReg_done h rfl ?_, setReg_done h rfl ?_⟩
  · rw [reg_begun]
  · rw [reg_begun, immOf]
  · rw [reg_begun, join64_eq, lo32_eq]
  · rw [reg_begun, join64_eq, lo32_eq]
  · rw [reg_begun, bextVal_eq]
  · rw [reg_begun, reg_begun, binsVal_eq]

end Sys2Proof.Machine

/-- Settles O2: each operation gives the result of its rule at every width (`wordOp_eq`). -/
theorem scalarResults : Obligations.ScalarResults := by
  intro s u op d a b w hop h
  rw [aluInstr_done h, aluOp_plain hop, reg_begun]

/-- Settles O3: a division writes D and joins its two flags to SSTAT (`aluOp_divides`). -/
theorem scalarDivisions : Obligations.ScalarDivisions := by
  intro s u op d a b w hop h
  rw [aluInstr_done h, aluOp_divides hop, reg_begun]

/-- Settles O4: the lone forms and SEL, the bit counts, the constants and bit fields. -/
theorem scalarForms : Obligations.ScalarForms := ⟨scalarImmediates, scalarUnary, scalarConstants⟩
end

section
open Sys2Proof Sys2Proof.Machine

namespace Sys2Proof.Machine

/-! ### What follows the effect of a C-slot changes no register and no flag -/

/-- Unit `u` goes on: its PC moves, its Vale counts, and no register changes, nor FPST, nor SSTAT (R79). -/
structure State.GoesOn (s t : State) (u : UnitId) : Prop extends Spec.Kept s t u [] where
  dz : (t.com u).dz = (s.com u).dz
  ov : (t.com u).ov = (s.com u).ov

section
variable {s t r : State} {u : UnitId}

theorem goesOn_trans (h : s.GoesOn t u) (k : t.GoesOn r u) : s.GoesOn r u :=
  ⟨kept_trans h.toKept k.toKept, k.dz.trans h.dz, k.ov.trans h.ov⟩

theorem goesOn_of_com (h : Spec.Kept s t u []) (hcom : t.com u = s.com u) : s.GoesOn t u := ⟨h, by rw [hcom], by rw [hcom]⟩

theorem goesOn_modCom (s : State) (u : UnitId) (g : Common → Common) (h : ∀ c : Common, c.sameSpecials (g c))
    (hflags : ∀ c : Common, (g c).fpst = c.fpst ∧ (g c).dz = c.dz ∧ (g c).ov = c.ov) : s.GoesOn (s.modCom u g) u := by
  refine ⟨kept_modCom s u g h fun c => (hflags c).1, ?_, ?_⟩
  · rw [modCom_eq, com_setCom, (hflags _).2.1]
  · rw [modCom_eq, com_setCom, (hflags _).2.2]

theorem com_countUnit (s : State) (u v : UnitId) (code : Nat) : (s.countUnit v code).com u = s.com u := by
  obtain ⟨vs, is, h⟩ := s.countEvents_only (s.unitVale v) (s.unitFunc v) code 1
  change (s.countEvents (s.unitVale v) (s.unitFunc v) code 1).com u = s.com u
  rw [h]
  cases u <;> rfl

theorem com_setPc (s : State) (u : UnitId) (pc : W64) : (s.setPc u pc).com u = s.com u := by
  cases u <;> simp [State.setPc, State.com]

theorem goesOn_endBundle (pc next : W64) (h : s.noneDue u) : s.GoesOn (s.endBundle u pc next) u := by
  obtain ⟨hafter, hstep⟩ := h
  unfold State.endBundle
  simp only [hafter, hstep, Bool.false_and, Bool.false_eq_true, if_false]
  refine goesOn_trans (goesOn_of_com (kept_countUnit s u u 0x002) (com_countUnit ..)) ?_
  refine goesOn_trans ?_ (goesOn_of_com (kept_setPc _ u _) (com_setPc ..))
  exact goesOn_modCom _ u _ (fun _ => ⟨rfl, rfl, rfl, rfl, rfl⟩) fun _ => ⟨rfl, rfl, rfl⟩

/-- A bundle of a wave ends that leaves its A-slot to the compute stream. -/
theorem goesOn_leadEnd {i : Nat} (lead : Wave → List LeadSlot) (pc next : W64) (h : s.noneDue (.wave i)) :
    s.GoesOn ((s.modWave i (fun w => { w with lead := lead w })).endBundle (.wave i) pc next) (.wave i) := by
  have hcom : (s.modWave i (fun w => { w with lead := lead w })).com (.wave i) = s.com (.wave i) := by simp [State.com]
  have hlead : s.GoesOn (s.modWave i (fun w => { w with lead := lead w })) (.wave i) :=
    goesOn_of_com (kept_setWave s i _ (sameSpecials_refl _) rfl ⟨rfl, rfl, rfl⟩ ⟨rfl, rfl, rfl, rfl, rfl⟩) hcom
  exact goesOn_trans hlead (goesOn_endBundle pc next (noneDue_of_com h hcom))

/-- The bundle ends, or a thread goes on to its A-slot, or a wave leaves that to its compute stream. -/
theorem goesOn_retireC (pc : W64) (target : Option W64) (ex : Mask) (h : s.noneDue u) : s.GoesOn (s.retireC u pc target ex) u := by
  have hdead : s.GoesOn (s.modCom u (fun c => { c with deadlock := none })) u :=
    goesOn_modCom s u _ (fun _ => sameSpecials_refl _) fun _ => ⟨rfl, rfl, rfl⟩
  have hdue : (s.modCom u (fun c => { c with deadlock := none })).noneDue u := by simpa [State.noneDue] using h
  unfold State.retireC
  dsimp only
  cases u with
  | thread i =>
    dsimp only
    split
    · refine goesOn_trans hdead (goesOn_of_com (kept_setThread _ i _ [] (sameSpecials_refl _) rfl fun _ _ => rfl) ?_)
      simp [State.com]
    · exact goesOn_trans hdead (goesOn_endBundle _ _ hdue)
  | wave i =>
    dsimp only
    split
    · exact goesOn_trans hdead (goesOn_endBundle _ _ hdue)
    · exact goesOn_trans hdead (goesOn_leadEnd _ _ _ hdue)

theorem goesOn_afterC {i : Instr} (h : t.noneDue u) : t.GoesOn (s.afterC u i t) u := by
  obtain ⟨hnote, hcom⟩ := kept_noteWrites t u (s.noted u i)
  exact goesOn_trans (goesOn_of_com hnote hcom) (goesOn_retireC _ _ _ (noneDue_of_com h hcom))

theorem goesOn_begun (s : State) (u : UnitId) : s.GoesOn (s.begun u) u :=
  goesOn_modCom s u _ (fun _ => sameSpecials_refl _) fun _ => ⟨rfl, rfl, rfl⟩

theorem noneDue_begun (h : Alone s u) : (s.begun u).noneDue u := by
  rw [State.noneDue, com_begun]
  exact ⟨h.due, h.steps⟩

end

/-! ### The effects: a register, and SSTAT -/

theorem setK_eq (x : Wave) (d : Nat) (v : W64) : ∃ k, x.setK d v = { x with k := k } := by
  unfold Wave.setK
  split
  · exact ⟨x.k, rfl⟩
  · exact ⟨_, rfl⟩

/-- A write of register `d` changes that register alone (R56). -/
theorem kept_setReg_unit (s : State) (u : UnitId) (d : Nat) (x : W64) : Spec.Kept s (s.setReg u d x) u [d] := by
  cases u with
  | thread n => exact kept_setReg s n d x [d] (List.mem_singleton_self d)
  | wave n =>
    have hregs (r : Nat) (hr : r ∉ [d]) := reg_setReg_ne s (.wave n) r d x fun e => hr (e ▸ List.mem_singleton_self d)
    obtain ⟨k, hk⟩ := setK_eq (s.wave n) d x
    have hset : s.setReg (.wave n) d x = s.setWave n { s.wave n with k := k } := congrArg (s.setWave n) hk
    rw [hset] at hregs ⊢
    refine { toUntouched := untouched_setWave s n _ (sameSpecials_refl _) ⟨rfl, rfl, rfl⟩, regs := hregs, fpst := ?_, files := fun w => ?_ }
    · simp only [State.com, wave_setWave]
    · by_cases hw : w = n
      · rw [hw, wave_setWave]
        exact ⟨rfl, rfl, rfl, rfl⟩
      · rw [wave_setWave_ne s n w _ hw]
        exact ⟨rfl, rfl, rfl, rfl⟩

theorem kept_orSstat (s : State) (u : UnitId) (dz ov : Bool) : Spec.Kept s (s.orSstat u dz ov) u [] :=
  kept_modCom s u _ (fun _ => sameSpecials_refl _) fun _ => rfl

/-! ### The frames of the register forms -/

section
variable {s t : State} {u : UnitId} {i : Instr}

/-- The slot of a unit that stands alone changes what its effect `e` changes. -/
theorem frame_of_afterC {e : State} {ds : List Nat} (hdone : exec i s = .next (s.afterC u i e)) (hexec : exec i s = .next t)
    (hkept : Spec.Kept (s.begun u) e u ds) (hdue : e.noneDue u) : Spec.Kept s t u ds ∧ e.GoesOn t u := by
  obtain rfl := Host.Outcome.next.inj (hdone.symm.trans hexec)
  have hgo : e.GoesOn (s.afterC u i e) u := goesOn_afterC hdue
  exact ⟨kept_trans (kept_mono (goesOn_begun s u).toKept (List.nil_subset _)) (kept_trans hkept (kept_mono hgo.toKept (List.nil_subset _))), hgo⟩

/-- A write of D alone. -/
theorem setReg_frame {d : Reg6} {x : W64} (h : Alone s u) (hdone : exec i s = .next (s.afterC u i ((s.begun u).setReg u d.toNat x)))
    (hexec : exec i s = .next t) : Spec.Kept s t u [d.toNat] ∧ (t.com u).dz = (s.com u).dz ∧ (t.com u).ov = (s.com u).ov := by
  have hcom : ((s.begun u).setReg u d.toNat x).com u = (s.begun u).com u := com_setReg ..
  obtain ⟨hkept, hgo⟩ := frame_of_afterC hdone hexec (kept_setReg_unit _ u _ x) (noneDue_of_com (noneDue_begun h) hcom)
  refine ⟨hkept, hgo.dz.trans ?_, hgo.ov.trans ?_⟩
  · rw [hcom, com_begun]
  · rw [hcom, com_begun]

/-- A write of D, with flags that join SSTAT. -/
theorem orSstat_frame {d : Reg6} {x : W64} {dz ov : Bool} (h : Alone s u)
    (hdone : exec i s = .next (s.afterC u i (((s.begun u).setReg u d.toNat x).orSstat u dz ov))) (hexec : exec i s = .next t) :
    Spec.Kept s t u [d.toNat] := by
  have hkept := kept_trans (kept_setReg_unit (s.begun u) u d.toNat x) (kept_mono (kept_orSstat _ u dz ov) (List.nil_subset _))
  refine (frame_of_afterC hdone hexec hkept ?_).1
  simpa [State.noneDue, State.orSstat] using noneDue_begun h

/-- The operations of CMAJ 0x01 and 0x02. -/
theorem aluOp_frame {op : AluOp} {d a : Reg6} {w : Bool} {b : W64} (h : Alone s u)
    (hdone : exec i s = .next (s.afterC u i ((s.begun u).aluOp u op d a w b))) (hexec : exec i s = .next t) :
    Spec.Kept s t u [d.toNat] ∧ (Spec.divides op = false → (t.com u).dz = (s.com u).dz ∧ (t.com u).ov = (s.com u).ov) := by
  rw [aluOp_eq] at hdone
  split_ifs at hdone with hsel hdiv
  · exact (setReg_frame h hdone hexec).imp_right fun hflags _ => hflags
  · exact ⟨orSstat_frame h hdone hexec, fun hdiv' => absurd (hdiv.symm.trans hdiv') (by decide)⟩
  · exact (setReg_frame h hdone hexec).imp_right fun hflags _ => hflags

theorem nopC_frame {lone : Bool} (h : Alone s u) (hexec : exec (.nopC lone) s = .next t) :
    Spec.Kept s t u [] ∧ (t.com u).dz = (s.com u).dz ∧ (t.com u).ov = (s.com u).ov := by
  have hdone : exec (.nopC lone) s = .next (s.afterC u (.nopC lone) (s.begun u)) := runC_done h rfl
  obtain ⟨hkept, hgo⟩ := frame_of_afterC hdone hexec (kept_refl _ u []) (noneDue_begun h)
  exact ⟨hkept, hgo.dz.trans (goesOn_begun s u).dz, hgo.ov.trans (goesOn_begun s u).ov⟩

end

/-- The register forms that write D and set no flag, whatever they compute. -/
def setRegForms (d a : Reg6) (w sx : Bool) (lenm1 pos : BitVec 6) (i13 : BitVec 13) (i19 : BitVec 19) (v : W32) : List Instr :=
  [.clz d a w, .ctz d a w, .popc d a w, .brev d a w, .bswp d a w, .addi d a i13, .addiLone d a v, .li d i19, .liLone d v, .lih d i19, .lihLone d v,
    .bext d a sx lenm1 pos, .bins d a lenm1 pos, .tsr d, .cpyq d a]

theorem setRegForms_done {s : State} {u : UnitId} (h : Alone s u) (d a : Reg6) (w sx : Bool) (lenm1 pos : BitVec 6) (i13 : BitVec 13)
    (i19 : BitVec 19) (v : W32) :
    ∀ i ∈ setRegForms d a w sx lenm1 pos i13 i19 v, ∃ x, exec i s = .next (s.afterC u i ((s.begun u).setReg u d.toNat x)) := by
  simp only [setRegForms, List.forall_mem_cons, List.not_mem_nil, false_implies, implies_true, and_true]
  and_intros <;> exact ⟨_, setReg_done h rfl rfl⟩

end Sys2Proof.Machine

/-- Settles O48: the effect writes D (`setReg_frame`), with SSTAT for a division (`orSstat_frame`), and the end of the slot changes neither
(`goesOn_afterC`). -/
theorem registerFrame : Obligations.RegisterFrame := by
  intro s t u op d a b w sx lone lenm1 pos i13 i19 v i h hi hexec
  by_cases hnop : i = .nopC lone
  · subst hnop
    rw [if_pos rfl]
    exact (nopC_frame h hexec).imp_right fun hflags _ => hflags
  rw [if_neg hnop]
  have hcases : i = aluInstr op d a b w ∨ i = .aluImmediateLone op d a w v ∨ i ∈ setRegForms d a w sx lenm1 pos i13 i19 v := by
    simpa only [setRegForms, List.mem_cons, List.not_mem_nil, or_false, hnop, false_or] using hi
  obtain rfl | rfl | hform := hcases
  · exact aluOp_frame h (aluInstr_done h ..) hexec
  · exact aluOp_frame h (aluImmediateLone_done h ..) hexec
  · obtain ⟨x, hdone⟩ := setRegForms_done h d a w sx lenm1 pos i13 i19 v i hform
    exact (setReg_frame h hdone hexec).imp_right fun hflags _ => hflags
end

section
open Sys2Proof Sys2Proof.Machine

namespace Sys2Proof.Machine

/-! ### What a C-slot begins with (R103, R106, R107) -/

/-- An instruction that a repeat body may not hold stands outside one (R107). -/
theorem bodyTrap_begun {s : State} {u : UnitId} (h : (s.com u).rpt.act = false) (r : Res) : (s.begun u).bodyTrap u r = r := by
  rw [State.bodyTrap, com_begun, h]
  exact if_neg Bool.false_ne_true

/-- The target of an offset (R102). -/
theorem relTarget_begun (s : State) (u : UnitId) (off : W64) : (s.begun u).relTarget u off = Spec.relative s u off := by
  rw [State.relTarget, Spec.relative, pcOf_begun, BitVec.shiftLeft_eq_mul_twoPow]
  rfl

theorem targetBad_reachable {t : W64} (h : Spec.reachable t) : targetBad t = false := decide_eq_false (Nat.not_le.mpr h)

/-- A register target that is a multiple of 8 (R103). -/
theorem aligned_multiple {t : W64} (h : t &&& 7 = 0) (s : State) (r : Res) : s.aligned t r = r := by
  rw [State.aligned, h]
  rfl

/-- Only what is shared with threads changes of a wave as its slot begins. -/
theorem wave_begun (s : State) (w : Nat) :
    (s.begun (.wave w)).wave w = { s.wave w with c := { (s.wave w).c with body := (s.wave w).c.rpt.act } } :=
  wave_setWave s w _

theorem thread_begun (s : State) (t : Nat) :
    (s.begun (.thread t)).thread t = { s.thread t with c := { (s.thread t).c with body := (s.thread t).c.rpt.act } } :=
  thread_setThread s t _

/-! ### Transfers (R102, R103, R107, R133) -/

/-- A taken transfer on one path ends an active repeat and goes to its target: the spin detector does not watch it. -/
theorem taken_onePath {s : State} {u : UnitId} {t : W64} (hpath : Spec.onePath s u) (h : Spec.reachable t) :
    (s.begun u).taken u t = .goto (Spec.leaveRepeat s u) t := by
  rw [State.taken, targetBad_reachable h]
  cases u with
  | thread n => rfl
  | wave w =>
    have hwatched : (s.begun (.wave w)).spinWatched w ((s.begun (.wave w)).pcOf (.wave w)) t = false := by
      rw [State.spinWatched, wave_begun, hpath w rfl]
      rfl
    simp only [hwatched]
    rfl

theorem condHolds_iff (c : Cond) (a b : W64) : condHolds c a b = true ↔ Spec.holds c a b := by
  cases c <;> simp [condHolds, Spec.holds, BitVec.slt_eq_decide, BitVec.ult_eq_decide]

/-- A BC whose condition holds transfers (R102). -/
theorem branch_taken {s : State} {u : UnitId} {c : Cond} {a b : Reg6} {off : W64} (hpath : Spec.onePath s u)
    (h : Spec.reachable (Spec.relative s u off)) (hc : Spec.holds c (s.reg u a.toNat) (s.reg u b.toNat)) :
    (s.begun u).branch u c a b off = .goto (Spec.leaveRepeat s u) (Spec.relative s u off) := by
  rw [State.branch, reg_begun, reg_begun, if_pos ((condHolds_iff c _ _).mpr hc), relTarget_begun, taken_onePath hpath h]

/-- A BC whose condition fails does nothing. -/
theorem branch_fails {s : State} {u : UnitId} {c : Cond} {a b : Reg6} (off : W64)
    (hc : ¬ Spec.holds c (s.reg u a.toNat) (s.reg u b.toNat)) : (s.begun u).branch u c a b off = .done (s.begun u) := by
  rw [State.branch, reg_begun, reg_begun, if_neg fun h => hc ((condHolds_iff c _ _).mp h)]

/-- R102, R103, R107. -/
theorem transfers : Spec.Transfers := by
  intro s u h hpath
  refine ⟨fun lone => runC_done h rfl, fun off hoff => runC_goto h ?_, fun off hout hoff => runC_goto h ?_,
    fun c a b off hoff hc => runC_goto h (branch_taken hpath hoff hc), fun c a b off hc => runC_done h (branch_fails _ hc),
    fun c a b off hoff hc => runC_goto h (branch_taken hpath hoff hc), fun c a b off hc => runC_done h (branch_fails _ hc),
    fun d a ha halign => runC_goto h ?_, fun a ha halign => runC_goto h ?_⟩
  · rw [relTarget_begun, taken_onePath hpath hoff]
  · rw [bodyTrap_begun hout, relTarget_begun, targetBad_reachable hoff, pcOf_begun]
    rfl
  · rw [reg_begun, aligned_multiple halign, taken_onePath hpath ha, pcOf_begun]
  · rw [reg_begun, aligned_multiple halign, taken_onePath hpath ha]

/-! ### The repeat buffer (R106, R107) -/

section
variable {s : State} {u : UnitId} {lenm1 : Reg6} {n : W32} (hout : (s.com u).rpt.act = false)
include hout

/-- RPT arms the repeat buffer. -/
theorem repeatBody_arms (hn : n ≠ 0) : (s.begun u).repeatBody u lenm1 n =
    .done ((s.begun u).modCom u (fun c => { c with rpt := { act := true, lenm1 := lenm1, pos := 0, rc := n } })) := by
  rw [State.repeatBody, bodyTrap_begun hout, if_neg hn]

/-- RPT with a count of 0 passes over the body. -/
theorem repeatBody_passes (hn : n = 0) : (s.begun u).repeatBody u lenm1 n =
    .goto (s.begun u) (s.pcOf u + (lenm1.zeroExtend 64 + 2) * 8) := by
  rw [State.repeatBody, bodyTrap_begun hout, if_pos hn, pcOf_begun, BitVec.shiftLeft_eq_mul_twoPow]
  rfl

end

/-- R106, R107. -/
theorem repeats : Spec.Repeats := by
  intro s u lenm1 h
  refine ⟨fun hout a => ?_, fun hout n => ⟨fun hn => runC_done h (repeatBody_arms hout hn), fun hn => runC_goto h (repeatBody_passes hout hn)⟩,
    fun hout => runC_done h ?_, fun hin => runC_goto h ?_⟩
  · rw [← lo32_eq, ← reg_begun s u a.toNat]
    exact ⟨fun hn => runC_done h (repeatBody_arms hout hn), fun hn => runC_goto h (repeatBody_passes hout hn)⟩
  · simp only [com_begun, hout, Bool.false_eq_true, if_false]
  · simp only [com_begun, hin, if_true, pcOf_begun, BitVec.shiftLeft_eq_mul_twoPow]
    rfl

end Sys2Proof.Machine

/-- Settles O5: a transfer on one path goes to its target (`taken_onePath`), and RPT and RPTX set the repeat buffer. -/
theorem transfersAndRepeats : Obligations.TransfersAndRepeats := ⟨transfers, repeats⟩
end

section
open Sys2Proof Sys2Proof.Machine

namespace Sys2Proof.Machine

/-! ### EXIT, BKPT and YIELD (R111 to R113, R138) -/

theorem jobEngine_begun (s : State) (u : UnitId) : (s.begun u).jobEngine u = s.jobEngine u := by
  cases u with
  | thread t => rw [State.jobEngine, thread_begun]; rfl
  | wave w => rw [State.jobEngine, wave_begun]; rfl

/-- BKPT of a unit that is not stepped. -/
theorem breakTag_begun {s : State} {u : UnitId} (h : Alone s u) (tag : W32) : (s.begun u).breakTag u tag =
    .done ((s.begun u).modCom u (fun c => { c with after := some (.trap { cause := .breakpoint, detail := tag.zeroExtend 64 }) })) := by
  rw [State.breakTag, com_begun, h.steps]
  rfl

/-- YIELD outside a repeat body, whose continuation can be reached. -/
theorem yieldJob_begun {s : State} {u : UnitId} {cont : W64} (hout : (s.com u).rpt.act = false) (hcont : Spec.reachable cont) (a : Reg6) :
    (s.begun u).yieldJob u a cont = .goto ((s.begun u).modCom u (fun c =>
      { c with after := some (.yield (s.jobEngine u) ((s.reg u a.toNat).toNat % 2 ^ 16)) })) cont := by
  rw [State.yieldJob, bodyTrap_begun hout, targetBad_reachable hcont, jobEngine_begun, reg_begun, bitsOf_low]
  rfl

/-- R111 to R113, R138. -/
theorem suspensions : Spec.Suspensions := by
  intro s u h due
  refine ⟨?_, ?_, runC_done h (breakTag_begun h 0), fun tag => runC_done h (breakTag_begun h tag),
    fun hout a => ⟨fun hcont => runC_goto h ?_, fun off hcont => runC_goto h ?_⟩⟩
  · rintro t rfl
    exact runC_done h rfl
  · rintro t code rfl
    exact runC_done h rfl
  · rw [pcOf_begun, yieldJob_begun hout hcont]
  · rw [relTarget_begun]
    exact yieldJob_begun hout hcont a

/-! ### The end of a path (R111, R129, R132) -/

/-- The wave of `s` as its path ends: a repeat that the path was in is over (log entry 30). -/
def State.endedWave (s : State) (w : Nat) : Wave :=
  { s.wave w with c := { (s.wave w).c with rpt := { (s.wave w).c.rpt with act := false } } }

/-- With its last lanes gone the wave ends after its bundle. -/
theorem pathEnd_over {s : State} {w : Nat} (h : (s.endedWave w).over = true) :
    s.pathEnd w = .done ((s.setWave w (s.endedWave w)).modCom (.wave w) (fun c => { c with after := some .endWave })) := if_pos h

/-- Another path of the wave runs. -/
theorem pathEnd_switches {s : State} {w : Nat} (h : (s.endedWave w).over = false) (hsel : ((s.endedWave w).select 0).2 = true) :
    s.pathEnd w = .goto (s.setWave w ((s.endedWave w).select 0).1) ((s.endedWave w).select 0).1.apc :=
  (if_neg (Bool.eq_false_iff.mp h)).trans (if_pos hsel)

/-- No path runs: the wave parks. -/
theorem pathEnd_parks {s : State} {w : Nat} (h : (s.endedWave w).over = false) (hsel : ((s.endedWave w).select 0).2 = false) :
    s.pathEnd w = .done ((s.setWave w ((s.endedWave w).select 0).1).park (.wave w) .joinv) :=
  (if_neg (Bool.eq_false_iff.mp h)).trans (if_neg (Bool.eq_false_iff.mp hsel))

/-- EXIT of lanes that leave no tile behind: their threads end, and their path. -/
theorem exitUnit_wave {s : State} {w : Nat} (h : Alone s (.wave w)) (hleak : (s.wave w).leak = none) (code : W32) :
    let t := (s.begun (.wave w)).gridEnd (s.wave w).c.grid code false
    (s.begun (.wave w)).exitUnit (.wave w) code = ((t.endLanes w (t.wave w).exec code false).dropExec w).pathEnd w := by
  have hgrid : ((s.begun (.wave w)).wave w).c.grid = (s.wave w).c.grid := by rw [wave_begun]
  have hkeep : ((s.begun (.wave w)).wave w).leak = none := by rw [wave_begun]; exact hleak
  intro t
  simp only [State.exitUnit, hkeep, settle_quiet _ _ _ (accessesOf_begun s _ h), ite_self, hgrid]
  rfl

/-- R111, R132. -/
theorem waveExit : Spec.WaveExit := by
  intro s w h hleak u s0 gone quiet leaves
  have hleaves : ∀ i code, exec i s = runC s i (fun s u => s.exitUnit u code) → leaves i code := fun i code hexec => by
    have hexit : (s.begun u).exitUnit u code = (gone code).pathEnd w := exitUnit_wave h hleak code
    exact ⟨fun hover => hexec.trans (runC_done h (hexit.trans (pathEnd_over (s := gone code) hover))),
      fun hover hsel => hexec.trans (runC_goto h (hexit.trans (pathEnd_switches (s := gone code) hover hsel))),
      fun hover hsel => hexec.trans (runC_done h (hexit.trans (pathEnd_parks (s := gone code) hover hsel)))⟩
  exact ⟨hleaves _ _ rfl, fun code => hleaves _ _ rfl⟩

end Sys2Proof.Machine

/-- Settles O6: what is due after the bundle is noted (`suspensions`); lanes that exit end their path (`exitUnit_wave`, `pathEnd_over` and the lemmas
after it). -/
theorem endsAndSuspensions : Obligations.EndsAndSuspensions := ⟨suspensions, waveExit⟩
end

section
open Sys2Proof Sys2Proof.Machine

namespace Sys2Proof.Machine

/-! ### Divergence (R103, R107, R127, R128) -/

section
variable {s : State} {w : Nat}

/-- BRV and ELSEV outside a repeat body, to a target that can be fetched. -/
theorem diverge_begun {t : W64} (hout : (s.com (.wave w)).rpt.act = false) (ht : Spec.reachable t ∧ t &&& 7 = 0) (f : Nat → Res) :
    (s.begun (.wave w)).diverge (.wave w) t f = f w := by
  rw [State.diverge, bodyTrap_begun hout, aligned_multiple ht.2, targetBad_reachable ht.1]
  rfl

/-- BRV with a lane selected runs the selected lanes on; the others are pending at the target (R128). -/
theorem splitPath_selects {m : BitVec 3} (hroom : (s.wave w).stack.length < 32) (hyes : (s.wave w).exec &&& (s.wave w).mask m.toNat ≠ 0) (t : W64) :
    s.splitPath w m t = .done (s.setWave w ((
      { s.wave w with stack := { outer := (s.wave w).exec, pend := (s.wave w).exec &&& ~~~((s.wave w).mask m.toNat), ppc := t, jpc := 0 } ::
          (s.wave w).stack } : Wave).runAt ((s.wave w).exec &&& (s.wave w).mask m.toNat) (s.wave w).apc)) := by
  simp only [State.splitPath, if_neg (Nat.not_le.mpr hroom), beq_eq_false_iff_ne.mpr hyes, bne_iff_ne.mpr hyes, Bool.false_eq_true, if_false, if_true]

variable {top : DivEntry} {rest : List DivEntry} (hstack : (s.wave w).stack = top :: rest)
include hstack

/-- ELSEV turns to the pending lanes (R128). -/
theorem otherPath_turns (hpend : top.pend ≠ 0) (t : W64) :
    s.otherPath w t = .goto (s.setWave w (({ s.wave w with stack := { top with jpc := t, pend := 0 } :: rest } : Wave).runAt top.pend top.ppc))
      top.ppc := by
  simp only [State.otherPath, hstack, bne_iff_ne.mpr hpend, if_true]

/-- The topmost entry ends where no lane is pending or missing: the lanes that it covers run on, and D of a WAITR is 0 (R128, R130). -/
theorem join_ends (hpend : top.pend = 0) (hmissing : (s.wave w).missing { top with jpc := (s.wave w).apc } (rest.length + 1) = 0)
    (waitr : Option (Reg6 × Nat)) :
    let joined := ({ s.wave w with stack := rest } : Wave).runAt (top.outer &&& (s.wave w).live) (s.wave w).apc
    s.join w waitr = .done (s.setWave w (waitr.elim joined fun e => joined.setK e.1.toNat 0)) := by
  have hnone : ((s.wave w).missing { top with jpc := (s.wave w).apc } (rest.length + 1) == 0) = true := beq_iff_eq.mpr hmissing
  simp only [hpend] at hnone
  simp only [State.join, hstack, hpend, bne_self_eq_false, Bool.false_eq_true, if_false, hnone, if_true]
  cases waitr <;> rfl

end

end Sys2Proof.Machine

/-- Settles O7: BRV by `splitPath_selects`, ELSEV by `otherPath_turns`, JOINV and WAITR by `join_ends`. -/
theorem divergence : Obligations.Divergence := by
  intro s w h hout u x yes no pushed good
  refine ⟨fun hroom m b hyes ht => runC_done h ?_, fun hroom m off hyes ht => runC_done h ?_, ?_, ?_⟩
  · rw [reg_begun, diverge_begun hout ht]
    exact splitPath_selects hroom hyes _
  · rw [relTarget_begun]
    exact (diverge_begun hout ht _).trans (splitPath_selects hroom hyes _)
  · intro top rest hstack hpend turned
    refine ⟨fun b ht => runC_goto h ?_, fun off ht => runC_goto h ?_⟩
    · rw [reg_begun, diverge_begun hout ht]
      exact otherPath_turns hstack hpend _
    · rw [relTarget_begun]
      exact (diverge_begun hout ht _).trans (otherPath_turns hstack hpend _)
  · intro top rest hstack hpend hmissing joined
    have hjoin : ∀ waitr, (s.begun u).joinUnit u waitr = .done ((s.begun u).setWave w (waitr.elim joined fun e => joined.setK e.1.toNat 0)) :=
      fun waitr => (bodyTrap_begun hout _).trans (join_ends hstack hpend hmissing waitr)
    exact ⟨fun lone => runC_done h (hjoin none), fun d a => runC_done h (hjoin (some (d, _))), fun d n => runC_done h (hjoin (some (d, _)))⟩
end

section
open Sys2Proof Sys2Proof.Machine

namespace Sys2Proof.Machine

/-! ### TRAP, SVC, SRET and ERET (R107, R409, R415 to R418) -/

theorem isSup_begun (s : State) (u : UnitId) : (s.begun u).isSup u = s.isSup u := by
  cases u with
  | thread t => rw [State.isSup, thread_begun]; rfl
  | wave w => rfl

section
variable {s : State} {u : UnitId} (huser : s.isSup u = false) (hout : (s.com u).rpt.act = false)
include huser hout

/-- SVC calls the service after its bundle (R416). -/
theorem callService_calls (hexec : ∀ w, u = .wave w → (s.wave w).exec ≠ 0)
    (hvec : ((s.begun u).vale ((s.begun u).unitVale u)).svec &&& 0x7FFFFFFFFFFFC0 ≠ 0) (num : W32) :
    (s.begun u).callService u num = .done (Spec.dueAfter (s.begun u) u (.svc num)) := by
  have hvec : (vecAddr ((s.begun u).vale ((s.begun u).unitVale u)).svec == 0) = false := beq_eq_false_iff_ne.mpr hvec
  cases u with
  | thread t => simp only [State.callService, isSup_begun, huser, bodyTrap_begun hout, hvec, Bool.false_eq_true, if_false, Spec.dueAfter]
  | wave w =>
    have hlanes : (((s.begun (.wave w)).wave w).exec == 0) = false := by
      rw [wave_begun]
      exact beq_eq_false_iff_ne.mpr (hexec w rfl)
    simp only [State.callService, isSup_begun, huser, bodyTrap_begun hout, hlanes, hvec, Bool.false_eq_true, if_false, Spec.dueAfter]

/-- SVC with no lane in EXEC does nothing (R416). -/
theorem callService_empty {w : Nat} (hw : u = .wave w) (hexec : (s.wave w).exec = 0) (num : W32) :
    (s.begun u).callService u num = .done (s.begun u) := by
  subst hw
  simp only [State.callService, isSup_begun, huser, bodyTrap_begun hout, wave_begun, hexec, BEq.rfl, if_true, Bool.false_eq_true, if_false]

end

/-- ERET on a frame, once no access is outstanding (R418). -/
theorem trapReturn_frame {s : State} {u v : UnitId} {a : W64} {f mode : Nat} {t : W64} (hquiet : s.accessesOf u = [])
    (hframe : s.frameAt (s.unitVale u) a = some (f, v)) (halign : mode = 1 → t.toNat % 8 = 0) :
    s.trapReturn u a mode t = .done (Spec.dueAfter (s.returnTrap (s.unitVale u) f v mode t) u (.exit 0)) := by
  rw [State.trapReturn, after_quiet _ _ _ _ hquiet, hframe]
  exact if_neg fun ⟨hmode, hoff⟩ => hoff (halign hmode)

/-- R107, R409, R415, R416. -/
theorem trapsAndCalls : Spec.TrapsAndCalls := by
  intro s u h s0 trap call
  have hcall : ∀ i num, exec i s = runC s i (fun s u => s.callService u num) → call i num := fun i num hexec huser hout =>
    ⟨fun hlanes hvec => hexec.trans (runC_done h (callService_calls huser hout hlanes hvec num)),
      fun w hw hempty => hexec.trans (runC_done h (callService_empty huser hout hw hempty num))⟩
  exact ⟨runC_done h rfl, fun code => runC_done h rfl, hcall _ _ rfl, fun num => hcall _ _ rfl⟩

/-- R417, R418. -/
theorem trapReturns : Spec.TrapReturns := by
  intro s u h s0
  refine ⟨?_, ?_⟩
  · rintro t rfl hcalled
    refine runC_done h ?_
    simp only [thread_begun, hcalled, if_true]
    rfl
  · intro a b lone f x hframe done
    have hreturn : ∀ mode t, (mode = 1 → t.toNat % 8 = 0) → (s.begun u).trapReturn u ((s.begun u).reg u a.toNat) mode t =
        .done (Spec.dueAfter (s0.returnTrap (s0.unitVale u) f x mode t) u (.exit 0)) := fun mode t halign =>
      trapReturn_frame (accessesOf_begun s u h) ((reg_begun s u a.toNat).symm ▸ hframe) halign
    refine ⟨runC_done h (hreturn 0 0 nofun), fun halign => runC_done h ?_, runC_done h (hreturn 2 0 nofun)⟩
    rw [reg_begun s u b.toNat]
    exact hreturn 1 _ fun _ => halign

end Sys2Proof.Machine

/-- Settles O37: what follows the bundle is noted once the checks pass (`callService_calls`, `trapReturn_frame`). -/
theorem callsAndReturns : Obligations.CallsAndReturns := ⟨trapsAndCalls, trapReturns⟩
end

section
open Sys2Proof Sys2Proof.Machine

namespace Sys2Proof.Machine

/-! ### Grids (R380 to R384) -/

/-- What DEPENDENCE_POLL does (R381). -/
theorem exec_dependencePoll (s : State) (g : Nat) : exec (.dependencePoll g) s = .next (if s.pollDue g (s.grid g) = true then
    if (s.grid g).pw.failed = true then s.gridFails g (((s.grid g).deps.head?.map Prod.fst).getD 0) else s.readDeps g [] (s.grid g).deps
    else s) := by
  simp only [exec, execDependencePoll, Bool.not_eq_true', ← Bool.not_eq_true, ite_not]

theorem exec_blockAdmission (s : State) (die : Nat) : exec (.blockAdmission die) s = .next (match s.nextCand die with
    | some (.fresh g, e, passed) => (s.notePassed passed).admitNew g e
    | _ => s) := rfl

/-- R380 to R384. -/
theorem gridSteps : Spec.GridSteps := by
  intro s g die
  refine ⟨occurs_of_ite rfl, ⟨fun hdue => ?_, fun hdue hfailed => ?_, fun hdue hread => ?_⟩, occurs_of_ite rfl, rfl, fun h e passed hcand => ?_,
    fun hcand => ?_⟩
  · rw [exec_dependencePoll, if_neg (Bool.eq_false_iff.mp hdue)]
  · rw [exec_dependencePoll, if_pos hdue, if_pos hfailed]
  · rw [exec_dependencePoll, if_pos hdue, if_neg (Bool.eq_false_iff.mp hread)]
  · rw [exec_blockAdmission, hcand]
  · rw [exec_blockAdmission]
    split
    · next h e passed heq => exact absurd heq (hcand h e passed)
    · rfl

/-! ### Bins (R119, R350) -/

section
variable {s : State} {v n : Nat} {x : Bin} (hbin : (s.vale v).bins.find n = some x)
include hbin

theorem occurs_binTimeout : Spec.occurs s (.binTimeout v n)
    (x.closed = none ∧ x.entries ≠ [] ∧ s.stoppedOn (s.ctxFunc x.ctx) v = false ∧ x.oldest + (s.vale v).gwait.toNat ≤ s.time)
    (s.modVale v (fun y => { y with bins := y.bins.put n { x with closed := some (if x.frag then 3 else 1) } })) := by
  have hlate : s.binLate v x = true ↔
      x.closed = none ∧ x.entries ≠ [] ∧ s.stoppedOn (s.ctxFunc x.ctx) v = false ∧ x.oldest + (s.vale v).gwait.toNat ≤ s.time := by
    simp only [State.binLate, Bool.and_eq_true, Bool.not_eq_true', Option.isNone_iff_eq_none, List.isEmpty_eq_false_iff, decide_eq_true_eq, and_assoc]
  refine occurs_congr hlate (occurs_of_ite ?_)
  simp only [exec, execBinTimeout, hbin]

/-- WAVE_PLACEMENT of a bin of the Vale (R119, R121). -/
theorem exec_wavePlacement : exec (.wavePlacement v n) s = .next (if x.closed = none ∨ s.stoppedOn (s.ctxFunc x.ctx) v = true then s
    else (s.binEngine v x).elim s (s.formWave v n x)) := by
  simp only [exec, execWavePlacement, hbin, Bool.or_eq_true, Option.isNone_iff_eq_none]
  cases s.binEngine v x <;> rfl

end

/-! ### Blocks (R433 to R436) -/

section
variable {s : State} {b : Nat} {k : Block} (hblock : s.blocks.find b = some k)
include hblock

theorem occurs_parklimExpiry : Spec.occurs s (.parklimExpiry b)
    (k.ridge = true ∧ k.swap = .prk ∧ k.eligible = false ∧ ∃ t, k.parkTime = some t ∧ t + (s.die k.die).parklim.toNat ≤ s.time)
    (s.setBlock b { k with eligible := true }) := by
  have hlate : s.parkLate k = true ↔
      k.ridge = true ∧ k.swap = .prk ∧ k.eligible = false ∧ ∃ t, k.parkTime = some t ∧ t + (s.die k.die).parklim.toNat ≤ s.time := by
    simp only [State.parkLate, Bool.and_eq_true, Bool.not_eq_true', beq_iff_eq, Option.any_eq_true, decide_eq_true_eq, and_assoc]
  refine occurs_congr hlate (occurs_of_ite ?_)
  simp only [exec, execParklimExpiry, hblock]

/-- BLOCK_SWAP_OUT of a block of the model (R434). -/
theorem exec_blockSwapOut : exec (.blockSwapOut b) s = .next (if s.swapDue b k = true ∧ s.swapFirst b k = true then
    (k.eng.elim s fun e => s.countEvent (e / 4) (s.ctxFunc ((k.members.head?.map (fun m => (s.com m).ctx)).getD 0)) 0x007).setBlock b
      { k with swap := .out }
    else s) := by
  simp only [exec, execBlockSwapOut, hblock, Bool.and_eq_true]
  cases k.eng <;> rfl

/-- SWAP_IMAGE_COMPLETE of a block in OUT (R435). -/
theorem exec_swapImageComplete_out (hswap : k.swap = .out) :
    let r := k.members.foldl (fun s m => s.settleAll (s.accessesOf m)) s
    exec (.swapImageComplete b) s = .next (if r.imageDone k then r.modBlock b (fun y => { y with
      swap := if y.members.any r.parkedNow then .swp else .rdy, eng := none, bypassed := none }) else r) := by
  simp only [exec, execSwapImageComplete, hblock, hswap]

/-- SWAP_IMAGE_COMPLETE of a block in IN (R436). -/
theorem exec_swapImageComplete_in (hswap : k.swap = .inn) :
    let r := s.modBlock b (fun y => { y with swap := if y.members.any s.parkedNow then .prk else .res, parkTime := none, eligible := false })
    exec (.swapImageComplete b) s = .next (k.members.foldl (fun s m => match m with | .wave w => s.startWave w | .thread _ => s) r) := by
  simp only [exec, execSwapImageComplete, hblock, hswap] <;> rfl

theorem exec_swapImageComplete_other (hswap : k.swap ≠ .out ∧ k.swap ≠ .inn) : exec (.swapImageComplete b) s = .next s := by
  simp only [exec, execSwapImageComplete, hblock]
  split
  · next hout => exact absurd hout hswap.1
  · next hin => exact absurd hin hswap.2
  · rfl

theorem exec_blockReadmission : exec (.blockReadmission b) s = .next (match s.nextCand k.die with
    | some (.back c, e, passed) => if c = b then (s.notePassed passed).readmit c e else s
    | _ => s) := by
  have hk : s.block b = k := by rw [State.block, AList.getD, hblock]; rfl
  simp only [exec, execBlockReadmission, hk] <;> rfl

end

/-- R119, R121, R350, R433 to R436. -/
theorem blockSteps : Spec.BlockSteps := by
  intro s v n b x k hbin hblock
  refine ⟨occurs_binTimeout hbin, fun e hclosed hruns he => ?_, fun hnot => ?_, occurs_parklimExpiry hblock, fun hnot => ?_,
    fun e hdue hfirst he => ?_, exec_swapImageComplete_out hblock, exec_swapImageComplete_in hblock, exec_swapImageComplete_other hblock,
    fun e passed hcand => ?_, fun hcand => ?_⟩
  · have hopen : ¬ (x.closed = none ∨ s.stoppedOn (s.ctxFunc x.ctx) v = true) := by
      rintro (h | h)
      · simp only [h, Option.isSome_none, Bool.false_eq_true] at hclosed
      · simp only [h, Bool.true_eq_false] at hruns
    rw [exec_wavePlacement hbin, if_neg hopen, he, Option.elim_some]
  · rw [exec_wavePlacement hbin]
    split
    · rfl
    · next hopen =>
      rw [(or_assoc.mpr hnot).resolve_left hopen, Option.elim_none]
  · rw [exec_blockSwapOut hblock, if_neg hnot]
  · rw [exec_blockSwapOut hblock, if_pos ⟨hdue, hfirst⟩, he, Option.elim_some]
  · rw [exec_blockReadmission hblock, hcand]
    exact congrArg _ (if_pos rfl)
  · rw [exec_blockReadmission hblock]
    split
    · next c e passed heq => exact congrArg _ (if_neg fun hc : c = b => hcand e passed (hc ▸ heq))
    · rfl

end Sys2Proof.Machine

/-- Settles O43: each step is its function under its condition (`gridSteps`, `blockSteps`). -/
theorem gridAndBlockSteps : Obligations.GridAndBlockSteps := ⟨gridSteps, blockSteps⟩
end

section
open Sys2Proof Sys2Proof.Machine

namespace Sys2Proof.Machine

/-! ### A word that is read at once leaves every thread (R116, R206, R507) -/

@[simp] theorem choose_threads (s : State) (n : Nat) : (s.choose n).2.threads = s.threads := by
  unfold State.choose
  cases s.choices <;> rfl

@[simp] theorem countEvents_threads (s : State) (v fn code n : Nat) : (s.countEvents v fn code n).threads = s.threads := by
  obtain ⟨_, _, h⟩ := s.countEvents_only v fn code n
  rw [h]

@[simp] theorem countEvent_threads (s : State) (v fn code : Nat) : (s.countEvent v fn code).threads = s.threads := countEvents_threads ..

@[simp] theorem l1Put_threads (s : State) (e : Nat) (x : Sector) (load : Bool) : (s.l1Put e x load).threads = s.threads := by
  unfold State.l1Put
  dsimp only
  split
  · rfl
  · split
    · rfl
    · simp only [modEngine_eq, setEngine_threads, choose_threads]

@[simp] theorem l1Fill_threads (s : State) (e c va cls place : Nat) (load : Bool) : (s.l1Fill e c va cls place load).threads = s.threads := by
  rw [State.l1Fill, l1Put_threads, countEvent_threads]

@[simp] theorem l1Coherent_threads (s : State) (eng : Option Nat) (c va place grain : Nat) (write pf : Bool) :
    (s.l1Coherent eng c va place grain write pf).threads = s.threads := by
  unfold State.l1Coherent
  dsimp only
  split
  · rfl
  · cases eng with
    | none => rfl
    | some e =>
      simp only [l1Put_threads]
      split
      · rfl
      · exact countEvent_threads ..

@[simp] theorem readAt_threads (s : State) (eng : Option Nat) (c va place n cls grain : Nat) :
    (s.readAt eng c va place n cls grain).2.threads = s.threads := by
  unfold State.readAt
  cases eng with
  | none => dsimp only; split <;> simp only [l1Coherent_threads]
  | some e =>
    dsimp only
    split
    · split
      · split <;> simp only [l1Fill_threads, choose_threads]
      · simp only [l1Fill_threads, choose_threads]
    · split <;> simp only [l1Coherent_threads]

@[simp] theorem useEntry_threads (s : State) (sp : Space) (c va : Nat) : (s.useEntry sp c va).threads = s.threads := by
  obtain ⟨_, h⟩ := useEntry_spec s sp c va
  rw [h]

@[simp] theorem ringEntry_threads (s : State) (e : LogEntry) : (s.ringEntry e).threads = s.threads := by
  unfold State.ringEntry
  dsimp only
  split
  · rfl
  · split
    · rfl
    · obtain ⟨_, h⟩ := rawPutBytes_only e.bytes s
        (hostPlace ((s.func e.ring).elbase.toNat + 32 * ((s.func e.ring).elhead.toNat % 2 ^ (s.func e.ring).ellog2)))
      rw [h]
      rfl

@[simp] theorem logError_threads (s : State) (cause src fn sev : Nat) (addr detail : W64) :
    (s.logError cause src fn sev addr detail).threads = s.threads := by
  unfold State.logError
  dsimp only
  split
  · rfl
  · split <;> exact ringEntry_threads ..

@[simp] theorem logCorrected_threads (s : State) (b fn : Nat) : (s.logCorrected b fn).threads = s.threads := by
  unfold State.logCorrected State.logCorrectedAs
  dsimp only
  split <;> split <;> simp only [logError_threads]

@[simp] theorem correct_threads (s : State) (place n fn : Nat) : (s.correct place n fn).threads = s.threads := by
  unfold State.correct
  split
  · rfl
  · exact logCorrected_threads ..

@[simp] theorem homeUse_threads (s : State) (sp : Space) (c pos va place : Nat) : (s.homeUse sp c pos va place).threads = s.threads := by
  unfold State.homeUse State.homeUseBy State.homeTouch
  split
  · dsimp only
    split
    · rfl
    · simp only [countEvents_threads]
  · rfl

@[simp] theorem asksSide_threads (s : State) (c va place : Nat) (write : Bool) : (s.asksSide c va place write).2.threads = s.threads := by
  unfold State.asksSide
  generalize (placeOut place && if write then s.domOf c va == 3 else (s.homesOf place).isEmpty) = asks
  cases asks
  · rfl
  · exact choose_threads ..

theorem readNow_threads {s t : State} {u : UnitId} {op : AccOp} {n v : Nat} {a : W64} (h : s.readNow u op n a = .ok v t) : t.threads = s.threads := by
  unfold State.readNow at h
  split at h
  · cases h
  · split at h
    · cases h
    · dsimp only at h
      split at h
      · split at h
        · cases h
        · cases h
          simp only [readAt_threads, homeUse_threads, correct_threads, useEntry_threads, asksSide_threads]
      · cases h

/-- A header that is read at once leaves every thread. -/
theorem readHeader_threads {s t : State} {u : UnitId} {ridge : Bool} {a : W64} {x : Nat × Nat} (hheld : s.heldAccess u = none)
    (h : s.readHeader u ridge a = .ok (x, t)) : t.threads = s.threads := by
  have hstart : s.recordStart u = .ok s := by rw [State.recordStart, hheld]
  simp only [State.readHeader, hstart] at h
  split at h
  · cases h
  · next v r hread =>
    split at h
    · cases h
      exact readNow_threads hread
    · cases h

end Sys2Proof.Machine
end

section
open Sys2Proof Sys2Proof.Machine

namespace Sys2Proof.Machine

/-! ### Threads elsewhere (R115) -/

section
variable {s : State} {t q : Nat} (h : Alone s (.thread t)) (hsup : (s.thread t).sup = false) (hpos : isEquipped (s.thread t).pos = false)
  (hq : (s.begun (.thread t)).equippedFor (s.thread t).pos = some q)
include h hsup hpos hq

/-- A thread elsewhere moves to the equipped position. -/
theorem atEquipped_moves (f : State → Res) : (s.begun (.thread t)).atEquipped (.thread t) f =
    .gone (((s.begun (.thread t)).modThread t (fun x => { x with loc := .retry (q / 32) })).returnThread t q 0) := by
  have hplace : ((s.begun (.thread t)).thread t).pos = (s.thread t).pos := by rw [thread_begun]; rfl
  have huser : (s.begun (.thread t)).isSup (.thread t) = false := (isSup_begun s _).trans hsup
  simp only [State.atEquipped, huser, hplace, hpos, hq, settle_quiet _ _ _ (accessesOf_begun s _ h), Bool.not_true, Bool.false_eq_true, if_false]

/-- An instruction that runs at an equipped position. -/
theorem moves_of_atEquipped {i : Instr} {F : State → UnitId → State → Res} (hexec : exec i s = runC s i (fun s u => s.atEquipped u (F s u))) :
    exec i s = .next (((s.begun (.thread t)).modThread t (fun x => { x with loc := .retry (q / 32) })).returnThread t q 0) :=
  hexec.trans (runC_gone h (atEquipped_moves h hsup hpos hq _))

/-- One that holds its slot: it has sent nothing yet. -/
theorem moves_of_viewsAgain {i : Instr} {fin : State → UnitId → State → Access → State} {F : State → UnitId → State → Res}
    (hexec : exec i s = runC s i (fun s u => s.viewsAgain u (fin s u) (s.atEquipped u (F s u)))) :
    exec i s = .next (((s.begun (.thread t)).modThread t (fun x => { x with loc := .retry (q / 32) })).returnThread t q 0) := by
  refine hexec.trans (runC_gone h ?_)
  rw [State.viewsAgain, heldAccess_begun s _ h]
  exact atEquipped_moves h hsup hpos hq _

end

/-- R115. -/
theorem equippedMoves : Spec.EquippedMoves := by
  intro s t q d a b n vt opts i u s0 hi h hsup hpos hq
  simp only [List.mem_cons, List.not_mem_nil, or_false] at hi
  rcases hi with rfl | rfl | rfl | hi
  iterate 3 exact moves_of_viewsAgain h hsup hpos hq rfl
  rcases hi with rfl | rfl | rfl | rfl | rfl | hi
  iterate 5 exact moves_of_atEquipped h hsup hpos hq rfl
  rcases hi with rfl | rfl | rfl | hi
  iterate 3 exact moves_of_viewsAgain h hsup hpos hq rfl
  rcases hi with rfl | rfl | rfl | rfl | rfl
  iterate 5 exact moves_of_atEquipped h hsup hpos hq rfl

/-! ### Targets of entries (R103, R107, R409) -/

section
variable {s : State} {u : UnitId} {off : W32} (huser : s.isSup u = false) (hoff : Spec.reachable (Spec.relative s u (off.signExtend 64)))
include huser hoff

/-- A lone TRACE and a REPACK go to a target that can be reached, also from a repeat body (log entry 52). -/
theorem entryTarget_begun (f : W64 → Res) : (s.begun u).entryTarget u off f = f (Spec.relative s u (off.signExtend 64)) := by
  simp only [State.entryTarget, isSup_begun, huser, immOf, relTarget_begun, targetBad_reachable hoff, Bool.false_eq_true, if_false]

/-- A PASS does so outside a repeat body. -/
theorem passTarget_begun (hout : (s.com u).rpt.act = false) (f : W64 → Res) :
    (s.begun u).passTarget u off f = f (Spec.relative s u (off.signExtend 64)) := by
  simp only [State.passTarget, isSup_begun, huser, immOf, relTarget_begun, bodyTrap_begun hout, targetBad_reachable hoff, Bool.false_eq_true,
    if_false]

end

/-! ### Lanes leave (R123, R370 to R372) -/

/-- The instruction ends a path, in the state `x`. -/
theorem runC_pathEnd {s x : State} {w : Nat} {i : Instr} {f : State → UnitId → Res} (h : Alone s (.wave w)) (hexec : exec i s = runC s i f)
    (hend : f (s.begun (.wave w)) (.wave w) = x.pathEnd w) :
    (∀ y, x.pathEnd w = .done y → exec i s = .next (s.afterC (.wave w) i y)) ∧
      ∀ y a, x.pathEnd w = .goto y a → exec i s = .next (s.afterGo (.wave w) i y a) :=
  ⟨fun _ hy => hexec.trans (runC_done h (hend.trans hy)), fun _ _ hy => hexec.trans (runC_goto h (hend.trans hy))⟩

/-- R370 to R372. -/
theorem lanesLeave : Spec.LanesLeave := by
  intro s w tmpl off h u s0 ls tgt ending hoff
  subst tgt s0 u
  refine ⟨?_, ?_⟩
  · intro pipe x dest hmaxd
    refine ⟨fun hempty => runC_done h ?_, fun hlanes hd s1 hheader hquiet hlead hleak hdest => runC_pathEnd h rfl ?_⟩
    · exact (if_neg hmaxd).trans (if_pos (List.isEmpty_iff.mpr hempty))
    · have hsome : ¬ (dest.any fun e => e.2.isNone) = true := by
        rw [List.any_eq_true]
        rintro ⟨e, he, hnone⟩
        exact absurd (hdest e he) (by rw [Option.isNone_iff_eq_none.mp hnone]; exact Bool.false_ne_true)
      refine (if_neg hmaxd).trans ((if_neg (mt List.isEmpty_iff.mp hlanes)).trans ((entryTarget_begun rfl hoff _).trans ?_))
      simp only [hheader, settle_quiet _ _ _ hquiet, hlead, hleak, List.isEmpty_nil, Bool.not_true, Bool.or_self, Bool.false_eq_true, if_false]
      exact if_neg hsome
  · intro d key
    refine ⟨fun hempty => runC_done h ((entryTarget_begun rfl hoff _).trans (if_pos (List.isEmpty_iff.mpr hempty))),
      fun hlanes hkeys hd s1 hheader hquiet hlead hleak => ?_⟩
    intro v hturn
    refine runC_pathEnd h rfl ?_
    have hasks : ¬ (ls.any fun l => keyRetpos (key l) == some 0) = true := by
      rw [List.any_eq_true]
      rintro ⟨l, hl, hzero⟩
      exact hkeys l hl (beq_iff_eq.mp hzero)
    refine (entryTarget_begun rfl hoff _).trans ((if_neg (mt List.isEmpty_iff.mp hlanes)).trans ((if_neg hasks).trans ?_))
    simp only [hheader, settle_quiet _ _ _ hquiet, hlead, hleak, List.isEmpty_nil, Bool.not_true, Bool.or_self, Bool.false_eq_true, if_false]
    exact if_neg (by rw [hturn]; exact Bool.false_ne_true)

/-! ### Threads enter bins (R114, R117, R371) -/

/-- A thread whose turn it is enters a bin of its Vale. -/
theorem joinBin_turn {s : State} {t v : Nat} (hturn : s.binTurn v (.thread t) = true) (k : BinKey) (key : Nat) (ret : Option Nat) :
    s.joinBin t v k key ret = some (Spec.binned s t v k key ret) := by
  rw [State.joinBin, hturn]
  rfl

theorem threadToBin_turn {s : State} {t v : Nat} (hstep : (s.com (.thread t)).stepping = false) (hquiet : s.accessesOf (.thread t) = [])
    (hturn : s.binTurn v (.thread t) = true) (k : BinKey) (key : Nat) (ret : Option Nat) :
    s.threadToBin t v k key ret = .gone (Spec.binned s t v k key ret) := by
  simp only [State.threadToBin, hstep, settle_quiet _ _ _ hquiet, joinBin_turn hturn, Bool.not_true, Bool.false_eq_true, if_false]

/-- R114, R117, R371. -/
theorem threadsToBins : Spec.ThreadsToBins := by
  intro s t b d tmpl off hd s1 h u tgt v k hsup hoff hheader hquiet hturn
  subst tgt v u
  have huser : s.isSup (.thread t) = false := hsup
  have hstep : (s1.com (.thread t)).stepping = false := by
    have hcom : s1.com (.thread t) = (s.begun (.thread t)).com (.thread t) := by
      simp only [State.com, State.thread, readHeader_threads (heldAccess_begun s _ h) hheader]
    rw [hcom, com_begun]
    exact h.steps
  refine ⟨fun hout => runC_gone h ((passTarget_begun huser hoff hout _).trans ?_), ?_⟩
  · simp only [hheader, threadToBin_turn hstep hquiet hturn, bitsOf_low]
    rfl
  · intro key hkey
    refine runC_gone h ((entryTarget_begun huser hoff _).trans ?_)
    have hword : lo32 (((s.begun (.thread t)).thread t).reg d.toNat) = key := by rw [thread_begun, lo32_eq]; rfl
    have hasks : (keyRetpos key == some 0) = false := beq_eq_false_iff_ne.mpr hkey
    simp only [List.isEmpty_cons, List.any_cons, List.any_nil, Bool.or_false, hword, hasks, Bool.false_eq_true, if_false, hheader,
      threadToBin_turn hstep hquiet hturn, bitsOf_low]
    rfl

/-! ### PASS.SPUR and PASS.FLUSH (R123, R124) -/

/-- R123, R124. -/
theorem lanesReturn : Spec.LanesReturn := by
  intro s u tmpl off h hout huser s0 tgt hoff
  refine ⟨runC_done h ((passTarget_begun huser hoff hout _).trans ?_), ?_⟩
  · simp only [State.flushBins, com_begun, s0]
    rfl
  · rintro w hd s1 rfl hheader hquiet hlead hhome hleak
    subst s0 tgt
    refine runC_pathEnd h rfl ((passTarget_begun huser hoff hout _).trans ?_)
    simp only [hheader, settle_quiet _ _ _ hquiet, hlead, hhome, hleak, List.isEmpty_nil, Bool.not_true, Bool.or_self, Bool.false_eq_true, if_false]

end Sys2Proof.Machine

/-- Settles O31: threads elsewhere move (`atEquipped_moves`), lanes leave and end their path (`runC_pathEnd`), threads enter bins
(`threadToBin_turn`). -/
theorem passes : Obligations.Passes := ⟨equippedMoves, lanesLeave, threadsToBins, lanesReturn⟩
end

section
open Sys2Proof Sys2Proof.Machine Sys2Proof.Tests

namespace Sys2Proof.Machine

/-! ### A trap of the compute stream beside a C-slot in flight (R66, R154) -/

/-- A lane operation that raises an enabled flag traps before anything is written (R154, R172). -/
theorem laneOp_enabled {s t : State} {u : UnitId} {f : LA} {n : LaneSrcs} {g : Spec.LaneFn} {a b c : Nat → W32}
    (hsrc : s.laneSources u f n = some (a, b, c, t)) :
    let act := s.active u f.msel
    let ls := laneList u act
    let fl (l : Nat) : FFlags := (g a b c act l).2
    flagsOver ls fl &&& (s.com u).fpctl ≠ 0 →
    s.laneOp u f n g = .trap s {
      cause := .fpException, detail := (flagsOver ls fl).zeroExtend 64, mask := if isRidge u then Mask.ofLanes (Spec.raising s u ls fl) else 0 } := by
  intro act ls fl hfl
  have htrap : ∀ bad, s.fpTrap u (flagsOver ls fl) bad =
      some { cause := .fpException, detail := (flagsOver ls fl).zeroExtend 64, mask := if isRidge u then bad else 0 } :=
    fun bad => by rw [State.fpTrap, beq_eq_false_iff_ne.mpr hfl]; rfl
  unfold State.laneOp
  rw [hsrc]
  dsimp only
  unfold State.laneEnd
  rw [htrap]
  rfl

/-- An A-slot that traps while the C-slot in flight runs is noted, and traps once that has completed (R66). -/
theorem exec_trapDue {s t : State} {w : Nat} {i : Instr} {F : State → UnitId → Res} {x : TrapInfo} (halone : AloneA s (.wave w))
    (hexec : exec i s = runA s i F) (htrap : F (s.begunA (.wave w)) (.wave w) = .trap t x) (hlead : (t.wave w).lead.isEmpty = false)
    (hholds : t.holdRuns (.wave w) = true) :
    exec i s = .next ((t.modWave w (fun y => { y with trapDue := true })).noteTried (.wave w) true) := by
  rw [hexec, runA_alone s _ i F halone, htrap]
  simp only [State.applyA, hlead, hholds, Bool.not_true, Bool.or_self, Bool.false_eq_true, if_false]

/-- The wave of `wF`, which adds infinities of both signs with every trap enabled, with the addition at the head of its compute stream while its access
stream waits for access 5, which stands in the list of accesses under another unit. -/
def wHeld : State :=
  { wF.modWave 1 (fun x => { x with
      c := { x.c with wait := .hold 5 }, lead := [{ pc := 0x10000, ai := .fadd fP, exec := BitVec.allOnes 64, words := (0, 0) }] }) with
    accesses := [{
      id := 5, unit := tU, op := .load false, bytes := 4, dest := .none, space := .virt, ctx := 0, gen := 0, pos := 0, holding := true
      acquire := false, w0 := 0, w1 := 0, pc := 0x10000, lanes := [] }] }

end Sys2Proof.Machine

/-- Refutes O21: in `wHeld` the addition raises NV, but the wave's access stream holds an access in flight (`holdRuns`), so the compute stream's trap is
only noted until that has completed (`exec_trapDue`), where the statement has the wave trapped at once. -/
theorem not_laneFlagTraps : ¬ Obligations.LaneFlagTraps := by
  intro ⟨helements, _⟩
  obtain ⟨-, hfloats, -⟩ := helements wHeld wU fP la1
  have halone : AloneA wHeld wU := ⟨rfl, rfl, rfl, by decide⟩
  obtain ⟨a, b, c, t, hsrc, hfl⟩ : ∃ a b c t, (wHeld.begunA wU).laneSources wU (toLA 0x13 fP) {} = some (a, b, c, t) ∧
      flagsOver (laneList wU ((wHeld.begunA wU).active wU 0))
        (fun l => (Spec.floats (toLA 0x13 fP) (fun x y _ => fpAdd fmtF32 0 false x y) a b c ((wHeld.begunA wU).active wU 0) l).2)
          &&& ((wHeld.begunA wU).com wU).fpctl ≠ 0 := ⟨_, _, _, _, rfl, by decide +kernel⟩
  have htraps := hfloats _ (.head _) halone a b c t hsrc hfl
  have hdue := exec_trapDue (i := .fadd fP) halone rfl (laneOp_enabled hsrc hfl) (by decide +kernel) (by decide +kernel)
  have hsame := Host.Outcome.next.inj (htraps.symm.trans hdue)
  have hwait : ∀ x, (((wHeld.begunA wU).takeTrap wU x).com wU).wait = .trap := fun x => (trapStops_wave _ 1 x (by decide)).1
  exact absurd ((congrArg (fun r : State => (r.com wU).wait) hsame).symm.trans (hwait _)) (by decide)
end

section
open Sys2Proof Sys2Proof.Machine

namespace Sys2Proof.Machine

/-! ### The formats of the TYPE codes (R48, R142) -/

theorem fmtOf_format : ∀ ty : BitVec 4, ty.toNat < 8 → fmtOf ty = (Spec.format ty.toNat).fmt := by decide

theorem tyWidth_format : ∀ ty : BitVec 4, ty.toNat < 8 → tyWidth ty = 1 + (Spec.format ty.toNat).fmt.e + (Spec.format ty.toNat).fmt.m := by decide

theorem tyWidth_le : ∀ ty : BitVec 4, tyWidth ty ≤ 32 := by decide

theorem regular_format {n : Nat} (h : n < 8) : Regular (Spec.format n) := by
  refine regular_formats _ (List.mem_append_left _ ?_)
  have hlen : n < Spec.formats.length := h
  rw [Spec.format, List.getD_eq_getElem _ _ hlen]
  exact List.getElem_mem hlen

theorem toNat_word {x w : Nat} (h : x < 2 ^ w) (hw : w ≤ 32) : (BitVec.ofNat 32 x).toNat = x := by
  rw [BitVec.toNat_ofNat, Nat.mod_eq_of_lt (h.trans_le (Nat.pow_le_pow_right (by decide) hw))]

/-- RoundTo of a value in the format of a TYPE code. -/
theorem roundTo_type {ty : BitVec 4} (h : ty.toNat < 8) (rm : Nat) (sat : Bool) {v : FVal} (hv : 0 < v.den) :
    Spec.rounds (Spec.format ty.toNat) rm sat (Spec.numOf v) (roundTo (fmtOf ty) rm sat v) ∧ (roundTo (fmtOf ty) rm sat v).1 < 2 ^ tyWidth ty := by
  have hround := roundTo_rounds _ (regular_format h) rm sat v hv
  rw [← fmtOf_format ty h] at hround
  exact ⟨hround, by rw [tyWidth_format ty h]; exact (fmtOf_format ty h ▸ hround.1)⟩

/-- The same, where the code stands in a 32-bit word. -/
theorem roundTo_word {ty : BitVec 4} (h : ty.toNat < 8) (rm : Nat) (sat : Bool) {v : FVal} (hv : 0 < v.den) :
    Spec.rounds (Spec.format ty.toNat) rm sat (Spec.numOf v)
      ((BitVec.ofNat 32 (roundTo (fmtOf ty) rm sat v).1).toNat, (roundTo (fmtOf ty) rm sat v).2) := by
  obtain ⟨hround, hlt⟩ := roundTo_type h rm sat hv
  rw [toNat_word hlt (tyWidth_le ty)]
  exact hround

end Sys2Proof.Machine
end

section
open Sys2Proof Sys2Proof.Machine

namespace Sys2Proof.Machine

/-! ### Rounding to integers (R147, R161) -/

theorem choose_int (rm : Nat) (k : ℤ) : Spec.choose rm 1 (k : ℚ) = k := by
  simpa using choose_exact (u := 1) rm k one_pos

/-- RoundInt is the choice of RM on the integers. -/
theorem choose_roundInt (rm : Nat) (neg : Bool) (n d : Nat) (hd : 0 < d) :
    Spec.choose rm 1 (Spec.signed neg ((n : ℚ) / d)) = roundInt rm neg n d := by
  have h := choose_signed rm neg n d 1 hd one_pos
  rw [mul_one, mul_one] at h
  rw [h]
  cases neg <;> simp [Spec.signed, roundInt]

theorem intIs_iff (y : ℤ) (v : FVal) (hv : 0 < v.den) : intIs y v = true ↔ (y : ℚ) = (Spec.numOf v).value := by
  have hd : (v.den : ℚ) ≠ 0 := by exact_mod_cast hv.ne'
  rw [intIs, decide_eq_true_iff, numOf_value_eq, eq_div_iff hd]
  exact_mod_cast Iff.rfl

/-! ### Integer codes (R141, R161) -/

theorem wrapInt_eq (dt : BitVec 4) (x : ℤ) : wrapInt x (tyWidth dt) = Spec.codeOf dt x := by
  rw [wrapInt, Spec.codeOf]
  push_cast
  rfl

theorem wrapInt_lt (x : ℤ) (w : Nat) : wrapInt x w < 2 ^ w := by
  have hpos : (0 : ℤ) < ((2 ^ w : Nat) : ℤ) := by positivity
  have h0 := Int.emod_nonneg x hpos.ne'
  have h1 := Int.emod_lt_of_pos x hpos
  rw [wrapInt]
  omega

theorem least_eq (dt : BitVec 4) : intMin (tySigned dt) (tyWidth dt) = Spec.least dt := intMin_eq dt _

theorem greatest_eq (dt : BitVec 4) : intMax (tySigned dt) (tyWidth dt) = Spec.greatest dt := intMax_eq dt _

/-- An integer saturated to a type: its code, with flags `past` where it was out of range and `fl` where it was not. -/
theorem saturate_code (dt : BitVec 4) (x : ℤ) (past fl : FFlags) :
    let r := saturate x (intMin (tySigned dt) (tyWidth dt)) (intMax (tySigned dt) (tyWidth dt))
    (wrapInt r.1 (tyWidth dt), if r.2 then past else fl) =
      if x < Spec.least dt then (Spec.codeOf dt (Spec.least dt), past)
      else if Spec.greatest dt < x then (Spec.codeOf dt (Spec.greatest dt), past) else (Spec.codeOf dt x, fl) := by
  have hle := intMin_le_intMax (tySigned dt) (tyWidth dt)
  simp only [least_eq, greatest_eq] at hle ⊢
  unfold saturate
  rcases lt_or_ge x (Spec.least dt) with hlo | hlo
  · simp [hlo, show ¬ Spec.greatest dt < x by omega, wrapInt_eq]
  · rcases lt_or_ge (Spec.greatest dt) x with hhi | hhi
    · simp [hhi, show ¬ x < Spec.least dt by omega, wrapInt_eq]
    · simp [show ¬ x < Spec.least dt by omega, show ¬ Spec.greatest dt < x by omega, wrapInt_eq]

/-- The integer code of a value that is rounded (R161). -/
def roundedCode (dt : BitVec 4) (rm : Nat) (sat : Bool) : FVal → Nat × FFlags
  | .nan _ => (0, fNV)
  | .inf neg => (wrapInt (if neg then intMin (tySigned dt) (tyWidth dt) else intMax (tySigned dt) (tyWidth dt)) (tyWidth dt), if sat then fSI else fNV)
  | .fin neg n d =>
    let y := roundInt rm neg n d
    let r := saturate y (intMin (tySigned dt) (tyWidth dt)) (intMax (tySigned dt) (tyWidth dt))
    (wrapInt r.1 (tyWidth dt), if r.2 then (if sat then fSI else fNV) else if intIs y (.fin neg n d) then 0 else fNX)

/-- The UNORM code of a value (R161). -/
def unormCode (w rm : Nat) : FVal → Nat × FFlags
  | .nan _ => (0, fNV)
  | .inf neg => (if neg then 0 else 2 ^ w - 1, 0)
  | .fin neg n d =>
    if neg || n == 0 then (0, 0)
    else if d ≤ n then (2 ^ w - 1, 0)
    else ((roundInt rm false (n * (2 ^ w - 1)) d).toNat, if n * (2 ^ w - 1) % d == 0 then 0 else fNX)

/-- CVT, by the kind of its target and of its source. -/
theorem cvtCode_eq (ty dt : BitVec 4) (dun sun sat : Bool) (rm c : Nat) :
    cvtCode ty dt dun sun sat rm c =
      if tyFloat dt then roundTo (fmtOf dt) rm sat (cvtSource ty sun c)
      else if dun then unormCode (tyWidth dt) rm (cvtSource ty sun c)
      else if tyFloat ty || sun then roundedCode dt rm sat (cvtSource ty sun c)
      else narrowInt (tySigned dt) sat (tyWidth dt) (cvtSource ty sun c).signedNum := by
  unfold cvtCode
  generalize cvtSource ty sun c = v
  cases v <;> rfl

theorem roundInt_false (rm n d : Nat) : roundInt rm false n d = (roundMag rm false (n / d) (n % d) d : ℕ) := rfl

/-- A fraction that RoundInt takes to itself has no remainder. -/
theorem roundInt_exact (rm n d : Nat) (hd : 0 < d) : (roundInt rm false n d : ℚ) = (n : ℚ) / d ↔ n % d = 0 := by
  have hdq : (d : ℚ) ≠ 0 := by exact_mod_cast hd.ne'
  rw [roundInt_false, Int.cast_natCast, eq_div_iff hdq]
  constructor
  · intro h
    have h : roundMag rm false (n / d) (n % d) d * d = n := by exact_mod_cast h
    rw [← h, Nat.mul_mod_left]
  · intro h
    rw [h, roundMag_zero]
    exact_mod_cast Nat.div_mul_cancel (Nat.dvd_of_mod_eq_zero h)

/-- A whole number of steps is chosen, and exact. -/
theorem exact_choice {r : Nat × FFlags} {z : ℚ} (rm k : Nat) (hcode : r = (k, 0)) (hz : z = k) :
    (r.1 : ℚ) = Spec.choose rm 1 z ∧ r.2 = if Spec.choose rm 1 z = z then 0 else fNX := by
  have hchoose : Spec.choose rm 1 (k : ℚ) = k := choose_int rm k
  rw [hcode, hz, hchoose, if_pos rfl]
  exact ⟨rfl, rfl⟩

/-- A number as a UNORM target takes it: clamped to 0 and 1, in steps of 1 / (2^w - 1). -/
def unormSteps (w : Nat) (x : ℚ) : ℚ := max 0 (min x 1) * (2 ^ w - 1)

/-- The code of a UNORM target is the choice of RM between its steps. -/
theorem unormCode_fin (w rm : Nat) (neg : Bool) (n d : Nat) (hd : 0 < d) :
    let r := unormCode w rm (.fin neg n d)
    let z := unormSteps w (Spec.signed neg ((n : ℚ) / d))
    (r.1 : ℚ) = Spec.choose rm 1 z ∧ r.2 = if Spec.choose rm 1 z = z then 0 else fNX := by
  intro r z
  have hdq : (0 : ℚ) < d := by exact_mod_cast hd
  have hx : 0 ≤ (n : ℚ) / d := by positivity
  have htop : (2 : ℚ) ^ w - 1 = ((2 ^ w - 1 : ℕ) : ℚ) := by rw [Nat.cast_sub Nat.one_le_two_pow]; norm_num
  by_cases hzero : (neg || n == 0) = true
  · have hle : Spec.signed neg ((n : ℚ) / d) ≤ 0 := by
      cases neg with
      | true => simpa [Spec.signed] using hx
      | false => simp [Spec.signed, show n = 0 by simpa using hzero]
    refine exact_choice rm 0 (if_pos hzero) ?_
    simp only [z, unormSteps, max_eq_left (min_le_of_left_le hle), zero_mul, Nat.cast_zero]
  obtain ⟨rfl, hn⟩ : neg = false ∧ n ≠ 0 := by simpa using hzero
  by_cases hone : d ≤ n
  · have hge : 1 ≤ (n : ℚ) / d := by rw [one_le_div hdq]; exact_mod_cast hone
    refine exact_choice rm (2 ^ w - 1) ((if_neg hzero).trans (if_pos hone)) ?_
    rw [← htop]
    simp [z, unormSteps, Spec.signed, min_eq_right hge]
  · have hlt : (n : ℚ) / d < 1 := by rw [div_lt_one hdq]; exact_mod_cast not_le.mp hone
    have hcode : r = ((roundInt rm false (n * (2 ^ w - 1)) d).toNat, if n * (2 ^ w - 1) % d == 0 then 0 else fNX) :=
      (if_neg hzero).trans (if_neg hone)
    have hsteps : z = Spec.signed false (((n * (2 ^ w - 1) : ℕ) : ℚ) / d) := by
      simp only [z, unormSteps, Spec.signed, Bool.false_eq_true, if_false, min_eq_left hlt.le, max_eq_right hx]
      rw [htop, div_mul_eq_mul_div, Nat.cast_mul]
    rw [hcode, hsteps, choose_roundInt rm false _ d hd]
    exact ⟨rfl, if_congr (beq_iff_eq.trans (roundInt_exact rm _ d hd).symm) rfl rfl⟩

theorem unormCode_lt {w : Nat} (hw : 0 < w) (rm : Nat) (v : FVal) : (unormCode w rm v).1 < 2 ^ w := by
  have hpow : 1 < 2 ^ w := Nat.one_lt_two_pow hw.ne'
  cases v with
  | nan s => exact Nat.two_pow_pos w
  | inf neg => cases neg <;> simp [unormCode]
  | fin neg n d =>
    by_cases hzero : (neg || n == 0) = true
    · simp [unormCode, hzero]
    by_cases hone : d ≤ n
    · simp [unormCode, hzero, hone]
    have hd : 0 < d := by omega
    have hdiv : n * (2 ^ w - 1) / d < 2 ^ w - 1 := by
      rw [Nat.div_lt_iff_lt_mul hd, Nat.mul_comm _ d]
      exact Nat.mul_lt_mul_of_pos_right (not_le.mp hone) (by omega)
    have hround := (roundMag_bounds rm false (n * (2 ^ w - 1) / d) (n * (2 ^ w - 1) % d) d).2
    simp only [unormCode, hzero, hone, roundInt_false, Int.toNat_natCast, Bool.false_eq_true, if_false]
    omega

theorem roundedCode_lt (dt : BitVec 4) (rm : Nat) (sat : Bool) (v : FVal) : (roundedCode dt rm sat v).1 < 2 ^ tyWidth dt := by
  cases v with
  | nan s => exact Nat.two_pow_pos _
  | inf neg => exact wrapInt_lt _ _
  | fin neg n d => exact wrapInt_lt _ _

section
variable {dt : BitVec 4} (hdt : ¬ dt.toNat < 8) (rm : Nat) (sat : Bool)
include hdt

theorem roundedCode_converts (v : FVal) (hv : 0 < v.den) : Spec.converts false false dt rm sat (Spec.numOf v) (roundedCode dt rm sat v) := by
  unfold Spec.converts
  simp only [hdt, Bool.false_eq_true, if_false, if_true]
  cases v with
  | nan s => rfl
  | inf neg => cases neg <;> simp only [Spec.numOf, roundedCode, wrapInt_eq, least_eq, greatest_eq, Bool.false_eq_true, if_false, if_true]
  | fin neg n d =>
    have hexact : (intIs (roundInt rm neg n d) (.fin neg n d) = true) = ((roundInt rm neg n d : ℚ) = Spec.signed neg ((n : ℚ) / d)) :=
      propext (intIs_iff _ _ hv)
    simp only [Spec.numOf, roundedCode, choose_roundInt rm neg n d hv, Int.floor_intCast, saturate_code, hexact]

theorem unormCode_converts (whole : Bool) (v : FVal) (hv : 0 < v.den) :
    Spec.converts whole true dt rm sat (Spec.numOf v) (unormCode (tyWidth dt) rm v) := by
  unfold Spec.converts
  simp only [hdt, if_false, if_true]
  cases v with
  | nan s => rfl
  | inf neg => rfl
  | fin neg n d => exact unormCode_fin (tyWidth dt) rm neg n d hv

theorem narrowInt_converts (v : FVal) (hv : v.den = 1) :
    Spec.converts true false dt rm sat (Spec.numOf v) (narrowInt (tySigned dt) sat (tyWidth dt) v.signedNum) := by
  have hfloor : ⌊(Spec.numOf v).value⌋ = v.signedNum := by rw [numOf_value_eq, hv, Nat.cast_one, div_one, Int.floor_intCast]
  unfold Spec.converts
  simp only [hdt, hfloor, Bool.false_eq_true, Bool.true_eq_false, if_false]
  cases sat with
  | false => simp [narrowInt, wrapInt_eq]
  | true => simpa [narrowInt] using saturate_code dt v.signedNum fSI 0

end

end Sys2Proof.Machine
end

section
open Sys2Proof Sys2Proof.Machine

namespace Sys2Proof.Machine

/-! ### CVT (R140, R160, R161) -/

/-- The integer that a code of an integer type stands for (R141). -/
theorem intOf_eq (ty : BitVec 4) {c : Nat} (hc : c < 2 ^ tyWidth ty) :
    intOf ty c = if ty.toNat % 2 = 0 ∧ 2 ^ tyWidth ty ≤ 2 * c then (c : ℤ) - 2 ^ tyWidth ty else c := by
  unfold intOf tySigned signExtInt
  simp only [Nat.mod_eq_of_lt hc, beq_iff_eq]
  by_cases hsigned : ty.toNat % 2 = 0
  · by_cases hhigh : 2 ^ tyWidth ty ≤ 2 * c
    · simp [hsigned, hhigh, not_lt.mpr hhigh]
    · simp [hsigned, hhigh, not_le.mp hhigh]
  · simp [hsigned]

/-- What an integer stands for as an exact value. -/
theorem numOf_int (x : ℤ) : Spec.numOf (.fin (decide (x < 0)) x.natAbs 1) = .real (decide (x < 0)) x := by
  rw [Spec.numOf, signed_natAbs_div, Nat.cast_one, div_one]

theorem cvtSource_int {ty : BitVec 4} (h : ¬ ty.toNat < 8) (c : Nat) :
    cvtSource ty false c = .fin (decide (intOf ty c < 0)) (intOf ty c).natAbs 1 := by
  rw [cvtSource, if_neg Bool.false_ne_true, if_neg (by simpa [tyFloat] using h)]
  rfl

/-- A source element stands for the number that R140 and R161 give it. -/
theorem numOf_cvtSource (ty : BitVec 4) (sun : Bool) (c : Nat) (hc : c < 2 ^ tyWidth ty) :
    Spec.numOf (cvtSource ty sun c) = Spec.sourceOf ty sun c := by
  cases sun with
  | true => simp [cvtSource, Spec.sourceOf, Spec.numOf, Spec.signed, Nat.one_le_two_pow]
  | false =>
    by_cases hty : ty.toNat < 8
    · simp [cvtSource, Spec.sourceOf, tyFloat, hty, numOf_value, fmtOf_format ty hty]
    · have hhalf : (2 : ℚ) ^ tyWidth ty / 2 ≤ c ↔ 2 ^ tyWidth ty ≤ 2 * c := by
        rw [div_le_iff₀' two_pos]
        exact_mod_cast Iff.rfl
      have hlt : (c : ℤ) < 2 ^ tyWidth ty := by exact_mod_cast hc
      rw [cvtSource_int hty, numOf_int, intOf_eq ty hc]
      simp only [Spec.sourceOf, hty, hhalf, Bool.false_eq_true, if_false]
      split_ifs
      · simp [hlt]
      · simp

theorem cvtSource_den_pos (ty : BitVec 4) (sun : Bool) (c : Nat) : 0 < (cvtSource ty sun c).den := by
  unfold cvtSource
  dsimp only
  split_ifs
  · exact Nat.sub_pos_of_lt (Nat.one_lt_two_pow (tyWidth_pos ty).ne')
  · exact value_den_pos _ _
  · exact one_pos
  · exact one_pos

/-- The code of CVT is that of its source's number (R161). -/
theorem cvtCode_converts (ty dt : BitVec 4) (dun sun sat : Bool) (rm c : Nat) (hc : c < 2 ^ tyWidth ty) :
    Spec.converts (decide (8 ≤ ty.toNat) && !sun) dun dt rm sat (Spec.sourceOf ty sun c) (cvtCode ty dt dun sun sat rm c) := by
  have hden := cvtSource_den_pos ty sun c
  rw [← numOf_cvtSource ty sun c hc, cvtCode_eq]
  by_cases hdt : dt.toNat < 8
  · have hround := (roundTo_type hdt rm sat hden).1
    rw [if_pos (show tyFloat dt = true from decide_eq_true hdt)]
    simpa only [Spec.converts, hdt, if_true] using hround
  rw [if_neg (by simpa [tyFloat] using hdt)]
  cases dun with
  | true => exact unormCode_converts hdt rm sat _ _ hden
  | false =>
    by_cases hwhole : ty.toNat < 8 ∨ sun = true
    · have hkind : (decide (8 ≤ ty.toNat) && !sun) = false := by rcases hwhole with h | h <;> simp [h]
      rw [hkind, if_neg Bool.false_ne_true, if_pos (by simpa [tyFloat] using hwhole)]
      exact roundedCode_converts hdt rm sat _ hden
    · obtain ⟨hty, hsun⟩ := not_or.mp hwhole
      obtain rfl : sun = false := by simpa using hsun
      have hkind : (decide (8 ≤ ty.toNat) && !false) = true := by simpa using hty
      rw [hkind, if_neg Bool.false_ne_true, if_neg (by simpa [tyFloat] using hty)]
      exact narrowInt_converts hdt rm sat _ (congrArg FVal.den (cvtSource_int hty c))

/-- Every code of CVT fits its target. -/
theorem cvtCode_lt (ty dt : BitVec 4) (dun sun sat : Bool) (rm c : Nat) : (cvtCode ty dt dun sun sat rm c).1 < 2 ^ tyWidth dt := by
  have hden := cvtSource_den_pos ty sun c
  rw [cvtCode_eq]
  split_ifs with hfloat
  · exact (roundTo_type (by simpa [tyFloat] using hfloat) rm sat hden).2
  · exact unormCode_lt (tyWidth_pos dt) rm _
  · exact roundedCode_lt dt rm sat _
  · unfold narrowInt
    split
    · exact wrapInt_lt _ _
    · exact wrapInt_lt _ _

theorem cvtLane_converts (f : LA) (a : W32) :
    Spec.converts (decide (8 ≤ f.ty.toNat) && !f.b.getLsbD 1) (f.b.getLsbD 0) (f.md.extractLsb' 0 4) f.rm.toNat f.sat
      (Spec.sourceOf f.ty (f.b.getLsbD 1) (a.toNat / 2 ^ (tyWidth f.ty * (f.md.toNat / 16)) % 2 ^ tyWidth f.ty))
      ((cvtLane f a).1.toNat, (cvtLane f a).2) := by
  have hsel : (f.md.extractLsb' 4 3).toNat = f.md.toNat / 16 := by
    rw [BitVec.extractLsb'_toNat, Nat.shiftRight_eq_div_pow, Nat.mod_eq_of_lt (by omega)]
  unfold cvtLane
  dsimp only
  rw [toNat_word (cvtCode_lt _ _ _ _ _ _ _) (tyWidth_le _), hsel]
  exact cvtCode_converts _ _ _ _ _ _ _ (Nat.mod_lt _ (Nat.two_pow_pos _))

end Sys2Proof.Machine
end

section
open Sys2Proof Sys2Proof.Machine

namespace Sys2Proof.Machine

/-! ### The scale of a block (R157, R158) -/

theorem isNanInf_iff (v : FVal) : isNanInf v = true ↔ (Spec.numOf v).isNan = true ∨ (Spec.numOf v).isInf = true := by
  cases v <;> simp [isNanInf, Spec.numOf, Spec.Num.isNan, Spec.Num.isInf]

/-- The magnitude of a value, as numerator and denominator. -/
def FVal.frac : FVal → Nat × Nat
  | .fin _ n d => (n, d)
  | _ => (0, 1)

theorem mxEmax_eq : ∀ t : BitVec 4, mxEmax t = Spec.emax t := by decide

/-- A fraction of naturals. -/
def ratio (p : Nat × Nat) : ℚ := (p.1 : ℚ) / p.2

theorem ratio_frac (v : FVal) : ratio v.frac = |(Spec.numOf v).value| := by
  cases v with
  | nan s => simp [ratio, FVal.frac, Spec.numOf, Spec.Num.value]
  | inf neg => simp [ratio, FVal.frac, Spec.numOf, Spec.Num.value]
  | fin neg n d =>
    have hpos : 0 ≤ (n : ℚ) / d := by positivity
    simp [ratio, FVal.frac, Spec.numOf, Spec.Num.value, abs_signed, abs_of_nonneg hpos]

theorem frac_den_pos {v : FVal} (h : 0 < v.den) : 0 < v.frac.2 := by
  cases v with
  | nan s => exact one_pos
  | inf neg => exact one_pos
  | fin neg n d => exact h

theorem maxMag_eq (p q : Nat × Nat) : maxMag p q = p ∨ maxMag p q = q := by
  unfold maxMag
  split
  · exact .inr rfl
  · exact .inl rfl

theorem ratio_maxMag {p q : Nat × Nat} (hp : 0 < p.2) (hq : 0 < q.2) : ratio p ≤ ratio (maxMag p q) ∧ ratio q ≤ ratio (maxMag p q) := by
  have hpq : (0 : ℚ) < p.2 := by exact_mod_cast hp
  have hqq : (0 : ℚ) < q.2 := by exact_mod_cast hq
  have hlt : ratio p < ratio q ↔ p.1 * q.2 < q.1 * p.2 := by
    rw [ratio, ratio, div_lt_div_iff₀ hpq hqq]
    exact_mod_cast Iff.rfl
  unfold maxMag
  split
  · next h => exact ⟨(hlt.mpr h).le, le_rfl⟩
  · next h => exact ⟨le_rfl, not_lt.mp (mt hlt.mp h)⟩

/-- The greatest of a list of fractions is one of them, and none is greater. -/
theorem foldl_maxMag (l : List (Nat × Nat)) (p : Nat × Nat) (h : ∀ q ∈ p :: l, 0 < q.2) :
    l.foldl maxMag p ∈ p :: l ∧ ∀ q ∈ p :: l, ratio q ≤ ratio (l.foldl maxMag p) := by
  induction l generalizing p with
  | nil => simp
  | cons r l ih =>
    simp only [List.forall_mem_cons] at h
    obtain ⟨hp, hr, hl⟩ := h
    have hmax : 0 < (maxMag p r).2 := by rcases maxMag_eq p r with e | e <;> rw [e] <;> assumption
    obtain ⟨hmem, hle⟩ := ih (maxMag p r) (List.forall_mem_cons.2 ⟨hmax, hl⟩)
    obtain ⟨hpm, hrm⟩ := ratio_maxMag hp hr
    obtain ⟨hm, hle⟩ := List.forall_mem_cons.1 hle
    refine ⟨?_, List.forall_mem_cons.2 ⟨hpm.trans hm, List.forall_mem_cons.2 ⟨hrm.trans hm, hle⟩⟩⟩
    rw [List.foldl_cons]
    rcases List.mem_cons.1 hmem with hmem | hmem
    · rw [hmem]
      rcases maxMag_eq p r with e | e <;> simp [e]
    · simp [hmem]

theorem ratio_eq_zero {p : Nat × Nat} (h : 0 < p.2) : ratio p = 0 ↔ p.1 = 0 := by
  have hq : (p.2 : ℚ) ≠ 0 := by exact_mod_cast h.ne'
  simp [ratio, hq]

theorem value_of_isZero {v : Spec.Num} (h : v.isZero = true) : v.isNan = false ∧ v.isInf = false ∧ v.value = 0 := by
  cases v with
  | nan s => cases h
  | inf neg => cases h
  | real neg x => exact ⟨rfl, rfl, of_decide_eq_true h⟩

theorem value_ne_zero {v : Spec.Num} (hnan : v.isNan = false) (hinf : v.isInf = false) (h : v.isZero = false) : v.value ≠ 0 := by
  cases v with
  | nan s => cases hnan
  | inf neg => cases hinf
  | real neg x => exact of_decide_eq_false h

/-- The greatest magnitude of a block, 0 of a block with no element. -/
def blockMax (vs : List FVal) : Nat × Nat := (vs.map FVal.frac).foldl maxMag (0, 1)

theorem mxScale_eq (t : BitVec 4) (vs : List FVal) :
    mxScale t vs = if vs.any isNanInf then 0xFF else if (blockMax vs).1 = 0 then 0x7F
      else (max 0 (min 254 (log2Frac (blockMax vs).1 (blockMax vs).2 - mxEmax t + 127))).toNat := rfl

/-- The greatest magnitude is the least bound of the magnitudes. -/
theorem blockMax_spec {vs : List FVal} (h : ∀ v ∈ vs, 0 < v.den) :
    0 < (blockMax vs).2 ∧ (∀ v ∈ vs, |(Spec.numOf v).value| ≤ ratio (blockMax vs)) ∧
      ∀ x : ℚ, 0 ≤ x → (∀ v ∈ vs, |(Spec.numOf v).value| ≤ x) → ratio (blockMax vs) ≤ x := by
  have hfracs : ∀ q ∈ (0, 1) :: vs.map FVal.frac, 0 < q.2 :=
    List.forall_mem_cons.2 ⟨one_pos, List.forall_mem_map.2 fun v hv => frac_den_pos (h v hv)⟩
  obtain ⟨hmem, hle⟩ := foldl_maxMag (vs.map FVal.frac) (0, 1) hfracs
  obtain ⟨-, hle⟩ := List.forall_mem_cons.1 hle
  refine ⟨hfracs _ hmem, fun v hv => ratio_frac v ▸ hle _ (List.mem_map_of_mem hv), fun x hx hbound => ?_⟩
  have hall : ∀ q ∈ (0, 1) :: vs.map FVal.frac, ratio q ≤ x :=
    List.forall_mem_cons.2 ⟨by simpa [ratio] using hx, List.forall_mem_map.2 fun v hv => ratio_frac v ▸ hbound v hv⟩
  exact hall _ hmem

theorem any_isNanInf_iff (vs : List FVal) : vs.any isNanInf = true ↔ ∃ v ∈ vs.map Spec.numOf, v.isNan = true ∨ v.isInf = true := by
  simp [isNanInf_iff]

theorem any_isNanInf_false {vs : List FVal} (h : ∀ v ∈ vs.map Spec.numOf, v.isNan = false ∧ v.isInf = false) : ¬ vs.any isNanInf = true := by
  rw [any_isNanInf_iff]
  rintro ⟨v, hv, hbad⟩
  obtain ⟨hnan, hinf⟩ := h v hv
  simp [hnan, hinf] at hbad

/-- The scale that a block's exact values have is that of R158. -/
theorem mxScale_scaleIs (t : BitVec 4) (vs : List FVal) (h : ∀ v ∈ vs, 0 < v.den) : Spec.scaleIs t (vs.map Spec.numOf) (mxScale t vs) := by
  obtain ⟨hden, hle, hleast⟩ := blockMax_spec h
  rw [mxScale_eq]
  refine ⟨fun hnan => if_pos ((any_isNanInf_iff vs).mpr hnan), fun hzero => ?_, fun hfin => ?_⟩
  · have hratio : ratio (blockMax vs) = 0 := by
      refine le_antisymm (hleast 0 le_rfl fun v hv => ?_) (by unfold ratio; positivity)
      obtain ⟨-, -, hval⟩ := value_of_isZero (hzero _ (List.mem_map_of_mem hv))
      rw [hval, abs_zero]
    have hno : ¬ vs.any isNanInf = true := any_isNanInf_false fun v hv => by
      obtain ⟨hnan, hinf, -⟩ := value_of_isZero (hzero v hv)
      exact ⟨hnan, hinf⟩
    rw [if_neg hno, if_pos ((ratio_eq_zero hden).mp hratio)]
  · rw [List.forall_mem_map]
    intro v hv hne hgreatest
    have hratio : ratio (blockMax vs) = |(Spec.numOf v).value| :=
      le_antisymm (hleast _ (abs_nonneg _) (List.forall_mem_map.1 hgreatest)) (hle v hv)
    obtain ⟨hnan, hinf⟩ := hfin _ (List.mem_map_of_mem hv)
    have hnum : (blockMax vs).1 ≠ 0 := by
      rw [ne_eq, ← ratio_eq_zero hden, hratio, abs_eq_zero]
      exact value_ne_zero hnan hinf hne
    rw [if_neg (any_isNanInf_false hfin), if_neg hnum, log2Frac_eq _ _ (Nat.pos_of_ne_zero hnum) hden, mxEmax_eq,
      Int.toNat_of_nonneg (le_max_left _ _), ← hratio]
    rfl

end Sys2Proof.Machine
end

section
open Sys2Proof Sys2Proof.Machine

namespace Sys2Proof.Machine

/-! ### CVTSC (R157, R163) -/

theorem numOf_scale (v : FVal) (k : ℤ) : Spec.numOf (v.scale k) = (Spec.numOf v).times2 k := by
  have hsigned : ∀ (neg : Bool) (x y : ℚ), Spec.signed neg (x * y) = Spec.signed neg x * y := by
    intro neg x y
    cases neg <;> simp [Spec.signed]
  cases v with
  | nan s => rfl
  | inf neg => rfl
  | fin neg n d =>
    by_cases h : 0 ≤ k
    · rw [show (FVal.fin neg n d).scale k = .fin neg (n * 2 ^ k.toNat) d from if_pos h, Spec.numOf, Spec.numOf, Spec.Num.times2, ← hsigned,
        two_zpow_of_nonneg h, div_mul_eq_mul_div, Nat.cast_mul]
    · rw [show (FVal.fin neg n d).scale k = .fin neg n (d * 2 ^ (-k).toNat) from if_neg h, Spec.numOf, Spec.numOf, Spec.Num.times2, ← hsigned,
        two_zpow_of_neg h, div_mul_div_comm, mul_one, Nat.cast_mul]

theorem scale_den_pos {v : FVal} (h : 0 < v.den) (k : ℤ) : 0 < (v.scale k).den := by
  cases v with
  | nan s => exact one_pos
  | inf neg => exact one_pos
  | fin neg n d =>
    unfold FVal.scale
    dsimp only
    split
    · exact h
    · exact Nat.mul_pos h (Nat.two_pow_pos _)

/-- The TYPE code of the wide elements. -/
theorem toNat_wideType (f : LA) : (f.md.extractLsb' 0 4).toNat = f.md.toNat % 16 := BitVec.extractLsb'_toNat 0 4 f.md

section
variable {f : LA} (hnarrow : f.ty.toNat < 8)

section
variable (hwide : f.md.toNat % 16 < 3)
include hwide

theorem wideType_lt : (f.md.extractLsb' 0 4).toNat < 8 := by
  rw [toNat_wideType]
  omega

/-- The number of a lane's wide element. -/
theorem numOf_wideValue (a : W32) :
    let F := Spec.format (f.md.toNat % 16)
    Spec.numOf (wideValue f a) = Spec.read F.fmt (a.toNat % 2 ^ (1 + F.fmt.e + F.fmt.m)) := by
  have hlt := wideType_lt hwide
  simp only [wideValue, numOf_value, fmtOf_format _ hlt, elemOf, tyWidth_format _ hlt, Nat.mul_zero, pow_zero, Nat.div_one, toNat_wideType]

end

include hnarrow in
/-- A wide element under the scale of its block (R163). -/
theorem mxEncode_rounds {x : Nat} (hx : x < 255) {v : FVal} (hv : 0 < v.den) :
    ∃ r : Nat × FFlags, Spec.rounds (Spec.format f.ty.toNat) f.rm.toNat true ((Spec.numOf v).times2 (127 - (x : Int))) r ∧
      mxEncode f x v = (BitVec.ofNat 32 (x * 2 ^ 8 + r.1), r.2 &&& ~~~fOF) := by
  obtain ⟨hround, -⟩ := roundTo_type hnarrow f.rm.toNat true (scale_den_pos hv (127 - (x : Int)))
  rw [numOf_scale] at hround
  exact ⟨_, hround, if_neg hx.ne⟩

theorem mxEncode_scaleNan (v : FVal) :
    mxEncode f 255 v = (0xFF00, if (Spec.numOf v).isNan = true ∨ (Spec.numOf v).isInf = true then fNV else 0) :=
  (if_pos rfl).trans (by simp only [← isNanInf_iff])

include hnarrow in
/-- A narrow code under its scale (R163). -/
theorem mxDecode_rounds (hwide : f.md.toNat % 16 < 3) (a : W32) :
    let F := Spec.format (f.md.toNat % 16)
    let N := Spec.format f.ty.toNat
    let x : Nat := a.toNat / 2 ^ 8 % 2 ^ 8
    let r := mxDecode f a
    if x = 255 then r = (BitVec.ofNat 32 F.nan, 0)
    else Spec.rounds F f.rm.toNat f.sat ((Spec.read N.fmt (a.toNat % 2 ^ (1 + N.fmt.e + N.fmt.m))).times2 ((x : Int) - 127)) (r.1.toNat, r.2) := by
  intro F N x r
  have hlt := wideType_lt hwide
  have hx : bitsOf a 15 8 = x := bitsOf_eq a 15 8
  by_cases hnan : x = 255
  · rw [if_pos hnan, (regular_format (show f.md.toNat % 16 < 8 by omega)).nan, ← toNat_wideType, ← fmtOf_format _ hlt]
    exact if_pos (hx.trans hnan)
  · have hr : r = _ := if_neg (hx ▸ hnan)
    have hround := roundTo_word hlt f.rm.toNat f.sat (scale_den_pos (value_den_pos (fmtOf f.ty) (a.toNat % 2 ^ tyWidth f.ty)) ((x : Int) - 127))
    rw [numOf_scale, numOf_value, fmtOf_format f.ty hnarrow, tyWidth_format _ hnarrow, toNat_wideType] at hround
    rw [if_neg hnan, hr, hx, tyWidth_format _ hnarrow, fmtOf_format _ hnarrow]
    exact hround

end

/-- R157 to R163. -/
theorem codes : Spec.Codes := by
  refine ⟨cvtLane_converts, fun f _ hnarrow hwide => ?_⟩
  intro wide narrow num
  have hnum : num = fun a => Spec.numOf (wideValue f a) := funext fun a => (numOf_wideValue hwide a).symm
  have hden : ∀ a, 0 < (wideValue f a).den := fun a => value_den_pos _ _
  rw [hnum]
  refine ⟨fun as => ?_, fun a x hx => ?_, fun a => mxEncode_scaleNan _, mxDecode_rounds hnarrow hwide⟩
  · have hscale := mxScale_scaleIs f.ty (as.map (wideValue f)) (List.forall_mem_map.2 fun a _ => hden a)
    rwa [List.map_map] at hscale
  · obtain ⟨r, hround, hencode⟩ := mxEncode_rounds hnarrow hx (hden a)
    exact ⟨r, hround, fun _ _ => hencode⟩

end Sys2Proof.Machine
end

section
open Sys2Proof Sys2Proof.Machine

namespace Sys2Proof.Machine

/-! ### CVT, CVTSC, PACK and UNPACK complete (R160, R163, R164) -/

/-- The scales of a block are those of its lanes in ACTIVE. -/
theorem cvtsc_runs (s : State) (u : UnitId) (f : LA) : Spec.laneRuns s u (.cvtsc f) f { b := false } (Spec.blocks f) := by
  refine laneRuns_of_op rfl (congrArg (State.laneOp _ _ _ _) ?_)
  funext a b c act l
  by_cases hl : l < 32 <;> simp only [Spec.blocks, hl, if_true, if_false]

/-- The end of a lane instruction that raises no flag. -/
theorem laneEnd_noFlags {s t t' : State} {u : UnitId} {f : LA} {act : Mask} {r : Nat → W32} (h : t.laneDst u f.kd f.d act r = some t') (bad : Mask) :
    s.laneEnd t u f act r 0 bad = .done (t'.orFpst u 0) := by
  unfold State.laneEnd
  rw [fpTrap_none (fl := 0) BitVec.zero_and, h]

section
variable {s : State} {f : LA} {a : Nat → W32} {t : State}

theorem pack_thread {k : Nat} (h : AloneA s (.thread k)) (hsrc : (s.begunA (.thread k)).laneSrc (.thread k) f.ka f.a = some (a, t)) :
    let w := tyWidth f.ty
    let off := f.md.toNat % 16
    let m : W32 := BitVec.ofNat 32 ((2 ^ w - 1) * 2 ^ (w * off))
    let old : W32 := ((s.begunA (.thread k)).reg (.thread k) f.d.toNat).extractLsb' 0 32
    let new : W32 := BitVec.ofNat 32 ((a 0).toNat * 2 ^ (w * off))
    exec (.pack f) s = .next (s.afterA (.thread k) (.pack f) (t.setReg (.thread k) f.d.toNat (((old &&& ~~~m) ||| (new &&& m)).zeroExtend 64))) := by
  refine runA_done h ?_
  simp only [hsrc, lo32_eq, toNat_wideType]

theorem unpack_thread {k : Nat} (h : AloneA s (.thread k)) (hsrc : (s.begunA (.thread k)).laneSrc (.thread k) f.ka f.a = some (a, t)) :
    let w := tyWidth f.ty
    exec (.unpack f) s = .next (s.afterA (.thread k) (.unpack f)
      (t.setReg (.thread k) f.d.toNat (BitVec.ofNat 64 ((a 0).toNat / 2 ^ (w * (f.md.toNat % 16)) % 2 ^ w)))) := by
  refine runA_done h ?_
  simp only [hsrc, toNat_wideType]

/-- The stream of a wave's elements, 0 in the lanes outside ACTIVE. -/
theorem streamBits_eq (w : Nat) (act : Mask) (a : Nat → W32) :
    streamBits w (fun l => if act.getLsbD l then (a l).toNat else 0) =
      ((List.range 64).map (fun l => (if act.getLsbD l then (a l).toNat % 2 ^ w else 0) * 2 ^ (w * l))).foldl (· + ·) 0 := by
  have helem : ∀ l, (if act.getLsbD l then (a l).toNat else 0) % 2 ^ w = if act.getLsbD l then (a l).toNat % 2 ^ w else 0 := by
    intro l
    split
    · rfl
    · exact Nat.zero_mod _
  simp only [streamBits, helem, List.foldl_map]

theorem pack_wave {k : Nat} {t' : State} (h : AloneA s (.wave k)) (hsrc : (s.begunA (.wave k)).laneSrc (.wave k) f.ka f.a = some (a, t)) :
    let w := tyWidth f.ty
    let act := (s.begunA (.wave k)).active (.wave k) f.msel
    let first := f.md.toNat % 16 * (2 * w)
    let elems := ((List.range 64).map (fun l => (if act.getLsbD l then (a l).toNat % 2 ^ w else 0) * 2 ^ (w * l))).foldl (· + ·) 0
    let window := Mask.ofLanes ((Mask.lanes act).filter (fun l => decide (first ≤ l) && decide (l < first + 2 * w)))
    t.laneDst (.wave k) f.kd f.d window (fun l => BitVec.ofNat 32 (elems / 2 ^ (32 * (l - first)))) = some t' →
    exec (.pack f) s = .next (s.afterA (.wave k) (.pack f) (t'.orFpst (.wave k) 0)) := by
  intro w act first elems window hdst
  refine runA_done h ?_
  simp only [hsrc, streamBits_eq, toNat_wideType]
  exact laneEnd_noFlags hdst 0

theorem unpack_wave {k : Nat} {t' : State} (h : AloneA s (.wave k)) (hsrc : (s.begunA (.wave k)).laneSrc (.wave k) f.ka f.a = some (a, t)) :
    let w := tyWidth f.ty
    let act := (s.begunA (.wave k)).active (.wave k) f.msel
    let first := f.md.toNat % 16 * (2 * w)
    let words := ((List.range (2 * w)).map (fun j => (a (first + j)).toNat * 2 ^ (32 * j))).foldl (· + ·) 0
    t.laneDst (.wave k) f.kd f.d act (fun l => BitVec.ofNat 32 (words / 2 ^ (w * l) % 2 ^ w)) = some t' →
    exec (.unpack f) s = .next (s.afterA (.wave k) (.unpack f) (t'.orFpst (.wave k) 0)) := by
  intro w act first words hdst
  refine runA_done h ?_
  simp only [words, List.foldl_map] at hdst
  simp only [hsrc, toNat_wideType]
  exact laneEnd_noFlags hdst 0

end

/-- R160, R161, R163, R164. -/
theorem conversionForms : Spec.ConversionForms := by
  intro s u f
  refine ⟨laneRuns_of_op rfl rfl, cvtsc_runs s u f, fun halone a t => ?_⟩
  intro s0 w off hsrc
  refine ⟨fun k hk => ?_, fun k hk => ?_⟩
  · subst hk
    exact ⟨pack_thread halone hsrc, unpack_thread halone hsrc⟩
  · subst hk
    exact ⟨fun t' hdst => pack_wave halone hsrc hdst, fun t' hdst => unpack_wave halone hsrc hdst⟩

end Sys2Proof.Machine

/-- Settles O24: CVT by the kinds of its source and target (`cvtCode_converts`), the scale of a block by its greatest magnitude (`blockMax_spec`), and PACK
and UNPACK as the streams of their elements. -/
theorem conversions : Obligations.Conversions := ⟨conversionForms, codes⟩
end

section
open Sys2Proof Sys2Proof.Machine

namespace Sys2Proof.Machine

/-! ### Accesses of lanes that pass their checks (R205, R206) -/

/-- Lanes that pass the checks for an access of kind `k` raise no trap. -/
theorem memCheck_passes {s : State} {u : UnitId} {sp : Space} {width k : Nat} {eas : List (Nat × W64)} (r : Res)
    (h : ∀ e ∈ eas, s.laneCheck u sp width e.2 k = none) : s.memCheck u sp width eas r k = r := by
  have hnone : eas.filterMap (fun e => (s.laneCheck u sp width e.2 k).map (fun c => (e.1, e.2, c))) = [] :=
    List.filterMap_eq_nil_iff.mpr fun e he => by rw [h e he]; rfl
  rw [State.memCheck, hnone]
  rfl

/-- The compute stream of a unit that stands alone reads no scratchpad. -/
theorem streamHeld_begun {s : State} {u : UnitId} (h : Alone s u) : (s.begun u).streamHeld u = false := by
  cases u with
  | thread t => rfl
  | wave w =>
    have hlead : ((s.begun (.wave w)).wave w).lead = [] := by rw [← h.caughtUp w rfl, wave_begun]
    simp [State.streamHeld, Wave.streamAhead, hlead]

/-- A holding access without lanes, or whose lanes are answered at once, is finished. -/
theorem sendHold_atOnce {s : State} {a : Access} (u : UnitId) (fin : State → State) (h : Spec.answersAtOnce s a) :
    s.sendHold u a fin = .done (fin (Spec.answered s a)) := by
  by_cases hempty : a.lanes = []
  · simp [State.sendHold, Spec.answered, hempty]
  · obtain ⟨b, hb, hcomplete, hfailed⟩ := h.resolve_left hempty
    rw [sendHold_answered s u a b fin hempty hb hcomplete hfailed, Spec.answered, if_neg (by simpa using hempty)]

/-! ### ST and STS (R210) -/

/-- ST and STS of lanes that pass, with their data at hand. -/
theorem storePlain_sends {s : State} {u : UnitId} {m : MemOp} {x : Option MemExt} {spad : Bool} {d : Nat → W64} (halone : Alone s u)
    (hpass : Spec.passes (s.begun u) u (Spec.space (s.begun u) u spad) (Spec.form u m x) 1)
    (hdata : (s.begun u).storeData u (Spec.form u m x) = some d) :
    let lanes := (Spec.storeOf (s.begun u) u m x (Spec.space (s.begun u) u spad) .store false d).lanes
    let s1 := ((s.begun u).popStore u (Spec.form u m x)).noteStores u lanes
    (s.begun u).storePlain u (Spec.form u m x) spad =
      .done (s1.sendRel (s1.memAccess u (Spec.space (s.begun u) u spad) .store (szBytes m.sz) .none false false lanes)) := by
  refine (memCheck_passes _ hpass).trans ?_
  simp only [hdata, streamHeld_begun halone, Bool.and_false, Bool.false_eq_true, if_false]
  refine (after_quiet _ u _ _ (accessesOf_begun s u halone)).trans ?_
  rw [form_m]
  rfl

end Sys2Proof.Machine

/-- Settles O9: the checks pass, no access is outstanding, so the store is sent at once. -/
theorem storesIssue : Obligations.StoresIssue := by
  intro s u m e d halone s0 plain
  have hplain : ∀ (i : Instr) (k : MemKind) (x : Option MemExt) (spad : Bool), exec i s = runC s i (fun s u => s.memOp u k m x) →
      s0.memOp u k m x = s0.storePlain u (Spec.form u m x) spad → plain i x spad :=
    fun i k x spad hexec hop hpass hdata => hexec.trans (runC_done halone (hop.trans (storePlain_sends halone hpass hdata)))
  exact ⟨hplain _ .st none false rfl rfl, hplain _ .sts none true rfl rfl, hplain _ .st (some e) false rfl rfl,
    hplain _ .sts (some e) true rfl rfl⟩
end

section
open Sys2Proof Sys2Proof.Machine

namespace Sys2Proof.Machine

/-! ### LDA, LDSYNC, STL and STF (R211, R213, R214) -/

/-- The spin detector's note changes nothing that an access says of its unit. -/
theorem memAccess_noteStores (s : State) (u : UnitId) (noted : List ALane) (sp : Space) (op : AccOp) (bytes : Nat) (dest : Dest)
    (holding acquire : Bool) (lanes : List ALane) :
    (s.noteStores u noted).memAccess u sp op bytes dest holding acquire lanes = s.memAccess u sp op bytes dest holding acquire lanes := by
  cases u with
  | thread t => rfl
  | wave w =>
    unfold State.noteStores
    dsimp only
    split
    · rfl
    · simp [State.memAccess, State.unitCtx, State.unitPos, State.pcOf, State.com]

section
variable {s : State} {u : UnitId} {m : MemOp} {x : Option MemExt} (halone : Alone s u) (hredo : (s.com u).redo = none)
include halone hredo

/-- A holding load of lanes that pass and are answered at once ends with acquire semantics. -/
theorem loadHold_ends {sp : Space} {op : AccOp} (hpass : Spec.passes (s.begun u) u sp (Spec.form u m x) 0) :
    let a := Spec.loadOf (s.begun u) u m x sp op (memDest u (Spec.form u m x)) true
    Spec.answersAtOnce (s.begun u) a →
    (s.begun u).loadHold u (Spec.form u m x) sp op = .done ((Spec.answered (s.begun u) a).l1Acquire u) := by
  intro a hanswers
  rw [State.loadHold, holdAgain_begins halone, redoLanes_begun hredo]
  refine (memCheck_passes _ hpass).trans ((after_quiet _ u _ _ (accessesOf_begun s u halone)).trans ?_)
  rw [form_m]
  exact sendHold_atOnce u _ hanswers

/-- A holding store of lanes that pass and are answered at once takes its queue entries. -/
theorem storeHold_ends {spad full : Bool} {d : Nat → W64}
    (hpass : Spec.passes (s.begun u) u (Spec.space (s.begun u) u spad) (Spec.form u m x) 1)
    (hdata : (s.begun u).storeData u (Spec.form u m x) = some d) :
    let op : AccOp := if full then .storeFull else .store
    let s1 := (s.begun u).noteStores u (Spec.storeOf (s.begun u) u m x (Spec.space (s.begun u) u spad) op true d).lanes
    let a := s1.memAccess u (Spec.space (s.begun u) u spad) op (szBytes m.sz) .none true false
      (Spec.storeOf (s.begun u) u m x (Spec.space (s.begun u) u spad) op true d).lanes
    Spec.answersAtOnce s1 a →
    (s.begun u).storeHold u (Spec.form u m x) spad full = .done ((Spec.answered s1 a).popStore u (Spec.form u m x)) := by
  intro op s1 a hanswers
  rw [State.storeHold, holdAgain_begins halone, redoLanes_begun hredo]
  refine (memCheck_passes _ hpass).trans ?_
  simp only [hdata, streamHeld_begun halone, Bool.and_false, Bool.false_eq_true, if_false]
  refine (after_quiet _ u _ _ (accessesOf_begun s u halone)).trans ?_
  rw [form_m]
  have ha : a = (s.begun u).memAccess u (Spec.space (s.begun u) u spad) op (szBytes m.sz) .none true false
      (Spec.storeOf (s.begun u) u m x (Spec.space (s.begun u) u spad) op true d).lanes := memAccess_noteStores ..
  have hends := sendHold_atOnce u (fun t => t.popStore u (Spec.form u m x)) hanswers
  rw [ha] at hends ⊢
  exact hends
end

end Sys2Proof.Machine

/-- Settles O10: nothing is sent again and the checks pass, so the access is sent; its lanes are answered, so the instruction ends. -/
theorem holdingAccesses : Obligations.HoldingAccesses := by
  intro s u m e d halone hredo s0 load store bit
  have hload : ∀ (i : Instr) (k : MemKind) (x : Option MemExt) (sp : Space) (op : AccOp), exec i s = runC s i (fun s u => s.memOp u k m x) →
      s0.memOp u k m x = s0.loadHold u (Spec.form u m x) sp op → load i x sp op :=
    fun i k x sp op hexec hop hpass hanswers => hexec.trans (runC_done halone (hop.trans (loadHold_ends halone hredo hpass hanswers)))
  have hsync : ∀ (x : Option MemExt) (sp : Space) (op : AccOp), s0.inTask u = false →
      (if s0.inTask u = true then Res.trap s0 { cause := .blockingInTask } else s0.loadHold u (Spec.form u m x) sp op) =
        s0.loadHold u (Spec.form u m x) sp op :=
    fun x sp op htask => if_neg (Bool.eq_false_iff.mp htask)
  have hstore : ∀ (i : Instr) (k : MemKind) (x : Option MemExt) (spad full : Bool), exec i s = runC s i (fun s u => s.memOp u k m x) →
      s0.memOp u k m x = s0.storeHold u (Spec.form u m x) spad full →
      store i x (Spec.space s0 u spad) (if full then .storeFull else .store) :=
    fun i k x spad full hexec hop hpass hdata hanswers =>
      hexec.trans (runC_done halone (hop.trans (storeHold_ends halone hredo hpass hdata hanswers)))
  exact ⟨hload _ .lda none _ _ rfl rfl, hload _ .lda (some e) _ _ rfl rfl, fun htask => hload _ .ldsync none _ _ rfl (hsync none _ _ htask),
    fun htask => hload _ .ldsync (some e) _ _ rfl (hsync (some e) _ _ htask), hstore _ .stl none false false rfl rfl,
    hstore _ .stl (some e) false false rfl rfl, hstore _ .stf none false true rfl rfl, hstore _ .stf (some e) (bit 1) true rfl rfl⟩
end

section
open Sys2Proof Sys2Proof.Machine

namespace Sys2Proof.Machine

/-! ### ATOM (R216 to R218) -/

section
variable {s : State} {u : UnitId} {m : MemOp} {e : MemExt} (halone : Alone s u) (hredo : (s.com u).redo = none)
  (hpass : Spec.passes (s.begun u) u ((s.begun u).spaceOf u) (Spec.formX u m (some e)) 3)
include halone hredo hpass

/-- An ATOM of lanes that pass sends its access, posted or held. -/
theorem atomic_sends :
    let posted : Bool := e.md.getLsbD 7 && bitsOf e.md 5 4 == 0
    let s1 := (s.begun u).noteStores u (Spec.atomLanes (s.begun u) u m e)
    let a := Spec.atomOf (s.begun u) u m e (!posted)
    (s.begun u).atomic u m e =
      if posted then .done (s1.sendRel a) else s1.sendHold u a (fun t => if bitsOf e.md 5 4 % 2 == 1 then t.l1Acquire u else t) := by
  intro posted s1 a
  simp only [State.atomic, holdAgain_begins halone, redoLanes_begun hredo]
  exact (memCheck_passes _ hpass).trans (after_quiet _ u _ _ (accessesOf_begun s u halone))
end

/-- R217, R218. -/
theorem atomics : Spec.Atomics := by
  intro s u m e halone hredo s0 ord nr ls a hpass
  have hsends := atomic_sends halone hredo hpass
  refine ⟨fun hnr hord => ?_, fun hheld hanswers => ?_⟩
  · have hposted : (e.md.getLsbD 7 && bitsOf e.md 5 4 == 0) = true := by rw [Bool.and_eq_true, beq_iff_eq]; exact ⟨hnr, hord⟩
    simp only [hposted, if_true] at hsends
    exact runC_done halone hsends
  · have hposted : (e.md.getLsbD 7 && bitsOf e.md 5 4 == 0) = false := by
      rw [Bool.eq_false_iff, ne_eq, Bool.and_eq_true, beq_iff_eq]; exact hheld
    simp only [hposted, Bool.false_eq_true, if_false, beq_iff_eq] at hsends
    exact runC_done halone (hsends.trans (sendHold_atOnce u _ hanswers))

/-! ### HIST (R315, R316) -/

/-- The lowest lane of each address, in the order of the lanes. -/
def lowestLanes : List (Nat × W64) → List (Nat × W64)
  | [] => []
  | x :: t => x :: (lowestLanes t).filter (fun y => y.2 != x.2)

/-- The sum of the increments of the lanes with one address. -/
def addressSum (eas : List (Nat × W64)) (inc : Nat → Nat) (a : W64) : Nat := ((eas.filter (fun x => x.2 == a)).map (fun x => inc x.1)).sum

theorem lowestLanes_sublist (eas : List (Nat × W64)) : (lowestLanes eas).Sublist eas := by
  induction eas with
  | nil => exact .slnil
  | cons x t ih => exact (List.filter_sublist.trans ih).cons_cons x

/-- With ascending lanes, a lane is among them where no lower one has its address. -/
theorem mem_lowestLanes {eas : List (Nat × W64)} (h : eas.Pairwise (fun x y => x.1 < y.1)) (x : Nat × W64) :
    x ∈ lowestLanes eas ↔ x ∈ eas ∧ ¬ ∃ y ∈ eas, y.2 = x.2 ∧ y.1 < x.1 := by
  induction eas with
  | nil => simp [lowestLanes]
  | cons z t ih =>
    obtain ⟨hz, ht⟩ := List.pairwise_cons.mp h
    simp only [lowestLanes, List.mem_cons, List.mem_filter, ih ht, bne_iff_ne]
    constructor
    · rintro (rfl | ⟨⟨hx, hlow⟩, hne⟩)
      · refine ⟨.inl rfl, ?_⟩
        rintro ⟨y, rfl | hy, -, hlt⟩
        · exact lt_irrefl _ hlt
        · exact lt_asymm hlt (hz y hy)
      · refine ⟨.inr hx, ?_⟩
        rintro ⟨y, rfl | hy, heq, hlt⟩
        · exact hne heq.symm
        · exact hlow ⟨y, hy, heq, hlt⟩
    · rintro ⟨rfl | hx, hlow⟩
      · exact .inl rfl
      · exact .inr ⟨⟨hx, fun ⟨y, hy, hy'⟩ => hlow ⟨y, .inr hy, hy'⟩⟩, fun heq => hlow ⟨z, .inl rfl, heq.symm, hz x hx⟩⟩

/-- Every address has its lowest lane. -/
theorem exists_lowestLane {eas : List (Nat × W64)} {x : Nat × W64} (h : x ∈ eas) : ∃ y ∈ lowestLanes eas, y.2 = x.2 := by
  induction eas with
  | nil => cases h
  | cons z t ih =>
    by_cases heq : z.2 = x.2
    · exact ⟨z, List.mem_cons_self, heq⟩
    · obtain ⟨y, hy, hyx⟩ := ih ((List.mem_cons.mp h).resolve_left fun hxz => heq (hxz ▸ rfl))
      exact ⟨y, List.mem_cons_of_mem _ (List.mem_filter.mpr ⟨hy, by rw [bne_iff_ne, hyx]; exact Ne.symm heq⟩), hyx⟩

/-- Each address is combined once, at its lowest lane, with the sum of its lanes. -/
theorem combine_lowest (eas : List (Nat × W64)) (inc : Nat → Nat) :
    combine (eas.map (fun x => (x.1, x.2, inc x.1))) = (lowestLanes eas).map (fun x => (x.1, x.2, addressSum eas inc x.2)) := by
  induction eas with
  | nil => rfl
  | cons z t ih =>
    have hown : addressSum (z :: t) inc z.2 = inc z.1 + addressSum t inc z.2 := by simp [addressSum]
    have hrest : ((lowestLanes t).filter (fun y => y.2 != z.2)).map (fun x => (x.1, x.2, addressSum (z :: t) inc x.2)) =
        ((lowestLanes t).map (fun x => (x.1, x.2, addressSum t inc x.2))).filter (fun e => e.2.1 != z.2) := by
      rw [List.filter_map]
      refine List.map_congr_left fun y hy => ?_
      have hne : z.2 ≠ y.2 := Ne.symm (bne_iff_ne.mp (List.mem_filter.mp hy).2)
      simp [addressSum, hne]
    rw [lowestLanes, List.map_cons, List.map_cons, hown, hrest, combine, ih]
    cases hfind : ((lowestLanes t).map (fun x => (x.1, x.2, addressSum t inc x.2))).find? (fun e => e.2.1 == z.2) with
    | some e =>
      obtain ⟨y, -, rfl⟩ := List.mem_map.mp (List.mem_of_find?_eq_some hfind)
      have haddr : y.2 = z.2 := by simpa using List.find?_some hfind
      simp only [haddr]
    | none =>
      have hnone : ∀ y ∈ lowestLanes t, y.2 ≠ z.2 := by simpa using hfind
      have hzero : addressSum t inc z.2 = 0 := by
        have : t.filter (fun x => x.2 == z.2) = [] := List.filter_eq_nil_iff.mpr fun x hx heq => by
          obtain ⟨y, hy, hyx⟩ := exists_lowestLane hx
          exact hnone y hy (hyx.trans (beq_iff_eq.mp heq))
        rw [addressSum, this]
        rfl
      have hall : ((lowestLanes t).map (fun x => (x.1, x.2, addressSum t inc x.2))).filter (fun e => e.2.1 != z.2) =
          (lowestLanes t).map (fun x => (x.1, x.2, addressSum t inc x.2)) :=
        List.filter_eq_self.mpr (List.forall_mem_map.mpr fun y hy => bne_iff_ne.mpr (hnone y hy))
      simp only [hzero, hall, Nat.add_zero]

/-- The combined entry of a lane: it stands at the lowest lane of each address alone. -/
theorem combine_find {eas : List (Nat × W64)} (h : eas.Pairwise (fun x y => x.1 < y.1)) (inc : Nat → Nat) {x : Nat × W64} (hx : x ∈ eas) :
    (combine (eas.map (fun x => (x.1, x.2, inc x.1)))).find? (fun e => e.1 == x.1) =
      if ∃ y ∈ eas, y.2 = x.2 ∧ y.1 < x.1 then none else some (x.1, x.2, addressSum eas inc x.2) := by
  have hlane : ∀ y ∈ lowestLanes eas, y.1 = x.1 → y = x := fun y hy =>
    List.inj_on_of_nodup_map (List.pairwise_map.mpr (h.imp Nat.ne_of_lt)) ((lowestLanes_sublist eas).subset hy) hx
  have hmem := mem_lowestLanes h x
  rw [combine_lowest, List.find?_map]
  change Option.map _ ((lowestLanes eas).find? (fun y => y.1 == x.1)) = _
  cases hfind : (lowestLanes eas).find? (fun y => y.1 == x.1) with
  | some y =>
    have heq : (y.1 == x.1) = true := List.find?_some (p := fun y : Nat × W64 => y.1 == x.1) hfind
    obtain rfl := hlane y (List.mem_of_find?_eq_some hfind) (beq_iff_eq.mp heq)
    rw [if_neg (hmem.mp (List.mem_of_find?_eq_some hfind)).2]
    rfl
  | none =>
    have hout : x ∉ lowestLanes eas := fun hin => List.find?_eq_none.mp hfind x hin (beq_self_eq_true x.1)
    rw [if_pos (not_not.mp fun hlow => hout (hmem.mpr ⟨hx, hlow⟩))]
    rfl

theorem memLanes_ascending (s : State) (u : UnitId) (f : MemForm) : (s.memLanes u f).Pairwise (· < ·) := by
  cases u with
  | thread t => simp [State.memLanes]
  | wave w =>
    unfold State.memLanes
    dsimp only
    split
    · simp
    · exact List.pairwise_lt_range.filter _

theorem addresses_ascending (s : State) (u : UnitId) (f : MemForm) : (Spec.addresses s u f).Pairwise (fun x y => x.1 < y.1) :=
  List.pairwise_map.mpr (memLanes_ascending s u f)

/-- The increment of a lane of a HIST. -/
def State.histInc (s : State) (u : UnitId) (m : MemOp) (x : Option MemExt) (l : Nat) : Nat :=
  if (Spec.modOf x).getLsbD 1 then 1 else (s.memReg u (Spec.form u m x) m.d.toNat (m.sz == 3) l).toNat % 2 ^ (8 * szBytes m.sz)

/-- A lane of a HIST, by the combined entries. -/
def combinedLane (sums : List (Nat × W64 × Nat)) (x : Nat × W64) : ALane :=
  match sums.find? (fun e => e.1 == x.1) with
  | some e => { lane := x.1, ea := x.2, data := BitVec.ofNat 64 e.2.2, data2 := BitVec.ofNat 64 (e.2.2 / 2 ^ 64) }
  | none => { lane := x.1, ea := x.2, st := .done }

/-- The lanes that a HIST sends, by their combined entries. -/
theorem histLanes_combined (s : State) (u : UnitId) (m : MemOp) (x : Option MemExt) :
    let eas := Spec.addresses s u (Spec.form u m x)
    eas.map (combinedLane (combine (eas.map (fun y => (y.1, y.2, s.histInc u m x y.1))))) = Spec.histLanes s u m x := by
  refine List.map_congr_left fun y hy => ?_
  rw [combinedLane, combine_find (addresses_ascending ..) (s.histInc u m x) hy]
  by_cases hlow : ∃ z ∈ Spec.addresses s u (Spec.form u m x), z.2 = y.2 ∧ z.1 < y.1
  · rw [if_pos hlow, if_pos hlow]
  · rw [if_neg hlow, if_neg hlow]
    rfl

/-- HIST of lanes that pass sends its lanes, each address combined at its lowest lane. -/
theorem histogram_sends {s : State} {u : UnitId} {m : MemOp} {x : Option MemExt} (halone : Alone s u) :
    let a := Spec.histOf (s.begun u) u m x
    let s1 := (s.begun u).noteStores u a.lanes
    Spec.passes (s.begun u) u a.space (Spec.form u m x) 3 →
    (s.begun u).histogram u m x = .done (s1.sendRel (s1.memAccess u a.space a.op a.bytes .none false false a.lanes)) := by
  intro a s1 hpass
  have hcheck : ∀ y ∈ Spec.addresses (s.begun u) u (Spec.form u m x), (s.begun u).laneCheck u a.space (szBytes m.sz) y.2 3 = none := by
    simpa only [Spec.passes, form_m] using hpass
  refine (memCheck_passes _ hcheck).trans ?_
  simp only [streamHeld_begun halone, Bool.and_false, Bool.false_eq_true, if_false]
  refine (after_quiet _ u _ _ (accessesOf_begun s u halone)).trans ?_
  have hlanes : a.lanes = Spec.histLanes (s.begun u) u m x := rfl
  simp only [s1, hlanes, ← histLanes_combined, memAccess_noteStores]
  rfl

/-- R315, R316. -/
theorem histograms : Spec.Histograms := by
  intro s u m e halone s0 a s1 hpass
  exact runC_done halone (histogram_sends halone hpass)

end Sys2Proof.Machine

/-- Settles O11: ATOM sends its access, posted or held (`atomic_sends`); HIST's combined entries are the sums at the lowest lanes (`combine_find`). -/
theorem atomicsAndHistograms : Obligations.AtomicsAndHistograms := ⟨atomics, histograms⟩
end

section
open Sys2Proof Sys2Proof.Machine

namespace Sys2Proof.Machine

/-! ### CWB and CINV (R220) -/

/-- Does an instruction of cache maintenance name a sector, as the model puts it? -/
theorem inExtent_eq (s : State) (u : UnitId) (m : MemOp) (e : Option MemExt) (x : Sector) :
    ((m.sz == 3 || x.ctx == s.unitCtx u) && (m.sz == 3 || (s.extents u m e).any (fun y => meets y.1 y.2 x.va x.span))) =
      Spec.inExtent s u m e x := by
  rw [← Bool.or_and_distrib_left, State.extents, List.any_map]
  simp only [Spec.inExtent, Spec.extentLanes, Spec.addresses, List.any_map]
  rfl

/-- A wave's maintenance of extents whose lanes pass keeps or drops the engine's copies there. -/
theorem maintain_wave {s : State} {w : Nat} {m : MemOp} {e : Option MemExt} (inv : Bool) (hquiet : s.accessesOf (.wave w) = [])
    (hpass : m.sz ≠ 3 → ∀ x ∈ Spec.extentLanes s (.wave w) m e, s.laneCheck (.wave w) (s.spaceOf (.wave w)) 1 x.2 = none) :
    s.maintain (.wave w) m e inv = .done (s.modEngine (s.wave w).eng (fun k => { k with
      l1 := if inv then k.l1.filter (fun x => !Spec.inExtent s (.wave w) m e x)
        else k.l1.map (fun x => if Spec.inExtent s (.wave w) m e x && x.st == .m then { x with st := .s } else x) })) := by
  have hlanes : ∀ x ∈ (if (m.sz == 3) = true then [] else Spec.extentLanes s (.wave w) m e),
      s.laneCheck (.wave w) (s.spaceOf (.wave w)) 1 x.2 = none := by
    intro x hx
    split at hx
    next => cases hx
    next h => exact hpass (by simpa using h) x hx
  refine (memCheck_passes _ hlanes).trans ?_
  simp only [settle_quiet _ _ _ hquiet, Bool.not_true, Bool.false_eq_true, if_false, inExtent_eq]

/-- R220, R232, R233. -/
theorem cacheOperations : Spec.CacheOperations := by
  intro s u m e halone s0
  have hquiet : s0.accessesOf u = [] := accessesOf_begun s u halone
  have hcore : ∀ t, u = .thread t → ∀ inv, s0.maintain u m e inv = .done s0 := by
    rintro t rfl inv
    rfl
  have hfence : ∀ (full : Bool) (need : Access → Bool), s0.fenceUnit u full need = .done (if full then s0.l1Acquire u else s0) := by
    intro full need
    simp only [State.fenceUnit, settle_quiet s0 u need hquiet, if_true]
  refine ⟨runC_done halone rfl, fun t ht => runC_done halone (hcore t ht false), fun t ht => runC_done halone (hcore t ht true), ?_,
    runC_done halone (hfence true _), runC_done halone (hfence false _)⟩
  rintro w rfl hpass
  exact ⟨runC_done halone (maintain_wave false hquiet hpass), runC_done halone (maintain_wave true hquiet hpass)⟩

/-! ### A slot beside accesses in flight and open fences (R233, R508) -/

/-- No access in flight will write a register that the slot names. -/
def State.namesFree (s : State) (u : UnitId) (i : Instr) : Prop :=
  ∀ a ∈ s.accessesOf u, a.complete = true ∨ regsMeet a.regs ((s.useOf u i).reads ++ (s.useOf u i).writes) = false

/-- Then the slot waits for no register. -/
theorem waitRegs_free {s : State} {u : UnitId} {i : Instr} (hclean : (s.com u).frec = []) (hfree : s.namesFree u i) :
    s.waitRegs u (s.useOf u i) = (true, s) := by
  have hanswered : s.answered u (fun a => regsMeet a.regs ((s.useOf u i).reads ++ (s.useOf u i).writes)) = true := by
    refine List.all_eq_true.mpr fun a ha => ?_
    rcases hfree a ha with h | h <;> simp [h]
  simp only [State.waitRegs, State.settle, hanswered, if_true, heldRegs_clean s u _ hclean, Bool.not_false, Bool.and_true]

section
variable {s : State} {u : UnitId} {i : Instr} (h : Spec.GoesOn s u) (hopen : s.endFences u = s) (hfree : s.namesFree u i)
include h hopen hfree

/-- A slot that no fence holds takes its effect. -/
theorem runC_goesOn (f : State → UnitId → Res) (hfenced : s.fenced u i = false) :
    runC s i f = .next ((s.begun u).applyC u (s.noted u i) (f (s.begun u) u)) := by
  simp only [runC, h.current, h.running, if_true, State.stepC, h.waits, hopen, waitRegs_free h.clean hfree,
    leadClash_empty s u _ h.caughtUp, leadFull_empty s u h.caughtUp, hfenced]
  rfl

theorem runC_goesOn_done {f : State → UnitId → Res} {t : State} (hfenced : s.fenced u i = false) (hdone : f (s.begun u) u = .done t) :
    runC s i f = .next (s.afterC u i t) := by
  rw [runC_goesOn h hopen hfree f hfenced, hdone, State.applyC, State.afterC, pcOf_begun, execOf_begun]

/-- A slot that an open fence holds is not ready. -/
theorem runC_fenced (f : State → UnitId → Res) (hfenced : s.fenced u i = true) : runC s i f = .next (s.stalled u) := by
  simp only [runC, h.current, h.running, if_true, State.stepC, h.waits, hopen, waitRegs_free h.clean hfree, hfenced, Bool.or_true]
end

/-! ### Fences beside accesses in flight (R233) -/

theorem answered_iff (s : State) (u : UnitId) (need : Access → Bool) :
    s.answered u need = true ↔ ∀ a ∈ s.accessesOf u, need a = true → a.complete = true := by
  simp only [State.answered, List.all_eq_true, Bool.or_eq_true, Bool.not_eq_true', ← Bool.not_eq_true, imp_iff_not_or]

/-- A wait that is over says so. -/
theorem settle_fst (s : State) (u : UnitId) (need : Access → Bool) : (s.settle u need).1 = (s.settle u need).2.answered u need := by
  unfold State.settle
  split
  next h => exact h.symm
  next => rfl

/-- A fence names no register. -/
theorem namesFree_fence (s : State) (u : UnitId) (i : Instr) (h : i = .fence ∨ i = .fenceSt) : s.namesFree u i := by
  intro a _
  have huse : (s.useOf u i).reads ++ (s.useOf u i).writes = [] := by
    rcases h with rfl | rfl <;> cases u <;> rfl
  rw [huse]
  exact .inr (by simp [regsMeet])

/-- With what it names performed a fence completes. -/
theorem fenceUnit_over {s : State} {u : UnitId} {full : Bool} {need : Access → Bool} (h : (s.settle u need).1 = true) :
    s.fenceUnit u full need = .done (if full then (s.settle u need).2.l1Acquire u else (s.settle u need).2) := by
  simp only [State.fenceUnit, h, if_true]

/-- Else a core waits, and a wave's fence stays open. -/
theorem fenceUnit_held {s : State} {u : UnitId} {full : Bool} {need : Access → Bool} (h : (s.settle u need).1 = false) :
    let t := (s.settle u need).2
    (∀ n, u = .thread n → s.fenceUnit u full need = .stall t) ∧
    ∀ w, u = .wave w → s.fenceUnit u full need = .done (t.modCom u (fun c => { c with
      fences := c.fences ++ [⟨((t.accessesOf u).filter (fun a => need a && !a.complete)).map Access.id, full⟩] })) := by
  simp only [State.fenceUnit, h, Bool.false_eq_true, if_false]
  exact ⟨fun n hn => by subst hn; rfl, fun w hw => by subst hw; rfl⟩

/-- A fence of a unit that goes on, with none open. -/
theorem fence_waits {s : State} {u : UnitId} {i : Instr} {full : Bool} {need : Access → Bool} (h : Spec.GoesOn s u)
    (hopen : (s.com u).fences = []) (hfence : i = .fence ∨ i = .fenceSt) (hexec : exec i s = runC s i (fun s u => s.fenceUnit u full need)) :
    let r := (s.begun u).settle u need
    let ended : Prop := ∀ a ∈ r.2.accessesOf u, need a = true → a.complete = true
    (ended → exec i s = .next (s.afterC u i (if full then r.2.l1Acquire u else r.2))) ∧
    (¬ ended → ∀ t, u = .thread t → exec i s = .next (r.2.stalled u)) ∧
    (¬ ended → ∀ w, u = .wave w → exec i s = .next (s.afterC u i (r.2.modCom u (fun c => { c with
      fences := c.fences ++ [⟨((r.2.accessesOf u).filter (fun a => need a && !a.complete)).map Access.id, full⟩] })))) := by
  intro r ended
  have hover : r.1 = true ↔ ended := by rw [settle_fst, answered_iff]
  have hends := endFences_none s u hopen
  have hfree := namesFree_fence s u i hfence
  have hnone := fenced_none s u i hopen
  rw [hexec]
  refine ⟨fun hyes => runC_goesOn_done h hends hfree hnone (fenceUnit_over (hover.mpr hyes)), fun hno t ht => ?_, fun hno w hw => ?_⟩
  · have hheld := fenceUnit_held (full := full) (Bool.eq_false_iff.mpr fun hyes => hno (hover.mp hyes))
    rw [runC_goesOn h hends hfree _ hnone, hheld.1 t ht]
    rfl
  · have hheld := fenceUnit_held (full := full) (Bool.eq_false_iff.mpr fun hyes => hno (hover.mp hyes))
    exact runC_goesOn_done h hends hfree hnone (hheld.2 w hw)

/-- R233. -/
theorem fencesWait : Spec.FencesWait := by
  intro s u h hopen p hp
  simp only [List.mem_cons, List.not_mem_nil, or_false] at hp
  rcases hp with rfl | rfl
  · exact fence_waits h hopen (.inl rfl) rfl
  · exact fence_waits h hopen (.inr rfl) rfl

/-! ### Open fences (R233) -/

theorem fenceOver_iff (s : State) (u : UnitId) (f : Fence) :
    s.fenceOver u f = true ↔ ∀ a ∈ s.accessesOf u, a.id ∈ f.ids → a.complete = true := by
  simp only [State.fenceOver, List.all_eq_true, Bool.or_eq_true, Bool.not_eq_true', ← Bool.not_eq_true, List.contains_iff_mem,
    or_comm, imp_iff_not_or]

/-- A fence that is over ends, with acquire semantics where it is a FENCE. -/
theorem endFences_over {s : State} {u : UnitId} {f : Fence} (hf : (s.com u).fences = [f]) (hover : s.fenceOver u f = true) :
    s.endFences u = if f.full then (s.modCom u (fun c => { c with fences := [] })).l1Acquire u else s.modCom u (fun c => { c with fences := [] }) := by
  simp [State.endFences, hf, hover]

theorem endFences_held {s : State} {u : UnitId} {f : Fence} (hf : (s.com u).fences = [f]) (hover : s.fenceOver u f = false) :
    s.endFences u = s := by
  simp [State.endFences, hf, hover]

theorem l1Acquire_frame (s : State) (u v : UnitId) :
    (s.l1Acquire u).cur = s.cur ∧ (s.l1Acquire u).ready v = s.ready v ∧ (s.l1Acquire u).com v = s.com v := by
  cases u <;> cases v <;> exact ⟨rfl, rfl, rfl⟩

theorem ready_setCom {s : State} {u : UnitId} (c : Common) (h : s.ready u = true) : (s.setCom u c).ready u = true := by
  have hst : s.adentoth.st == 1 := (Bool.and_eq_true _ _ ▸ h).1
  cases u <;> simpa [State.ready, State.unitExists, State.setCom] using hst

/-- Once its fence is over, the unit goes on as if it had none. -/
theorem runC_endFences {s : State} {u : UnitId} {f : Fence} (h : Spec.GoesOn s u) (hf : (s.com u).fences = [f]) (hover : s.fenceOver u f = true)
    (i : Instr) (F : State → UnitId → Res) : runC s i F = runC (s.endFences u) i F := by
  have hends := endFences_over hf hover
  obtain ⟨hcur, hready, hcom⟩ : (s.endFences u).cur = s.cur ∧ (s.endFences u).ready u = true ∧
      (s.endFences u).com u = { s.com u with fences := [] } := by
    have hset := ready_setCom { s.com u with fences := [] } h.running
    obtain ⟨hcur, hready, hcom⟩ := l1Acquire_frame (s.modCom u (fun c => { c with fences := [] })) u u
    rw [hends]
    split
    · exact ⟨by rw [hcur]; simp, hready.trans hset, hcom.trans (by simp)⟩
    · exact ⟨by simp, hset, by simp⟩
  have hagain : (s.endFences u).endFences u = s.endFences u := endFences_none _ u (by rw [hcom])
  simp only [runC, hcur, hready, h.current, h.running, if_true, State.stepC, hcom, h.waits, hagain]

theorem fenced_one {s : State} {u : UnitId} {i : Instr} {f : Fence} {writes : Bool} (hf : (s.com u).fences = [f])
    (hi : memoryUse i = some writes) : s.fenced u i = (f.full || writes) := by
  simp [State.fenced, hi, hf]

/-- LD of lanes that pass goes on behind an open FENCE.ST, while the unit has room for its access. -/
theorem loadPlain_room {s : State} {u : UnitId} {m : MemOp} {x : Option MemExt} {spad sx : Bool} (hroom : s.memFull u = false)
    (hpass : Spec.passes s u (Spec.space s u spad) (Spec.form u m x) 0) :
    s.loadPlain u (Spec.form u m x) spad sx = .done (s.sendRel
      (Spec.loadOf s u m x (Spec.space s u spad) (.load sx) (memDest u (Spec.form u m x)) false)) := by
  have hnow : s.settle u (fun _ => false) = (true, s) := by simp [State.settle, State.answered]
  refine (memCheck_passes _ hpass).trans ?_
  simp only [State.after, hnow, hroom, Bool.not_false, Bool.and_true, if_true]
  rw [form_m]
  rfl

/-- R233. -/
theorem fencesHold : Spec.FencesHold := by
  intro s w f m e x u s0 ended free loads writes h hf
  have hended : s.fenceOver u f = true ↔ ended := fenceOver_iff s u f
  refine ⟨fun hyes => ⟨endFences_over hf (hended.mpr hyes), ?_⟩, fun hno => ?_⟩
  · have hsame := runC_endFences h hf (hended.mpr hyes)
    simp only [loads, writes, List.cons_append, List.nil_append, List.forall_mem_cons, List.not_mem_nil, false_implies, implies_true, and_true]
    and_intros <;> exact hsame _ _
  · have hopen : s.endFences u = s := endFences_held hf (Bool.eq_false_iff.mpr fun hover => hno (hended.mp hover))
    have hstalls : ∀ {i : Instr} (F : State → UnitId → Res), exec i s = runC s i F → s.fenced u i = true → free i → exec i s = .next (s.stalled u) :=
      fun F hexec hfenced hfree => hexec.trans (runC_fenced h hopen hfree F hfenced)
    refine ⟨?_, fun hfull => ?_, fun hst hfree hroom hpass => ?_⟩
    · have hwrite : ∀ {i : Instr}, memoryUse i = some true → s.fenced u i = true := fun hi => by rw [fenced_one hf hi, Bool.or_true]
      simp only [writes, List.forall_mem_cons, List.not_mem_nil, false_implies, implies_true, and_true]
      and_intros <;> exact hstalls _ rfl (hwrite rfl)
    · have hload : ∀ {i : Instr}, memoryUse i = some false → s.fenced u i = true := fun hi => by rw [fenced_one hf hi, hfull, Bool.true_or]
      simp only [loads, List.forall_mem_cons, List.not_mem_nil, false_implies, implies_true, and_true]
      and_intros <;> exact hstalls _ rfl (hload rfl)
    · have hfenced : s.fenced u (.ld m) = false := by rw [fenced_one hf rfl, hst, Bool.or_false]
      exact runC_goesOn_done h hopen hfree hfenced (loadPlain_room hroom hpass)

end Sys2Proof.Machine

/-- Settles O12: a fence waits for what `settle` leaves unanswered (`fence_waits`), and an open one holds the slots that `fenced` names. -/
theorem cachesAndFences : Obligations.CachesAndFences := ⟨cacheOperations, fencesWait, fencesHold⟩
end

section
open Sys2Proof Sys2Proof.Machine

namespace Sys2Proof.Machine

/-! ### AMSG, SEND and RECV (R219, R263, R265) -/

/-- AMSG of lanes that pass its checks and are answered at once ends. -/
theorem activeMsg_ends {s : State} {u : UnitId} {m : MemOp} {e : MemExt} (halone : Alone s u) (hredo : (s.com u).redo = none)
    (hpass : ∀ x ∈ Spec.addresses (s.begun u) u (Spec.formX u m (some e)), (s.begun u).amsgCheck u (szBytes m.sz) x.2 = none)
    (hanswers : Spec.answersAtOnce (s.begun u) (Spec.messages (s.begun u) u m e)) :
    (s.begun u).activeMsg u m e = .done (Spec.answered (s.begun u) (Spec.messages (s.begun u) u m e)) := by
  have hnone : (Spec.addresses (s.begun u) u (Spec.formX u m (some e))).filterMap
      (fun x => ((s.begun u).amsgCheck u (szBytes m.sz) x.2).map (fun c => (x.1, x.2, c))) = [] :=
    List.filterMap_eq_nil_iff.mpr fun x hx => by rw [hpass x hx]; rfl
  have hsends := sendHold_atOnce u id hanswers
  simp only [Spec.addresses, Spec.formX] at hnone
  simp only [State.activeMsg, holdAgain_begins halone, redoLanes_begun hredo, hnone, checkTrap]
  refine (after_quiet _ u _ _ (accessesOf_begun s u halone)).trans ?_
  refine Eq.trans ?_ hsends
  simp only [Spec.messages, Spec.addresses, Spec.formX, lo32_eq, beq_iff_eq]
  rfl

/-- SEND of up to 6 words to a position that exists sends its message. -/
theorem sendPayload_sends {s : State} {u : UnitId} {n : Nat} (halone : Alone s u) (d a b : Reg6) (hn : n ≠ 7)
    (hpos : (s.reg u a.toNat).toNat / 256 % 4096 < 3072) :
    (s.begun u).sendPayload u d a b n = .done ((s.begun u).sendRel (Spec.message (s.begun u) u d a b n)) := by
  have hin : ¬ 3071 < bitsOf ((s.begun u).reg u a.toNat) 19 8 := by
    rw [bitsOf_eq, reg_begun]
    exact Nat.not_lt.mpr (Nat.le_of_lt_succ hpos)
  simp only [State.sendPayload, if_neg hn, if_neg hin]
  refine (after_quiet _ u _ _ (accessesOf_begun s u halone)).trans ?_
  simp only [Spec.message, bitsOf_eq, Nat.pow_zero, Nat.div_one]
  rfl

/-- RECV of a unit with no access outstanding, in a Vale of its partition. -/
theorem receive_quiet {s : State} {u : UnitId} (hquiet : s.accessesOf u = []) (hpart : Spec.inPartition s u (s.unitVale u)) (d : Nat) (sel ty : W64) :
    let p := s.unitVale u * 32 + sel.toNat % 32
    let n := ty.toNat % 256
    s.receive u d sel ty = match (if (s.vec p n).limit = 0 then s.oldestOf p n else none) with
      | some m => .done (((s.takeMsg p m).drainOverflow p).setRegs u d m.words)
      | none => .done (s.setReg u d 0) := by
  have hholds : s.holdsVale (s.unitFunc u) (s.unitVale u) = true := hpart
  simp only [State.receive, settle_quiet s u _ hquiet, hholds, Bool.not_true, Bool.false_eq_true, if_false, bitsOf_eq, Nat.pow_zero,
    Nat.div_one]
  rfl

/-- R219, R263, R265; log entry 45. -/
theorem messages : Spec.Messages := by
  intro s u halone hredo s0
  refine ⟨fun m e hpass hanswers => runC_done halone (activeMsg_ends halone hredo hpass hanswers),
    fun d a b hpos => runC_done halone (sendPayload_sends halone d a b (by decide) hpos),
    fun d a b n hn hpos => runC_done halone (sendPayload_sends halone d a b (fun h => hn (BitVec.eq_of_toNat_eq h)) hpos), ?_⟩
  intro d a b hpart p ty
  have hreceive : s0.receive u d.toNat (s0.reg u a.toNat) (s0.reg u b.toNat) =
      match (if (s0.vec p ty).limit = 0 then s0.oldestOf p ty else none) with
      | some m => .done (((s0.takeMsg p m).drainOverflow p).setRegs u d.toNat m.words)
      | none => .done (s0.setReg u d.toNat 0) := by
    rw [receive_quiet (accessesOf_begun s u halone) hpart, reg_begun, reg_begun]
  refine ⟨fun m hlimit hold => runC_done halone (hreceive.trans ?_), fun hnone => runC_done halone (hreceive.trans ?_)⟩
  · rw [if_pos hlimit, hold]
  · have hleft : (if (s0.vec p ty).limit = 0 then s0.oldestOf p ty else none) = none := by
      split
      next h => exact hnone.resolve_left (not_not.mpr h)
      next => rfl
    rw [hleft]

/-! ### Mailboxes (R267) -/

/-- A name of a mailbox in a Vale that exists and that the unit's partition holds. -/
theorem mailName_held {s : State} {u : UnitId} {n : W64} (hv : n.toNat / 256 % 128 < 96) (hpart : Spec.inPartition s u (n.toNat / 256 % 128))
    (f : Nat → Nat → Res) : s.mailName u n f = f (n.toNat / 256 % 128) (n.toNat % 256) := by
  have hname : bitsOf n 14 8 = n.toNat / 256 % 128 := bitsOf_eq n 14 8
  have hword : bitsOf n 7 0 = n.toNat % 256 := (bitsOf_eq n 7 0).trans (by simp)
  have hholds : s.holdsVale (s.unitFunc u) (n.toNat / 256 % 128) = true := hpart
  have hlow : ¬ 95 < n.toNat / 256 % 128 := Nat.not_lt.mpr (Nat.le_of_lt_succ hv)
  simp only [State.mailName, hname, hword, hholds, hlow, decide_false, Bool.not_true, Bool.or_self, Bool.false_eq_true, if_false]

/-- R267. -/
theorem mailboxes : Spec.Mailboxes := by
  intro s u d a b halone s0 v w m hv hpart
  have hname : ∀ f : Nat → Nat → Res, (s.begun u).mailName u ((s.begun u).reg u a.toNat) f = f v w := by
    rw [reg_begun]
    exact mailName_held hv hpart
  have hsettle : (s.begun u).settle u (fun a => a.op.isLoad) = (true, s.begun u) := settle_quiet _ u _ (accessesOf_begun s u halone)
  refine ⟨fun hempty => runC_done halone ?_, fun hfull => runC_done halone ?_, fun hfull => runC_done halone ?_, fun hempty => runC_gone halone ?_⟩
  · simp only [hsettle, hname, Bool.not_true, Bool.false_eq_true, if_false]
    rw [reg_begun]
    exact if_neg (Bool.eq_false_iff.mp hempty)
  · simp only [hsettle, hname, Bool.not_true, Bool.false_eq_true, if_false]
    exact if_pos hfull
  · exact (hname _).trans (if_pos hfull)
  · exact (hname _).trans (if_neg (Bool.eq_false_iff.mp hempty))

end Sys2Proof.Machine

/-- Settles O15: with nothing outstanding each instruction takes its one branch, by the status, the waiting message or the state of its word. -/
theorem messagesAndMailboxes : Obligations.MessagesAndMailboxes := ⟨messages, mailboxes⟩
end

section
open Sys2Proof Sys2Proof.Machine

namespace Sys2Proof.Machine

/-! ### Steps of accesses (R206, R213, R225, R424, R458) -/

/-- A step that takes place under a condition, and else changes nothing. -/
theorem occurs_ite {s t : State} {e : Instr} {c : Prop} [Decidable c] (h : exec e s = .next (if c then t else s)) : Spec.occurs s e c t :=
  ⟨fun hc => by rw [h, if_pos hc], fun hc => by rw [h, if_neg hc]⟩

theorem laneOf_eq {s : State} {n lane : Nat} {a : Access} {l : ALane} (ha : s.access n = some a) (hl : a.lane lane = some l) :
    s.laneOf n lane = some (a, l) := by
  simp [State.laneOf, ha, hl]

/-- R206, R213, R225, R424, R458. -/
theorem laneSteps : Spec.LaneSteps := by
  intro s n lane a l ha hl
  have hlane := laneOf_eq ha hl
  have hat : s.laneAt n lane = l.st := by rw [State.laneAt, hlane]
  refine ⟨occurs_ite ?_, ?_, occurs_ite ?_, fun hrecall => ?_, fun hrecall => ?_, fun w hw => ?_⟩
  · simp only [exec, execMemoryAnswer, hat, beq_iff_eq]
  · have hpend : s.lanePending n lane = true ↔
        l.st = .pend ∧ s.mayPerform a l = true ∧ ¬ (a.op.isSync = true ∧ ((s.com a.unit).away || s.haltNames a.unit) = true) := by
      rw [State.lanePending, hlane]
      simp only [Bool.and_eq_true, beq_iff_eq, Bool.not_eq_true', ← Bool.not_eq_true, and_assoc]
    simp only [Spec.occurs, ← hpend]
    exact occurs_ite rfl
  · simp only [exec, execTranslationMiss, hat, beq_iff_eq]
  · simp only [exec, execForwardedCompletion, hlane, hrecall, beq_self_eq_true, if_true]
  · simp only [Spec.occurs, exec, execForwardedCompletion, hlane, beq_eq_false_iff_ne.mpr hrecall, Bool.false_eq_true, if_false]
    refine ⟨fun hforwarded => ?_, fun hother => ?_⟩
    · cases hexists : s.unitExists a.unit <;> simp [hforwarded]
    · simp [hother]
  · have hready : (l.st == .waiting && !s.wordEmpty w.key && !s.marked a.ctx l.ea.toNat w.key) = true ↔
        l.st = .waiting ∧ s.wordEmpty w.key = false ∧ s.marked a.ctx l.ea.toNat w.key = false := by
      simp only [Bool.and_eq_true, beq_iff_eq, Bool.not_eq_true', and_assoc]
    simp only [Spec.occurs, ← hready]
    refine occurs_ite ?_
    simp only [exec, execLdsyncRetry, hw, hlane]

/-! ### Steps of jobs and steals (R244 to R251, R394) -/

/-- R244 to R251, R394. -/
theorem jobSteps : Spec.JobSteps := by
  intro s
  refine ⟨fun eng => ⟨fun k hk => ?_, fun hnone => ?_⟩, fun k j word hj => ⟨occurs_ite ?_, ?_, fun t ht => ?_⟩, ?_⟩
  · simp only [exec, execCopyJobStart, hk]
  · simp only [exec, execCopyJobStart, hnone]
  · simp only [exec, execEngineWrite, hj]
  · have hover : (j.running && j.status == 0 && j.moves.all JobMove.written) = true ↔
        j.running = true ∧ j.status = 0 ∧ ∀ m ∈ j.moves, m.written = true := by
      simp only [Bool.and_eq_true, beq_iff_eq, List.all_eq_true, and_assoc]
    simp only [Spec.occurs, ← hover]
    refine occurs_ite ?_
    simp only [exec, execCopyJobCompletion, hj]
  · have hreplied : (!s.faults.any (fun f => f.token == t)) = true ↔ ∀ f ∈ s.faults, f.token ≠ t := by
      simp only [Bool.not_eq_true', List.any_eq_false, beq_iff_eq, ne_eq]
    simp only [Spec.occurs, ← hreplied]
    refine occurs_ite ?_
    simp only [exec, execCopyJobFaultResume, hj, Option.bind_some, ht]
    cases s.faults.any (fun f => f.token == t) <;> rfl
  · intro req u vs d hreq done
    refine ⟨?_, ?_⟩
    · rintro rfl
      simp only [exec, execStealRequest, hreq]
      rfl
    · rintro v rest rfl
      refine ⟨fun t hgrant => ?_, fun hrefused hlast => ?_, fun hrefused hmore => ?_⟩
      · simp only [exec, execStealRequest, hreq, hgrant]
        rfl
      · subst hlast
        simp only [exec, execStealRequest, hreq, hrefused, List.isEmpty_nil, if_true]
        rfl
      · have hmore : rest.isEmpty = false := by simpa using hmore
        simp only [exec, execStealRequest, hreq, hrefused, hmore, Bool.false_eq_true, if_false]

end Sys2Proof.Machine

/-- Settles O40: each step is an `if` on the condition of its rule. -/
theorem accessSteps : Obligations.AccessSteps := ⟨laneSteps, jobSteps⟩
end

section
open Sys2Proof Sys2Proof.Machine Sys2Proof.Tests

namespace Sys2Proof.Machine

/-! ### A store through cached translations that overlap (R426) -/

/-- The wave of `wS` with lanes 0 and 1 alone and k3 = 0x2FFFC. Of two cached entries, the first maps 64 KiB from 0x30000 to 0x30000, the other 2 MiB from 0,
that page among them, to 0x400000. -/
def wOverlap : State :=
  { wS.modWave 1 (fun x => { x with exec := 3, k := x.k.set 3 0x2FFFC }) with
    tcs := [page 0x30000 0x30000, { page 0 0x400000 with size := 21 }] }

theorem wOverlap_alone : Alone wOverlap wU := alone_wave (by decide)

/-- A store of v2 at k3 + 4 · v1: lane 0 writes 0x2FFFC, lane 1 writes 0x30000. -/
def mOverlap : MemOp := { d := 2, b := 3, x := 1, sz := 2, dk := false }

/-- The access that it sends. -/
def storeOverlap (d : Nat → W64) : Access :=
  Spec.storeOf (wOverlap.begun wU) wU mOverlap none (Spec.space (wOverlap.begun wU) wU false) .store false d

theorem storeOverlap_lanes (d : Nat → W64) :
    (storeOverlap d).lanes = [{ lane := 0, ea := 0x2FFFC, data := d 0 }, { lane := 1, ea := 0x30000, data := d 1 }] := by
  have haddr : Spec.addresses (wOverlap.begun wU) wU (Spec.form wU mOverlap none) = [(0, 0x2FFFC), (1, 0x30000)] := by decide +kernel
  rw [storeOverlap, Spec.storeOf, haddr]
  rfl

/-- Where its lanes lie before it is sent. -/
theorem storeOverlap_places (d : Nat → W64) : ∀ l ∈ (storeOverlap d).lanes, ∃ place ∈ [0x42FFFC, 0x30000],
    xlat (wOverlap.begun wU) (storeOverlap d).space (storeOverlap d).ctx (storeOverlap d).gen (storeOverlap d).pos (storeOverlap d).op.kind l.ea.toNat =
      .ok place 2 32 := by
  have hplaces : xlat (wOverlap.begun wU) .virt 0 0 0 1 0x2FFFC = .ok 0x42FFFC 2 32 ∧
      xlat (wOverlap.begun wU) .virt 0 0 0 1 0x30000 = .ok 0x30000 2 32 := by decide +kernel
  rw [storeOverlap_lanes]
  simp only [List.forall_mem_cons, List.not_mem_nil, false_implies, implies_true, and_true]
  exact ⟨⟨0x42FFFC, .head _, hplaces.1⟩, ⟨0x30000, .tail _ (.head _), hplaces.2⟩⟩

/-- A byte of memory in the state that a step answers with. -/
def byteAfter (q : Nat) : Host.Outcome State Fault Refusal → Option Byte
  | .next t => some (t.byteAt q)
  | _ => none

end Sys2Proof.Machine

/-- Refutes O51: nothing in the statement keeps cached translations from overlapping, and the place where an address lies is that of the entry used most
recently. In `wOverlap` the store of lane 0 brings the entry of 2 MiB to the front of its cache (`useEntry`), so that lane 1, whose address lay at 0x30000 before the
instruction, is performed at 0x430000, which no lane of it names. -/
theorem not_storeFrame : ¬ Obligations.StoreFrame := by
  intro hframe
  obtain ⟨hstores, -⟩ := hframe wOverlap wU wOverlap_alone (by unfold State.memWf; decide) rfl rfl
  obtain ⟨d, hdata⟩ := is_some (e := (wOverlap.begun wU).storeData wU (Spec.form wU mOverlap none)) (by decide +kernel)
  have hmapped : Spec.mapped (wOverlap.begun wU) (storeOverlap d) := fun l hl =>
    let ⟨place, _, hok⟩ := storeOverlap_places d l hl
    ⟨place, 2, 32, hok, nofun⟩
  have houtside : Spec.outside (wOverlap.begun wU) (storeOverlap d) 0x430000 := by
    intro l hl place cls grain hok
    obtain ⟨p, hp, hat⟩ := storeOverlap_places d l hl
    obtain ⟨rfl, -, -⟩ := XRes.ok.inj (hat.symm.trans hok)
    have hbytes : (storeOverlap d).bytes = 4 := rfl
    simp only [List.mem_cons, List.not_mem_nil, or_false] at hp
    omega
  have hkept := hstores mOverlap ext1 d _ (.head _) (passes_of (by decide +kernel)) hdata hmapped
  obtain ⟨t, ht⟩ : ∃ t, exec (.st mOverlap) wOverlap = .next t := ⟨_, rfl⟩
  have hbyte : byteAfter 0x430000 (exec (.st mOverlap) wOverlap) = some 1 := by decide +kernel
  rw [ht, byteAfter, hkept t ht 0x430000 houtside] at hbyte
  revert hbyte
  decide +kernel
end
